-- ==== Sys2Proof/Word.lean ====
section
/-!
DEFINITION. Sys2Proof/Word.lean: the word types of the model and its two container types.
Registers are 64 bits wide (chapter 0, "Registers"), memories are addressed in bytes, and FP32 values are kept
as their 32-bit encodings (Table 5.2). Nothing here computes more than a type.
-/
namespace Sys2Proof

/-- One byte. -/
abbrev Byte := BitVec 8
/-- A run of bytes, lowest address first. -/
abbrev Bytes := List (BitVec 8)
/-- An FP32 value as its encoding (Table 5.2), or any 32-bit word. -/
abbrev W32 := BitVec 32
/-- A register value (chapter 0: registers are 64 bits wide). -/
abbrev W64 := BitVec 64

/-- Sparse data by number: pairs of a key and a value, keys rising (Machine/Tab.lean keeps that form).
A key that is not listed stands for the default that the reader of the table names. -/
abbrev Tab (α : Type) := List (Nat × α)

/-- A byte memory: address and byte pairs, addresses strictly rising, no entry equal to the byte that an unlisted
address reads as, which is 0x00 (R51, R111 and stage 3 of Table 18.5 write zeros). -/
abbrev Mem := List Host.Cell

end Sys2Proof
end

