-- ==== Sys2Proof/Config.lean ====
section
/-!
DEFINITION. Sys2Proof/Config.lean: what one HRE-96 fixes (the capability values of Table 0.1 and Table 19.12, the
fused values), and the model's free values: constants without a body, of which nothing can be proved.
-/
namespace Sys2Proof
namespace Config

/-- SYS_CAP_ID.GENERATION (Table 19.12). -/
def generation : Nat := 1
/-- Engines (Table 0.1). -/
def engines : Nat := 32
/-- Partitions (Table 0.1). -/
def partitions : Nat := 16
/-- Directory records (Table 0.1). -/
def dirRecords : Nat := 16777216
/-- Spine entries (Table 0.1). -/
def spineEntries : Nat := 16384
/-- Longest context in tokens (Table 0.1). -/
def maxContext : Nat := 1048576
/-- Service queues (Table 0.1). -/
def serviceQueues : Nat := 4096
/-- Fabric links (Table 0.1). -/
def links : Nat := 96
/-- NAND channels (Table 0.1). -/
def nandChannels : Nat := 32
/-- HBM channels: 8 stacks of 32 (chapter 3, "The HBM complex"). -/
def hbmChannels : Nat := 256
/-- Bytes of one engine store (R152). -/
def storeBytes : Nat := 8388608
/-- Bytes of one folio payload (chapter 3). -/
def folioBytes : Nat := 65536
/-- Bytes of one HBM channel: two pseudo-channels of 1.5 GiB (chapter 3). -/
def channelBytes : Nat := 3221225472
/-- Largest descriptor table (R58). -/
def maxDescriptors : Nat := 67108864
/-- Live sequences of one session (R31). -/
def maxSeqs : Nat := 64
/-- Places of the completion record buffer of one partition (R406). -/
def recordBuffer : Nat := 4096
/-- Device node limit of the recall unit (R189). -/
def recallNodes : Nat := 2000000000
/-- Places of the audit area (R370). -/
def auditPlaces : Nat := 8388608
/-- Flits of a replay buffer (R247). -/
def replayFlits : Nat := 384
/-- A TTL that never expires (R50). -/
def ttlNever : Nat := 0xFFFFFFFF

/-- FREE VALUE. The n-th draw of the device's SP 800-90A generator (R51 salts and data keys, R299 nonces, R300
PARK_ID, R374 nonces): the spec names the generator and gives no value. -/
opaque drbg : Nat → BitVec 256
/-- FREE VALUE. The 128-bit chain digest of R80 over the digested words: the spec names what it covers and gives
no function. -/
opaque chainDigest : List Nat → BitVec 128
/-- FREE VALUE. How far the pacer lowers or releases PACE_PERMILLE at one decision (R387 gives the condition and
the outcome, and no step size). Applied to the count of decisions. -/
opaque paceStep : Nat → BitVec 10
/-- FREE VALUE. Where the state buffer holds the T0 copy of a folio (R69, Table 3.1): no rule places it. Applied to the
descriptor. -/
opaque stagePlace : Nat → BitVec 64
/-- FREE VALUE. A byte whose content the spec leaves without a defined result (R158: two ISSUEs whose destinations
overlap; R149: outputs left incomplete). Applied to the free counter. -/
opaque freeByte : Nat → BitVec 8
/-- FREE VALUE. The rest of an SPDM response that the spec does not lay out (R364 names SPDM 1.3 and signs it with
the alias key). Applied to the bytes asked and the free counter. -/
opaque spdmBody : List (BitVec 8) → Nat → List (BitVec 8)
/-- FREE VALUE. Pipe time in ns that rendering and matching take on a detokenize pipe (Table 8.1 gives a rate for each corner and a
stall for each lookup that HBM serves). Applied to the bytes and to the instant. DEDUCED, log entry 21. -/
opaque detokNs : Nat → Nat → BitVec 32
/-- FREE VALUE. What the training of an HBM channel reports in HBM_TRAIN_LOG (lanes repaired, margins): channel, start.
DEDUCED, log entry 32. -/
opaque trainLog : Nat → Nat → BitVec 64
/-- FREE VALUE. Whether a CAS result store that holds 4,096 results takes one more in the oldest one's place or is full (R252 keeps
the last 4,096, and Table 12.6 has BUSY for a full store). Applied to the source device and E2E_SEQ.
DESIGN CHOICE, log entry 19. -/
opaque casFull : Nat → Nat → Bool
/-- FREE VALUE. ROM digest and firmware digest, measurement blocks 0x01 and 0x02 (Table 17.7). -/
opaque romDigest : List (BitVec 8)
/-- FREE VALUE. LDPC parity over a unit and bytes 0x1C8 to 0x1FF of its spare area (Table 14.3): no rule gives the code. -/
opaque ldpcParity : List (BitVec 8) → List (BitVec 8)
/-- FREE VALUE. The PCI vendor ID assigned to Caszar (R393). -/
opaque vendorId : BitVec 16
/-- FREE VALUE. The unique device secret, fused at manufacture and readable by the root of trust alone (chapter 17).
DESIGN CHOICE, log entry 12. -/
opaque uds : BitVec 256

end Config
end Sys2Proof
end

