-- ==== Sys2Proof/Machine/Types.lean ====
section
/-!
DEFINITION. Sys2Proof/Machine/Types.lean: the data that commands carry and State holds: statuses, submission entries,
model programs, vocabularies, grammars, binding images, frames, flits and messages. Plain data, no operation.
-/
namespace Sys2Proof

/-- Completion status codes (Table 19.10). -/
inductive Status where
  | ok | stopped | length | grammarDead | cancelled | short | policed | fenced | epochRetired | poisoned
  | ttlExpired | ownerReturned | tierFailed | deadlineCheaper | replayAbandoned
  | badHandle | badState | badArgument | noCapacity
  deriving DecidableEq, Repr, Inhabited

/-- Lifecycle states of a sequence (Table 2.2). -/
inductive SeqState where
  | new | prefill | decode | wait | parked | reviving | draining | closed | expired | poisoned
  deriving DecidableEq, Repr, Inhabited

/-- The verbs and ring commands of Table 19.7. `undef` is an opcode that the table does not hold. -/
inductive VerbOp where
  | openS | append | step | park | revive | fork | splice | close | place | grammarLoad | grammarDrop
  | indexLoad | query | delete | indexDrop | programLoad | handoffSend | handoffClaim | ckptTake | ckptRestore
  | undef
  deriving DecidableEq, Repr, Inhabited

/-- Arbitration classes (Table 10.7): A before B before C before D. -/
inductive ArbClass where
  | a | b | c | d
  deriving DecidableEq, Repr, Inhabited

/-- Fault severities (Table 16.2). -/
inductive Severity where
  | corr | cont | part | dev
  deriving DecidableEq, Repr, Inhabited

/-- Change kinds of a partition at a composition change (R236). -/
inductive ChangeKind where
  | keep | adjust | reform | absent
  deriving DecidableEq, Repr, Inhabited

/-- Pool roles (Table 13.1). -/
inductive PoolRole where
  | mixed | prefill | decode | state
  deriving DecidableEq, Repr, Inhabited

/-- KV formats as the flyleaf codes them (Table 2.6). -/
inductive KvFmt where
  | mx4 | mx6 | fp8 | bf16
  deriving DecidableEq, Repr, Inhabited

/-- Deadline-miss policies (Table 3.8). -/
inductive MissPolicy where
  | stall | recompute | skipSpec | truncate
  deriving DecidableEq, Repr, Inhabited

/-- Causes of a tier miss (R88). -/
inductive MissKind where
  | late | failed | noSpace
  deriving DecidableEq, Repr, Inhabited

/-- Management responses (Table 11.3 and R355). -/
inductive MgmtCode where
  | ok | badSignature | badKey | rollback | wrongDevice | staleEpoch | badFormat | badPredecessor | badChange | busy
  | denied | inUse | auditFull | badArgument
  deriving DecidableEq, Repr, Inhabited

/-- Key message results (Table 17.11). -/
inductive KeyResult where
  | ok | noAuth | keyPresent | stale | mismatch | inUse | busy | debug | safe | badArgument
  deriving DecidableEq, Repr, Inhabited

/-- The fabric error codes of Table 12.6; `none` stands for zero. -/
inductive FabErr where
  | none | access | noRoute | fenced | poison | busy | stale | hopLimit
  deriving DecidableEq, Repr, Inhabited

/-- States of a link (Table 12.11). -/
inductive LinkState where
  | off | parked | training | authenticating | mismatch | up | down
  deriving DecidableEq, Repr, Inhabited

/-- States of a NAND channel (Table 14.4). -/
inductive ChanState where
  | absent | training | active | limited | readOnly | failed
  deriving DecidableEq, Repr, Inhabited

/-- TDI states (TDISP 1.0, R366). -/
inductive TdiState where
  | unlocked | locked | run | error
  deriving DecidableEq, Repr, Inhabited

/-- The PCIe functions of Table 19.1: PF0, and VF n serving partition n − 1 (named here by the partition). -/
inductive Fn where
  | pf
  | vf (part : Nat)
  deriving DecidableEq, Repr, Inhabited

/-- The body fields of a completion record: offset, size in bytes and value (Table 19.9). -/
abbrev RecBody := List (Nat × Nat × Nat)

/-- A completion record or notice before it is written (Table 19.8). CSN and PHASE are given when it is written. -/
structure Rec where
  handle : Nat := 0
  tag : Nat := 0
  seq : Nat := 0
  opcode : Nat := 0
  status : Status := .ok
  flags : Nat := 0
  body : RecBody := []
  deriving DecidableEq, Repr, Inhabited

/-! ## Model programs (chapters 7 and 8) -/

/-- One vocabulary entry (R166). -/
structure VEntry where
  bytes : Bytes := []
  special : Bool := false
  byteFlag : Bool := false
  endFlag : Bool := false
  score : Int := 0
  deriving DecidableEq, Repr, Inhabited

/-- One transition of the splitter: in `state`, a byte from `lo` to `hi` leads to `next`; `cut` cuts before the byte. -/
structure SplitRule where
  state : Nat
  lo : Nat
  hi : Nat
  next : Nat
  cut : Bool
  deriving DecidableEq, Repr, Inhabited

/-- A vocabulary (R166). `lattice` false is rank-merge mode. `merges` are ranked by their place. -/
structure Vocab where
  entries : List VEntry := []
  lattice : Bool := false
  merges : List (Nat × Nat × Nat) := []
  splitStates : Nat := 1
  splitStart : Nat := 0
  splitter : List SplitRule := []
  /-- Entries held in the on-chip tables, as the binding image sets (R167). -/
  onchip : Nat := 0
  deriving DecidableEq, Repr, Inhabited

/-- Vector unit functions (R121) over lane operands `a`, `b`, `c` read from the store. -/
inductive VecFn where
  | add | sub | mul | fma | div | sqrt | recip | rsqrt | exp2 | log2 | min | max | cmpLt | cmpLe | cmpEq
  | redSum | redMax | redMin | convert | widen
  deriving DecidableEq, Repr, Inhabited

/-- One operation of a vector operation list: `count` lanes from store offsets; results at `dst`; `fmt` is the format
code of a conversion's result (Table 5.2). -/
structure VecOp where
  fn : VecFn
  a : Nat
  b : Nat := 0
  c : Nat := 0
  dst : Nat
  count : Nat
  fmt : Nat := 0
  deriving DecidableEq, Repr, Inhabited

/-- What ADDR_P and the head map say of a command beyond Table 7.2 (the spec lays out neither). DESIGN CHOICE, log entry 13. -/
structure CmdNote where
  /-- Layer of an attention task. -/
  layer : Nat := 0
  /-- KV head of an attention task (R142). -/
  kvHead : Nat := 0
  /-- Steps of ADDR_A, ADDR_B and ADDR_C from one REPEAT repetition to the next. -/
  strideA : Nat := 0
  strideB : Nat := 0
  strideC : Nat := 0
  /-- The vector operation list that ADDR_P names (KIND 1). -/
  vops : List VecOp := []
  /-- Bytes moved (KIND 4). -/
  moveBytes : Nat := 0
  deriving DecidableEq, Repr, Inhabited

/-- A command as Table 7.2 lays it out, field by field; `rsv` is the sum of its reserved bytes and bits. -/
structure Cmd where
  opcode : Nat
  kind : Nat := 0
  fmt : Nat := 0
  out : Nat := 0
  budget : Nat := 0
  m : Nat := 1
  k : Nat := 1
  n : Nat := 1
  part : Nat := 0
  parts : Nat := 1
  rep : Nat := 0
  addrA : Nat := 0
  addrB : Nat := 0
  addrC : Nat := 0
  addrP : Nat := 0
  fabric : Nat := 0
  length : Nat := 0
  tag : Nat := 0
  issueOp : Nat := 0
  rsv : Nat := 0
  note : CmdNote := {}
  deriving DecidableEq, Repr, Inhabited

/-- FREE VALUE. The engine self-test program signed by Caszar that the reset-domain controller loads (R151, R383): the spec names it and
gives none of its commands. DEDUCED, log entry 25. -/
opaque Config.selfTest : List Cmd

/-- One engine's command stream in a command set, with the head map's rule for REPEAT 1: the stream takes the
length-table entries k with k mod `every` = `pick`. -/
structure Stream where
  cmds : List Cmd := []
  every : Nat := 1
  pick : Nat := 0
  deriving DecidableEq, Repr, Inhabited

/-- A command set for one engine count (R144). -/
structure CmdSet where
  engines : Nat
  streams : List Stream
  deriving DecidableEq, Repr, Inhabited

/-- A speculation tree template for a head count and a node count (R102): for each node, in breadth-first order with
the root first, how many candidates of the next head it takes. -/
structure TreeTemplate where
  heads : Nat
  nodes : Nat
  counts : List Nat
  deriving DecidableEq, Repr, Inhabited

/-- A model program: its bytes, which its digest covers, and the structured reading of what the spec names in it. -/
structure Program where
  id : Nat
  bytes : Bytes
  layers : Nat
  kvHeads : Nat
  headDim : Nat
  biPrefix : Nat := 0
  sets : List CmdSet := []
  templates : List TreeTemplate := []
  vocab : Vocab := {}
  deriving DecidableEq, Repr, Inhabited

/-! ## Grammars (chapter 8) -/

/-- What a grammar transition does to the stack (R184). -/
inductive StackOp where
  | keep
  | push (sym : Nat)
  | pop
  deriving DecidableEq, Repr, Inhabited

/-- The stack top that a transition asks for: any, the empty stack, or one symbol. -/
inductive TopTest where
  | any
  | empty
  | sym (s : Nat)
  deriving DecidableEq, Repr, Inhabited

/-- One transition of a grammar automaton. -/
structure GTrans where
  state : Nat
  byte : Nat
  top : TopTest
  op : StackOp
  next : Nat
  deriving DecidableEq, Repr, Inhabited

/-- A grammar image (chapter 8, "Grammars"): `accept` and `check` give each state's ACCEPT bitmap (as the tokens it
holds) and CHECK list. -/
structure GrammarImage where
  states : Nat
  symbols : Nat
  bitmaps : Nat
  start : Nat
  accepting : List Nat := []
  accept : Tab (List Nat) := []
  check : Tab (List Nat) := []
  trans : List GTrans := []
  /-- The vocabulary it was compiled against. -/
  vocab : Vocab := {}
  /-- Bytes of the image. -/
  len : Nat := 0
  deriving DecidableEq, Repr, Inhabited

/-! ## Binding images (chapter 11) -/

/-- PARTITION section (Table 11.2). Engine pairs, HBM and NAND channels by number. -/
structure PartSec where
  pairs : List Nat := []
  hbm : List Nat := []
  nand : List Nat := []
  dirBase : Nat := 0
  dirCount : Nat := 0
  spineFirst : Nat := 0
  spineCount : Nat := 0
  ptShare : Nat := 0
  descShare : Nat := 0
  stateBuf : Nat := 0
  replyBuf : Nat := 0
  role : PoolRole := .mixed
  maxSeq : Nat := 0x200
  budget : Nat := 0x2000
  claimUs : Nat := 0x7D0
  ttlDefault : Nat := 0
  deriving DecidableEq, Repr, Inhabited

/-- FOLIO section: FOL_HEAT_CFG, FOL_CLASS_POLICY, geometry, prefix index, tier shares (in folios) and seeds (R54:
latency in ns and bandwidth in 10⁶ B/s, by tier). -/
structure FolioSec where
  /-- Folio geometry of the program (R60): layers, KV bytes per layer per token. -/
  progLayers : Nat := 1
  kvBytes : Nat := 0
  heatCfg : W64 := 0x40C0200400000000 ||| 0x7D0
  policies : Tab W64 := []
  tokens : Nat := 1
  layersPer : Nat := 1
  kvFmt : KvFmt := .mx4
  prefixOn : Bool := false
  prefixMax : Nat := 0
  t1Share : Nat := 0
  t1High : Nat := 0
  t1Low : Nat := 0
  t3Share : Nat := 0
  t4Share : Nat := 0
  seeds : Tab (Nat × Nat) := []
  deriving DecidableEq, Repr, Inhabited

/-- One queue's registers in a SHAPER section. -/
structure QueueSec where
  queue : Nat
  cfg : W64
  polRate : W64 := 0
  polBurst : W64 := 0
  rateCfg : W64 := 0
  deriving DecidableEq, Repr, Inhabited

/-- SHAPER section. -/
structure ShaperSec where
  partCfg : W64 := 1
  partCost : W64 := 0x0000004000000001
  queues : List QueueSec := []
  deriving DecidableEq, Repr, Inhabited

/-- PROGRAM section: digest, length and engine counts of the model program; source 0 reads host address `addr`. -/
structure ProgSec where
  id : Nat := 0
  digest : Bytes := []
  length : Nat := 0
  counts : List Nat := []
  source : Nat := 0
  addr : Nat := 0
  deriving DecidableEq, Repr, Inhabited

/-- TEXT section: TXT_PART_CFG and the vocabulary. -/
structure TextSec where
  cfg : W64 := 0
  vocab : Vocab := {}
  deriving DecidableEq, Repr, Inhabited

/-- A grant of a region of a partition's HBM share to a (device ID, partition) pair (R264). -/
structure Grant where
  dev : Nat
  part : Nat
  base : Nat
  size : Nat
  r : Bool
  w : Bool
  a : Bool
  deriving DecidableEq, Repr, Inhabited

/-- A checkpoint group (R307): members in order as (device ID, partition), staging share in MiB, reserve in units. -/
structure CkptGroup where
  group : Nat
  members : List (Nat × Nat)
  stageMib : Nat
  reserve : Nat
  deriving DecidableEq, Repr, Inhabited

/-- A region that a peer's partition grants to this one, for the check of R154. -/
structure PeerRegion where
  dev : Nat
  part : Nat
  base : Nat
  size : Nat
  deriving DecidableEq, Repr, Inhabited

/-- LINKS section: credits of the partition's request and response lanes by link, grants, the regions that peers grant to the
partition (R154), recall shard tables by index identifier, checkpoint group. -/
structure LinksSec where
  credits : Tab (Nat × Nat) := []
  grants : List Grant := []
  onPeers : List PeerRegion := []
  shards : Tab (List (Nat × Nat)) := []
  group : Option CkptGroup := none
  deriving DecidableEq, Repr, Inhabited

/-- The six sections of one partition (R229). -/
structure PartImage where
  part : PartSec := {}
  folio : FolioSec := {}
  shaper : ShaperSec := {}
  prog : ProgSec := {}
  text : TextSec := {}
  links : LinksSec := {}
  deriving DecidableEq, Repr, Inhabited

/-- DEVICE section: descriptor table size, scrub period in hours, SHP_DRR_CFG of PQ0 to PQ7, NVF_FTL_CFG, and for each vocabulary
slot in use the entries that it holds in the on-chip tables (R167). -/
structure DeviceSec where
  descTable : Nat := 0
  scrubHours : Nat := 12
  drr : List W64 := []
  vocabSlots : Tab Nat := []
  ftlCfg : W64 := 0x0C0A3C0700C80064
  deriving DecidableEq, Repr, Inhabited

/-- A peer list entry (Table 12.8). -/
structure Peer where
  uid : Nat
  id : Nat
  latBudget : Nat
  deriving DecidableEq, Repr, Inhabited

/-- A link table row (Table 12.8): `peerId` 0xFFF stands for any listed peer. -/
structure LinkRow where
  active : Bool := false
  peerId : Nat := 0xFFF
  peerLink : Nat := 0
  deriving DecidableEq, Repr, Inhabited

/-- An exchange region (R265, R273): its host device and partition, and its base in that partition's HBM share. -/
structure XRegion where
  num : Nat
  dev : Nat
  part : Nat
  base : Nat
  records : Nat
  slotBytes : Nat
  deriving DecidableEq, Repr, Inhabited

/-- FABRIC section (Table 12.8), with the exchange regions (R265). -/
structure FabricSec where
  peers : List Peer := []
  links : Tab LinkRow := []
  parkedQuads : Nat := 0
  switchDelayUs : Nat := 5000
  regions : List XRegion := []
  deriving DecidableEq, Repr, Inhabited

/-- A binding image: its bytes (header, directory, sections, signature block: R228, R230) and the structured reading of
its sections, which the spec names field by field and does not lay out in bytes. -/
structure Image where
  bytes : Bytes := []
  parts : Tab PartImage := []
  dev : DeviceSec := {}
  fab : FabricSec := {}
  deriving DecidableEq, Repr, Inhabited

/-! ## Fabric (chapter 12) -/

/-- A frame (Table 12.3). `src` and `dst` are (device ID, partition). -/
structure Frame where
  type : Nat
  lane : Nat := 0
  down : Bool := false
  resent : Bool := false
  cls : ArbClass := .b
  keyPhase : Bool := false
  routeGen : Bool := false
  hops : Nat := 0
  src : Nat × Nat := (0, 0)
  dst : Nat × Nat := (0, 0)
  offset : Nat := 0
  tag : Nat := 0
  index : Nat := 0
  len : Nat := 0
  e2eSeq : Nat := 0
  error : Nat := 0
  frameCtr : Nat := 0
  payload : Bytes := []
  /-- The reserved bytes and bits of the header are zero (R249). -/
  rsvZero : Bool := true
  /-- No field of the header: when the frame arrived here, by which R251 orders compare-and-swaps. -/
  arrived : Nat := 0
  deriving DecidableEq, Repr, Inhabited

/-- A received flit: header (Table 12.2), what its codeword's FEC did, and the frames that end in it, each with whether
its authentication tag checks (R256); for the control frames of a flit of KIND 2 their 64-byte units stand for them, since
each control frame is a command of its own. -/
structure Flit where
  kind : Nat := 0
  seq : Nat := 0
  ack : Nat := 0
  nak : Bool := false
  credits : List (Nat × Nat) := []
  uncorrectable : Bool := false
  corrected : Nat := 0
  frames : List (Frame × Bool) := []
  ctrl : List (Nat × Bool) := []
  /-- The reserved bits of the header are zero. -/
  rsvZero : Bool := true
  deriving DecidableEq, Repr, Inhabited

/-- A link-state advertisement (Table 12.7): origin, sequence, SWITCH_AT, and per UP link the peer ID, the link and the
one-way delay in ns. -/
structure LsaMsg where
  origin : Nat
  seq : Nat
  switchAt : Nat
  links : List (Nat × Nat × Nat)
  deriving DecidableEq, Repr, Inhabited

/-- A HELLO (Table 12.7). -/
structure HelloMsg where
  uid : Nat
  id : Nat
  link : Nat
  digest : Bytes
  deriving DecidableEq, Repr, Inhabited

/-- The control frames of lane 0 (Table 12.7). -/
inductive Ctrl where
  | hello (m : HelloMsg)
  | auth
  | lsa (m : LsaMsg)
  | lsaAck (origin seq : Nat)
  | syncReq (t1 : Nat)
  | syncRsp (t1 t2 t3 : Nat)
  | keyUpdate (phase : Bool)
  deriving DecidableEq, Repr, Inhabited

/-- What the replay buffer of a link keeps (R247): a frame, or a control frame. -/
inductive Sent where
  | frame (f : Frame)
  | ctrl (c : Ctrl)
  deriving DecidableEq, Repr, Inhabited

/-- One result record of a QUERY with the node number that SHARD_RSP adds (R202, Table 12.4). -/
structure HitRec where
  label : Nat
  score : W32
  shard : Nat := 0
  node : Nat
  deriving DecidableEq, Repr, Inhabited

/-! ## Checkpoints (chapter 15) -/

/-- What a captured shard places (Table 15.1). -/
structure ShardContent where
  kind : Nat
  place : Nat
  data : Bytes
  deriving DecidableEq, Repr, Inhabited

/-- A colophon in a slot of the reserve (Table 15.5): the fields it carries; `valid` that its tag checks. Members are given
as device ID, partition, consistency point and program digest; the shape of R321 beside the digests as tokens per folio,
layers per folio, KV format and object mode. -/
structure Colophon where
  group : Nat
  n : Nat
  seq : Nat
  tc : Nat
  rows : Nat
  shards : Nat
  rootDigest : Bytes
  members : List (Nat × Nat × Nat × Bytes)
  shape : List (Nat × Nat × KvFmt × Bool) := []
  valid : Bool := true
  deriving DecidableEq, Repr, Inhabited

/-- What a member reports to the coordinator: units that it wrote, shards found stored, shards that its index names, rows
that it used, its index root, its point and its program's digest (R317, Table 15.5). -/
structure CommitReport where
  units : Nat
  found : Nat
  shards : Nat
  rows : Nat
  root : Bytes
  point : Nat
  progDigest : Bytes
  shape : Nat × Nat × KvFmt × Bool
  deriving DecidableEq, Repr, Inhabited

/-- Messages of the checkpoint engine on lane 1 (R308, R314, R316, R317, R318, R321, R322). `answer` is the owner's: the
row where the shard stands stored, or none, which asks for it. -/
inductive CkptMsg where
  | request (seq tc : Nat)
  | digest (src : Nat) (digest : Bytes) (kind : Nat) (place : Nat)
  | answer (digest : Bytes) (row : Option Nat)
  | shard (src : Nat) (content : ShardContent)
  | parity (row : Nat) (j : Nat) (data : Bytes)
  | commitReport (src : Nat) (report : CommitReport)
  | colophon (col : Colophon)
  | ended (src : Nat) (status : Status)
  | restore (seq : Nat)
  | partialSum (row : Nat) (target : Nat) (lost : List Nat) (remaining : List Nat) (data : Bytes)
  deriving DecidableEq, Repr, Inhabited

/-! ## Security and power (chapters 17 and 18) -/

/-- A key message as it arrives (R359, R375): port, requester and payload bytes. -/
structure KeyMsg where
  /-- true: the management port; false: partition `doePart`'s VF DOE mailbox. -/
  mgmt : Bool
  doePart : Nat := 0
  /-- The session was established with mutual authentication. -/
  mutualAuth : Bool
  /-- SHA-384 of the requester's leaf public key. -/
  requester : Bytes
  payload : Bytes
  deriving DecidableEq, Repr, Inhabited

/-- A debug token (R374): signed by Caszar, the UID and the nonce it is bound to. -/
structure DebugToken where
  signed : Bool
  uid : Nat
  nonce : Nat
  deriving DecidableEq, Repr, Inhabited

/-- A firmware slot as the ROM finds it (R382). -/
structure FwSlot where
  sigOk : Bool
  svn : Nat
  digest : Bytes
  deriving DecidableEq, Repr, Inhabited

/-- What training found on one NAND channel (R288, Table 18.4). -/
structure NandReport where
  targets : Nat := 0
  dies : Nat := 0
  rated : Nat := 0
  blocks : Nat := 0
  /-- Every parameter page meets Table 14.1. -/
  meets : Bool := true
  /-- The bus training failed. -/
  busFault : Bool := false
  deriving DecidableEq, Repr, Inhabited

/-- What start-up training found (Table 18.4). -/
structure TrainReport where
  hbmFail : List Nat := []
  engFail : List Nat := []
  /-- By NAND channel. -/
  nand : Tab NandReport := []
  linkFail : List Nat := []
  hostUp : Bool := true
  hostSpeed : Nat := 6
  hostWidth : Nat := 16
  cxlMem : Bool := false
  keyEngineOk : Bool := true
  deriving DecidableEq, Repr, Inhabited

/-- TDISP messages of R366. -/
inductive TdispMsg where
  | lockInterface
  | startInterface
  | stopInterface
  | getReport
  deriving DecidableEq, Repr, Inhabited

/-- JTAG instructions (R374). -/
inductive JtagInstr where
  | idcode
  | bypass
  | boundaryScan
  | other (code : Nat)
  deriving DecidableEq, Repr, Inhabited

/-- What configuration space tells of a function (R393, R394): identifiers, the bytes of its BARs, its MSI-X table, SR-IOV. -/
inductive CfgField where
  | vendorId
  | deviceId (fn : Fn)
  | classCode
  | bar0Bytes (fn : Fn)
  | bar2Bytes
  | msixVectors
  | msixTable
  | msixPba
  | totalVfs
  | initialVfs
  | firstVfOffset
  | vfStride
  | systemPage
  deriving DecidableEq, Repr, Inhabited

/-- PCIe configuration requests that R384, R391, R393, R394 and R366 speak of. -/
inductive CfgReq where
  | read
  | field (f : CfgField)
  | vfEnable (on : Bool)
  | returnD0 (fn : Fn)
  | vfConfigChange (part : Nat)
  | aerSeverity (fatal : Bool)
  deriving DecidableEq, Repr, Inhabited

/-- The shared ports of Table 10.6. -/
inductive PortId where
  | hbm (channel : Nat)
  | buf
  | link (l : Nat)
  | nand (channel : Nat)
  | host
  deriving DecidableEq, Repr, Inhabited

/-- What a transfer to or from T3 or T4 was for: the move of one folio (its descriptor), the park, the revive or the
hand-off of a session (its directory record), or a search of a partition. -/
inductive TierTarget where
  | folio (d : Nat)
  | quire (dir : Nat)
  /-- The reads of full vectors of a search (R203). -/
  | query (p : Nat) (id : Nat)
  deriving DecidableEq, Repr, Inhabited

/-- The schedulers of Table 10.3 whose rounds R219 starts: STEP of a partition, TEXT, RECALL, FABRIC of a link. (The
rounds of the ENGINE schedulers follow R159.) -/
inductive SchedId where
  | step (p : Nat)
  | text
  | recallU
  | fabric (l : Nat)
  deriving DecidableEq, Repr, Inhabited

/-- What a block reports with an error (Table 16.3): partition, engine, and what the reaction needs. -/
structure FaultDetail where
  part : Option Nat := none
  engine : Option Nat := none
  slot : Nat := 0
  cmd : Nat := 0
  stream : Nat := 0
  unit : Nat := 0
  /-- 0 code, 1 parity, 2 malformed, 3 budget. -/
  cause : Nat := 0
  /-- The word of DETAIL for the sources that have no field above. -/
  raw : Nat := 0
  /-- HBM and Spine sources: a step read the line; the folio or session hit; a line of the program or of a save area lost. -/
  stepRead : Bool := false
  folio : Option Nat := none
  /-- The line's offset in the HBM share of the partition, where it lies in one. -/
  shareLine : Option Nat := none
  dir : Option Nat := none
  seq : Nat := 0
  program : Bool := false
  saveArea : Bool := false
  /-- Tier, text, recall and checkpoint sources: the verb that met the error. -/
  verb : Option Nat := none
  /-- The collector or a class A port path is hit while another recovery runs (Table 16.11). -/
  machinery : Bool := false
  deriving DecidableEq, Repr, Inhabited

/-- INDEX_LOAD begins: the verb's number, and the header that is read from the host (none: the read failed). -/
structure IndexHead where
  vid : Nat
  head : Option Bytes
  deriving DecidableEq, Repr, Inhabited

/-- INDEX_SWITCH: the image that has been read from the host (none: the read failed), and whether its vectors stand in T4. -/
structure IndexRead where
  image : Option Bytes
  stored : Bool
  deriving DecidableEq, Repr, Inhabited

/-- A read of a function's register space: offset and bytes. -/
structure RegRead where
  off : Nat
  width : Nat
  deriving DecidableEq, Repr, Inhabited

/-- The twelve register blocks in the order of Table 19.2 (their places are 0 to 11). -/
abbrev BlockNum := Nat

end Sys2Proof
end

