-- ==== Sys2Proof/Syntax.lean ====
section
/-!
DEFINITION. Sys2Proof/Syntax.lean: the commands of the block, one constructor for each row of the opcode table, with
the row's operands. `p` is a partition, `vid` the number of a verb that has been read (State gives it at
SQ_ENTRY_READ), `e` an engine, `l` a link, `c` a NAND channel, `d` a descriptor index, `dir` a directory record.
A command that stands for the end of a host read carries what was read (`none`: the host read failed).
-/
namespace Sys2Proof

/-- The commands (one constructor for each row of the opcode table). -/
inductive Instr where
  -- Rings and doorbells (chapter 19).
  /-- SQ_DOORBELL (R402): the host writes TAIL. -/
  | sqDoorbell (p tail : Nat)
  /-- CQ_DOORBELL (R402). -/
  | cqDoorbell (p head : Nat)
  /-- SQ_ENABLE (R402): the write gives base, ENABLE 1 and LOG2_ENTRIES. -/
  | sqEnable (p base log2 : Nat)
  /-- SQ_DISABLE (R402). -/
  | sqDisable (p : Nat)
  /-- CQ_ENABLE (R402). -/
  | cqEnable (p base log2 : Nat)
  /-- CQ_DISABLE (R402, R406). -/
  | cqDisable (p : Nat)
  /-- SQ_ENTRY_READ (R403): the 128 bytes read and, for a SPLICE, the edit list that its body names (R405, R211). -/
  | sqEntryRead (p : Nat) (data edits : Option Bytes)
  /-- DEFERRED_ADMIT (R214). -/
  | deferredAdmit (p q : Nat)
  /-- POLICER_WRITE (R212): `which` 0 RATE, 1 BURST, 2 CFG of queue q. -/
  | policerWrite (q which : Nat) (v : W64)
  /-- VERB_BEGIN (R37). -/
  | verbBegin (p vid : Nat)
  -- Verbs (chapter 2).
  | openSession (p vid : Nat)
  | append (p vid : Nat) (data : Option Bytes)
  | stepGen (p vid : Nat) (stops : Option Bytes)
  | stepStop (p vid : Nat)
  | park (p vid : Nat)
  | revive (p vid : Nat)
  | fork (p vid : Nat)
  | splice (p vid : Nat) (inputs : List (Option Bytes))
  | close (p vid : Nat)
  | place (p vid : Nat)
  | grammarLoad (p vid : Nat)
  | grammarDrop (p vid : Nat)
  | grammarDropEffect (p gid : Nat)
  | indexLoad (p : Nat) (l : IndexHead)
  | indexSwitch (p vid : Nat) (img : IndexRead)
  | query (p vid : Nat) (vec : Option Bytes)
  | queryDone (p vid : Nat) (t4Ok : Bool) (pipe : Nat)
  | mergeDeadlineExpire (p vid : Nat)
  | generationRelease (p idx gen : Nat)
  | delete (p vid : Nat) (nodes : Option Bytes)
  | indexDrop (p vid : Nat)
  | programLoad (p vid : Nat)
  | programFetch (p : Nat) (prog : Option Program)
  -- Hand-offs (chapter 13).
  | handoffSend (p vid : Nat)
  | handoffClaim (p vid : Nat)
  | handoffPoll (dir : Nat)
  | handoffReclaim (dir : Nat)
  | recordRetry (dir : Nat)
  -- Checkpoints (chapter 15).
  /-- CKPT_TAKE (R308): `others` says that every member on another device holds a CK and is in no composition change. -/
  | ckptTake (p vid : Nat) (others : Bool)
  | ckptRequest (p seq tc : Nat)
  | consistencyPoint (p : Nat)
  | ckptCommit (p : Nat) (ok : Bool)
  /-- CKPT_RESTORE (R321): `others` says that every member on another device is empty, idle, keyed and of the colophon's
  shape; `seen` are the colophons read from the members' slots on other devices, with the member. -/
  | ckptRestore (p vid : Nat) (others : Bool) (seen : List (Nat × Colophon))
  /-- CKPT_RESTORE_DONE (R323): `ok` false: a row had more than two erasures (R322). -/
  | ckptRestoreDone (p : Nat) (ok : Bool)
  -- Steps (chapter 4).
  | selection (p : Nat)
  | gatheringRelease (p : Nat)
  | maskReady (p entry node : Nat)
  | stepBoundary (p : Nat)
  -- Engines (chapters 5 to 7).
  | taskProduct (e : Nat)
  | taskVector (e : Nat)
  | taskAttention (e : Nat)
  | taskSample (e : Nat)
  | taskMove (e : Nat)
  | issueRead (e : Nat)
  | issueWrite (e : Nat)
  | await (e : Nat)
  | barrier (e : Nat)
  | endStream (e : Nat)
  | budgetFault (e unit : Nat)
  | contextSwitchDone (e : Nat)
  | awaitSwitchTimeout (e target : Nat)
  | stepSliceExpire (e : Nat)
  -- Folios and tiers (chapter 3).
  | promotionCommit (d : Nat)
  | demotionCommit (d : Nat)
  | eagerDemotion (d : Nat)
  | prefetchStart (d : Nat)
  | parkDone (dir : Nat)
  | reviveDone (dir latNs ns : Nat)
  | placeDone (p vid : Nat)
  | tierFailure (x : TierTarget) (tag : Bool)
  | t3Timeout (x : TierTarget)
  | wakeAheadStart (dir : Nat)
  | ttlExpire (dir : Nat)
  -- Text (chapter 8) and shaping (chapter 10).
  | pieceTokenized (p vid : Nat) (read : Bool)
  | wheelTick
  | histSample
  | portGrantEnd (port : PortId)
  | scrubRead (line : Nat) (corrected uncorrectable : Bool)
  -- Management (chapters 11, 16 and 17).
  /-- BIND_COMMIT (R234, R239): the image read through SYS_BIND_SRC, and D in timebase ns. -/
  | bindCommit (img : Image) (deadline : Nat)
  | drainDeadline
  | compositionSwitch
  /-- KEY_ENROLL (R232): the key hash and, where the command supplies one, a new floor. -/
  | keyEnroll (hash : Bytes) (newFloor : Option Nat)
  | floorSet (v : Nat)
  | fwFloorSet (v : Nat)
  | keyAuthSet (p : Nat) (hash : Bytes) (mctpOk : Bool)
  | faultCfg (source threshold windowS : Nat)
  | partReset (p : Nat)
  | safeRestart
  | deviceReset
  | debugUnlock (token : DebugToken)
  | debugLock
  | auditRead (seq count : Nat)
  | auditAck (seq : Nat)
  | auditFlush
  | pkeySet (m : KeyMsg)
  | poolKeySet (m : KeyMsg)
  | ckSet (m : KeyMsg)
  | keyStatus (m : KeyMsg)
  | spdmRequest (m : Bytes) (blocks : List Nat)
  | tdispRequest (p : Nat) (m : TdispMsg) (stream : Nat)
  | ideKm (stream : Nat) (on : Bool)
  | sysHangReport (v : W64)
  | faultEvent (src : Nat) (detail : FaultDetail)
  | replayEnd (p : Nat) (hit : Bool)
  | partitionDrainEnd (p : Nat)
  | partResetDone (p : Nat) (ok : Bool)
  -- Fabric (chapter 12).
  | flitRx (l : Nat) (flit : Flit)
  | linkDown (l : Nat)
  | linkRetry (l : Nat)
  | linkTrained (l : Nat)
  | hello (l : Nat) (m : HelloMsg)
  | auth (l uid : Nat) (secret : BitVec 384) (ok : Bool)
  | lsa (l : Nat) (m : LsaMsg)
  | lsaAck (l origin seq : Nat)
  | lsaResend (l origin : Nat)
  | routeSwitch
  | routeTableRetire
  | keyUpdate (l : Nat) (phase : Bool)
  | keyUpdateSend (l : Nat)
  | syncTimer
  | syncReq (l t1 t2 : Nat)
  | syncRsp (l t1 t2 t3 t4 : Nat)
  | readReq (f : Frame)
  | writeReq (f : Frame)
  | casReq (f : Frame)
  | shardReq (f : Frame)
  | readRsp (f : Frame)
  | writeAck (f : Frame)
  | casRsp (f : Frame)
  | shardRsp (f : Frame)
  | errorRsp (f : Frame)
  -- Flash (chapter 14).
  | nandReadDone (c unit worst retries : Nat) (ok : Bool)
  | nandProgramDone (c unit block : Nat) (ok : Bool)
  | nandEraseDone (c block : Nat) (ok : Bool)
  | relocationCommit (c unit : Nat)
  | gcStart (c : Nat)
  | staticLevel (c block : Nat)
  | readRefresh (c block : Nat)
  | patrolRead (c block worst : Nat)
  | hifT3Write (which : Nat) (v : W64)
  -- Completions and registers (chapter 19).
  | cqRecordWrite (p : Nat)
  | coalTimerExpire (p : Nat)
  | snapTake (fn : Fn) (block : BlockNum)
  | satClear (fn : Fn) (off : Nat) (bits : W64)
  | rcRead (fn : Fn) (r : RegRead)
  | registerWrite (fn : Fn) (off width : Nat) (v : W64)
  -- Resets, bring-up, power, pins (chapters 16, 18, 19 and 20).
  | vfFlr (p : Nat)
  | pfFlr
  | d3hotEntry (fn : Fn)
  | perstAssert
  | perstDeassert
  | pwrokAssert
  | powerDown
  | firmwareBoot (slots : List FwSlot)
  | trainingDone (r : TrainReport)
  | bringupFabricEnd
  | pacerTick (watts tj hbmMax : Nat)
  | tempThreshold (stack : Option Nat) (celsius : Nat)
  | thermtrip
  | clockLoss (domain : Nat)
  | rtcUpdate
  | vbatLoss
  | drrRoundStart (sch : SchedId)
  | testContextLoad (e : Nat) (signed : Bool) (prog : List Cmd)
  | jtagInstruction (i : JtagInstr)
  | configurationRequest (r : CfgReq)
  | grammarLoadDone (p vid : Nat) (img : Option GrammarImage)
  | programLoadDone (p vid : Nat) (prog : Option Program)
  | memoryInitDone (macOk : Bool)
  | flashMapRebuilt (bad : List Nat)
  | shardTransfer (p : Nat) (m : CkptMsg)
  | clockRelock (domain : Nat)
  deriving DecidableEq, Repr

end Sys2Proof
end

