-- ==== Sys2Proof/Decode.lean ====
section
/-!
DEFINITION. Sys2Proof/Decode.lean: the command that a word spells by the opcode table's bits. The table gives no row
any bits, so no word spells a command. (The entries of the submission ring are bytes of the host's memory: their
layout, Tables 19.6 and 19.7, is read by SQ_ENTRY_READ in Machine/Rings.lean.)
-/
namespace Sys2Proof

/-- No row of the table has bits: none. DESIGN CHOICE, log entry 33. -/
def decodeTableWord (_nbits _w : Nat) : Option Instr := none

end Sys2Proof
end

