-- ==== Sys2Proof/Machine/State.lean ====
section
/-!
DEFINITION. Sys2Proof/Machine/State.lean: the state of one HRE-96, the reasons a step can stop, and the state after
reset. Everything is plain data. State is cut by subsystem (Table 1.2), so that a command's frame names whole parts.
Registers that software reads and writes whole stand in `regs` under their BAR0 offset (Table 19.2 and Table 19.4;
Machine/Regs.lean names them); what hardware keeps besides stands in the parts below.
-/
namespace Sys2Proof
namespace Machine

/-! ## What leaves the device -/

/-- What the device sends out, in order: the model's own record of its outputs (host writes, interrupts, frames,
responses, pins). Nothing in the device reads it back. -/
inductive Out where
  | hostWrite (addr : Nat) (bytes : Bytes)
  | msix (fn : Fn) (vector : Nat)
  | regRead (fn : Fn) (value : W64)
  | frame (link : Nat) (f : Frame)
  | nakFlit (link : Nat) (ack : Nat)
  | ackFlit (link : Nat) (ack : Nat)
  | credit (link : Nat) (lane : Nat) (count : Nat)
  | hello (link : Nat) (m : HelloMsg)
  | authMsg (link : Nat)
  | lsa (link : Nat) (m : LsaMsg)
  | lsaAck (link : Nat) (origin : Nat) (seq : Nat)
  | syncReq (link : Nat) (t1 : Nat)
  | syncRsp (link : Nat) (t1 : Nat) (t2 : Nat) (t3 : Nat)
  | keyUpdate (link : Nat) (phase : Bool)
  /-- Flits `first` to `last` go out once more (go-back-N, R247). -/
  | resend (link : Nat) (first : Nat) (last : Nat)
  | mgmt (code : MgmtCode)
  | auditRecords (records : List Bytes)
  | nonce (value : Nat)
  | keyReply (result : KeyResult) (payload : Bytes)
  | spdm (body : Bytes) (signed : Bool)
  | tdisp (state : TdiState)
  /-- A TDI's interface report: bytes of its window, partition, measurement indices. -/
  | tdiReport (window : Nat) (part : Nat) (blocks : List Nat)
  | ideReply (stream : Nat)
  | pin (name : String) (asserted : Bool)
  | jtag (answered : JtagInstr)
  | cfgRetry
  | cfgDone
  | cfgValue (value : Nat)
  | unsupported
  | aerInternal (fatal : Bool)
  | ckpt (member : Nat) (msg : CkptMsg)
  | hbmLine (line : Nat)
  | flash (chan : Nat) (unit : Nat)
  | testReport (engine : Nat)
  deriving DecidableEq, Repr, Inhabited

/-! ## Host interface (chapter 19) -/

/-- A completion record waiting to be written; `notice` names the directory record of a notice, `inDir` that it is still
held there because the buffer was full when it became ready (R406). -/
structure Waiting where
  record : Rec
  notice : Option Nat := none
  inDir : Bool := false
  deriving DecidableEq, Repr, Inhabited

/-- One virtual function and its rings (Table 19.1, Table 19.5). -/
structure Vf where
  enabled : Bool := false
  d3hot : Bool := false
  tdi : TdiState := .unlocked
  /-- The selective IDE stream bound to the TDI. -/
  tdiStream : Nat := 0
  /-- MSI-X: pending vectors. -/
  msix : List Nat := []
  sqBase : Nat := 0
  sqEnable : Bool := false
  sqSize : Nat := 6
  sqHead : Nat := 0
  sqTail : Nat := 0
  sqRead : Nat := 0
  /-- Entries read whose slot is not released, in slot order, each with whether HEAD may pass it. -/
  sqSlots : List (Nat × Bool) := []
  cqBase : Nat := 0
  cqEnable : Bool := false
  cqSize : Nat := 6
  coalCount : Nat := 1
  coalUs : Nat := 0
  cqIndex : Nat := 0
  cqPhase : Bool := true
  cqHead : Nat := 0
  /-- Records written and not yet released by HIF_CQ_DB. -/
  cqUsed : Nat := 0
  csnNext : Nat := 1
  /-- Records ready and not yet written, in ready order: the first 4,096 are the record buffer (R406). -/
  waiting : List Waiting := []
  unsignalled : Nat := 0
  unsignalledSince : Nat := 0
  deriving DecidableEq, Repr, Inhabited

/-- Where a verb stands: held by its policer (R214), held by a fence (R238, R309), on its service queue, begun (its turn
has come and its checks passed), or running. -/
inductive VerbPhase where
  | deferred | held | queued | begun | running
  deriving DecidableEq, Repr, Inhabited

/-- A piece of byte input (R171): its bytes, whether it was cut at 4,096 bytes, and the span before which its tokens are
absorbed (none: at the end of the context, R43). -/
structure Piece where
  bytes : Bytes
  cut : Bool := false
  before : Option Nat := none
  deriving DecidableEq, Repr, Inhabited

/-- A verb that has been read and has not completed: the fields of Table 19.6, its body (offsets 0x20 to 0x7F of the
entry) and what the device stamps on it. -/
structure Verb where
  id : Nat
  op : VerbOp
  opcode : Nat
  flags : Nat := 0
  seq : Nat := 0
  prio : Nat := 0
  queueField : Nat := 0
  handle : Nat := 0
  tag : Nat := 0
  body : Bytes := []
  arrival : Nat := 0
  epoch : Nat := 0
  /-- The service queue charged (R209). -/
  queue : Nat := 0
  /-- The SQ slot the verb still holds. -/
  slot : Option Nat := none
  phase : VerbPhase := .queued
  /-- A policer has coloured it (R214). -/
  coloured : Bool := false
  /-- The edit list of a SPLICE as read from the host; none: the read failed (R405). -/
  edits : Option Bytes := none
  /-- Pieces of the verb's byte input that are not yet tokenized, in order (R169, R171). -/
  pieces : List Piece := []
  /-- The input may pass MAX_CONTEXT: nothing of it becomes pending before all of it is tokenized (R170). -/
  allFirst : Bool := false
  /-- Tokens of the pieces finished under `allFirst`, each with the span it goes before. -/
  finished : List (List Nat × Option Nat) := []
  /-- The verb holds a suspect of a guilty-party search (R338). -/
  suspect : Bool := false
  deriving DecidableEq, Repr, Inhabited

/-- PF0 and the host interface (chapter 19). -/
structure HifState where
  vfs : Tab Vf := []
  /-- Verbs of each partition in ring order. -/
  verbs : Tab (List Verb) := []
  /-- Next verb number. -/
  nextVerb : Nat := 0
  pfMsix : List Nat := []
  pfD3hot : Bool := false
  /-- The host link is up. -/
  linkUp : Bool := false
  linkSpeed : Nat := 0
  linkWidth : Nat := 0
  cxlMem : Bool := false
  /-- Configuration space is ready (R384). -/
  cfgReady : Bool := false
  /-- PERST# is asserted; when it was last deasserted. -/
  perst : Bool := true
  perstAt : Nat := 0
  /-- Keyed selective IDE streams (R367); stream 0 is the one that covers the physical function. -/
  ideStreams : List Nat := []
  /-- AER: severity of Uncorrectable Internal Error is Fatal; the error is recorded (R351). -/
  aerFatal : Bool := true
  aerInternal : Bool := false
  /-- Snapshot banks by (function, block), numbered 12 × function + block, function 0 being PF0 and p + 1 partition p:
  the counters copied (R13, R397), their SEQ and VIEW. -/
  banks : Tab (Tab W64) := []
  snapSeq : Tab Nat := []
  snapView : Tab Bool := []
  /-- SYS_ACCESS_ERR of each function (R397): count and SAT. -/
  accessErr : Tab (Nat × Bool) := []
  /-- T3 window: frames in use by number, and LOCKED (Table 14.9). -/
  t3Locked : Bool := false
  deriving DecidableEq, Repr, Inhabited

/-! ## Sessions, sequences and quires (chapter 2) -/

/-- A page-table entry (Table 3.3). -/
structure Pte where
  posBase : Nat
  valid : Nat
  layer : Nat
  refKind : Nat
  dgen : Nat
  ref : Nat
  deriving DecidableEq, Repr, Inhabited

/-- A span record (chapter 3, "Page tables"): its entries in ascending layer order and its token ledger. `pos` is the
position of slot 0 and `valid` counts the tokens in KV: every entry carries both (POS_BASE, VALID). A span that holds
only tokens not yet in KV has no entries (R132 allocates its folios). -/
structure Span where
  entries : List Pte := []
  ledger : List Nat := []
  pos : Nat := 0
  valid : Nat := 0
  /-- The span was computed from position 0 with every span before it unmodified (R80). -/
  pure : Bool := true
  deriving DecidableEq, Repr, Inhabited

/-- A run of pending input: tokens, and the span from which on they are absorbed (none: at the end, R43). `old` marks a
run whose tokens stand in the ledger already: the last token that a STEP sampled, or recompute work of policy 1
(`recompute`), which stands first (R101). DEDUCED, log entry 14. -/
structure PendRun where
  tokens : List Nat
  span : Option Nat := none
  old : Bool := false
  recompute : Bool := false
  /-- Of recompute work: tokens from the start of `span` on that are recomputed already, and the folios that it replaces. -/
  off : Nat := 0
  missing : List Nat := []
  deriving DecidableEq, Repr, Inhabited

/-- A node of a speculation tree: its token, the node it hangs under (0 is the root) and its depth (R102). -/
structure TreeNode where
  token : Nat
  parent : Nat
  depth : Nat
  deriving DecidableEq, Repr, Inhabited

/-- A running STEP's parameters and measures (R104, R123, R175). -/
structure StepRun where
  verb : Nat
  maxNew : Nat
  ttftUs : Nat
  tbtUs : Nat
  invTemp : W32
  topP : W32
  topK : Nat
  textFlags : Nat
  stream : Bool
  stops : List Bytes := []
  stopTokens : List Nat := []
  outAddr : Nat
  outLen : Nat
  outEnd : Nat := 0
  emitted : Nat := 0
  ttftNs : Nat := 0
  tbtNs : Nat := 0
  ttftMiss : Bool := false
  tbtMiss : Bool := false
  maxTbt : Nat := 0
  /-- Tokens, nodes proposed and nodes accepted since the previous record. -/
  recTokens : Nat := 0
  recProposed : Nat := 0
  recAccepted : Nat := 0
  /-- Cheaper path of FLAGS bits [5:4], and the last truncated window. -/
  cheaper : Nat := 0
  windowFirst : Nat := 0
  windowLen : Nat := 0
  truncated : Bool := false
  /-- STEPs with STOP that have been read: they complete after this one (R38). -/
  stopVerbs : List Nat := []
  /-- Ends at the next boundary with this status: drain deadline or composition (Table 11.6). -/
  endWith : Option Status := none
  deriving DecidableEq, Repr, Inhabited

/-- A sequence: its section (Table 2.7), its Spine run-time fields (Table 2.8) and its page list. -/
structure Seq where
  num : Nat
  state : SeqState := .new
  /-- State before DRAINING or before PARK. -/
  prev : SeqState := .new
  stepCounter : Nat := 0
  ctxLen : Nat := 0
  /-- Tokens whose KV is in folios; the tail of the ledger beyond it is not yet in KV. -/
  kvLen : Nat := 0
  nextPos : Nat := 0
  grammar : Nat := 0
  gState : Nat := 0
  gStack : List Nat := []
  specHeads : Nat := 0
  specNodes : Nat := 0
  specOn : Bool := false
  specProposed : Nat := 0
  specAccepted : Nat := 0
  overhang : Bytes := []
  tail : Bytes := []
  ttftUs : Nat := 0
  tbtUs : Nat := 0
  prio : Nat := 0
  cls : Nat := 0
  queue : Nat := 0
  maxNew : Nat := 0
  spine : Option Nat := none
  arrival : Nat := 0
  ttftDeadline : Option Nat := none
  lastEmit : Nat := 0
  nextDeadline : Option Nat := none
  /-- Completion sequence number of the current verb (Table 2.8). -/
  csn : Nat := 0
  spans : List Span := []
  pending : List PendRun := []
  /-- The APPEND or SPLICE being absorbed. -/
  absorbing : Option Nat := none
  run : Option StepRun := none
  /-- The tree that the last step proposed, root left out (R102). -/
  tree : List TreeNode := []
  /-- Waits out a tier miss under STALL (R88), and for room. -/
  stalled : Bool := false
  waitsRoom : Bool := false
  /-- Suspect of a guilty-party search (R338). -/
  suspect : Bool := false
  /-- A CLOSE or STEP with STOP has been read for it (R93). -/
  stopping : Bool := false
  /-- The last truncated window, first position and tokens, of the steps that have absorbed tokens of the APPEND or SPLICE (R25). -/
  tipWindow : Option (Nat × Nat) := none
  deriving DecidableEq, Repr, Inhabited

/-- A folio outside HBM (R299): its payload and what its seal binds it to (Table 14.5); Sealed.bytes and Sealed.record are its form on
the medium. `key` and `nonce` are draws. DESIGN CHOICE, log entry 12. -/
structure Sealed where
  kind : Nat
  fmt : KvFmt := .mx4
  layer : Nat := 0
  valid : Nat := 0
  parkId : Nat := 0
  ordinal : Nat := 0
  nonce : Nat := 0
  key : Nat := 0
  payload : Mem := []
  /-- Where it lies: T3 frame number, or T4 location as R290 codes it. -/
  loc : Nat := 0
  /-- The bytes and the seal record are as they were written. -/
  intact : Bool := true
  deriving DecidableEq, Repr, Inhabited

/-- A parked quire (R45): its tier, its folios in order, and the sections it carries in its flyleaf. -/
structure Quire where
  tier : Nat
  folios : List Sealed := []
  ptFolios : Nat := 1
  /-- Epoch of the partition key under which the data key is wrapped. -/
  keyEpoch : Nat := 0
  program : Nat := 0
  tokensPer : Nat := 0
  layersPer : Nat := 0
  fmt : KvFmt := .mx4
  /-- Not yet copied by the running checkpoint (R311). -/
  uncopied : Bool := false
  /-- A wake-ahead start has been made for this park (R53). -/
  woken : Bool := false
  deriving DecidableEq, Repr, Inhabited

/-- A PARK under way. -/
structure ParkOp where
  verb : Nat
  began : Nat
  tier : Nat
  ttl : Nat
  hint : Nat
  /-- The place taken for each folio of the quire, in order (R45). -/
  locs : List Nat
  parkId : Nat
  deriving DecidableEq, Repr, Inhabited

/-- A revive under way: the verb that caused it (none: a wake-ahead start), verbs that joined, the bytes and the
backlog when it began. -/
structure ReviveOp where
  cause : Option Nat
  joined : List Nat := []
  began : Nat
  tier : Nat
  bytes : Nat
  wake : Bool := false
  /-- The descriptors allocated for the quire's folios, in order. -/
  descs : List Nat := []
  deriving DecidableEq, Repr, Inhabited

/-- Phases of a sent hand-off (R278, R279). -/
inductive SendPhase where
  | readRecord | acquire | writing | sendCas | sent | reclaim | zeroHeader | release
  deriving DecidableEq, Repr, Inhabited

/-- A hand-off being sent. -/
structure SendOp where
  verb : Nat
  region : Nat
  record : Nat
  tdev : Nat
  tpart : Nat
  claimUs : Nat
  phase : SendPhase := .readRecord
  /-- Record epoch n after the acquisition. -/
  epoch : Nat := 0
  deadline : Nat := 0
  acksLeft : Nat := 0
  lastPoll : Nat := 0
  /-- Outstanding request tag. -/
  tag : Nat := 0
  /-- Retry wanted since this instant (R277). -/
  retry : Option Nat := none
  /-- CLOSE waits on the outcome (Table 13.5), or the fence does. -/
  closing : Option Nat := none
  /-- The status that ends the verb once the slot header is zeroed and the record released. -/
  failing : Option Status := none
  /-- HANDOFF_SEND has completed, and the sequences have returned to their state: only the slot is still to be cleared. -/
  done : Bool := false
  deriving DecidableEq, Repr, Inhabited

/-- A session: everything of its quire that is not a folio (Table 2.6), its live sequences and what is under way. -/
structure Session where
  handle : Nat
  part : Nat
  objectMode : Bool := false
  seed : Nat := 0
  ttl : Nat := 0
  wakeHint : Nat := 0
  parkTime : Nat := 0
  /-- The unwrapped data key, as its draw; none once discarded (R51, R363). -/
  sdk : Option Nat := none
  /-- The data key that the flyleaf wraps, and the PRK epoch it is wrapped under. -/
  wrappedSdk : Nat := 0
  wrapEpoch : Nat := 0
  seqs : Tab Seq := []
  /-- Descriptors of the flyleaf and the page-table folios, from a revive or claim on. -/
  flyleaf : Option Nat := none
  ptFolios : List Nat := []
  quire : Option Quire := none
  parkOp : Option ParkOp := none
  revive : Option ReviveOp := none
  send : Option SendOp := none
  deriving DecidableEq, Repr, Inhabited

/-- A directory record (Table 2.11). While it is in force its held notices are the entries of the partition's
waiting records that say so (`Waiting.inDir`), which keep their order among all records; its free-list link is the free list itself. -/
structure DirRec where
  gen : Nat := 1
  inUse : Bool := false
  retired : Bool := false
  damaged : Bool := false
  expired : Bool := false
  parked : Bool := false
  object : Bool := false
  tier : Nat := 0
  live : Nat := 0
  flyleafLoc : Nat := 0
  salt : Nat := 0
  parkId : Nat := 0
  ttlInstant : Nat := 0
  /-- In a captured record: the notices that it holds, in ready order (R56, Table 15.1). -/
  held : List Status := []
  deriving DecidableEq, Repr, Inhabited

/-- A first-freed, first-reused free list over a range (chapter 2, "Handles and the directory"; chapter 3 for
descriptors): the numbers from `next` to the end of the range have never been used, `freed` follow in order.
DESIGN CHOICE, log entry 12. -/
structure FreeList where
  base : Nat := 0
  count : Nat := 0
  next : Nat := 0
  freed : List Nat := []
  deriving DecidableEq, Repr, Inhabited

/-- The directory, the sessions and the Spine. -/
structure DirState where
  recs : Tab DirRec := []
  free : Tab FreeList := []
  sessions : Tab Session := []
  /-- Spine entry to (directory index, sequence). -/
  spine : Tab (Nat × Nat) := []
  deriving DecidableEq, Repr, Inhabited

/-! ## Folios and tiers (chapter 3) -/

/-- Kinds of folio (R57). -/
inductive FolioKind where
  | free | flyleaf | pageTable | kv
  deriving DecidableEq, Repr, Inhabited

/-- A folio: its descriptor (Table 3.1) and its payload. -/
structure Folio where
  kind : FolioKind := .free
  fmt : KvFmt := .mx4
  part : Nat := 0
  tier : Nat := 1
  dirty : Bool := false
  copied : Bool := false
  inPrefix : Bool := false
  promoting : Bool := false
  demoting : Bool := false
  gen : Nat := 0
  refcnt : Nat := 0
  pin : Nat := 0
  heat : Nat := 0
  heatTime : Nat := 0
  loc : Nat := 0
  t0Loc : Nat := 0
  handle : Nat := 0
  layer : Nat := 0
  valid : Nat := 0
  nonce : Nat := 0
  tag : Nat := 0
  digest : Option Bytes := none
  chain : Nat := 0
  /-- The payload in T1, or as sealed in T3 or T4. -/
  payload : Mem := []
  /-- The T0 staging copy that the step under way reads and writes (R69, Table 3.6). -/
  t0 : Option Mem := none
  /-- Source places (tier, location) that a committed promotion has left, while reads issued against them run (R78). -/
  oldPlaces : List (Nat × Nat) := []
  /-- Target of the move under way, and its class (Table 3.6). -/
  target : Nat := 0
  targetLoc : Nat := 0
  moveCls : ArbClass := .b
  /-- Start of the move, for T3 timeouts (R303) and estimates. -/
  moveSince : Nat := 0
  /-- Kept for the running checkpoint after its references are gone (R313). -/
  zombie : Bool := false
  /-- A line of it in HBM was lost, and it waits to be recomputed (Table 16.5). -/
  lost : Bool := false
  /-- The HBM stack of that line. -/
  lostStack : Nat := 0
  deriving DecidableEq, Repr, Inhabited

/-- A prefix index entry (R80): its chain digest, its ledger and its folios. -/
structure PrefixEntry where
  chain : Nat
  prev : Nat
  ledger : List Nat
  folios : List Nat
  deriving DecidableEq, Repr, Inhabited

/-- A PLACE under way (R85): descriptors still to move. -/
structure PlaceOp where
  verb : Nat
  left : List Nat
  tier : Nat
  deriving DecidableEq, Repr, Inhabited

/-- The folio and tier manager of one partition. -/
structure FolPart where
  desc : FreeList := {}
  prefixIdx : List PrefixEntry := []
  /-- T1, T3 and T4 use in folios. -/
  t1Use : Nat := 0
  t3Use : Nat := 0
  t4Use : Nat := 0
  /-- Pressure demotion runs (R76); a no-space miss started it, so that it ends where no folio can be chosen. -/
  pressure : Bool := false
  forced : Bool := false
  /-- T3 frames of this partition in use. -/
  t3Frames : List Nat := []
  /-- Revive estimates (R54) by tier: latency and bandwidth with 16 fraction bits. -/
  est : Tab (Nat × Nat) := []
  /-- Bytes queued on each tier: revives, and demand promotions. -/
  reviveBacklog : Tab Nat := []
  demandBacklog : Tab Nat := []
  places : List PlaceOp := []
  /-- Page-table entries held by resident sequences (R66). -/
  ptUse : Nat := 0
  deriving DecidableEq, Repr, Inhabited

/-- The folio and tier manager: descriptors by index, and per partition. -/
structure FolState where
  folios : Tab Folio := []
  parts : Tab FolPart := []
  deriving DecidableEq, Repr, Inhabited

/-! ## Steps (chapter 4) -/

/-- A gathering entry (Table 4.3, R95), with what the step gathers for it: `old` and `span` are those of the pending run
that a tip-in takes its tokens from. -/
structure GEntry where
  dir : Nat
  seq : Nat
  spine : Nat
  /-- 0 decode, 1 tip-in, 2 recompute. -/
  kind : Nat
  qLen : Nat
  tree : List TreeNode := []
  kvLen : Nat := 0
  pos : Nat := 0
  qOffset : Nat := 0
  prefixLen : Nat := 0
  tokens : List Nat := []
  /-- Token drawn at each node: (node, token); node 0 is the root. -/
  samples : List (Nat × Nat) := []
  /-- Candidates of each extra head at each node: (node, head, ranked tokens). -/
  heads : List (Nat × Nat × List Nat) := []
  /-- Bitmaps of the masks written, by node (R186): they stand in the partition's state-buffer share, where no rule places
  them. -/
  masks : List (Nat × Bytes) := []
  /-- Nodes whose mask is still being written. -/
  maskWait : List Nat := []
  pins : List Nat := []
  units : Nat := 0
  queue : Nat := 0
  /-- The window of a truncated step: its first span (R88). -/
  window : Option Nat := none
  /-- The bindery has been asked for the folios that the entry reads (R88). -/
  asked : Bool := false
  old : Bool := false
  span : Option Nat := none
  /-- Span and slot that the entry's first token takes. -/
  slot0 : Nat × Nat := (0, 0)
  /-- Empty spans put behind an insertion's span for this entry. -/
  added : Nat := 0
  /-- Of recompute work: where it goes on in its run of spans, and the folios that it replaces in place (R89). -/
  off : Nat := 0
  missing : List Nat := []
  /-- The cheaper path that the entry's step takes (R107): 2 without its tree, 3 over a truncated window, with the first position
  and the tokens of that window. -/
  cheaper : Nat := 0
  windowPos : Nat := 0
  windowLen : Nat := 0
  deriving DecidableEq, Repr, Inhabited

/-- A gathering. -/
structure Gather where
  entries : List GEntry := []
  releasedAt : Nat := 0
  /-- Verbs of APPENDs and SPLICEs whose last token a prefix hit absorbed while it was built (R101). -/
  hitVerbs : List Nat := []
  deriving DecidableEq, Repr, Inhabited

/-- KV of a tree node in its state-buffer slot (R103): entry, node, layer, KV head, key bytes, value bytes. -/
structure TreeKv where
  entry : Nat
  node : Nat
  layer : Nat
  head : Nat
  key : Bytes
  value : Bytes
  deriving DecidableEq, Repr, Inhabited

/-- The step builder of one partition. -/
structure SpnPart where
  cur : Option Gather := none
  next : Option Gather := none
  estNs : Nat := 0
  treeKv : List TreeKv := []
  /-- The partition's state-buffer share (space 1 of R147) and HBM share (space 2). -/
  buf : Mem := []
  hbm : Mem := []
  /-- Lines of the HBM share, by their offset, whose data the memory no longer delivers (R72). -/
  poison : List Nat := []
  /-- Reply-buffer reservation in use, and its high-water mark (SPN_REPLY_USE). -/
  replyUse : Nat := 0
  replyHigh : Nat := 0
  /-- The model program, once loaded and checked (R144). -/
  program : Option Program := none
  /-- A load from source 0 has been refused, and is tried again at the next switch (R144). -/
  fetchFailed : Bool := false
  /-- Charges of rolled-back entries that stand: (directory index, sequence) (R336). -/
  paid : List (Nat × Nat) := []
  /-- Verbs whose last token a prefix hit absorbed for a step that was rolled back: they complete with the next step (R101). -/
  owed : List Nat := []
  deriving DecidableEq, Repr, Inhabited

/-! ## Engines (chapters 5 to 7) -/

/-- A reply that landed in the reply buffer (R156). -/
structure Reply where
  tag : Nat
  addr : Nat
  bytes : Bytes
  deriving DecidableEq, Repr, Inhabited

/-- An engine context (Table 7.3, R152). -/
structure Ctx where
  stream : Nat := 0
  cmds : List Cmd := []
  index : Nat := 0
  /-- REPEAT position. -/
  inst : Nat := 0
  tags : Tab Nat := []
  resv : List (Nat × Nat) := []
  replies : List Reply := []
  /-- Destinations of READs in flight: tag, store address, bytes (R158). -/
  dests : List (Nat × Nat × Nat) := []
  ended : Bool := false
  faulted : Bool := false
  /-- Waits: 0 none, 2 AWAIT, 3 BARRIER, 4 reservation (ACTIVITY codes of Table 7.6); tag and since when. -/
  waiting : Nat := 0
  waitTag : Nat := 0
  waitSince : Nat := 0
  deficit : Int := 0
  newRound : Bool := true
  resumedAt : Nat := 0
  /-- Start of the first command after the switch in (R160). -/
  startedAt : Nat := 0
  /-- The store, while the context is switched out. -/
  saved : Mem := []
  /-- The rule of the head map for REPEAT 1: length-table entries k with k mod `every` = `pick` (R142, R148). -/
  every : Nat := 1
  pick : Nat := 0
  /-- The wait of the running sampling task for its mask has been counted (R186). -/
  maskLate : Bool := false
  /-- Error replies that have arrived: tag, peer device, code of Table 12.6 (R157). -/
  errs : List (Nat × Nat × Nat) := []
  deriving DecidableEq, Repr, Inhabited

/-- An engine. -/
structure Engine where
  store : Mem := []
  slots : Tab Ctx := []
  running : Nat := 0
  /-- The slot being switched to, and since when. -/
  switching : Option Nat := none
  switchSince : Nat := 0
  /-- Stopped on a fault (ACTIVITY 6). -/
  stopped : Bool := false
  /-- Instant from which STEP overrun counts (R160). -/
  overrunSince : Option Nat := none
  /-- Last budget fault: slot, command index, unit (ENG_BUDGET_LOG). -/
  budgetLog : Nat × Nat × Nat := (0, 0, 0)
  /-- ENG_SLICE_CFG at the last pre-emption point (R159), and the instant of that point (R161). -/
  cfg : Option W64 := none
  pointAt : Option Nat := none
  deriving DecidableEq, Repr, Inhabited

/-! ## Text unit (chapter 8) -/

/-- A loaded grammar. -/
structure Grammar where
  image : GrammarImage
  /-- A GRAMMAR_DROP waits for the STEPs running under it. -/
  dropping : Bool := false
  deriving DecidableEq, Repr, Inhabited

/-- The text unit of one partition. -/
structure TxtPart where
  grammars : Tab Grammar := []
  /-- Bitmaps in the partition's cache, oldest first, as (grammar, bitmap). -/
  cache : List (Nat × Nat) := []
  /-- Most bitmaps that the cache has held (TXT_GCACHE_USE). -/
  cacheHigh : Nat := 0
  deriving DecidableEq, Repr, Inhabited

/-- A tokenize pipe at work (Table 8.1, R169): the partition and the verb that it is granted to, the queue it is charged to,
and the instant of the grant. -/
structure PipeJob where
  part : Nat
  verb : Nat
  queue : Nat
  since : Nat
  deriving DecidableEq, Repr, Inhabited

/-- The text unit: vocabulary slots, its tokenize pipes that are granted, and per partition. -/
structure TxtState where
  vocabs : Tab Vocab := []
  pipes : Tab PipeJob := []
  parts : Tab TxtPart := []
  deriving DecidableEq, Repr, Inhabited

/-! ## Recall unit (chapter 9) -/

/-- A generation of an index: its image, tombstones committed since (node, epoch) and QUERYs that use it. -/
structure IndexGen where
  gen : Nat
  image : Bytes
  epoch : Nat := 1
  tombs : Tab Nat := []
  pending : List Nat := []
  /-- Folios of T1 that it takes, and its places in T4. -/
  t1 : Nat := 0
  locs : List Nat := []
  users : List Nat := []
  deriving DecidableEq, Repr, Inhabited

/-- An index of a partition: its generations, newest first (R193, R194). -/
structure RIndex where
  gens : List IndexGen := []
  loading : Bool := false
  dropping : Bool := false
  /-- The instant of the last switch or commit, and the generation and epoch that a QUERY of that instant takes; none: the
  index did not serve (R194). -/
  changedAt : Option Nat := none
  before : Option (Nat × Nat) := none
  deriving DecidableEq, Repr, Inhabited

/-- A QUERY in flight (R197 to R205). -/
structure QueryOp where
  verb : Nat
  index : Nat
  gen : Nat
  epoch : Nat
  vec : Bytes
  queue : List (Nat × Nat) := []
  visits : Nat := 0
  budgetEnd : Bool := false
  visitFull : Bool := false
  /-- Shards asked and not yet answered, by ordinal; shards not merged. -/
  waitShards : List Nat := []
  missing : List Nat := []
  hits : List HitRec := []
  /-- The local search is done. -/
  localDone : Bool := false
  sharded : Bool := false
  deadline : Nat := 0
  /-- The walk pipe whose slot it holds (R188), and the instant at which it began. -/
  pipe : Nat := 0
  since : Nat := 0
  /-- A search that another device's coordinator has asked for (R205): the first frame of its request. -/
  remote : Option Frame := none
  /-- A read of a full vector that it needs has failed (R203). -/
  t4Failed : Bool := false
  deriving DecidableEq, Repr, Inhabited

/-- An INDEX_LOAD under way: the space that it holds until the switch (R193), and the image's header. -/
structure LoadOp where
  part : Nat
  verb : Nat
  index : Nat
  header : Bytes
  t1 : Nat := 0
  locs : List Nat := []
  nodes : Nat := 0
  deriving DecidableEq, Repr, Inhabited

/-- The recall unit. -/
structure RclState where
  /-- Numbers given to the searches of other coordinators. -/
  nextRemote : Nat := 0
  loads : List LoadOp := []
  indexes : Tab (Tab RIndex) := []
  queries : Tab (List QueryOp) := []
  deriving DecidableEq, Repr, Inhabited

/-! ## Shaper (chapter 10) -/

/-- A queue's policer buckets in millionths of a work unit (R212), and their last fill. -/
structure Policer where
  tc : Nat := 0
  te : Nat := 0
  time : Nat := 0
  deriving DecidableEq, Repr, Inhabited

/-- A scheduler (Table 10.3): virtual time, tags by queue, queues marked behind (R216, R217). -/
structure Sched where
  vtime : Nat := 0
  tags : Tab Nat := []
  behind : List Nat := []
  /-- Deficits of PQ0 to PQ7 and the last round (R219). -/
  deficits : Tab Int := []
  lastRound : Nat := 0
  deriving DecidableEq, Repr, Inhabited

/-- What a request at a port is for: it goes when that is over. -/
inductive PortOwner where
  /-- The move of one folio (Table 3.6). -/
  | folio (d : Nat)
  /-- The park, revive or hand-off of a session (its directory record). -/
  | quire (dir : Nat)
  /-- The staging of a partition's step. -/
  | step (p : Nat)
  /-- A context switch of an engine (R153). -/
  | engine (e : Nat)
  /-- A verb of a partition (INDEX_LOAD). -/
  | verb (p : Nat) (vid : Nat)
  /-- The relocation of a NAND unit. -/
  | unit (chan : Nat) (unit : Nat)
  deriving DecidableEq, Repr, Inhabited

/-- A request at a shared port: class, length, the queue it is charged to, and the frame it is for on a link. -/
structure PortReq where
  cls : ArbClass
  queue : Option Nat := none
  priv : Option Nat := none
  len : Nat := 0
  frame : Option Frame := none
  /-- The link that the frame came in on, whose lane gets its credits back (R254). -/
  ingress : Option Nat := none
  owner : Option PortOwner := none
  deriving DecidableEq, Repr, Inhabited

/-- A shared port (R223): the last 32 grants, newest first, its waiting requests, the grant in progress, and how often the
regulator has held back a class (SHP_ARB_HOLD), by classes A to D as 0 to 3. -/
structure Port where
  win : List ArbClass := []
  reqs : List PortReq := []
  cur : Option PortReq := none
  holds : Tab Nat := []
  deriving DecidableEq, Repr, Inhabited

/-- The shaper. -/
structure ShpState where
  policers : Tab Policer := []
  /-- STEP schedulers by partition. -/
  step : Tab Sched := []
  text : Sched := {}
  recallU : Sched := {}
  /-- FABRIC schedulers by link. -/
  fabric : Tab Sched := []
  /-- Eligibility times (R221). -/
  elig : Tab Nat := []
  /-- Queues on the wheel or the overflow list: queue to the time it becomes eligible. -/
  wheel : Tab Nat := []
  overflow : List (Nat × Nat) := []
  wheelPos : Nat := 0
  /-- Queues held back until the wheel makes them eligible. -/
  ineligible : List Nat := []
  ports : List (PortId × Port) := []
  deriving DecidableEq, Repr, Inhabited

/-! ## Checkpoint engine (chapter 15) -/

/-- A shard index entry (Table 15.3). -/
structure ShardEntry where
  digest : Bytes
  tag : Bytes
  kind : Nat
  owner : Nat
  row : Nat
  place : Nat
  deriving DecidableEq, Repr, Inhabited

/-- A stripe unit of a member's reserve (R316): the digest of its shard (none for P and Q), its bytes, and the SEQs of
the checkpoints that reference it. A unit that none references is free, and its bytes count in P and Q until the position
is used again (R319). -/
structure StripeUnit where
  digest : Option Bytes := none
  data : Bytes := []
  refs : List Nat := []
  deriving DecidableEq, Repr, Inhabited

/-- What the engine has yet to copy (Table 15.1): the sequence sections, a shard of the directory range, a folio by its
descriptor, a parked quire by its record, the program, a grammar. -/
inductive CkptJob where
  | sections
  | directory (k : Nat)
  | folio (i : Nat)
  | quire (d : Nat)
  | program
  | grammar (g : Nat)
  deriving DecidableEq, Repr, Inhabited

/-- What a member captured at its consistency point (Table 15.1). -/
structure Capture where
  point : Nat
  dir : Tab DirRec
  free : FreeList
  sessions : Tab Session
  folios : Tab Folio := []
  program : Option Program := none
  grammars : Tab Grammar := []
  deriving DecidableEq, Repr, Inhabited

/-- The checkpoint engine of one member partition. -/
structure CkpPart where
  /-- 0 idle, 1 waiting for the point, 2 copying, 3 writing the colophon, 4 restoring (Table 15.8). -/
  phase : Nat := 0
  degraded : Bool := false
  lastStatus : Status := .ok
  /-- SEQ of the latest complete checkpoint, and of the one under way or being restored. -/
  seq : Nat := 0
  run : Nat := 0
  tc : Nat := 0
  /-- The verb, on the coordinator. -/
  verb : Option Nat := none
  /-- The gathering after the point waits for the sections to be copied (R311). -/
  sectionsFrozen : Bool := false
  /-- The capture under way, and the captures that the two held checkpoints restore, by SEQ. -/
  capture : Option Capture := none
  stored : Tab Capture := []
  /-- Objects not yet copied, and shards announced to their owners and not yet stored: digest, content, sent. -/
  jobs : List CkptJob := []
  announced : List (Bytes × ShardContent × Bool) := []
  /-- The index shards have been announced; the report has been made. -/
  indexed : Bool := false
  reported : Bool := false
  index : List ShardEntry := []
  /-- Digests of the member's own kind-7 shards in order. -/
  roots : List Bytes := []
  rows : Tab StripeUnit := []
  /-- Places in T3 and T4 (tier, location) that wait for a copy before they are freed (R313). -/
  owed : List (Nat × Nat) := []
  /-- Staged copies in use, in folios. -/
  staged : Nat := 0
  /-- Since when a release waits for room in the staging share (R312). -/
  stallSince : Option Nat := none
  /-- Units written, and shards found stored, in the checkpoint under way. -/
  written : Nat := 0
  found : Nat := 0
  /-- Reports of the members by number. -/
  reports : Tab CommitReport := []
  /-- The two colophon slots (R317). -/
  slots : Tab Colophon := []
  /-- Restore: members whose units are rebuilt, and the chains still to start (row, member). -/
  lost : List Nat := []
  chains : List (Nat × Nat) := []
  deriving DecidableEq, Repr, Inhabited

/-- The checkpoint engine: by member partition, and the messages between members on this device. -/
structure CkpState where
  parts : Tab CkpPart := []
  inbox : List (Nat × CkptMsg) := []
  deriving DecidableEq, Repr, Inhabited

/-! ## Control: composition, faults, recovery (chapters 11 and 16) -/

/-- The phase of SYS_BIND_STATUS (Table 11.7). -/
inductive BindPhase where
  | none | inForce | draining | switching | waiting
  deriving DecidableEq, Repr, Inhabited

/-- The composition. -/
structure BindState where
  phase : BindPhase := .none
  lastResult : MgmtCode := .ok
  /-- The image in force and its digest. -/
  image : Option Image := none
  digest : Bytes := []
  /-- The image accepted at bring-up (stage 6) or at a fence, with kinds, F and D. -/
  pendingImage : Option Image := none
  kinds : Tab ChangeKind := []
  fence : Nat := 0
  deadline : Nat := 0
  /-- The drain deadline has been handled, and which partitions' drains have ended. -/
  deadlineDone : Bool := false
  drained : List Nat := []
  /-- Instant at which the bring-up image was accepted (stage 7 bound of R386). -/
  accepted : Nat := 0
  deriving DecidableEq, Repr, Inhabited

/-- A fault source's bucket in 2⁻¹⁶ of an event (R328), and its configuration (Table 16.12). -/
structure FaultSrc where
  threshold : Nat
  windowS : Nat
  level : Nat := 0
  time : Nat := 0
  deriving DecidableEq, Repr, Inhabited

/-- An event log entry (Table 16.2). -/
structure LogEntry where
  time : Nat
  seq : Nat
  source : Nat
  severity : Severity
  escalated : Bool
  queued : Bool
  part : Option Nat
  engine : Option Nat
  detail : Nat
  deriving DecidableEq, Repr, Inhabited

/-- SYS_PART_STATUS.STATE (Table 16.14). -/
inductive PartMode where
  | normal | recovering | fenced | resetting | safe
  deriving DecidableEq, Repr, Inhabited

/-- Recovery of one partition: its state, suspects still to replay and hits, the fault searched for. -/
structure RecPart where
  mode : PartMode := .normal
  suspects : List (Nat × Nat) := []
  hits : List (Nat × Nat) := []
  nSuspects : Nat := 0
  quarantine : Nat := 0
  fault : Option FaultDetail := none
  /-- The rolled-back gathering, whose length-table entries and trees replays use, and the suspect's alone in the replay
  under way (R339). -/
  base : Option Gather := none
  gather : Option Gather := none
  /-- The replay's scratch: what it has written over the state buffer, the HBM share, the folios and the tree slots. -/
  buf : Mem := []
  hbm : Mem := []
  folios : Tab Mem := []
  treeKv : List TreeKv := []
  /-- Streams of the replay that stand aside, with their stores; and how the replay ended, with a reproduction or not. -/
  streams : Tab Ctx := []
  ended : Option Bool := none
  /-- Instant of the last CONT event of a step source: its stages last until time moves on (R348). -/
  contAt : Option Nat := none
  deriving DecidableEq, Repr, Inhabited

/-- The fault collector and recovery. -/
structure FltState where
  /-- Error lines driven and not yet taken by the collector, in order. -/
  lines : List (Nat × FaultDetail) := []
  srcs : Tab FaultSrc := []
  /-- Event log entries by their number modulo 1,024 (R352). -/
  log : Tab LogEntry := []
  logSeq : Nat := 0
  head : Nat := 0
  tail : Nat := 0
  parts : Tab RecPart := []
  /-- The device is in its safe state (R345). -/
  safe : Bool := false
  /-- A CONT or PART event is in stages 2 to 7 (R335). -/
  handling : Nat := 0
  handledAt : Nat := 0
  deriving DecidableEq, Repr, Inhabited

/-! ## Keys, audit and attestation (chapter 17) -/

/-- Keys of one partition (Table 17.3). -/
structure PartKeys where
  prk : Option Bytes := none
  plk : Option Bytes := none
  plkPrev : Option Bytes := none
  /-- Pool epoch of the previous pool key. -/
  poolPrev : Nat := 0
  ck : Option Bytes := none
  deriving DecidableEq, Repr, Inhabited

/-- The battery-backed register file (Table 17.9). -/
structure Battery where
  /-- Format word: false is blank. -/
  formatted : Bool := false
  fwFloor : Nat := 0
  bindFloor : Nat := 0
  bindEpoch : Nat := 0
  debugUnlocked : Bool := false
  keyHash : Option Bytes := none
  /-- PRK epoch, pool epoch, PRK KCV per partition. -/
  keyEpochs : Tab (Nat × Nat × Bytes) := []
  /-- KEY_AUTH and MCTP_OK per partition. -/
  keyAuth : Tab (Bytes × Bool) := []
  auditSeq : Nat := 0
  auditHash : Bytes := []
  flashSeq : Nat := 0
  /-- Fault summary: entries, last source, last time; the last 16 entries as (time, source). -/
  safeEntries : Nat := 0
  lastSource : Nat := 0
  lastTime : Nat := 0
  lastSixteen : List (Nat × Nat) := []
  deriving DecidableEq, Repr, Inhabited

/-- The root of trust: keys, battery file, audit log, attestation. -/
structure SecState where
  keys : Tab PartKeys := []
  battery : Battery := {}
  batteryLost : Bool := false
  /-- Fused DEVICE_UID, SVN minimum and Caszar firmware key. -/
  uid : Nat := 0
  fusedSvn : Nat := 0
  /-- The device storage key is held. -/
  storageKey : Bool := false
  /-- Audit records not yet acknowledged, oldest first, as the bytes of Table 17.8. -/
  audit : List Bytes := []
  /-- How many of the newest still wait in HBM (R370). -/
  auditWaiting : Nat := 0
  /-- SEQ of the oldest record kept. -/
  auditFirst : Nat := 0
  debugNonce : Option Nat := none
  fwDigest : Bytes := []
  /-- Measurement blocks 0x10, 0x11, 0x20 + p, 0x30 + p (Table 11.4), by index. -/
  blocks : Tab Bytes := []
  deriving DecidableEq, Repr, Inhabited

/-! ## Bring-up, clocks and power (chapter 18), pins (chapter 20) -/

/-- Bring-up, clocks and power. -/
structure PwrState where
  pwrok : Bool := false
  stage : Nat := 0
  /-- 0 cold start, 1 SAFE_RESTART. -/
  kind : Nat := 0
  fwSlot : Nat := 0
  failCode : Nat := 0
  fwSvn : Nat := 0
  startedAt : Nat := 0
  /-- The image in force before the safe state, for SAFE_RESTART (R347), and sessions kept but not yet returned. -/
  priorImage : Option Image := none
  awaitKey : List Nat := []
  /-- Verbs read before the safe state, completed after SAFE_RESTART (R423), per partition. -/
  owed : Tab (List Waiting) := []
  /-- Real-time counter in units of 1/32,768 s, and the part of a unit gone by, in 10⁻⁹ (R381). -/
  rtc : Nat := 0
  rtcFrac : Nat := 0
  /-- Units that failed training. -/
  hbmFail : List Nat := []
  engFail : List Nat := []
  pacing : Bool := false
  causePower : Bool := false
  causeThermal : Bool := false
  hbmHold : List Nat := []
  refreshDouble : List Nat := []
  /-- Since when a temperature is above the shutdown limits of Table 18.7 (stacks 0 to 7, 8 the junction); each stack's last
  temperature. -/
  hotSince : Tab Nat := []
  stackC : Tab Nat := []
  tj : Nat := 0
  thbm : Nat := 0
  powerW : Nat := 0
  /-- PEAK_W before the present instant, and the highest average of the instant (R9). -/
  peakW : Nat := 0
  peakNew : Nat := 0
  pace : Nat := 1000
  decisions : Nat := 0
  /-- Clock domains that have lost lock (Table 1.4), numbered 0 to 39; 37 is management and timebase. -/
  clockLost : List Nat := []
  thermtrip : Bool := false
  safePin : Bool := false
  /-- NANDc_CE# and NANDc_WP# of every channel are driven high (R417). -/
  nandHigh : Bool := false
  /-- VDD_AON is present. -/
  aon : Bool := false
  deriving DecidableEq, Repr, Inhabited

/-! ## Fabric (chapter 12) -/

/-- A link (R246, R247, R256, R258). -/
structure Link where
  state : LinkState := .off
  peerId : Nat := 0
  peerLink : Nat := 0
  peerUid : Nat := 0
  rtt : Nat := 0
  delay : Nat := 0
  /-- Next flit to send, last acknowledged, and last received in order. -/
  txSeq : Nat := 0
  ackSeq : Nat := 4095
  rxSeq : Nat := 4095
  /-- Replay buffer, oldest first: each frame by the sequence number of the last flit that carries it. -/
  replay : List (Nat × Sent) := []
  /-- 64-byte places taken in the last flit of frame bytes, while the next frame may still share its body (R246). -/
  txFill : Nat := 0
  /-- Control frames that wait for credits of lane 0 or for room in the replay buffer (R247, R253). -/
  ctrlWait : List Ctrl := []
  naking : Bool := false
  uncorrRun : Nat := 0
  /-- Credits held by lane, in 64-byte units. -/
  credits : Tab Nat := []
  /-- Link keys are held, key phases, frames under the key, update counts. -/
  keyed : Bool := false
  /-- SPDM export master secret of the link, from which its keys and salts derive (R256, Table 17.4). -/
  secret : BitVec 384 := 0
  /-- UP, and the SYNC exchange that measures the link is still to be answered (R258, step 3). -/
  measuring : Bool := false
  txPhase : Bool := false
  rxPhase : Bool := false
  txFrames : Nat := 0
  txUpdates : Nat := 0
  rxUpdates : Nat := 0
  /-- Frames still accepted under the old receive phase. -/
  rxOldLeft : Nat := 0
  helloOk : Bool := false
  lastValid : Nat := 0
  downSince : Nat := 0
  deriving DecidableEq, Repr, Inhabited

/-- A route (Table 12.9): for DOWN 0 and DOWN 1, validity, primary, alternate, hops, cost in ns. -/
structure Route where
  validU : Bool := false
  priU : Nat := 0x7F
  altU : Nat := 0x7F
  hopsU : Nat := 0
  costU : Nat := 0
  validD : Bool := false
  priD : Nat := 0x7F
  altD : Nat := 0x7F
  hopsD : Nat := 0
  costD : Nat := 0
  deriving DecidableEq, Repr, Inhabited

/-- Who waits for the answers to a request: an engine's ISSUE, a hand-off, a claim, a shard query. -/
inductive Asker where
  | engine (e : Nat) (slot : Nat) (tag : Nat)
  | send (dir : Nat)
  | claim (part : Nat) (verb : Nat)
  | shard (part : Nat) (verb : Nat) (ordinal : Nat)
  deriving DecidableEq, Repr, Inhabited

/-- A request of ours in flight (R250): its unanswered frames, what is to be done with the data, since when. -/
structure Request where
  tag : Nat
  asker : Asker
  /-- The service queue that its frames are charged to (R209, R255). -/
  queue : Nat := 0
  dst : Nat × Nat := (0, 0)
  frames : List Frame
  /-- Frames held back by the bound on unanswered frames (R252). -/
  unsent : List Frame := []
  addr : Nat := 0
  total : Nat := 0
  data : List (Nat × Bytes) := []
  err : FabErr := .none
  /-- When each frame was last sent, by INDEX (R262). -/
  times : Tab Nat := []
  deriving DecidableEq, Repr, Inhabited

/-- The duplicate window for one source device (R252): highest sequence and the marked ones at or below it. -/
structure DupWindow where
  high : Nat := 0
  marked : List Nat := []
  started : Bool := false
  deriving DecidableEq, Repr, Inhabited

/-- The fabric. -/
structure FabState where
  devId : Nat := 0
  links : Tab Link := []
  /-- Newest LSA of each origin; LSAs not acknowledged: link, LSA, sent at. -/
  lsas : Tab LsaMsg := []
  unacked : List (Nat × LsaMsg × Nat) := []
  lsaSeq : Nat := 0
  /-- Latest SWITCH_AT among LSAs received since the previous switch. -/
  switchAt : Option Nat := none
  routes : Tab Route := []
  oldRoutes : Option (Tab Route) := none
  /-- Tree depth of each device as the tables in force and the previous ones orient the trunks. -/
  tree : Tab Nat := []
  oldTree : Tab Nat := []
  /-- Since when no lane has held a frame of the old generation (R262). -/
  oldIdleSince : Option Nat := none
  routeGen : Bool := false
  /-- Frames addressed to this device that have arrived and are not yet handled. -/
  inbox : List Frame := []
  requests : List Request := []
  nextTag : Nat := 0
  e2eNext : Tab Nat := []
  windows : Tab DupWindow := []
  /-- CAS result store (R252): source device, E2E_SEQ, value found, swapped. -/
  casStore : List (Nat × Nat × Nat × Bool) := []
  master : Nat := 0
  parent : Nat := 0
  hasParent : Bool := false
  depth : Nat := 0
  /-- 0 unsynchronised, 1 locked, 2 HOLDOVER, 3 DEPTH_EXCEEDED. -/
  sync : Nat := 0
  offset : Int := 0
  /-- Rate correction in units of 0.01 ppm. -/
  rateAdj : Int := 0
  firstSync : Bool := false
  lastSync : Nat := 0
  deriving DecidableEq, Repr, Inhabited

/-- A HANDOFF_CLAIM under way (R281). -/
structure ClaimOp where
  part : Nat
  verb : Nat
  region : Nat
  record : Nat
  queue : Nat
  /-- 0 read record, 1 read header, 2 copy, 3 claim CAS, 4 zero header, 5 release. -/
  phase : Nat := 0
  epoch : Nat := 0
  sdev : Nat := 0
  spart : Nat := 0
  deadline : Nat := 0
  dir : Nat := 0
  left : Nat := 0
  retry : Option Nat := none
  landed : Option Session := none
  folios : List Sealed := []
  deriving DecidableEq, Repr, Inhabited

/-- A quire in a T2 slot of a region that this device hosts or has written (R274): header fields, wrapped key with what
it is wrapped for, and the sealed folios. -/
structure Slot where
  region : Nat
  record : Nat
  epoch : Nat
  sender : Nat × Nat
  target : Nat × Nat
  program : Nat
  tokensPer : Nat
  layersPer : Nat
  fmt : KvFmt
  object : Bool
  poolEpoch : Nat
  /-- The pool key that wraps the data key, as the key's check value. -/
  poolKcv : Bytes
  session : Session
  folios : List Sealed
  /-- Magic, version, reserved bytes and header tag are as written. -/
  intact : Bool := true
  deriving DecidableEq, Repr, Inhabited

/-- Hand-offs: claims under way and the quires in slots, by 4,096 × region + record. -/
structure HoState where
  claims : List ClaimOp := []
  slots : Tab Slot := []
  deriving DecidableEq, Repr, Inhabited

/-! ## Flash (chapter 14) -/

/-- A block of a channel: erases, reads since its last program, its worst corrected count, whether it is programmed or
retired, and the logical units it holds. -/
structure Block where
  erases : Nat := 0
  reads : Nat := 0
  programmed : Bool := false
  retired : Bool := false
  refreshAt : Option ArbClass := none
  units : List Nat := []
  patrolled : Nat := 0
  deriving DecidableEq, Repr, Inhabited

/-- A relocation in flight: unit, from block, to block, class; `freed` once the unit was freed meanwhile (R292). -/
structure Reloc where
  unit : Nat
  src : Nat
  dst : Nat
  cls : ArbClass
  freed : Bool := false
  deriving DecidableEq, Repr, Inhabited

/-- A unit's old place: its block, and the operations whose reads were issued against it. -/
structure OldPlace where
  unit : Nat
  block : Nat
  readers : List TierTarget
  deriving DecidableEq, Repr, Inhabited

/-- A NAND channel (Table 14.4, Table 14.8) with its translation layer. -/
structure Chan where
  state : ChanState := .training
  targets : Nat := 0
  dies : Nat := 0
  rated : Nat := 0
  nblocks : Nat := 0
  spare : Nat := 0
  blocks : Tab Block := []
  /-- Map: logical unit to block (R291). Journal position and write sequence number. -/
  map : Tab Nat := []
  wseq : Nat := 0
  journal : Nat := 0
  /-- Write sequence number of each mapped unit's last write (Table 14.3). -/
  seqs : Tab Nat := []
  relocs : List Reloc := []
  /-- Places left by a commit while reads of the unit issued before it are under way (R292). -/
  olds : List OldPlace := []
  /-- Garbage collection: running class. -/
  gc : Option ArbClass := none
  /-- Logical units that hold data of folios or vectors. -/
  alloc : List Nat := []
  deriving DecidableEq, Repr, Inhabited

/-- The flash complex. -/
structure NvfState where
  chans : Tab Chan := []
  deriving DecidableEq, Repr, Inhabited

/-! ## The whole device -/

/-- Why a step stops with a fault. No command of this block ends in one: an error that the device reports is a FAULT_EVENT
and goes on as chapter 16 gives. -/
inductive Fault where
  /-- Raised by no meaning; kept so that the type has a name. Safe. -/
  | none
  deriving DecidableEq, Repr

/-- Why a command is refused. -/
inductive Refusal where
  /-- The command has no meaning yet (Machine/Dispatch.lean's refused arms). Safe: nothing is claimed of it. -/
  | notModelled (mnemonic : String)
  /-- JTAG_INSTRUCTION while debug is unlocked, for an instruction other than IDCODE, BYPASS and boundary scan: R374 says
  what such an instruction does only while debug is locked. Raised by execJtagInstruction. Safe: the model stops. -/
  | scanUnspecified (code : Nat)
  deriving DecidableEq, Repr

/-- The device. `free` counts the free values taken (Config), and stands for nothing of the hardware; `out` is the
model's record of what left the device; `pending` is the queue of commands. -/
structure State where
  now : Nat := 0
  /-- Fraction of the timebase in 10⁻⁸ ns (R268 rate correction). -/
  frac : Int := 0
  free : Nat := 0
  /-- Registers by BAR0 offset where they differ from their reset value, counters among them. -/
  regs : Tab W64 := []
  /-- What hardware did in the present instant to registers that software clears (R9, R12), by place: increments of a saturating
  counter, bits set of a W1C register. -/
  stamps : Tab Nat := []
  pending : List Instr := []
  out : List Out := []
  hif : HifState := {}
  dir : DirState := {}
  fol : FolState := {}
  spn : Tab SpnPart := []
  eng : Tab Engine := []
  txt : TxtState := {}
  rcl : RclState := {}
  shp : ShpState := {}
  ckp : CkpState := {}
  bind : BindState := {}
  flt : FltState := {}
  sec : SecState := {}
  pwr : PwrState := {}
  fab : FabState := {}
  ho : HoState := {}
  nvf : NvfState := {}
  deriving DecidableEq, Repr

/-- The device right after reset: only VBAT is present (Table 18.9, OFF), every register at its reset value (an unlisted
register reads as Machine/Regs.lean's reset value), the queue empty. DESIGN CHOICE, log entry 33. -/
def State.reset : State := {}

end Machine
end Sys2Proof
end

