-- ==== Sys2Proof/Machine/Tab.lean ====
section
/-!
DEFINITION. Sys2Proof/Machine/Tab.lean: reading and writing the sparse tables and byte memories that State is made
of, and the byte-order and bit-field helpers. A table keeps its keys rising; a memory lists no byte that is zero.
-/
namespace Sys2Proof
namespace Machine

/-! ## Tables -/

/-- The value at key `k`. -/
def tget {α : Type} : Tab α → Nat → Option α
  | [], _ => none
  | (k', v) :: r, k => if k' = k then some v else tget r k

/-- The value at key `k`, or the default. -/
def tgetD {α : Type} (t : Tab α) (k : Nat) (d : α) : α := (tget t k).getD d

/-- The table with `v` at key `k`. -/
def tput {α : Type} : Tab α → Nat → α → Tab α
  | [], k, v => [(k, v)]
  | (k', v') :: r, k, v =>
    if k < k' then (k, v) :: (k', v') :: r
    else if k = k' then (k, v) :: r
    else (k', v') :: tput r k v

/-- The table without key `k`. -/
def tdel {α : Type} : Tab α → Nat → Tab α
  | [], _ => []
  | (k', v') :: r, k => if k' = k then tdel r k else (k', v') :: tdel r k

/-- The table with `f` applied to the value at key `k` (the default where it is not listed). -/
def tmod {α : Type} (t : Tab α) (k : Nat) (d : α) (f : α → α) : Tab α := tput t k (f (tgetD t k d))

/-- `f` applied to every listed value. -/
def tmap {α β : Type} (f : Nat → α → β) (t : Tab α) : Tab β := t.map fun e => (e.1, f e.1 e.2)

/-- The entries that satisfy `f`. -/
def tfilter {α : Type} (f : Nat → α → Bool) (t : Tab α) : Tab α := t.filter fun e => f e.1 e.2

/-- Keys rise strictly. -/
def tkeysRise {α : Type} : Tab α → Bool
  | [] => true
  | [_] => true
  | a :: b :: r => decide (a.1 < b.1) && tkeysRise (b :: r)

/-! ## Byte memories -/

/-- One byte: an unlisted address reads 0x00. DESIGN CHOICE, log entry 34. -/
def mread (m : Mem) (a : Nat) : Byte := tgetD m a 0

/-- One byte written; writing zero removes the entry, so that equal memories are equal lists. -/
def mwrite (m : Mem) (a : Nat) (v : Byte) : Mem := if v = 0 then tdel m a else tput m a v

/-- `n` bytes from address `a`. -/
def mreads (m : Mem) (a : Nat) : Nat → Bytes
  | 0 => []
  | n + 1 => mread m a :: mreads m (a + 1) n

/-- The bytes written from address `a` up. -/
def mwrites (m : Mem) (a : Nat) : Bytes → Mem
  | [] => m
  | b :: r => mwrites (mwrite m a b) (a + 1) r

/-- The canonical form: addresses rise strictly and no listed byte is zero. -/
def memWf (m : Mem) : Bool := tkeysRise m && m.all fun c => c.2 != 0

/-! ## Byte order: little-endian (chapter 0, "Registers"; R403) -/

/-- The number that bytes spell, lowest byte first. -/
def leNat : Bytes → Nat
  | [] => 0
  | b :: r => b.toNat + 256 * leNat r

/-- The `n` low bytes of a number, lowest first. -/
def natLe : Nat → Nat → Bytes
  | 0, _ => []
  | n + 1, v => BitVec.ofNat 8 v :: natLe n (v / 256)

/-- The number that bytes spell, highest byte first. -/
def beNat (b : Bytes) : Nat := b.foldl (fun acc x => acc * 256 + x.toNat) 0

/-- The `n` low bytes of a number, highest first. -/
def natBe (n v : Nat) : Bytes := (natLe n v).reverse

/-- `n` bytes of a list from `off` (short where the list ends). -/
def sub (b : Bytes) (off n : Nat) : Bytes := (b.drop off).take n

/-- The little-endian field of `n` bytes at `off`. -/
def fld (b : Bytes) (off n : Nat) : Nat := leNat (sub b off n)

/-- All bytes of the field are zero. -/
def zeroFld (b : Bytes) (off n : Nat) : Bool := (sub b off n).all (· == 0)

/-- `n` zero bytes. -/
def zeros (n : Nat) : Bytes := List.replicate n 0

/-- A list of bytes cut or filled with zeros to n. -/
def fit (n : Nat) (b : Bytes) : Bytes := (b ++ zeros (n - b.length)).take n

/-- Bytes `v` placed at `off` of `b` (which is long enough). -/
def patch (b : Bytes) (off : Nat) (v : Bytes) : Bytes := b.take off ++ v ++ b.drop (off + v.length)

/-! ## Bit fields of registers, written [msb:lsb] -/

/-- Field [hi:lo] of a register. -/
def bits (w : W64) (hi lo : Nat) : Nat := (w.toNat >>> lo) % 2 ^ (hi - lo + 1)

/-- Bit n of a register. -/
def bit (w : W64) (n : Nat) : Bool := w.toNat.testBit n

/-- Field [hi:lo] of a register set to `v`. -/
def setBits (w : W64) (hi lo v : Nat) : W64 :=
  BitVec.ofNat 64 (w.toNat - bits w hi lo * 2 ^ lo + (v % 2 ^ (hi - lo + 1)) * 2 ^ lo)

/-- Bit n of a register set to `b`. -/
def setBit (w : W64) (n : Nat) (b : Bool) : W64 := setBits w n n b.toNat

/-- A field value placed at `lo`. -/
def at' (v lo : Nat) : Nat := v * 2 ^ lo

/-- A register value from a number. -/
def w64 (n : Nat) : W64 := BitVec.ofNat 64 n

/-- The number of elements of a list that satisfy a test. -/
def countp {α : Type} (f : α → Bool) (l : List α) : Nat := (l.filter f).length

/-- A list with `f` applied to the elements that satisfy `c`. -/
def lmod {α : Type} (c : α → Bool) (f : α → α) (l : List α) : List α := l.map fun x => if c x then f x else x

/-- The elements of a list with their places. -/
def enum {α : Type} (l : List α) : List (Nat × α) := (List.range l.length).zip l

/-- The number of bits set among the low n bits. -/
def popcount (n w : Nat) : Nat := ((List.range n).filter fun i => w.testBit i).length

end Machine
end Sys2Proof
end

