-- ==== Sys2Proof/Machine/Regs.lean ====
section
/-!
DEFINITION. Sys2Proof/Machine/Regs.lean: the register map of Table 19.4 under the block bases of Table 19.2 (R396), the
reset values and access types of the field tables of every chapter, and the one place where a register is read from or
written to `regs`. A register is known by its name and its place in its array (or arrays).
-/
namespace Sys2Proof
namespace Machine

/-- The registers of Table 19.4 (the ring page of Table 19.5 stands in `Vf`). -/
inductive RegName where
  | blockSnap
  | engSliceCfg | engNumeric | engAttWaves | engAttKeys | engAttLines | engAttSkip | engHeartbeat | engCtxStatus
  | engWaitSince | engCmdIndex | engBudgetLog | engSwitches | engSwitchNs | engOverrunNs
  | spnPartLimits | spnSchedCfg | spnStepEst | spnPartHeartbeat | spnDirRetired | spnReplyUse
  | spnSloMissTtft | spnSloMissTbt | spnSloMetTtft | spnSloMetTbt | spnSeqState
  | folHeatCfg | folWakeCfg | folHandoffCfg | folWakeLate | folWakeStarts | folRefSat | folHoSent | folHoClaimed
  | folHoReturned | folHoLanded | folHoLost | folXchRefused | folHoInflight | folPrefetchFail | folReviveEst
  | folClassPolicy | folMissCnt
  | hbmChanFail | hbmTrainLog
  | nvfFtlCfg | nvfChanStatus | nvfChanWear | nvfUnitsRd | nvfUnitsWr | nvfRelocated | nvfErases | nvfReadRetry
  | nvfUncorr | nvfProgFail | nvfEraseFail
  | hifT3Base | hifT3SealBase | hifT3Cfg | hifT3Status | hifT3TagFail | hifLinkStatus | hifEventCause | hifEventMask
  | hifT3RdBytes | hifT3WrBytes | hifT3Fail | hifDbErr | hifCqStall
  | fabSyncStatus | fabSwitches | fabDup | fabBudgetOver | fabPartTx | fabPartRx | fabPartErr | fabRoute
  | fabLinkStatus | fabFecCorr | fabReplay | fabDowns | fabUncorr | fabTagFail | fabBadFrame
  | txtVocabInfo | txtPartCfg | txtInBytes | txtOutBytes | txtMasks | txtMaskLate | txtOvfLookups | txtLongPiece
  | txtStops | txtGrammarDead | txtBitmapMiss
  | rclCap | rclIndexInfo | rclQueries | rclExpansions | rclPageReads | rclShardMiss | rclShort | rclBudgetEnd
  | rclTombSkip
  | shpDrrCfg | shpPartCfg | shpPartCost | shpQueueCfg | shpPolRate | shpPolBurst | shpRateCfg | shpHistSat
  | shpPolGreen | shpPolYellow | shpPolRed | shpDeferred | shpServed | shpHistDepth | shpHistDelay
  | ckpGroupCfg | ckpStatus | ckpBytesWr | ckpDedup | ckpCbwCopies | ckpCbwStallNs | ckpErasures
  | sysCapId | sysCapCompute | sysCapMemory | sysCapFabric | sysCapSession | sysDeviceUid | sysAccessErr | sysTimebase
  | sysBindStatus | sysBindSrc | sysBindFloor | sysBindEpoch | sysBootStatus | sysPwrCfg | sysPwrStatus | sysPaceNs
  | sysEngFail | sysFaultStatus | sysFaultLogPtr | sysFaultDropped | sysHangReport | sysFaultSrcCfg | sysFaultCnt
  | sysFaultLog | sysPartStatus | sysRecoverCfg | sysPartResets | sysPartPoisoned
  deriving DecidableEq, Repr, Inhabited

/-- How a register behaves (Table 0.3, R10, R11). `cfg` is RO to every port, loaded from the binding image; `rw` has
the mask of the bits that PF0 may write; `calc` is RO and computed from state; `other` has operations of its own. -/
inductive RegKind where
  | cfg
  | rw (mask : Nat)
  | w1c (mask : Nat)
  | ctr
  | sat
  | calc
  | other
  deriving DecidableEq, Repr, Inhabited

/-- Who may read: PF0 only; PF0 and the owning function; or the owning function alone, PF0 reading zero (Table 17.1).
DEDUCED, log entry 21. -/
inductive RegVis where
  | pf | both | vf
  deriving DecidableEq, Repr, Inhabited

/-- What unit the first place of a register's array counts, for R398: the device, a partition, an engine, a service
queue, a Spine entry, a NAND channel, or units that every function reads. -/
inductive RegUnit where
  | device | part | engine | queue | spine | nand | all
  deriving DecidableEq, Repr, Inhabited

/-- A row of Table 19.4: block, offset in the block, stride and count of each of two array places, behaviour, visibility,
unit. -/
structure RegRow where
  block : Nat
  off : Nat
  s1 : Nat := 8
  n1 : Nat := 1
  s2 : Nat := 8
  n2 : Nat := 1
  kind : RegKind
  vis : RegVis
  unit : RegUnit := .device
  deriving DecidableEq, Repr, Inhabited

/-- A register of a device page. -/
def devRow (block off : Nat) (kind : RegKind) (vis : RegVis) (n : Nat := 1) : RegRow :=
  { block := block, off := off, n1 := n, kind := kind, vis := vis, unit := .device }
/-- A register of the partition pages (R396). -/
def partRow (block off : Nat) (kind : RegKind) (vis : RegVis) : RegRow :=
  { block := block, off := 0x100000 + off, s1 := 0x10000, n1 := 16, kind := kind, vis := vis, unit := .part }
/-- A register of the per-engine array. -/
def engRow (off : Nat) (kind : RegKind) (vis : RegVis) : RegRow :=
  { block := 0, off := 0x200000 + off, s1 := 0x100, n1 := 32, kind := kind, vis := vis, unit := .engine }
/-- A register of the per-queue array of SHP. -/
def queueRow (off : Nat) (kind : RegKind) : RegRow :=
  { block := 9, off := 0x200000 + off, s1 := 0xE0, n1 := 4096, kind := kind, vis := .both, unit := .queue }
/-- A register of the per-link array. -/
def linkRow (off : Nat) (kind : RegKind) : RegRow :=
  { block := 6, off := 0x208000 + off, s1 := 0x80, n1 := 96, kind := kind, vis := .both, unit := .all }
/-- A register of the per-channel array of NVF. -/
def nandRow (off : Nat) (kind : RegKind) : RegRow :=
  { block := 4, off := 0x200000 + off, s1 := 0x80, n1 := 32, kind := kind, vis := .both, unit := .nand }

/-- Table 19.4 with the access types of the chapters' field tables. Blocks in the order of Table 19.3: 0 ENG, 1 SPN,
2 FOL, 3 HBM, 4 NVF, 5 HIF, 6 FAB, 7 TXT, 8 RCL, 9 SHP, 10 CKP, 11 SYS. -/
def regRow : RegName → RegRow
  | .blockSnap => { block := 0, off := 0, s1 := 0x1000000, n1 := 12, kind := .other, vis := .both, unit := .all }
  | .engSliceCfg => partRow 0 0 (.rw 0xFFFFFFFF) .both
  | .engNumeric => engRow 0x00 .other .vf
  | .engAttWaves => engRow 0x08 .ctr .both
  | .engAttKeys => engRow 0x10 .ctr .both
  | .engAttLines => engRow 0x18 .ctr .both
  | .engAttSkip => engRow 0x20 .ctr .both
  | .engHeartbeat => engRow 0x28 .ctr .both
  | .engCtxStatus => engRow 0x30 .calc .both
  | .engWaitSince => engRow 0x38 .calc .both
  | .engCmdIndex => engRow 0x40 .calc .pf
  | .engBudgetLog => engRow 0x48 .calc .pf
  | .engSwitches => engRow 0x50 .ctr .pf
  | .engSwitchNs => engRow 0x58 .ctr .pf
  | .engOverrunNs => engRow 0x60 .ctr .pf
  | .spnPartLimits => partRow 1 0x00 .cfg .both
  | .spnSchedCfg => partRow 1 0x08 (.rw 0xFFFFFFFFFFFFFC00) .both
  | .spnStepEst => partRow 1 0x10 .calc .both
  | .spnPartHeartbeat => partRow 1 0x18 .ctr .both
  | .spnDirRetired => partRow 1 0x20 .sat .both
  | .spnReplyUse => partRow 1 0x28 .calc .pf
  | .spnSloMissTtft => { block := 1, off := 0x200000, s1 := 0x20, n1 := 4096, kind := .ctr, vis := .both, unit := .queue }
  | .spnSloMissTbt => { block := 1, off := 0x200008, s1 := 0x20, n1 := 4096, kind := .ctr, vis := .both, unit := .queue }
  | .spnSloMetTtft => { block := 1, off := 0x200010, s1 := 0x20, n1 := 4096, kind := .ctr, vis := .both, unit := .queue }
  | .spnSloMetTbt => { block := 1, off := 0x200018, s1 := 0x20, n1 := 4096, kind := .ctr, vis := .both, unit := .queue }
  | .spnSeqState => { block := 1, off := 0x800000, s1 := 8, n1 := 16384, kind := .calc, vis := .pf, unit := .spine }
  | .folHeatCfg => partRow 2 0x00 .cfg .both
  | .folWakeCfg => partRow 2 0x08 (.rw 0xFFFFFFFFFF) .both
  | .folHandoffCfg => partRow 2 0x10 (.rw 0xFFFF00000000) .both
  | .folWakeLate => partRow 2 0x18 .ctr .both
  | .folWakeStarts => partRow 2 0x20 .ctr .both
  | .folRefSat => partRow 2 0x28 .sat .both
  | .folHoSent => partRow 2 0x30 .ctr .both
  | .folHoClaimed => partRow 2 0x38 .ctr .both
  | .folHoReturned => partRow 2 0x40 .ctr .both
  | .folHoLanded => partRow 2 0x48 .ctr .both
  | .folHoLost => partRow 2 0x50 .ctr .both
  | .folXchRefused => partRow 2 0x58 .sat .both
  | .folHoInflight => partRow 2 0x60 .calc .pf
  | .folPrefetchFail => partRow 2 0x68 .ctr .both
  | .folReviveEst =>
    { block := 2, off := 0x100100, s1 := 0x10000, n1 := 16, s2 := 8, n2 := 4, kind := .calc, vis := .both, unit := .part }
  | .folClassPolicy =>
    { block := 2, off := 0x100200, s1 := 0x10000, n1 := 16, s2 := 8, n2 := 64, kind := .cfg, vis := .both, unit := .part }
  | .folMissCnt =>
    { block := 2, off := 0x101000, s1 := 0x10000, n1 := 16, s2 := 8, n2 := 1024, kind := .ctr, vis := .both, unit := .part }
  | .hbmChanFail => devRow 3 0x10 .calc .both 4
  | .hbmTrainLog => { block := 3, off := 0x800000, s1 := 0x40, n1 := 256, kind := .calc, vis := .pf }
  | .nvfFtlCfg => devRow 4 0x10 .cfg .both
  | .nvfChanStatus => nandRow 0x00 .calc
  | .nvfChanWear => nandRow 0x08 .calc
  | .nvfUnitsRd => nandRow 0x10 .ctr
  | .nvfUnitsWr => nandRow 0x18 .ctr
  | .nvfRelocated => nandRow 0x20 .ctr
  | .nvfErases => nandRow 0x28 .ctr
  | .nvfReadRetry => nandRow 0x30 .sat
  | .nvfUncorr => nandRow 0x38 .sat
  | .nvfProgFail => nandRow 0x40 .sat
  | .nvfEraseFail => nandRow 0x48 .sat
  | .hifT3Base => devRow 5 0x10 (.rw 0xFFFFFFFFFFFF0000) .pf
  | .hifT3SealBase => devRow 5 0x18 (.rw 0xFFFFFFFFFFFFF000) .pf
  | .hifT3Cfg => devRow 5 0x20 (.rw 0xC003FFFF1FFFFFFF) .pf
  | .hifT3Status => devRow 5 0x28 .other .pf
  | .hifT3TagFail => devRow 5 0x30 .sat .pf
  | .hifLinkStatus => devRow 5 0x40 .calc .both
  | .hifEventCause => devRow 5 0x48 (.w1c 0xFF) .pf
  | .hifEventMask => devRow 5 0x50 (.rw 0xFF) .pf
  | .hifT3RdBytes => partRow 5 0x00 .ctr .both
  | .hifT3WrBytes => partRow 5 0x08 .ctr .both
  | .hifT3Fail => partRow 5 0x10 .sat .both
  | .hifDbErr => partRow 5 0x18 .sat .both
  | .hifCqStall => partRow 5 0x20 .ctr .both
  | .fabSyncStatus => devRow 6 0x10 .calc .both
  | .fabSwitches => devRow 6 0x18 .ctr .both
  | .fabDup => devRow 6 0x20 .ctr .both
  | .fabBudgetOver => devRow 6 0x28 .sat .both
  | .fabPartTx => partRow 6 0x00 .ctr .both
  | .fabPartRx => partRow 6 0x08 .ctr .both
  | .fabPartErr => partRow 6 0x10 .sat .both
  | .fabRoute => { block := 6, off := 0x200000, s1 := 8, n1 := 4096, kind := .calc, vis := .both, unit := .all }
  | .fabLinkStatus => linkRow 0x00 .calc
  | .fabFecCorr => linkRow 0x08 .ctr
  | .fabReplay => linkRow 0x10 .ctr
  | .fabDowns => linkRow 0x18 .ctr
  | .fabUncorr => linkRow 0x20 .sat
  | .fabTagFail => linkRow 0x28 .sat
  | .fabBadFrame => linkRow 0x30 .sat
  | .txtVocabInfo => devRow 7 0x100 .calc .both 16
  | .txtPartCfg => partRow 7 0x00 .cfg .both
  | .txtInBytes => partRow 7 0x08 .ctr .both
  | .txtOutBytes => partRow 7 0x10 .ctr .both
  | .txtMasks => partRow 7 0x18 .ctr .both
  | .txtMaskLate => partRow 7 0x20 .ctr .both
  | .txtOvfLookups => partRow 7 0x28 .ctr .vf
  | .txtLongPiece => partRow 7 0x30 .ctr .vf
  | .txtStops => partRow 7 0x38 .ctr .vf
  | .txtGrammarDead => partRow 7 0x40 .ctr .vf
  | .txtBitmapMiss => partRow 7 0x48 .ctr .vf
  | .rclCap => devRow 8 0x10 .calc .pf
  | .rclIndexInfo =>
    { block := 8, off := 0x100000, s1 := 0x10000, n1 := 16, s2 := 8, n2 := 16, kind := .calc, vis := .both, unit := .part }
  | .rclQueries => partRow 8 0x80 .ctr .both
  | .rclExpansions => partRow 8 0x88 .ctr .both
  | .rclPageReads => partRow 8 0x90 .ctr .both
  | .rclShardMiss => partRow 8 0x98 .ctr .both
  | .rclShort => partRow 8 0xA0 .ctr .vf
  | .rclBudgetEnd => partRow 8 0xA8 .ctr .vf
  | .rclTombSkip => partRow 8 0xB0 .ctr .vf
  | .shpDrrCfg => devRow 9 0x100 (.rw 0xFFFFFFFFFFFF) .both 8
  | .shpPartCfg => partRow 9 0x00 .cfg .both
  | .shpPartCost => partRow 9 0x08 .cfg .both
  | .shpQueueCfg => queueRow 0x00 (.rw 0xFFFFC00000000000)
  | .shpPolRate => queueRow 0x08 (.rw 0xFFFFFFFFFFFFFFFF)
  | .shpPolBurst => queueRow 0x10 (.rw 0xFFFFFFFFFFFFFFFF)
  | .shpRateCfg => queueRow 0x18 (.rw 0xFFFFFFFF0000FFFF)
  | .shpHistSat => queueRow 0x20 .other
  | .shpPolGreen => queueRow 0x28 .ctr
  | .shpPolYellow => queueRow 0x30 .ctr
  | .shpPolRed => queueRow 0x38 .ctr
  | .shpDeferred => queueRow 0x40 .ctr
  | .shpServed => queueRow 0x48 .ctr
  | .shpHistDepth =>
    { block := 9, off := 0x200050, s1 := 0xE0, n1 := 4096, s2 := 8, n2 := 8, kind := .other, vis := .both, unit := .queue }
  | .shpHistDelay =>
    { block := 9, off := 0x200090, s1 := 0xE0, n1 := 4096, s2 := 8, n2 := 8, kind := .other, vis := .both, unit := .queue }
  | .ckpGroupCfg => partRow 10 0x00 .cfg .both
  | .ckpStatus => partRow 10 0x08 .calc .both
  | .ckpBytesWr => partRow 10 0x10 .ctr .both
  | .ckpDedup => partRow 10 0x18 .ctr .both
  | .ckpCbwCopies => partRow 10 0x20 .ctr .both
  | .ckpCbwStallNs => partRow 10 0x28 .ctr .both
  | .ckpErasures => partRow 10 0x30 .sat .both
  | .sysCapId => devRow 11 0x10 .cfg .both
  | .sysCapCompute => devRow 11 0x18 .cfg .both
  | .sysCapMemory => devRow 11 0x20 .cfg .both
  | .sysCapFabric => devRow 11 0x28 .cfg .both
  | .sysCapSession => devRow 11 0x30 .cfg .both
  | .sysDeviceUid => devRow 11 0x38 .calc .both
  | .sysAccessErr => devRow 11 0x40 .other .both
  | .sysTimebase => devRow 11 0x48 .calc .both
  | .sysBindStatus => devRow 11 0x100 .calc .both
  | .sysBindSrc => devRow 11 0x108 (.rw 0xFFFFFFFFFFFFFFFF) .pf
  | .sysBindFloor => devRow 11 0x110 .calc .pf
  | .sysBindEpoch => devRow 11 0x118 .calc .pf
  | .sysBootStatus => devRow 11 0x200 .calc .both
  | .sysPwrCfg => devRow 11 0x208 (.rw 0x7FF) .both
  | .sysPwrStatus => devRow 11 0x210 .calc .both
  | .sysPaceNs => devRow 11 0x218 .ctr .pf
  | .sysEngFail => devRow 11 0x220 .calc .both
  | .sysFaultStatus => devRow 11 0x300 (.w1c 0xFFFFFFFFFFFFFFFF) .pf 4
  | .sysFaultLogPtr => devRow 11 0x320 .other .pf
  | .sysFaultDropped => devRow 11 0x328 .sat .pf
  | .sysHangReport => devRow 11 0x330 .other .pf
  | .sysFaultSrcCfg => devRow 11 0x1000 .calc .pf 256
  | .sysFaultCnt => devRow 11 0x1800 .sat .pf 256
  | .sysFaultLog => devRow 11 0x8000 .calc .pf 4096
  | .sysPartStatus => partRow 11 0x00 .calc .both
  | .sysRecoverCfg => partRow 11 0x08 (.rw 0x3FFF00000000) .pf
  | .sysPartResets => partRow 11 0x10 .ctr .both
  | .sysPartPoisoned => partRow 11 0x18 .ctr .both

/-- Every register name, in the order of Table 19.4. -/
def allRegs : List RegName :=
  [.blockSnap, .engSliceCfg, .engNumeric, .engAttWaves, .engAttKeys, .engAttLines, .engAttSkip, .engHeartbeat,
   .engCtxStatus, .engWaitSince, .engCmdIndex, .engBudgetLog, .engSwitches, .engSwitchNs, .engOverrunNs] ++
  [.spnPartLimits, .spnSchedCfg, .spnStepEst, .spnPartHeartbeat, .spnDirRetired, .spnReplyUse, .spnSloMissTtft,
   .spnSloMissTbt, .spnSloMetTtft, .spnSloMetTbt, .spnSeqState] ++
  [.folHeatCfg, .folWakeCfg, .folHandoffCfg, .folWakeLate, .folWakeStarts, .folRefSat, .folHoSent, .folHoClaimed,
   .folHoReturned, .folHoLanded, .folHoLost, .folXchRefused, .folHoInflight, .folPrefetchFail, .folReviveEst,
   .folClassPolicy, .folMissCnt] ++
  [.hbmChanFail, .hbmTrainLog, .nvfFtlCfg, .nvfChanStatus, .nvfChanWear, .nvfUnitsRd, .nvfUnitsWr, .nvfRelocated,
   .nvfErases, .nvfReadRetry, .nvfUncorr, .nvfProgFail, .nvfEraseFail] ++
  [.hifT3Base, .hifT3SealBase, .hifT3Cfg, .hifT3Status, .hifT3TagFail, .hifLinkStatus, .hifEventCause, .hifEventMask,
   .hifT3RdBytes, .hifT3WrBytes, .hifT3Fail, .hifDbErr, .hifCqStall] ++
  [.fabSyncStatus, .fabSwitches, .fabDup, .fabBudgetOver, .fabPartTx, .fabPartRx, .fabPartErr, .fabRoute,
   .fabLinkStatus, .fabFecCorr, .fabReplay, .fabDowns, .fabUncorr, .fabTagFail, .fabBadFrame] ++
  [.txtVocabInfo, .txtPartCfg, .txtInBytes, .txtOutBytes, .txtMasks, .txtMaskLate, .txtOvfLookups, .txtLongPiece,
   .txtStops, .txtGrammarDead, .txtBitmapMiss, .rclCap, .rclIndexInfo, .rclQueries, .rclExpansions, .rclPageReads,
   .rclShardMiss, .rclShort, .rclBudgetEnd, .rclTombSkip] ++
  [.shpDrrCfg, .shpPartCfg, .shpPartCost, .shpQueueCfg, .shpPolRate, .shpPolBurst, .shpRateCfg, .shpHistSat,
   .shpPolGreen, .shpPolYellow, .shpPolRed, .shpDeferred, .shpServed, .shpHistDepth, .shpHistDelay] ++
  [.ckpGroupCfg, .ckpStatus, .ckpBytesWr, .ckpDedup, .ckpCbwCopies, .ckpCbwStallNs, .ckpErasures] ++
  [.sysCapId, .sysCapCompute, .sysCapMemory, .sysCapFabric, .sysCapSession, .sysDeviceUid, .sysAccessErr, .sysTimebase,
   .sysBindStatus, .sysBindSrc, .sysBindFloor, .sysBindEpoch, .sysBootStatus, .sysPwrCfg, .sysPwrStatus, .sysPaceNs,
   .sysEngFail, .sysFaultStatus, .sysFaultLogPtr, .sysFaultDropped, .sysHangReport, .sysFaultSrcCfg, .sysFaultCnt,
   .sysFaultLog, .sysPartStatus, .sysRecoverCfg, .sysPartResets, .sysPartPoisoned]

/-- Base of a block in PF0's BAR0 (Table 19.2; block 4 is NVF). -/
def blockBase (b : Nat) : Nat := b * 0x1000000

/-- BAR0 offset of register `r` at places `i` and `j` (R396, Table 19.4). -/
def regAddr (r : RegName) (i j : Nat) : Nat :=
  let w := regRow r
  blockBase w.block + w.off + w.s1 * i + w.s2 * j

/-- The register at a BAR0 offset, with its places. -/
def regAtRow (off : Nat) (r : RegName) : Option (RegName × Nat × Nat) :=
  let w := regRow r
  let base := blockBase w.block + w.off
  if off < base then none
  else
    let rel := off - base
    let i := rel / w.s1
    let rest := rel % w.s1
    if i < w.n1 && rest % w.s2 == 0 && rest / w.s2 < w.n2 then some (r, i, rest / w.s2) else none

/-- The register that stands at a BAR0 offset; none: the offset behaves as RSV (R396). -/
def regAt (off : Nat) : Option (RegName × Nat × Nat) := allRegs.findSome? (regAtRow off)

/-- Reset value of a register (the field tables' reset columns; a counter resets to zero). DESIGN CHOICE, log entry 3. -/
def regReset : RegName → Nat → W64
  | .engSliceCfg, _ => 0x07D00064
  | .spnPartLimits, _ => 0x0000020000002000
  | .spnSchedCfg, _ => w64 (at' 0x2710 48 + at' 0x800 34 + at' 0x1000 20 + at' 0x100 10)
  | .folHeatCfg, _ => w64 (at' 0x40 56 + at' 0xC0 48 + at' 0x20 40 + at' 1 34 + 0x7D0)
  | .folWakeCfg, _ => w64 (at' 3 32 + 0x7A120)
  | .folHandoffCfg, _ => w64 (at' 0x64 32 + 0x7D0)
  | .folClassPolicy, _ => w64 (at' 0x8000 12 + at' 0x64 4)
  | .nvfFtlCfg, _ => 0x0C0A3C0700C80064
  | .hifT3Cfg, _ => w64 (at' 0xC350 32)
  | .hifEventMask, _ => 0xFF
  | .shpDrrCfg, k =>
    w64 (at' (if k < 3 then 1 else 0) 63 + at' (if k = 0 then 0x2710 else 0) 32 + 0x1E8480)
  | .shpPartCfg, _ => 1
  | .shpPartCost, _ => 0x0000004000000001
  | .shpQueueCfg, _ => w64 (at' 0x100 48 + at' 4 40 + at' 2 37)
  | .sysCapId, _ => w64 (at' 1 56 + at' 0x100 40 + at' 0xFFF 28 + 0x96)
  | .sysCapCompute, _ => w64 (at' 0x20 56 + at' 0x80 44 + at' 0x200 32 + at' 0x2000 8 + 0x10)
  | .sysCapMemory, _ => w64 (at' 8 60 + at' 0x60 48 + at' 0x20 40 + at' 0x10 32)
  | .sysCapFabric, _ => w64 (at' 0x60 56 + at' 0x18 48 + at' 0x1000 32)
  | .sysCapSession, _ => w64 (at' 0x4000 49 + at' 0x4000 34 + at' 0x100000 13 + 0x1000)
  | .sysPwrCfg, _ => 0x578
  | .sysRecoverCfg, _ => w64 (at' 0x200 32)
  | _, _ => 0

/-- Register `r` as `regs` holds it. -/
def State.reg (s : State) (r : RegName) (i : Nat := 0) (j : Nat := 0) : W64 :=
  tgetD s.regs (regAddr r i j) (regReset r i)

/-- The state with register `r` at `v`. -/
def State.setReg (s : State) (r : RegName) (i j : Nat) (v : W64) : State :=
  { s with regs := tput s.regs (regAddr r i j) v }

/-- A 64-bit event counter advances by `n` and wraps (R10). -/
def State.count (s : State) (r : RegName) (i : Nat := 0) (n : Nat := 1) (j : Nat := 0) : State :=
  s.setReg r i j (s.reg r i j + BitVec.ofNat 64 n)

/-- The most that a 32-bit saturating counter holds. -/
def satMax : Nat := 0xFFFFFFFF

/-- A 32-bit saturating counter after `n` more events: count in [31:0], SAT in bit 63 (R11, R399). -/
def satAdd (w : W64) (n : Nat) : W64 :=
  let c := bits w 31 0 + n
  if c ≥ satMax then w64 (0x8000000000000000 + satMax) else w64 (bits w 63 32 * 0x100000000 + c)

/-- Whether this increment saturates the counter (its one event, R11). -/
def satHits (w : W64) (n : Nat) : Bool := !bit w 63 && bits w 31 0 + n ≥ satMax

/-- A block drives an error line: the event waits for the collector (FAULT_EVENT). -/
def State.raise (s : State) (src : Nat) (d : FaultDetail := {}) : State :=
  { s with flt := { s.flt with lines := s.flt.lines ++ [(src, d)] } }

/-- Event source 0xA7: a counter saturated (R11, Table 16.1). -/
def srcSat : Nat := 0xA7

/-- More increments of a saturating counter in this instant (R12). -/
def State.stampAdd (s : State) (k n : Nat) : State := { s with stamps := tput s.stamps k (tgetD s.stamps k 0 + n) }

/-- Bits of a W1C register that hardware sets in this instant (R9). -/
def State.stampSet (s : State) (k w : Nat) : State := { s with stamps := tput s.stamps k (tgetD s.stamps k 0 ||| w) }

/-- A saturating counter advances by `n`; at saturation SAT is set and source 0xA7 raised once (R11). -/
def State.countSat (s : State) (r : RegName) (i : Nat := 0) (n : Nat := 1) : State :=
  let w := s.reg r i
  let t := (s.setReg r i 0 (satAdd w n)).stampAdd (regAddr r i 0) n
  if satHits w n then t.raise srcSat { raw := regAddr r i 0 } else t

/-- A field of a register that resets or loads: [hi:lo] set to `v`. -/
def State.setField (s : State) (r : RegName) (i hi lo v : Nat) : State := s.setReg r i 0 (setBits (s.reg r i) hi lo v)

end Machine
end Sys2Proof
end

