-- ==== Sys2Proof/Machine/Flags.lean ====
section
/-!
DEFINITION. Sys2Proof/Machine/Flags.lean: the codes that the device reports: completion statuses (Table 19.10), verb
opcodes (Table 19.7), management and key results, states of sequences, links and channels, and the bytes of a
completion record (Table 19.8, Table 19.9).
-/
namespace Sys2Proof
namespace Machine

/-- Table 19.10. -/
def statusCode : Status → Nat
  | .ok => 0x00
  | .stopped => 0x01
  | .length => 0x02
  | .grammarDead => 0x03
  | .cancelled => 0x04
  | .short => 0x05
  | .policed => 0x08
  | .fenced => 0x10
  | .epochRetired => 0x11
  | .poisoned => 0x12
  | .ttlExpired => 0x13
  | .ownerReturned => 0x14
  | .tierFailed => 0x15
  | .deadlineCheaper => 0x16
  | .replayAbandoned => 0x17
  | .badHandle => 0x20
  | .badState => 0x21
  | .badArgument => 0x22
  | .noCapacity => 0x23

/-- Table 19.7: the verb of an opcode. -/
def verbOf : Nat → VerbOp
  | 0x01 => .openS
  | 0x02 => .append
  | 0x03 => .step
  | 0x04 => .park
  | 0x05 => .revive
  | 0x06 => .fork
  | 0x07 => .splice
  | 0x08 => .close
  | 0x30 => .place
  | 0x31 => .grammarLoad
  | 0x32 => .grammarDrop
  | 0x40 => .indexLoad
  | 0x41 => .query
  | 0x42 => .delete
  | 0x43 => .indexDrop
  | 0x50 => .programLoad
  | 0x60 => .handoffSend
  | 0x61 => .handoffClaim
  | 0x70 => .ckptTake
  | 0x71 => .ckptRestore
  | _ => .undef

/-- Scope of a verb (Table 19.7). -/
inductive Scope where
  | part | session | sequence
  deriving DecidableEq, Repr, Inhabited

/-- Bits of the FLAGS byte (Table 19.6). -/
def flagStop : Nat := 0
def flagStream : Nat := 1
def flagSession : Nat := 2
def flagRenumber : Nat := 3
def flagCommit : Nat := 4
def flagSharded : Nat := 5
def flagExact : Nat := 6

/-- The FLAGS bits that an opcode defines (Table 19.6). -/
def flagMask : VerbOp → Nat
  | .step => 0x03
  | .close => 0x04
  | .splice => 0x08
  | .delete => 0x10
  | .query => 0x60
  | _ => 0

/-- Scope of a verb with its FLAGS (Table 19.7). -/
def scopeOf (op : VerbOp) (flags : Nat) : Scope :=
  match op with
  | .append | .step | .splice | .place => .sequence
  | .close => if flags.testBit flagSession then .session else .sequence
  | .park | .revive | .fork | .handoffSend => .session
  | _ => .part

/-- Lifecycle state codes (Table 2.2). -/
def seqStateCode : SeqState → Nat
  | .new => 0
  | .prefill => 1
  | .decode => 2
  | .wait => 3
  | .parked => 4
  | .reviving => 5
  | .draining => 6
  | .closed => 7
  | .expired => 8
  | .poisoned => 9

/-- Codes of Table 11.3 and of R355. -/
def mgmtCode : MgmtCode → Nat
  | .ok => 0x00
  | .badSignature => 0x01
  | .badKey => 0x02
  | .rollback => 0x03
  | .wrongDevice => 0x04
  | .staleEpoch => 0x05
  | .badFormat => 0x06
  | .badPredecessor => 0x07
  | .badChange => 0x08
  | .busy => 0x09
  | .denied => 0x20
  | .inUse => 0x21
  | .auditFull => 0x22
  | .badArgument => 0x23

/-- Table 17.11. -/
def keyResultCode : KeyResult → Nat
  | .ok => 0x00
  | .noAuth => 0x01
  | .keyPresent => 0x02
  | .stale => 0x03
  | .mismatch => 0x04
  | .inUse => 0x05
  | .busy => 0x06
  | .debug => 0x07
  | .safe => 0x08
  | .badArgument => 0x09

/-- Table 16.2: severities. -/
def severityCode : Severity → Nat
  | .corr => 0
  | .cont => 1
  | .part => 2
  | .dev => 3

/-- Table 12.11: link states. -/
def linkStateCode : LinkState → Nat
  | .off => 0
  | .parked => 1
  | .training => 2
  | .authenticating => 3
  | .mismatch => 4
  | .up => 5
  | .down => 6

/-- Table 14.4: channel states. -/
def chanStateCode : ChanState → Nat
  | .absent => 0
  | .training => 1
  | .active => 2
  | .limited => 3
  | .readOnly => 4
  | .failed => 5

/-- Table 16.14: partition states. -/
def partModeCode : PartMode → Nat
  | .normal => 0
  | .recovering => 1
  | .fenced => 2
  | .resetting => 3
  | .safe => 4

/-- Table 11.7: phases of SYS_BIND_STATUS. -/
def bindPhaseCode : BindPhase → Nat
  | .none => 0
  | .inForce => 1
  | .draining => 2
  | .switching => 3
  | .waiting => 4

/-- Table 12.6: error codes. -/
def fabErrCode : FabErr → Nat
  | .none => 0
  | .access => 1
  | .noRoute => 2
  | .fenced => 3
  | .poison => 4
  | .busy => 5
  | .stale => 6
  | .hopLimit => 7

/-- Order of the arbitration classes: A first. -/
def classRank : ArbClass → Nat
  | .a => 0
  | .b => 1
  | .c => 2
  | .d => 3

/-- KV format codes (Table 2.6). -/
def kvFmtCode : KvFmt → Nat
  | .mx4 => 0
  | .mx6 => 1
  | .fp8 => 2
  | .bf16 => 3

/-- Pool role codes (Table 13.1). -/
def roleCode : PoolRole → Nat
  | .mixed => 0
  | .prefill => 1
  | .decode => 2
  | .state => 3

/-- FLAGS bits [5:4] of a STEP record, and the others of Table 4.6. -/
def stepFlags (isPart ttftMiss tbtMiss outFull : Bool) (cheaper : Nat) : Nat :=
  isPart.toNat + 2 * ttftMiss.toNat + 4 * tbtMiss.toNat + 8 * outFull.toNat + 16 * cheaper

/-- A 32-bit field that saturates (R107). -/
def sat32 (n : Nat) : Nat := min n 0xFFFFFFFF

/-- The 128 bytes of a completion record (Table 19.8, Table 19.9). -/
def recordBytes (r : Rec) (csn : Nat) (phase : Bool) : Bytes :=
  let header := natLe 8 csn ++ natLe 8 r.handle ++ natLe 8 r.tag ++ natLe 1 r.seq ++ natLe 1 r.opcode ++
    natLe 1 (statusCode r.status) ++ natLe 1 phase.toNat ++ natLe 2 r.flags ++ natLe 2 0
  r.body.foldl (fun b f => patch b f.1 (natLe f.2.1 f.2.2)) (header ++ zeros 96)

end Machine
end Sys2Proof
end

