-- ==== Sys2Proof/Machine/Hash.lean ====
section
/-!
DEFINITION. Sys2Proof/Machine/Hash.lean: SHA-384, HMAC-SHA-384, the KDF of R357, key check values, and the ECDSA P-384
check of a binding image's signature (R230). Words are natural numbers below 2^64.
-/
namespace Sys2Proof
namespace Machine

/-- 2^64. -/
def two64 : Nat := 18446744073709551616

/-- The constants of the eighty rounds of SHA-384, four to a number, the first in its most significant 64 bits. -/
def roundTable : List Nat :=
  [0x428a2f98d728ae227137449123ef65cdb5c0fbcfec4d3b2fe9b5dba58189dbbc,
   0x3956c25bf348b53859f111f1b605d019923f82a4af194f9bab1c5ed5da6d8118,
   0xd807aa98a303024212835b0145706fbe243185be4ee4b28c550c7dc3d5ffb4e2,
   0x72be5d74f27b896f80deb1fe3b1696b19bdc06a725c71235c19bf174cf692694,
   0xe49b69c19ef14ad2efbe4786384f25e30fc19dc68b8cd5b5240ca1cc77ac9c65] ++
  [0x2de92c6f592b02754a7484aa6ea6e4835cb0a9dcbd41fbd476f988da831153b5,
   0x983e5152ee66dfaba831c66d2db43210b00327c898fb213fbf597fc7beef0ee4,
   0xc6e00bf33da88fc2d5a79147930aa72506ca6351e003826f142929670a0e6e70,
   0x27b70a8546d22ffc2e1b21385c26c9264d2c6dfc5ac42aed53380d139d95b3df,
   0x650a73548baf63de766a0abb3c77b2a881c2c92e47edaee692722c851482353b] ++
  [0xa2bfe8a14cf10364a81a664bbc423001c24b8b70d0f89791c76c51a30654be30,
   0xd192e819d6ef5218d69906245565a910f40e35855771202a106aa07032bbd1b8,
   0x19a4c116b8d2d0c81e376c085141ab532748774cdf8eeb9934b0bcb5e19b48a8,
   0x391c0cb3c5c95a634ed8aa4ae3418acb5b9cca4f7763e373682e6ff3d6b2b8a3,
   0x748f82ee5defb2fc78a5636f43172f6084c87814a1f0ab728cc702081a6439ec] ++
  [0x90befffa23631e28a4506cebde82bde9bef9a3f7b2c67915c67178f2e372532b,
   0xca273eceea26619cd186b8c721c0c207eada7dd6cde0eb1ef57d4f7fee6ed178,
   0x06f067aa72176fba0a637dc5a2c898a6113f9804bef90dae1b710b35131c471b,
   0x28db77f523047d8432caab7b40c724933c9ebe0a15c9bebc431d67c49c100d4c,
   0x4cc5d4becb3e42b6597f299cfc657e2a5fcb6fab3ad6faec6c44198c4a475817]

/-- The constant of round r. -/
def roundConst (r : Nat) : Nat := (roundTable.getD (r / 4) 0) / two64 ^ (3 - r % 4) % two64

/-- The hash's eight starting words as the bytes of one number, first word first. -/
def startWords : Nat :=
  0xcbbb9d5dc1059ed8629a292a367cd5079159015a3070dd17152fecd8f70e593967332667ffc00b318eb44a8768581511db0c2e0d64f98fa747b5481dbefa4fa4

/-- The exclusive or of a word turned right by each of the amounts, and of the word moved right by `sh` where that is not 0. -/
def mixed (turns : List Nat) (sh x : Nat) : Nat :=
  turns.foldl (fun acc n => acc ^^^ (x / 2 ^ n + x % 2 ^ n * 2 ^ (64 - n))) (if sh = 0 then 0 else x / 2 ^ sh)

/-- One round on the eight working words, given the round's constant and message word already added up. -/
def hashRound (kw : Nat) : List Nat → List Nat
  | [a, b, c, d, e, f, g, h] =>
    let pick := (e &&& f) + ((two64 - 1 - e) &&& g)
    let vote := (a &&& (b ||| c)) ||| (b &&& c)
    let up := kw + h + pick + mixed [14, 18, 41] 0 e
    [(up + vote + mixed [28, 34, 39] 0 a) % two64, a, b, c, (up + d) % two64, e, f, g]
  | l => l

/-- The rounds from r on, `n` of them, over the window of the sixteen message words that stand next; each round appends the window's
seventeenth word. -/
def hashRounds : Nat → Nat → List Nat → List Nat → List Nat
  | 0, _, _, l => l
  | n + 1, r, win, l =>
    let w := win.getD 0 0
    let next := (w + mixed [1, 8] 7 (win.getD 1 0) + win.getD 9 0 + mixed [19, 61] 6 (win.getD 14 0)) % two64
    hashRounds n (r + 1) (win.drop 1 ++ [next]) (hashRound (roundConst r + w) l)

/-- One 128-byte block after the words `l`. -/
def hashBlock (l : List Nat) (block : Bytes) : List Nat :=
  (hashRounds 80 0 ((List.range 16).map fun i => beNat (sub block (8 * i) 8)) l).zipWith (fun x y => (x + y) % two64) l

/-- The first `n` whole blocks of the bytes. -/
def hashBlocks : Nat → Bytes → List Nat → List Nat
  | 0, _, l => l
  | n + 1, m, l => hashBlocks n (m.drop 128) (hashBlock l (m.take 128))

/-- SHA-384: 48 bytes. The message, a one bit, zeros, and its length in bits fill whole blocks. -/
def sha384 (m : Bytes) : Bytes :=
  let msg := m ++ 0x80 :: zeros ((239 - m.length % 128) % 128) ++ natBe 16 (8 * m.length)
  let start := (List.range 8).map fun k => startWords / two64 ^ (7 - k) % two64
  ((hashBlocks (msg.length / 128) msg start).take 6).flatMap (natBe 8)

/-- HMAC-SHA-384. -/
def hmac384 (key m : Bytes) : Bytes :=
  let k0 := if key.length > 128 then sha384 key else key
  let k := k0 ++ zeros (128 - k0.length)
  sha384 (k.map (fun b => b ^^^ 0x5C) ++ sha384 (k.map (fun b => b ^^^ 0x36) ++ m))

/-- The ASCII bytes of a label. -/
def ascii (l : List Char) : Bytes := l.map fun c => BitVec.ofNat 8 c.toNat

/-- KDF of R357 for at most 48 bytes. -/
def kdf (key : Bytes) (label : List Char) (context : Bytes) (n : Nat) : Bytes :=
  (hmac384 key (ascii label ++ context)).take n

/-- Key check value of a PRK, PLK or CK: 8 bytes (Table 17.4). -/
def kcv (key : Bytes) : Bytes := kdf key ['H', 'R', 'E', '-', 'K', 'C', 'V'] [] 8

/-- A key's check value, or zero where the key is not held (R375). -/
def kcvOf : Option Bytes → Bytes
  | some k => kcv k
  | none => zeros 8

/-! ## ECDSA over P-384 (FIPS 186-5, R230) -/

/-- The prime, the order, the coefficient b and the base point of P-384. -/
def p384p : Nat := 2 ^ 384 - 2 ^ 128 - 2 ^ 96 + 2 ^ 32 - 1
def p384n : Nat := 0xffffffffffffffffffffffffffffffffffffffffffffffffc7634d81f4372ddf581a0db248b0a77aecec196accc52973
def p384b : Nat := 0xb3312fa7e23ee7e4988e056be3f82d19181d9c6efe8141120314088f5013875ac656398d8a2ed19d2a85c8edd3ec2aef
def p384x : Nat := 0xaa87ca22be8b05378eb1c71ef320ad746e1d3b628ba79b9859f741e082542a385502f25dbf55296c3a545e3872760ab7
def p384y : Nat := 0x3617de4a96262c6f5d9e98bf9292dc29f8f41dbd289a147ce9da3113b5f0b8c00a60b1ce1d7e819d7a431d7c90ea0e5f

/-- Powers modulo m over the low `fuel` bits of the exponent. -/
def modPow : Nat → Nat → Nat → Nat → Nat
  | 0, _, _, m => 1 % m
  | fuel + 1, b, e, m =>
    let r := modPow fuel (b * b % m) (e / 2) m
    if e % 2 = 1 then r * b % m else r

/-- A point in Jacobian coordinates; z = 0 is the point at infinity. -/
structure Pt where
  x : Nat
  y : Nat
  z : Nat
  deriving DecidableEq, Repr, Inhabited

/-- a − b modulo the prime. -/
def fsub (a b : Nat) : Nat := (a + p384p - b) % p384p

/-- Doubling (a = −3). -/
def ptDouble (q : Pt) : Pt :=
  if q.z = 0 then q
  else
    let zz := q.z * q.z % p384p
    let m := 3 * (fsub q.x zz) * ((q.x + zz) % p384p) % p384p
    let yy := q.y * q.y % p384p
    let w := 4 * q.x * yy % p384p
    let x3 := fsub (m * m % p384p) (2 * w % p384p)
    { x := x3, y := fsub (m * fsub w x3 % p384p) (8 * yy * yy % p384p), z := 2 * q.y * q.z % p384p }

/-- Addition. -/
def ptAdd (p q : Pt) : Pt :=
  if p.z = 0 then q
  else if q.z = 0 then p
  else
    let z1 := p.z * p.z % p384p
    let z2 := q.z * q.z % p384p
    let u1 := p.x * z2 % p384p
    let u2 := q.x * z1 % p384p
    let s1 := p.y * z2 * q.z % p384p
    let s2 := q.y * z1 * p.z % p384p
    if u1 = u2 then
      if s1 = s2 then ptDouble p else { x := 1, y := 1, z := 0 }
    else
      let h := fsub u2 u1
      let r := fsub s2 s1
      let hh := h * h % p384p
      let hhh := hh * h % p384p
      let v := u1 * hh % p384p
      let x3 := fsub (fsub (r * r % p384p) hhh) (2 * v % p384p)
      { x := x3, y := fsub (r * fsub v x3 % p384p) (s1 * hhh % p384p), z := p.z * q.z % p384p * h % p384p }

/-- u1·G + u2·Q over the low `fuel` bits of both. -/
def ptMul2 : Nat → Nat → Nat → Pt → Pt → Pt
  | 0, _, _, _, _ => { x := 1, y := 1, z := 0 }
  | fuel + 1, u1, u2, g, q =>
    let r := ptDouble (ptMul2 fuel (u1 / 2) (u2 / 2) g q)
    let r1 := if u1 % 2 = 1 then ptAdd r g else r
    if u2 % 2 = 1 then ptAdd r1 q else r1

/-- A point lies on the curve. -/
def onCurve (x y : Nat) : Bool :=
  x < p384p && y < p384p && y * y % p384p == (x * x * x + (p384p - 3) * x + p384b) % p384p

/-- ECDSA over P-384 with SHA-384: key x and y, signature r and s, the message's digest. -/
def ecdsaOk (kx ky r s : Nat) (digest : Bytes) : Bool :=
  if r = 0 || s = 0 || r ≥ p384n || s ≥ p384n || !onCurve kx ky then false
  else
    let w := modPow 384 s (p384n - 2) p384n
    let u1 := beNat digest * w % p384n
    let u2 := r * w % p384n
    let q := ptMul2 384 u1 u2 { x := p384x, y := p384y, z := 1 } { x := kx, y := ky, z := 1 }
    if q.z = 0 then false
    else
      let zi := modPow 384 q.z (p384p - 2) p384p
      (q.x * zi % p384p * zi % p384p) % p384n == r

end Machine
end Sys2Proof
end

