-- ==== Sys2Proof/Machine/Ops.lean ====
section
/-!
DEFINITION. Sys2Proof/Machine/Ops.lean: the named operations over State that the meanings share: accessors of its
parts, outputs, interrupts, completion records, the audit log, handles and directory records, free lists, Spine
entries, service queues. Each is total, and answers the state unchanged where its object is absent.
-/
namespace Sys2Proof
namespace Machine

/-! ## Time, outputs, free values -/

/-- One more output. DESIGN CHOICE, log entry 5. -/
def State.emit (s : State) (o : Out) : State := { s with out := s.out ++ [o] }

/-- One draw of the device's generator: its number, and the state after it. DESIGN CHOICE, log entry 12. -/
def State.drawn (s : State) : Nat × State := (s.free, { s with free := s.free + 1 })

/-- 2^32 − 1 ns of timebase and so on are compared modulo nothing: the timebase is a 64-bit count (R5). -/
def two32 : Nat := 4294967296

/-! ## Parts of State -/

def State.vf (s : State) (p : Nat) : Vf := tgetD s.hif.vfs p {}
def State.setVf (s : State) (p : Nat) (v : Vf) : State := { s with hif := { s.hif with vfs := tput s.hif.vfs p v } }
def State.verbs (s : State) (p : Nat) : List Verb := tgetD s.hif.verbs p []
def State.setVerbs (s : State) (p : Nat) (l : List Verb) : State :=
  { s with hif := { s.hif with verbs := tput s.hif.verbs p l } }
def State.verb? (s : State) (p vid : Nat) : Option Verb := (s.verbs p).find? (fun v => v.id == vid)
/-- The verb with `f` applied. -/
def State.modVerb (s : State) (p vid : Nat) (f : Verb → Verb) : State :=
  s.setVerbs p (lmod (fun v => v.id == vid) f (s.verbs p))
def State.recOf (s : State) (d : Nat) : DirRec := tgetD s.dir.recs d {}
def State.setRec (s : State) (d : Nat) (r : DirRec) : State := { s with dir := { s.dir with recs := tput s.dir.recs d r } }
def State.session? (s : State) (d : Nat) : Option Session := tget s.dir.sessions d
def State.setSession (s : State) (d : Nat) (x : Session) : State :=
  { s with dir := { s.dir with sessions := tput s.dir.sessions d x } }
def State.dropSession (s : State) (d : Nat) : State :=
  { s with dir := { s.dir with sessions := tdel s.dir.sessions d } }
/-- The session with `f` applied. -/
def State.modSession (s : State) (d : Nat) (f : Session → Session) : State :=
  match s.session? d with
  | some x => s.setSession d (f x)
  | none => s
def State.seq? (s : State) (d n : Nat) : Option Seq :=
  match s.session? d with
  | some x => tget x.seqs n
  | none => none
/-- The sequence with `f` applied. -/
def State.modSeq (s : State) (d n : Nat) (f : Seq → Seq) : State :=
  match s.seq? d n with
  | some q => s.modSession d fun x => { x with seqs := tput x.seqs n (f q) }
  | none => s
/-- Every sequence of the session with `f` applied. -/
def State.modSeqs (s : State) (d : Nat) (f : Seq → Seq) : State :=
  s.modSession d fun x => { x with seqs := tmap (fun _ q => f q) x.seqs }
def State.folio? (s : State) (i : Nat) : Option Folio := tget s.fol.folios i
def State.setFolio (s : State) (i : Nat) (f : Folio) : State := { s with fol := { s.fol with folios := tput s.fol.folios i f } }
def State.modFolio (s : State) (i : Nat) (f : Folio → Folio) : State :=
  match s.folio? i with
  | some x => s.setFolio i (f x)
  | none => s
def State.folPart (s : State) (p : Nat) : FolPart := tgetD s.fol.parts p {}
def State.setFolPart (s : State) (p : Nat) (x : FolPart) : State := { s with fol := { s.fol with parts := tput s.fol.parts p x } }
def State.modFolPart (s : State) (p : Nat) (f : FolPart → FolPart) : State := s.setFolPart p (f (s.folPart p))
def State.spnOf (s : State) (p : Nat) : SpnPart := tgetD s.spn p {}
def State.setSpn (s : State) (p : Nat) (x : SpnPart) : State := { s with spn := tput s.spn p x }
def State.modSpn (s : State) (p : Nat) (f : SpnPart → SpnPart) : State := s.setSpn p (f (s.spnOf p))
def State.engOf (s : State) (e : Nat) : Engine := tgetD s.eng e {}
def State.setEng (s : State) (e : Nat) (x : Engine) : State := { s with eng := tput s.eng e x }
def State.modEng (s : State) (e : Nat) (f : Engine → Engine) : State := s.setEng e (f (s.engOf e))
def State.txtPart (s : State) (p : Nat) : TxtPart := tgetD s.txt.parts p {}
def State.setTxtPart (s : State) (p : Nat) (x : TxtPart) : State := { s with txt := { s.txt with parts := tput s.txt.parts p x } }
def State.ckpOf (s : State) (p : Nat) : CkpPart := tgetD s.ckp.parts p {}
def State.setCkp (s : State) (p : Nat) (x : CkpPart) : State := { s with ckp := { s.ckp with parts := tput s.ckp.parts p x } }
def State.modCkp (s : State) (p : Nat) (f : CkpPart → CkpPart) : State := s.setCkp p (f (s.ckpOf p))
def State.recPart (s : State) (p : Nat) : RecPart := tgetD s.flt.parts p {}
def State.setRecPart (s : State) (p : Nat) (x : RecPart) : State := { s with flt := { s.flt with parts := tput s.flt.parts p x } }
def State.linkOf (s : State) (l : Nat) : Link := tgetD s.fab.links l {}
def State.setLink (s : State) (l : Nat) (x : Link) : State := { s with fab := { s.fab with links := tput s.fab.links l x } }
def State.modLink (s : State) (l : Nat) (f : Link → Link) : State := s.setLink l (f (s.linkOf l))
def State.chanOf (s : State) (c : Nat) : Chan := tgetD s.nvf.chans c {}
def State.setChan (s : State) (c : Nat) (x : Chan) : State := { s with nvf := { chans := tput s.nvf.chans c x } }
def State.modChan (s : State) (c : Nat) (f : Chan → Chan) : State := s.setChan c (f (s.chanOf c))
def State.keysOf (s : State) (p : Nat) : PartKeys := tgetD s.sec.keys p {}
def State.setKeys (s : State) (p : Nat) (k : PartKeys) : State := { s with sec := { s.sec with keys := tput s.sec.keys p k } }
def State.indexesOf (s : State) (p : Nat) : Tab RIndex := tgetD s.rcl.indexes p []
def State.setIndexes (s : State) (p : Nat) (t : Tab RIndex) : State := { s with rcl := { s.rcl with indexes := tput s.rcl.indexes p t } }
def State.queriesOf (s : State) (p : Nat) : List QueryOp := tgetD s.rcl.queries p []
def State.setQueries (s : State) (p : Nat) (l : List QueryOp) : State := { s with rcl := { s.rcl with queries := tput s.rcl.queries p l } }

/-! ## The composition in force -/

/-- The partition's sections in the image in force; none: the image holds no such partition, or there is no image. -/
def State.partImage? (s : State) (p : Nat) : Option PartImage :=
  match s.bind.image with
  | some im => tget im.parts p
  | none => none
def State.partImage (s : State) (p : Nat) : PartImage := (s.partImage? p).getD {}
/-- The device's sections in force. -/
def State.devSec (s : State) : DeviceSec := match s.bind.image with | some im => im.dev | none => {}
/-- The FABRIC section: during stage 7 of bring-up it is that of the image committed at stage 6 (R386). -/
def State.fabSec (s : State) : FabricSec :=
  match s.bind.image with
  | some im => im.fab
  | none => (match s.bind.pendingImage with | some im => im.fab | none => {})
/-- The model program of a partition, once loaded and checked (R144). -/
def State.program? (s : State) (p : Nat) : Option Program := (s.spnOf p).program
/-- A composition change is under way (R238). -/
def State.changing (s : State) : Bool := s.bind.phase == .draining || s.bind.phase == .switching
/-- The change kind of a partition in the change under way; KEEP when there is none. -/
def State.kindOf (s : State) (p : Nat) : ChangeKind := if s.changing then tgetD s.bind.kinds p .keep else .keep
/-- The partition is ADJUST, REFORM or ABSENT in the change under way (FENCED_MASK). -/
def State.fencedByChange (s : State) (p : Nat) : Bool := s.kindOf p != .keep
/-- Epoch in force (SYS_BIND_STATUS.EPOCH); 0: none. -/
def State.epoch (s : State) : Nat :=
  match s.bind.image with
  | some im => fld im.bytes 8 4
  | none => 0
/-- The epoch that a verb read now carries (R238): the new one in a partition that the change affects. -/
def State.readEpoch (s : State) (p : Nat) : Nat :=
  if s.fencedByChange p then (match s.bind.pendingImage with | some im => fld im.bytes 8 4 | none => s.epoch) else s.epoch
/-- The device runs: powered, out of its safe state. -/
def State.live (s : State) : Bool := s.pwr.pwrok && !s.flt.safe
/-- The partition reads rings and writes to its host: its function is enabled, not in D3hot, its TDI in RUN and
its bound IDE stream keyed (R366, R391, R394). -/
def State.hostUp (s : State) (p : Nat) : Bool :=
  let v := s.vf p
  s.live && s.hif.linkUp && v.enabled && !v.d3hot && v.tdi == .run && s.hif.ideStreams.contains v.tdiStream
/-- The partition holds a PRK (R361). -/
def State.hasPrk (s : State) (p : Nat) : Bool := (s.keysOf p).prk.isSome
/-- Pool role of the partition. -/
def State.roleOf (s : State) (p : Nat) : PoolRole := (s.partImage p).part.role
/-- FOL_HEAT_CFG.OBJECT. -/
def State.objectMode (s : State) (p : Nat) : Bool := bit (s.reg .folHeatCfg p) 32
/-- Engines of a partition: both of each pair (R16). -/
def State.enginesOf (s : State) (p : Nat) : List Nat :=
  ((s.partImage p).part.pairs).flatMap fun k => [2 * k, 2 * k + 1]
/-- The partition that owns an engine. -/
def State.ownerOfEngine (s : State) (e : Nat) : Option Nat :=
  (List.range Config.partitions).find? fun p => (s.enginesOf p).contains e
/-- The partition that owns a NAND channel. -/
def State.ownerOfNand (s : State) (c : Nat) : Option Nat :=
  (List.range Config.partitions).find? fun p => (s.partImage p).part.nand.contains c

/-! ## Service queues (R209) -/

/-- First queue and count of the partition's range, from SHP_PART_CFG. -/
def State.qbase (s : State) (p : Nat) : Nat := bits (s.reg .shpPartCfg p) 50 39
def State.qcount (s : State) (p : Nat) : Nat := bits (s.reg .shpPartCfg p) 63 51
/-- Queue q lies in the partition's range. -/
def State.queueIn (s : State) (p q : Nat) : Bool := s.qbase p ≤ q && q < s.qbase p + s.qcount p
/-- The partition whose range holds queue q. -/
def State.ownerOfQueue (s : State) (q : Nat) : Option Nat :=
  (List.range Config.partitions).find? fun p => s.queueIn p q

/-! ## Handles (Table 2.1, R32) -/

def hPart (h : Nat) : Nat := h / 2 ^ 60 % 16
def hRsv (h : Nat) : Nat := h / 2 ^ 48 % 4096
def hGen (h : Nat) : Nat := h / 2 ^ 24 % 2 ^ 24
def hIndex (h : Nat) : Nat := h % 2 ^ 24
/-- The handle of a record. -/
def mkHandle (p gen d : Nat) : Nat := p * 2 ^ 60 + gen * 2 ^ 24 + d
/-- Record d lies in the partition's directory range. -/
def State.dirIn (s : State) (p d : Nat) : Bool :=
  let x := (s.partImage p).part
  x.dirBase ≤ d && d < x.dirBase + x.dirCount
/-- The checks of R32 that do not concern SEQ: the directory index of a good handle. -/
def State.openHandle (s : State) (p h : Nat) : Option Nat :=
  let d := hIndex h
  if hRsv h == 0 && hPart h == p && s.dirIn p d && (s.recOf d).inUse && hGen h == (s.recOf d).gen then some d else none
/-- The checks of R32, SEQ included for a sequence-scope verb: SEQ names a sequence that is neither CLOSED nor absent. -/
def State.checkHandle (s : State) (p h seq : Nat) (scope : Scope) : Option Nat :=
  match s.openHandle p h with
  | none => none
  | some d =>
    match scope with
    | .sequence => (match s.seq? d seq with | some q => if q.state == .closed then none else some d | none => none)
    | _ => some d

/-! ## Free lists (R34, chapter 2; chapter 3 for descriptors) -/

/-- The head of a free list and the list after it is taken. -/
def FreeList.take (f : FreeList) : Option (Nat × FreeList) :=
  if f.next < f.base + f.count then some (f.next, { f with next := f.next + 1 })
  else match f.freed with
    | [] => none
    | i :: r => some (i, { f with freed := r })

/-- A freed number joins the tail. -/
def FreeList.give (f : FreeList) (i : Nat) : FreeList := { f with freed := f.freed ++ [i] }

/-- A list of a fresh range, in ascending order. -/
def FreeList.fresh (base count : Nat) : FreeList := { base := base, count := count, next := base, freed := [] }

/-- How many free numbers a list holds. -/
def FreeList.left (f : FreeList) : Nat := (f.base + f.count - f.next) + f.freed.length

/-! ## Spine entries (R422) -/

/-- The free entry of the partition's run that has the lowest index. -/
def State.freeSpine (s : State) (p : Nat) : Option Nat :=
  let x := (s.partImage p).part
  ((List.range x.spineCount).map (fun i => x.spineFirst + i)).find? fun i => (tget s.dir.spine i).isNone

/-- How many entries of the partition's run are free. -/
def State.freeSpines (s : State) (p : Nat) : Nat :=
  let x := (s.partImage p).part
  countp (fun i => (tget s.dir.spine (x.spineFirst + i)).isNone) (List.range x.spineCount)

/-- Sequence n of session d takes Spine entry i. -/
def State.giveSpine (s : State) (d n i : Nat) : State :=
  let t := { s with dir := { s.dir with spine := tput s.dir.spine i (d, n) } }
  t.modSeq d n fun q => { q with spine := some i }

/-- Sequence n of session d releases its Spine entry. -/
def State.dropSpine (s : State) (d n : Nat) : State :=
  match s.seq? d n with
  | some q =>
    match q.spine with
    | some i =>
      let t := { s with dir := { s.dir with spine := tdel s.dir.spine i } }
      t.modSeq d n fun q => { q with spine := none }
    | none => s
  | none => s

/-! ## PF0's event causes (R408, Table 19.11) -/

def causeCorr : Nat := 0
def causeCont : Nat := 1
def causePart : Nat := 2
def causeLogHalf : Nat := 3
def causeBind : Nat := 4
def causePartState : Nat := 5
def causeSat : Nat := 6
def causeThermal : Nat := 7

/-- A cause bit is set; if it becomes 1 while unmasked, its MSI-X message is sent, but not from the safe state. -/
def State.cause (s : State) (n : Nat) : State :=
  let w := s.reg .hifEventCause
  let t := (s.setReg .hifEventCause 0 0 (setBit w n true)).stampSet (regAddr .hifEventCause 0 0) (2 ^ n)
  if !bit w n && !bit (s.reg .hifEventMask) n && !s.flt.safe && s.pwr.pwrok then
    { t with hif := { t.hif with pfMsix := t.hif.pfMsix ++ [n] } }.emit (.msix .pf n)
  else t

/-- SYS_BIND_STATUS.PHASE takes a value; a change sets the BIND cause. -/
def State.setPhase (s : State) (ph : BindPhase) : State :=
  if s.bind.phase == ph then s else { s with bind := { s.bind with phase := ph } }.cause causeBind

/-- The partition is fenced or being reset (R342). -/
def State.partFenced (s : State) (p : Nat) : Bool :=
  (s.recPart p).mode == .fenced || (s.recPart p).mode == .resetting

/-- SYS_PART_STATUS.STATE takes a value; a change sets the PART_STATE cause. -/
def State.setPartMode (s : State) (p : Nat) (m : PartMode) : State :=
  let r := s.recPart p
  if r.mode == m then s else (s.setRecPart p { r with mode := m }).cause causePartState

/-! ## SYS_ACCESS_ERR (R8, R11, R397) -/

/-- Number of a function among the banks: PF0 is 0, partition p's VF is p + 1. -/
def fnNum : Fn → Nat
  | .pf => 0
  | .vf p => p + 1

/-- Place of a function's SYS_ACCESS_ERR among the stamps. -/
def errStamp (fn : Fn) : Nat := 0x100000000 + fnNum fn

/-- A refused access is counted in the function's own SYS_ACCESS_ERR. -/
def State.accessErr (s : State) (fn : Fn) : State :=
  let k := fnNum fn
  let (c, sat) := tgetD s.hif.accessErr k (0, false)
  let hit := c + 1 ≥ satMax
  let t := ({ s with hif := { s.hif with accessErr := tput s.hif.accessErr k (min (c + 1) satMax, sat || hit) } } : State).stampAdd
    (errStamp fn) 1
  if hit && !sat then t.raise srcSat { raw := regAddr .sysAccessErr 0 0 } else t

/-! ## The audit log (R368 to R370, Table 17.8) -/

/-- Places of the audit area still free. -/
def State.auditFree (s : State) : Nat := Config.auditPlaces - s.sec.audit.length

/-- The free places have fallen to 1,024 (R370). -/
def State.auditFull (s : State) : Bool := s.auditFree ≤ 1024

/-- Ports of an audit record. -/
def auditMgmt : Nat := 0
def auditPf : Nat := 1
def auditDevice : Nat := 2

/-- The bytes of an audit record. -/
def auditBytes (seq time port kind result code value : Nat) (arg prev : Bytes) : Bytes :=
  let a := arg ++ zeros (48 - arg.length)
  let p := prev ++ zeros (48 - prev.length)
  natLe 8 seq ++ natLe 8 time ++ natLe 1 port ++ natLe 1 kind ++ natLe 2 result ++ natLe 4 code ++ natLe 8 value ++
    a ++ p

/-- One record is appended: it waits in HBM, and the head goes into the battery-backed file at once. -/
def State.audit (s : State) (port kind result code value : Nat) (arg : Bytes := []) : State :=
  let b := s.sec.battery
  let r := auditBytes (b.auditSeq + 1) s.now port kind result code value arg b.auditHash
  let b' := { b with auditSeq := b.auditSeq + 1, auditHash := sha384 r }
  { s with sec := { s.sec with audit := s.sec.audit ++ [r], auditWaiting := s.sec.auditWaiting + 1, battery := b' } }

/-! ## Completion records (R406) -/

/-- Records that wait for a CQ slot fill the record buffer (R406). -/
def State.bufferFull (s : State) (p : Nat) : Bool := (s.vf p).waiting.length ≥ Config.recordBuffer

/-- A record becomes ready. -/
def State.post (s : State) (p : Nat) (r : Rec) : State :=
  let v := s.vf p
  s.setVf p { v with waiting := v.waiting ++ [{ record := r }] }

/-- A notice becomes ready: handle, SEQ 0 and status; held in its directory record while the buffer is full. -/
def State.notice (s : State) (p d h : Nat) (st : Status) : State :=
  let v := s.vf p
  let w : Waiting := { record := { handle := h, status := st }, notice := some d, inDir := s.bufferFull p }
  s.setVf p { v with waiting := v.waiting ++ [w] }

/-- HEAD passes the slots at the front that may be released (R402). -/
def releaseFront : List (Nat × Bool) → Nat → Nat → Nat × List (Nat × Bool)
  | [], head, _ => (head, [])
  | (k, ok) :: r, head, size => if ok then releaseFront r ((k + 1) % size) size else (head, (k, ok) :: r)

/-- Number of slots of a ring whose SIZE field is `f` (6 to 16; other values act as the nearest). -/
def ringSlots (f : Nat) : Nat := 2 ^ (min 16 (max 6 f))

/-- A verb no longer needs its SQ slot (R402: admitted to its queue, or completed). -/
def State.releaseSlot (s : State) (p vid : Nat) : State :=
  match s.verb? p vid with
  | none => s
  | some v =>
    match v.slot with
    | none => s
    | some k =>
      let x := s.vf p
      let slots := lmod (fun e => e.1 == k) (fun e => (e.1, true)) x.sqSlots
      let (head, rest) := releaseFront slots x.sqHead (ringSlots x.sqSize)
      (s.setVf p { x with sqSlots := rest, sqHead := head }).modVerb p vid fun v => { v with slot := none }

/-- The record of a verb's completion. -/
def verbRec (v : Verb) (st : Status) (flags : Nat) (body : RecBody) (handle : Option Nat) : Rec :=
  { handle := handle.getD v.handle, tag := v.tag, seq := v.seq, opcode := v.opcode, status := st, flags := flags,
    body := body }

/-- The verb leaves the device without a record. -/
def State.dropVerb (s : State) (p vid : Nat) : State :=
  let t := s.releaseSlot p vid
  t.setVerbs p ((t.verbs p).filter fun v => v.id != vid)

/-- A verb completes: its record becomes ready and the verb leaves the device. -/
def State.complete (s : State) (p vid : Nat) (st : Status) (flags : Nat := 0) (body : RecBody := [])
    (handle : Option Nat := none) : State :=
  match s.verb? p vid with
  | none => s
  | some v => (s.dropVerb p vid).post p (verbRec v st flags body handle)

/-- Verbs complete with one status, in ring order. -/
def State.completeAll (s : State) (p : Nat) (vids : List Nat) (st : Status) : State :=
  vids.foldl (fun t vid => t.complete p vid st) s

/-- The verb with this number, if its turn has come (`begun`) and it is of the opcode asked. -/
def State.begun? (s : State) (p vid : Nat) (op : VerbOp) : Option Verb :=
  match s.verb? p vid with
  | some v => if v.op == op && v.phase == .begun && s.live then some v else none
  | none => none

/-- The verb with this number, if it runs and is of the opcode asked. -/
def State.running? (s : State) (p vid : Nat) (op : VerbOp) : Option Verb :=
  match s.verb? p vid with
  | some v => if v.op == op && v.phase == .running && s.live then some v else none
  | none => none

/-- A verb runs on. -/
def State.runVerb (s : State) (p vid : Nat) : State := s.modVerb p vid fun v => { v with phase := .running }

/-- The session record of a verb's handle. -/
def Verb.dir (v : Verb) : Nat := hIndex v.handle

end Machine
end Sys2Proof
end

