-- ==== Sys2Proof/Machine/Audit.lean ====
section
/-!
DEFINITION. Sys2Proof/Machine/Audit.lean: what a write of the operator physical function and a management command leave in
the audit log, and what the log's filling up does to them (R355, R368, R370).
-/
namespace Sys2Proof
namespace Machine

/-- The audit head is known: the file is not blank, or its head has been recovered (R371). DEDUCED, log entry 24. -/
def State.headKnown (s : State) : Bool := s.sec.battery.formatted || 5 ≤ s.pwr.stage

/-- A write from PF0 to a field that is not RO: recorded as it takes effect; ignored and counted while the log is full. -/
def State.pfWrite (s : State) (off : Nat) (v : W64) (eff : State → State) : State :=
  if s.auditFull || !s.headKnown then s.accessErr .pf else eff (s.audit auditPf 0 0 off v.toNat)

/-- Management commands whose places in the log are kept (R370). DEDUCED, log entry 24. -/
def keptCommand (opcode : Nat) : Bool := opcode == 0x11 || opcode == 0x08 || opcode == 0x09

/-- The firmware runs (STAGE 2 on); a start that has failed answers SPDM and audit readout only (R382). -/
def State.firmwareUp (s : State) : Bool := s.pwr.pwrok && 2 ≤ s.pwr.stage

/-- The firmware answers management commands and key messages: the start has not failed, and the audit head is known (R371): a
blank file's head is recovered at stage 4. DEDUCED, log entry 24. -/
def State.mgmtUp (s : State) : Bool :=
  s.firmwareUp && s.pwr.stage != 15 && s.headKnown

/-- An audited management command (Table 17.2): `eff` answers and acts. In the safe state only SAFE_RESTART and device reset
of these are served (R346). -/
def State.mgmtCommand (s : State) (opcode value : Nat) (arg : Bytes) (eff : State → MgmtCode × State) : State :=
  if !s.mgmtUp then s
  else if s.auditFull && !keptCommand opcode then s.emit (.mgmt .auditFull)
  else
    let (r, t) := if s.flt.safe && opcode != 0x08 && opcode != 0x09 then (MgmtCode.denied, s) else eff s
    (t.audit auditMgmt 1 (mgmtCode r) opcode value arg).emit (.mgmt r)

end Machine
end Sys2Proof
end

