-- ==== Sys2Proof/Machine/Float.lean ====
section
/-!
DEFINITION. Sys2Proof/Machine/Float.lean: the arithmetic of chapter 5: the formats of Table 5.2, rounding (R113),
conversions (R114, Table 5.3), MX quantization (R115, R116), the functions of R121 correctly rounded, the reductions of
R122, the generator of R125 and the rotation of R135. An FP32 value is the number of its 32-bit encoding.
-/
namespace Sys2Proof
namespace Machine

/-- An exact value: NaN, an infinity, or (−1)^neg × m × 2^e. -/
inductive Fv where
  | nan
  | inf (neg : Bool)
  | fin (neg : Bool) (m : Nat) (e : Int)
  deriving DecidableEq, Repr, Inhabited

/-- The canonical NaN and other constants. -/
def f32NaN : Nat := 0x7FC00000
def f32Inf : Nat := 0x7F800000
def f32NegInf : Nat := 0xFF800000
def f32NegZero : Nat := 0x80000000
def f32One : Nat := 0x3F800000
def log2E : Nat := 0x3FB8AA3B

/-- Shift left by an integer amount (right, truncating, where it is negative). -/
def shiftZ (m : Nat) (k : Int) : Nat := if k ≥ 0 then m * 2 ^ k.toNat else m / 2 ^ (-k).toNat

/-! ## Decoding (R112) -/

/-- The fields of a binary format with infinity and NaN: exponent bits, mantissa bits. -/
def decodeIeee (eb mb w : Nat) : Fv :=
  let neg := w.testBit (eb + mb)
  let ex := w / 2 ^ mb % 2 ^ eb
  let mn := w % 2 ^ mb
  let bias : Int := 2 ^ (eb - 1) - 1
  if ex = 2 ^ eb - 1 then (if mn = 0 then .inf neg else .nan)
  else if ex = 0 then .fin neg mn (1 - bias - mb)
  else .fin neg (2 ^ mb + mn) ((ex : Int) - bias - mb)

def dec32 (w : Nat) : Fv := decodeIeee 8 23 w

/-- A small two's-complement integer of n bits. -/
def signed (n w : Nat) : Int := if w < 2 ^ (n - 1) then w else (w : Int) - 2 ^ n
def finInt (i : Int) (e : Int) : Fv := .fin (decide (i < 0)) i.natAbs e

/-- A minifloat without infinity: exponent bits, mantissa bits, bias. -/
def decodeMini (eb mb : Nat) (bias : Int) (w : Nat) : Fv :=
  let neg := w.testBit (eb + mb)
  let ex := w / 2 ^ mb % 2 ^ eb
  let mn := w % 2 ^ mb
  if ex = 0 then .fin neg mn (1 - bias - mb) else .fin neg (2 ^ mb + mn) ((ex : Int) - bias - mb)

/-- Element w of a format code of Table 5.2. -/
def decodeFmt (fmt w : Nat) : Fv :=
  match fmt with
  | 0 => dec32 w
  | 1 => decodeIeee 8 7 w
  | 2 => if w % 128 = 127 then .nan else decodeMini 4 3 7 w
  | 3 => decodeIeee 5 2 w
  | 4 => finInt (signed 8 w) 0
  | 5 => decodeMini 2 1 1 w
  | 6 => decodeMini 2 3 1 w
  | _ => finInt (signed 4 w) (-2)

/-- Bits of an element of a format code; codes 5 to 7 are MX elements. -/
def fmtBits : Nat → Nat
  | 0 => 32
  | 1 => 16
  | 2 => 8
  | 3 => 8
  | 4 => 8
  | 5 => 4
  | 6 => 6
  | _ => 4
def isMx (fmt : Nat) : Bool := fmt == 5 || fmt == 6 || fmt == 7
/-- Bytes of an MX block: packed elements, then the scale. -/
def mxBytes (fmt : Nat) : Nat := if fmt = 6 then 25 else 17
/-- Bytes of n elements in a format (MX: whole blocks of 32). -/
def fmtBytes (fmt n : Nat) : Nat := if isMx fmt then (n + 31) / 32 * mxBytes fmt else n * (fmtBits fmt / 8)

/-- Element i of an MX block with its scale's exponent; scale 0xFF is NaN (R116). -/
def mxElement (fmt : Nat) (blk : Bytes) (i : Nat) : Fv :=
  let w := leNat (blk.take (mxBytes fmt - 1)) / 2 ^ (i * fmtBits fmt) % 2 ^ fmtBits fmt
  let sc := fld blk (mxBytes fmt - 1) 1
  if sc = 255 then .nan
  else
    match decodeFmt fmt w with
    | .fin n m e => .fin n m (e + sc - 127)
    | v => v

/-! ## Rounding (R113) -/

/-- The nearest multiple of 2^q to (m + sticky) × 2^e, ties to even: how many units. `sticky`: a nonzero rest below m. -/
def roundUnits (m : Nat) (e q : Int) (sticky : Bool) : Nat :=
  let s := q - e
  if s ≤ 0 then m * 2 ^ (-s).toNat
  else
    let k := s.toNat
    let hi := m / 2 ^ k
    let rest := m % 2 ^ k
    let half := 2 ^ (k - 1)
    if rest > half || (rest == half && (sticky || hi % 2 == 1)) then hi + 1 else hi

/-- The FP32 encoding of (−1)^neg × (m + sticky) × 2^e. -/
def enc32 (neg : Bool) (m : Nat) (e : Int) (sticky : Bool := false) : Nat :=
  let sg := if neg then 0x80000000 else 0
  if m = 0 then sg
  else
    let q := max (e + m.log2 - 23) (-149)
    let u := roundUnits m e q sticky
    let (u, q) := if u ≥ 2 ^ 24 then (u / 2, q + 1) else (u, q)
    if u < 2 ^ 23 then sg + u
    else if q + 150 ≥ 255 then sg + f32Inf
    else sg + (q + 150).toNat * 2 ^ 23 + (u - 2 ^ 23)

/-- Encoding of an exact value. -/
def encFv : Fv → Nat
  | .nan => f32NaN
  | .inf n => if n then f32NegInf else f32Inf
  | .fin n m e => enc32 n m e

def isNaN32 (w : Nat) : Bool := w % 0x80000000 > f32Inf
def isInf32 (w : Nat) : Bool := w % 0x80000000 == f32Inf
def neg32 (w : Nat) : Nat := if w ≥ 0x80000000 then w - 0x80000000 else w + 0x80000000

/-! ## Exact sums and products -/

/-- Sum of two exact values; an exact zero sum is +0 unless both are −0. -/
def addFv : Fv → Fv → Fv
  | .nan, _ => .nan
  | _, .nan => .nan
  | .inf a, .inf b => if a = b then .inf a else .nan
  | .inf a, _ => .inf a
  | _, .inf b => .inf b
  | .fin a m e, .fin b n f =>
    let q := min e f
    let x : Int := (if a then -1 else 1) * (m * 2 ^ (e - q).toNat : Nat)
    let y : Int := (if b then -1 else 1) * (n * 2 ^ (f - q).toNat : Nat)
    let z := x + y
    if z = 0 then .fin (a && b) 0 0 else .fin (decide (z < 0)) z.natAbs q

def mulFv : Fv → Fv → Fv
  | .nan, _ => .nan
  | _, .nan => .nan
  | .inf a, .inf b => .inf (a != b)
  | .inf a, .fin b n _ => if n = 0 then .nan else .inf (a != b)
  | .fin a m _, .inf b => if m = 0 then .nan else .inf (a != b)
  | .fin a m e, .fin b n f => .fin (a != b) (m * n) (e + f)

def f32add (a b : Nat) : Nat := encFv (addFv (dec32 a) (dec32 b))
def f32sub (a b : Nat) : Nat := f32add a (neg32 b)
def f32mul (a b : Nat) : Nat := encFv (mulFv (dec32 a) (dec32 b))
def f32fma (a b c : Nat) : Nat := encFv (addFv (mulFv (dec32 a) (dec32 b)) (dec32 c))

/-- Quotient, correctly rounded. -/
def f32div (a b : Nat) : Nat :=
  match dec32 a, dec32 b with
  | .nan, _ => f32NaN
  | _, .nan => f32NaN
  | .inf _, .inf _ => f32NaN
  | .inf x, .fin y _ _ => encFv (.inf (x != y))
  | .fin x _ _, .inf y => encFv (.fin (x != y) 0 0)
  | .fin x m e, .fin y n f =>
    if n = 0 then (if m = 0 then f32NaN else encFv (.inf (x != y)))
    else
      let num := m * 2 ^ 64
      enc32 (x != y) (num / n) (e - f - 64) (num % n != 0)

/-- An even exponent for a square root: m × 2^e with e even. -/
def evenExp (m : Nat) (e : Int) : Nat × Int := if e % 2 = 0 then (m, e) else (m * 2, e - 1)

def f32sqrt (a : Nat) : Nat :=
  match dec32 a with
  | .nan => f32NaN
  | .inf n => if n then f32NaN else f32Inf
  | .fin n m e =>
    if m = 0 then a
    else if n then f32NaN
    else
      let (m, e) := evenExp m e
      let x := m * 2 ^ 64
      let r := x.sqrt
      enc32 false r (e / 2 - 32) (r * r != x)

/-- Reciprocal square root; of ±0 an infinity of the same sign. -/
def f32rsqrt (a : Nat) : Nat :=
  match dec32 a with
  | .nan => f32NaN
  | .inf n => if n then f32NaN else 0
  | .fin n m e =>
    if m = 0 then encFv (.inf n)
    else if n then f32NaN
    else
      let (m, e) := evenExp m e
      let x := 2 ^ 128
      let r := (x / m).sqrt
      enc32 false r (-(e / 2) - 64) (r * r * m != x)

def f32recip (a : Nat) : Nat := f32div f32One a

/-! ## exp2 and log2, correctly rounded (R121): fixed point of 192 fraction bits, enough for every FP32 operand -/

/-- Fraction bits of the fixed-point steps. -/
def fxBits : Nat := 192
/-- ln 2 with 192 fraction bits. -/
def fxLn2 : Nat := 0xb17217f7d1cf79abc9e3b39803f2f6af40f343267298b62d8a0d175b8baafa2b / 2 ^ 64

/-- Σ y^k / k! with `p` fraction bits, from term k on. -/
def expSeries (p y : Nat) : Nat → Nat → Nat → Nat → Nat
  | 0, _, _, acc => acc
  | fuel + 1, k, term, acc => expSeries p y fuel (k + 1) (term * y / 2 ^ p / (k + 1)) (acc + term)

/-- 2^f for a fraction f of 192 bits, with 192 fraction bits. -/
def fxExp2 (f : Nat) : Nat := expSeries fxBits (f * fxLn2 / 2 ^ fxBits) 64 0 (2 ^ fxBits) 0

def f32exp2 (a : Nat) : Nat :=
  match dec32 a with
  | .nan => f32NaN
  | .inf n => if n then 0 else f32Inf
  | .fin n m e =>
    if m = 0 then f32One
    else if e + m.log2 ≥ 9 then (if n then 0 else f32Inf)
    else
      let fx : Int := (if n then -1 else 1) * (shiftZ m (e + fxBits) : Nat)
      let i := fx / 2 ^ fxBits
      let f := (fx % 2 ^ fxBits).toNat
      if f = 0 then enc32 false 1 i else enc32 false (fxExp2 f) (i - fxBits) true

/-- 2 × atanh t with `p` fraction bits: Σ 2 t^(2k+1) / (2k+1). -/
def atanhSeries (p t2 : Nat) : Nat → Nat → Nat → Nat → Nat
  | 0, _, _, acc => acc
  | fuel + 1, k, term, acc => atanhSeries p t2 fuel (k + 2) (term * t2 / 2 ^ p) (acc + term / k)

/-- log2 of m / 2^k in [1, 2), with 192 fraction bits. -/
def fxLog2 (m k : Nat) : Nat :=
  let t := (m - 2 ^ k) * 2 ^ (2 * fxBits) / (m + 2 ^ k)
  let p := 2 * fxBits
  let ln := atanhSeries p (t * t / 2 ^ p) 130 1 (2 * t) 0
  ln / fxLn2

def f32log2 (a : Nat) : Nat :=
  match dec32 a with
  | .nan => f32NaN
  | .inf n => if n then f32NaN else f32Inf
  | .fin n m e =>
    if m = 0 then f32NegInf
    else if n then f32NaN
    else
      let k := m.log2
      let i : Int := e + k
      if m = 2 ^ k then encFv (finInt i 0)
      else
        let v : Int := i * 2 ^ fxBits + (fxLog2 m k : Nat)
        if v < 0 then enc32 true (v.natAbs - 1) (-(fxBits : Int)) true else enc32 false v.natAbs (-(fxBits : Int)) true

/-! ## cos and sin of an exact product (R135): fixed point of 640 fraction bits -/

/-- π with 640 fraction bits. -/
def piFx : Nat :=
  0x3243f6a8885a308d313198a2e03707344a4093822299f31d0082efa98ec4e6c89452821e638d01377be5466cf34e90c6cc0ac29b7c97c50dd3f84d5b5b54709179216d5d98979fb1bd1310ba698dfb5ac
def trigBits : Nat := 512

/-- Σ ± y^k / k! for every second k: the sine (from k = 1) and cosine (from k = 0) series; y2 is y². -/
def trigSeries (p y2 : Nat) : Nat → Nat → Int → Int → Int
  | 0, _, _, acc => acc
  | fuel + 1, k, term, acc =>
    trigSeries p y2 fuel (k + 2) (-(Int.tdiv (term * y2) (2 ^ p * ((k + 1) * (k + 2) : Nat)))) (acc + term)

/-- θ = ± m × 2^e reduced: quadrant and the rest in [0, π/2), with 512 fraction bits. π has 640, so θ below 2^127 keeps
512 right bits; a larger θ uses more (the spec's INV_FREQ are finite and positions below 2^32). -/
def reduceAngle (m : Nat) (e : Int) : Nat × Nat :=
  let x := shiftZ m (e + 640)
  let half := piFx / 2
  let k := x / half
  (k % 4, (x - k * half) / 2 ^ 128)

/-- A signed fixed-point result, correctly rounded; it is never exact. -/
def encTrig (v : Int) : Nat :=
  if v < 0 then enc32 true v.natAbs (-(trigBits : Int)) true else enc32 false v.natAbs (-(trigBits : Int)) true

/-- cos and sin of an angle θ = p × f, where p is a position and f an FP32. -/
def cosSin (p f : Nat) : Nat × Nat :=
  match dec32 f with
  | .fin n m e =>
    if p * m = 0 then (f32One, if n then f32NegZero else 0)
    else
      let (k, y) := reduceAngle (p * m) e
      let y2 := y * y / 2 ^ trigBits
      let sn := trigSeries trigBits y2 100 1 y 0
      let cs := trigSeries trigBits y2 100 0 (2 ^ trigBits : Nat) 0
      let (c, s) := match k with
        | 0 => (cs, sn)
        | 1 => (-sn, cs)
        | 2 => (-cs, -sn)
        | _ => (sn, -cs)
      (encTrig c, encTrig (if n then -s else s))
  | _ => (f32NaN, f32NaN)

/-- R135: a pair rotated. -/
def rotatePair (p f a b : Nat) : Nat × Nat :=
  let (c, s) := cosSin p f
  (f32sub (f32mul a c) (f32mul b s), f32add (f32mul a s) (f32mul b c))

/-! ## Order (R121) -/

/-- A key whose order is that of the values, −0 below +0 (no NaN). -/
def ordKey (w : Nat) : Int := if w ≥ 0x80000000 then -((w - 0x80000000 : Nat) : Int) - 1 else (w : Int)
def f32lt (a b : Nat) : Bool := !isNaN32 a && !isNaN32 b && decide (ordKey a < ordKey b)
def f32le (a b : Nat) : Bool := !isNaN32 a && !isNaN32 b && decide (ordKey a ≤ ordKey b)
def f32eq (a b : Nat) : Bool := !isNaN32 a && !isNaN32 b && decide (ordKey a = ordKey b)
/-- A NaN's payload is not kept (R114). -/
def quiet (w : Nat) : Nat := if isNaN32 w then f32NaN else w
/-- Minimum and maximum: the other operand where one is NaN. -/
def f32max (a b : Nat) : Nat := if isNaN32 a then quiet b else if isNaN32 b then a else if f32lt a b then b else a
def f32min (a b : Nat) : Nat := if isNaN32 a then quiet b else if isNaN32 b then a else if f32lt b a then b else a

/-! ## Reductions (R122) -/

/-- One level of a pairwise tree. -/
def treeLevel {α : Type} (op : α → α → α) : List α → List α
  | a :: b :: r => op a b :: treeLevel op r
  | l => l

def treeLevels {α : Type} (op : α → α → α) : Nat → List α → List α
  | 0, l => l
  | n + 1, l => treeLevels op n (treeLevel op l)

/-- A chunk of at most 512 values, filled with the identity, over 9 levels. -/
def treeChunk {α : Type} (op : α → α → α) (unit : α) (l : List α) : α :=
  (treeLevels op 9 (l ++ List.replicate (512 - l.length) unit)).headD unit

/-- A list cut into runs of n; `fuel` runs at most. -/
def runsOf {α : Type} (n : Nat) : Nat → List α → List (List α)
  | 0, _ => []
  | fuel + 1, l => if l.isEmpty then [] else l.take n :: runsOf n fuel (l.drop n)
def chunks {α : Type} (n : Nat) (l : List α) : List (List α) := runsOf n (l.length / max 1 n + 1) l

/-- Reduction: chunks of 512, then the chunk results in ascending order, one operation each. -/
def reduceBy {α : Type} (op : α → α → α) (unit : α) (l : List α) : α :=
  match (chunks 512 l).map (treeChunk op unit) with
  | [] => unit
  | x :: r => r.foldl op x
def sumTree (l : List Nat) : Nat := reduceBy f32add f32NegZero l
/-- Some addition of the sum makes a NaN of operands none of which is NaN (R126). -/
def sumMakesNaN (l : List Nat) : Bool :=
  (reduceBy (fun x y => let w := f32add x.1 y.1; (w, x.2 || y.2 || (isNaN32 w && !isNaN32 x.1 && !isNaN32 y.1))) (f32NegZero, false)
    (l.map fun w => (w, false))).2
def maxTree (l : List Nat) : Nat := reduceBy f32max f32NegInf l
def minTree (l : List Nat) : Nat := reduceBy f32min f32Inf l
/-- A dot product of d elements, products rounded once, log₂ d levels (R140). -/
def dotTree (a b : List Nat) : Nat :=
  let p := (a.zip b).map fun e => f32mul e.1 e.2
  (treeLevels f32add p.length.log2 p).headD 0

/-! ## Conversions (R114, R115, Table 5.3) -/

/-- A conversion's result: the element, and whether it saturated. -/
abbrev Conv := Nat × Bool

/-- Rounding to a minifloat of `eb` exponent and `mb` mantissa bits with a bias: magnitude code, before overflow. -/
def roundMini (mb : Nat) (bias : Int) (m : Nat) (e : Int) (sticky : Bool := false) : Nat :=
  if m = 0 then 0
  else
    let q := max (e + m.log2 - mb) (1 - bias - mb)
    let u := roundUnits m e q sticky
    let (u, q) := if u ≥ 2 ^ (mb + 1) then (u / 2, q + 1) else (u, q)
    if u < 2 ^ mb then u else (q + mb + bias).toNat * 2 ^ mb + (u - 2 ^ mb)

/-- An integer nearest to ± m × 2^e, ties to even. -/
def roundInt (neg : Bool) (m : Nat) (e : Int) : Int :=
  let u := roundUnits m e 0 false
  if neg then -(u : Int) else u

/-- Two's complement of n bits, clamped. -/
def clampInt (n : Nat) (v : Int) : Conv :=
  let hi : Int := 2 ^ (n - 1) - 1
  let lo : Int := -(2 ^ (n - 1) : Int)
  if v > hi then (hi.toNat, true) else if v < lo then ((lo + 2 ^ n).toNat, true)
  else ((v % 2 ^ n).toNat, false)

/-- FP32 to a format code that is not MX. -/
def convert (fmt w : Nat) : Conv :=
  match fmt, dec32 w with
  | 0, .nan => (f32NaN, false)
  | 0, _ => (w, false)
  | 1, .nan => (0x7FC0, false)
  | 1, .inf n => (if n then 0xFF80 else 0x7F80, false)
  | 1, .fin n m e =>
    let c := roundMini 7 127 m e
    ((if n then 0x8000 else 0) + min c 0x7F80, false)
  | 2, .nan => (0x7F, false)
  | 2, .inf n => (if n then 0xFE else 0x7E, true)
  | 2, .fin n m e =>
    let c := roundMini 3 7 m e
    ((if n then 0x80 else 0) + min c 0x7E, decide (c > 0x7E))
  | 3, .nan => (0x7F, false)
  | 3, .inf n => (if n then 0xFC else 0x7C, false)
  | 3, .fin n m e =>
    let c := roundMini 2 15 m e
    ((if n then 0x80 else 0) + min c 0x7B, decide (c > 0x7B))
  | _, .nan => (0, false)
  | _, .inf n => (if n then 0x80 else 0x7F, true)
  | _, .fin n m e => clampInt 8 (roundInt n m e)

/-- emax of R115. -/
def mxEmax (fmt : Nat) : Int := if fmt = 7 then 0 else 2

/-- One element of an MX block: x / 2^e, rounded and clamped to the element's range. -/
def mxConvert (fmt : Nat) (sc : Int) (w : Nat) : Conv :=
  match dec32 w with
  | .fin n m e =>
    if fmt = 7 then clampInt 4 (roundInt n m (e - sc + 2))
    else
      let mb := if fmt = 5 then 1 else 3
      let c := roundMini mb 1 m (e - sc)
      let top := 2 ^ (mb + 2) - 1
      ((if n then 2 ^ (mb + 2) else 0) + min c top, decide (c > top))
  | _ => (0, false)

/-- A block of 32 FP32 values quantized (R115): its bytes, whether an element saturated, whether it is NaN. -/
def mxBlock (fmt : Nat) (l : List Nat) : Bytes × Bool × Bool :=
  let w := fmtBits fmt
  let n := mxBytes fmt - 1
  let pack := fun (xs : List Nat) (sc : Nat) =>
    natLe n ((enum xs).foldl (fun a e => a + e.2 * 2 ^ (e.1 * w)) 0) ++ natLe 1 sc
  if l.any (fun x => isNaN32 x || isInf32 x) then (pack [] 255, false, true)
  else
    let amax := l.foldl (fun a x => max a (x % 0x80000000)) 0
    match dec32 amax with
    | .fin _ m e =>
      if m = 0 then (pack [] 0, false, false)
      else
        let sc := max (-127) (min 127 (e + m.log2 - mxEmax fmt))
        let cs := l.map (mxConvert fmt sc)
        (pack (cs.map (·.1)) (sc + 127).toNat, cs.any (·.2), false)
    | _ => (pack [] 255, false, true)

/-- A row of FP32 values in an output format: bytes, saturated, NaN block. -/
def encodeRow (fmt : Nat) (l : List Nat) : Bytes × Bool × Bool :=
  if isMx fmt then
    (chunks 32 l).foldl (fun a b =>
      let r := mxBlock fmt (b ++ List.replicate (32 - b.length) 0)
      (a.1 ++ r.1, a.2.1 || r.2.1, a.2.2 || r.2.2)) ([], false, false)
  else
    l.foldl (fun a x =>
      let r := convert fmt x
      (a.1 ++ natLe (fmtBits fmt / 8) r.1, a.2.1 || r.2, a.2.2)) ([], false, false)

/-- Element i of a row of bytes in a format. -/
def elementAt (fmt : Nat) (b : Bytes) (i : Nat) : Fv :=
  if isMx fmt then mxElement fmt (sub b (i / 32 * mxBytes fmt) (mxBytes fmt)) (i % 32)
  else decodeFmt fmt (fld b (i * (fmtBits fmt / 8)) (fmtBits fmt / 8))

/-! ## Products (R117, R118, Table 5.4) -/

/-- How a block's sum is made, with K_t, the block and the waves of a row. -/
structure PairRule where
  kt : Nat
  block : Nat
  rowWaves : Nat
  tree : Bool := false
  /-- Both operands are two's complement integers: an exact zero sum has no sign. -/
  int : Bool := false
  deriving DecidableEq, Repr, Inhabited

def isFp8 (f : Nat) : Bool := f == 2 || f == 3

/-- Table 5.4, either operand in either role; none: the array does not take the pair. -/
def pairRule (a b : Nat) : Option PairRule :=
  let has := fun (x y : Nat → Bool) => (x a && y b) || (x b && y a)
  if isFp8 a && isFp8 b then some { kt := 128, block := 128, rowWaves := 1 }
  else if a = 4 ∧ b = 4 then some { kt := 128, block := 128, rowWaves := 1, int := true }
  else if has (· == 4) (· == 7) then some { kt := 128, block := 32, rowWaves := 1, int := true }
  else if has (fun x => isFp8 x || x == 6) (fun y => y == 6 || y == 5) then some { kt := 128, block := 32, rowWaves := 1 }
  else if a = 5 ∧ b = 5 then some { kt := 256, block := 32, rowWaves := 1 }
  else if a = 7 ∧ b = 7 then some { kt := 256, block := 32, rowWaves := 1, int := true }
  else if a = 1 ∧ b = 1 then some { kt := 128, block := 128, rowWaves := 2, tree := true }
  else none

/-- One block's sum: exact with one rounding, or the FP32 tree, whose missing lanes are the identity of addition. -/
def blockSum (r : PairRule) (a b : List Fv) : Nat :=
  if r.tree then
    let p := (a.zip b).map fun e => encFv (mulFv e.1 e.2)
    (treeLevels f32add 7 (p ++ List.replicate (r.block - p.length) f32NegZero)).headD 0
  else
    match (a.zip b).map (fun e => mulFv e.1 e.2) with
    | [] => 0
    | x :: l =>
      match l.foldl addFv x with
      | .fin n m e => if m = 0 && r.int then 0 else enc32 n m e
      | y => encFv y

/-- One column for one row: the blocks in ascending K onto the accumulator. -/
def columnAcc (r : PairRule) (acc : Nat) (a b : List Fv) : Nat :=
  ((chunks r.block a).zip (chunks r.block b)).foldl (fun s e => f32add s (blockSum r e.1 e.2)) acc

/-! ## The generator (R125) -/

/-- One round of Philox-4×32. -/
def philoxRound (k0 k1 : Nat) (c : Nat × Nat × Nat × Nat) : Nat × Nat × Nat × Nat :=
  let (c0, c1, c2, c3) := c
  let p0 := 0xD2511F53 * c0
  let p1 := 0xCD9E8D57 * c2
  ((p1 / 2 ^ 32) ^^^ (c1 ^^^ k0), p1 % 2 ^ 32, (p0 / 2 ^ 32) ^^^ (c3 ^^^ k1), p0 % 2 ^ 32)

def philoxRounds : Nat → Nat → Nat → Nat × Nat × Nat × Nat → Nat × Nat × Nat × Nat
  | 0, _, _, c => c
  | n + 1, k0, k1, c =>
    philoxRounds n ((k0 + 0x9E3779B9) % 2 ^ 32) ((k1 + 0xBB67AE85) % 2 ^ 32) (philoxRound k0 k1 c)

/-- Output word 0 for a seed, a step counter and a sequence number. -/
def philox (seed counter seq : Nat) : Nat :=
  (philoxRounds 10 (seed % 2 ^ 32) (seed / 2 ^ 32 % 2 ^ 32) (0, counter % 2 ^ 32, counter / 2 ^ 32 % 2 ^ 32, seq)).1

/-! ## The sampling pass (R123, R124) -/

/-- The arguments of a STEP that R123 accepts. -/
def samplingOk (invTemp topK topP : Nat) : Bool :=
  !isNaN32 invTemp && !isInf32 invTemp && (invTemp < 0x80000000 || invTemp == f32NegZero) && topK ≤ 4096 &&
  0 < topP && topP ≤ f32One

/-- Insertion into a list by rising key: larger value first, ties to the lower identifier. -/
def rankInsert (v : Nat × Nat) : List (Nat × Nat) → List (Nat × Nat)
  | [] => [v]
  | x :: r => if f32lt x.2 v.2 || (f32eq x.2 v.2 && v.1 < x.1) then v :: x :: r else x :: rankInsert v r
/-- Identifiers with values, ranked descending. -/
def ranked (l : List (Nat × Nat)) : List (Nat × Nat) := l.foldl (fun a v => rankInsert v a) []

/-- Zeros rank alike: −0 as +0, where the order is that of values. -/
def zeroUp (w : Nat) : Nat := if w = f32NegZero then 0 else w

/-- The nucleus: exponentials added from the highest until the limit is reached. -/
def nucleus (limit : Nat) : List (Nat × Nat) → Nat → List Nat
  | [], _ => []
  | (i, e) :: r, c =>
    let c' := f32add c e
    if f32le limit c' then [i] else i :: nucleus limit r c'

/-- Lanes of one chunk: the token at which the sum passes the target, or the sum. -/
def walkLanes (target : Nat) : List (Nat × Nat) → Nat → Option Nat × Nat
  | [], c => (none, c)
  | (i, e) :: r, c =>
    let c' := f32add c e
    if f32lt target c' then (some i, c') else walkLanes target r c'

/-- The walk over chunks. -/
def walkChunks (target : Nat) : List (List (Nat × Nat)) → Nat → Option Nat
  | [], _ => none
  | ch :: r, c =>
    let s := sumTree (ch.map (·.2))
    if f32lt target (f32add c s) then
      match walkLanes target ch c with
      | (some i, _) => some i
      | (none, c') => walkChunks target r c'
    else walkChunks target r (f32add c s)

/-- R124: the token, and whether the position is degenerate. `ids` are the admitted identifiers, ascending. -/
def sample (z : Nat → Nat) (ids : List Nat) (invTemp topK topP seed seq counter : Nat) : Nat × Bool :=
  let v := ids.map fun i => (i, if isNaN32 (z i) then f32NegInf else z i)
  if v.all (fun e => e.2 == f32NegInf) then (ids.headD 0, true)
  else
    match v.find? (fun e => e.2 == f32Inf) with
    | some e => (e.1, false)
    | none =>
      if zeroUp invTemp = 0 then (((ranked (v.map fun e => (e.1, zeroUp e.2))).headD (0, 0)).1, false)
      else
        let u := v.map fun e => (e.1, f32mul e.2 invTemp)
        let rank := ranked (u.map fun e => (e.1, zeroUp e.2))
        let keep := if topK = 0 then rank else rank.take topK
        let m := (rank.headD (0, 0)).2
        let e := keep.map fun x => (x.1, f32exp2 (f32mul (f32sub x.2 m) log2E))
        let asc := fun (l : List (Nat × Nat)) => ids.filterMap fun i => l.find? fun x => x.1 == i
        let e' := if f32lt topP f32One then
            let limit := f32mul topP (sumTree ((asc e).map (·.2)))
            let k := nucleus limit ((ranked e).take 4096) 0
            e.filter fun x => k.contains x.1
          else e
        let kept := asc e'
        let total := sumTree (kept.map (·.2))
        let x0 := philox seed counter seq
        let target := f32mul (enc32 false (x0 / 256) (-24)) total
        match walkChunks target (chunks 512 kept) 0 with
        | some i => (i, false)
        | none => ((kept.getLastD (0, 0)).1, false)

end Machine
end Sys2Proof
end

