-- ==== Sys2Proof/Machine/Cipher.lean ====
section
/-!
DEFINITION. Sys2Proof/Machine/Cipher.lean: AES-256 and the modes that the spec names: GCM (R256, R274, R299, R315), XTS
(R71, R298) and the key wrap of RFC 3394 (R46, R274). The spec names these by their standards; their rounds and tables are
PRESUMED (FIPS 197, SP 800-38D, IEEE 1619), log entry 39. Octets are natural numbers below 256.
-/
namespace Sys2Proof
namespace Machine

/-! ## The block cipher -/

/-- Twice an octet in the field of AES. -/
def octDouble (a : Nat) : Nat := if a < 128 then 2 * a else (2 * a) ^^^ 0x11B

/-- Product over the low n bits of b. -/
def octMulN : Nat → Nat → Nat → Nat
  | 0, _, _ => 0
  | n + 1, a, b => (if b % 2 = 1 then a else 0) ^^^ octMulN n (octDouble a) (b / 2)

def octMul (a b : Nat) : Nat := octMulN 8 a b

/-- The product of a^2, a^4, … for n factors: with n = 7 the inverse, and 0 for 0. -/
def octInvN : Nat → Nat → Nat
  | 0, _ => 1
  | n + 1, a => octMul (octMul a a) (octInvN n (octMul a a))

/-- An octet turned left by n bits. -/
def octTurn (a n : Nat) : Nat := (a * 2 ^ n + a / 2 ^ (8 - n)) % 256

/-- The substitution of an octet: its inverse, then the affine map. -/
def octSub (a : Nat) : Nat :=
  let b := octInvN 7 a
  [1, 2, 3, 4].foldl (fun acc n => acc ^^^ octTurn b n) (b ^^^ 0x63)

/-- Two lists of octets, added place by place. -/
def octAdd (a b : List Nat) : List Nat := a.zipWith (· ^^^ ·) b

/-- The sixty words of the key schedule, from those made so far: word i follows from word i − 1 and word i − 8. -/
def keyWords : Nat → List (List Nat) → List (List Nat)
  | 0, l => l
  | n + 1, l =>
    let i := l.length
    let w := l.getD (i - 1) []
    let w := if i % 8 = 0 then octAdd ((w.drop 1 ++ w.take 1).map octSub) [2 ^ (i / 8 - 1), 0, 0, 0]
      else if i % 8 = 4 then w.map octSub else w
    keyWords n (l ++ [octAdd w (l.getD (i - 8) [])])

/-- The fifteen round keys of a 32-byte key. -/
def roundKeys (key : Bytes) : List (List Nat) :=
  let k := (fit 32 key).map (·.toNat)
  let w := keyWords 52 ((List.range 8).map fun i => (k.drop (4 * i)).take 4)
  (List.range 15).map fun r => ((w.drop (4 * r)).take 4).flatten

/-- The columns of a block after each row has been turned by its number. -/
def turnRows (x : List Nat) : List Nat := (List.range 16).map fun i => x.getD (5 * i % 16) 0

/-- Every column multiplied by the matrix of AES. -/
def mixColumns (x : List Nat) : List Nat :=
  (List.range 16).map fun i =>
    let at_ := fun (k : Nat) => x.getD (i / 4 * 4 + (i + k) % 4) 0
    octDouble (at_ 0) ^^^ octDouble (at_ 1) ^^^ at_ 1 ^^^ at_ 2 ^^^ at_ 3

/-- One block under a key schedule. -/
def aesRounds : List (List Nat) → List Nat → List Nat
  | [], x => x
  | [k], x => octAdd (turnRows (x.map octSub)) k
  | k :: r, x => aesRounds r (octAdd (mixColumns (turnRows (x.map octSub))) k)

/-- One block of AES-256, as numbers whose most significant byte comes first. -/
def aesBlock (keys : List (List Nat)) (v : Nat) : Nat :=
  (aesRounds (keys.drop 1) (octAdd ((natBe 16 v).map (·.toNat)) (keys.headD []))).foldl (fun acc x => acc * 256 + x) 0

/-! ## GCM -/

/-- The product in the field of GHASH over the n lowest bits of y, highest first: bit 127 of a block stands for 1. -/
def ghashMulN : Nat → Nat → Nat → Nat
  | 0, _, _ => 0
  | n + 1, v, y =>
    (if y.testBit n then v else 0) ^^^ ghashMulN n (if v % 2 = 1 then (v / 2) ^^^ (0xE1 * 2 ^ 120) else v / 2) y

/-- The bytes in blocks of sixteen, the last filled with zeros. -/
def blocks16 (b : Bytes) : List Nat := (List.range ((b.length + 15) / 16)).map fun i => beNat (fit 16 (sub b (16 * i) 16))

/-- AES-256-GCM under a 12-byte nonce: the ciphertext, and the tag that also covers the additional data. -/
def gcm (key nonce aad plain : Bytes) : Bytes × Bytes :=
  let keys := roundKeys key
  let h := aesBlock keys 0
  let ctr := fun (i : Nat) => aesBlock keys (beNat nonce * 2 ^ 32 + (1 + i) % 2 ^ 32)
  let stream := (List.range ((plain.length + 15) / 16)).flatMap fun i => natBe 16 (ctr (i + 1))
  let c := plain.zipWith (· ^^^ ·) stream
  let lens := 8 * aad.length * two64 + 8 * c.length
  let g := (blocks16 aad ++ blocks16 c ++ [lens]).foldl (fun acc x => ghashMulN 128 h (acc ^^^ x)) 0
  (c, natBe 16 (g ^^^ ctr 0))

/-! ## XTS -/

/-- Twice a tweak: the block is a number whose least significant byte comes first. -/
def tweakDouble (t : Nat) : Nat := if t < 2 ^ 127 then 2 * t else (2 * t - 2 ^ 128) ^^^ 0x87

/-- The tweak of block i of a unit. -/
def tweakAt (t : Nat) : Nat → Nat
  | 0 => t
  | i + 1 => tweakDouble (tweakAt t i)

/-- AES-256-XTS of whole blocks: the first half of the key encrypts the blocks, the second the unit's tweak. -/
def xts (key : Bytes) (tweak : Nat) (plain : Bytes) : Bytes :=
  let keys := roundKeys (key.take 32)
  let t := leNat (natBe 16 (aesBlock (roundKeys (key.drop 32)) (beNat (natLe 16 tweak))))
  (List.range ((plain.length + 15) / 16)).flatMap fun i =>
    let m := beNat (natLe 16 (tweakAt t i))
    natBe 16 (aesBlock keys (beNat (fit 16 (sub plain (16 * i) 16)) ^^^ m) ^^^ m)

/-! ## Key wrap (RFC 3394) -/

/-- One step of the wrap: step t encrypts the running value together with the register at the front, which goes to the back. -/
def wrapStep (keys : List (List Nat)) (a : Nat × List Nat) (t : Nat) : Nat × List Nat :=
  let b := aesBlock keys (a.1 * two64 + a.2.headD 0)
  ((b / two64) ^^^ t, a.2.drop 1 ++ [b % two64])

/-- A key wrapped under another: eight bytes longer than the key. -/
def keyWrap (kek key : Bytes) : Bytes :=
  let n := key.length / 8
  let r := (List.range n).map fun i => beNat (sub key (8 * i) 8)
  let (a, l) := (List.range (6 * n)).foldl (fun a t => wrapStep (roundKeys kek) a (t + 1)) (0xA6A6A6A6A6A6A6A6, r)
  natBe 8 a ++ l.flatMap (natBe 8)

end Machine
end Sys2Proof
end

