-- ==== Sys2Proof/Machine/Keys.lean ====
section
/-!
DEFINITION. Sys2Proof/Machine/Keys.lean: the derivations of Table 17.4 and the forms that keys protect: a sealed folio
(R299, Table 14.5), a wrapped data key (R46, R274), and the battery-backed register file with its MAC (R372).
-/
namespace Sys2Proof
namespace Machine

/-! ## Derivations (R357, Table 17.4) -/

/-- A key of 64 or 96 bytes: 32 bytes from each of the contexts that end in 0x01, 0x02, 0x03. -/
def kdfParts (key : Bytes) (label : List Char) (context : Bytes) (n : Nat) : Bytes :=
  (List.range n).flatMap fun i => kdf key label (context ++ natLe 1 (i + 1)) 32

/-- A partition's root key. -/
def State.prkOf (s : State) (p : Nat) : Bytes := (s.keysOf p).prk.getD []

/-- XTS key and tag key of a partition's HBM (R71, R72). -/
def State.hbmKey (s : State) (p : Nat) : Bytes := kdfParts (s.prkOf p) ['H', 'R', 'E', '-', 'H', 'B', 'M', 'X'] [] 2
def State.hbmTagKey (s : State) (p : Nat) : Bytes := kdf (s.prkOf p) ['H', 'R', 'E', '-', 'H', 'B', 'M', 'T'] [] 32

/-- XTS key of a partition's flash (R298). -/
def State.flashKey (s : State) (p : Nat) : Bytes := kdfParts (s.prkOf p) ['H', 'R', 'E', '-', 'N', 'V', 'F', 'X'] [] 2

/-- The key that wraps the data key of a session with this handle and salt. -/
def State.sessionWrapKey (s : State) (p handle salt : Nat) : Bytes :=
  kdf (s.prkOf p) ['H', 'R', 'E', '-', 'S', 'W', 'R', 'A', 'P'] (natLe 8 handle ++ natLe 16 salt) 32

/-- Device ID and partition as a slot header and a derivation give them in two bytes: [11:0] and [15:12]. -/
def packPair (x : Nat × Nat) : Nat := x.1 % 4096 + x.2 % 16 * 4096

/-- The hand-off wrap key of a slot: pool key, the region's host, region, record, EPOCH and target. -/
def handoffKey (plk : Bytes) (host : Nat × Nat) (region record epoch : Nat) (target : Nat × Nat) : Bytes :=
  kdf plk ['H', 'R', 'E', '-', 'H', 'A', 'N', 'D', 'O', 'F', 'F']
    (natLe 2 host.1 ++ natLe 1 host.2 ++ natLe 1 region ++ natLe 2 record ++ natLe 4 epoch ++ natLe 2 (packPair target)) 32

/-- The key of the one shard that has this digest (R315). -/
def shardKey (ck digest : Bytes) : Bytes := kdf ck ['H', 'R', 'E', '-', 'S', 'H', 'A', 'R', 'D'] digest 32

/-- The unique device secret. -/
def udsBytes : Bytes := natLe 32 Config.uds.toNat

/-- Device storage key: XTS key of device-reserved HBM, then its tag key; none while it is zeroized (Table 17.6). -/
def State.storageKeyBytes (s : State) : Option Bytes :=
  if s.sec.storageKey then
    some (kdfParts udsBytes ['H', 'R', 'E', '-', 'D', 'E', 'V', 'I', 'C', 'E'] (natLe 4 s.sec.battery.fwFloor) 3)
  else none

/-- Battery file key. -/
def batteryKey : Bytes := kdf udsBytes ['H', 'R', 'E', '-', 'V', 'B', 'A', 'T'] [] 32

/-! ## Seals (R299) -/

/-- A session data key, by its draw. -/
def dataKey (k : Nat) : Bytes := natLe 32 (Config.drbg k).toNat

/-- A nonce, by its draw: 96 bits. -/
def nonceBytes (n : Nat) : Bytes := natLe 12 (Config.drbg n).toNat

/-- Folio seal key of a session data key and a nonce. -/
def sealKey (key nonce : Nat) : Bytes := kdf (dataKey key) ['H', 'R', 'E', '-', 'F', 'O', 'L', 'I', 'O'] (nonceBytes nonce) 32

/-- Additional data of a folio's seal (Table 14.5). -/
def Sealed.aad (f : Sealed) : Bytes :=
  natLe 1 f.kind ++ natLe 1 (kvFmtCode f.fmt) ++ natLe 1 f.layer ++ zeros 1 ++ natLe 4 f.valid ++ natLe 8 f.parkId ++
    natLe 4 f.ordinal ++ zeros 12

/-- The folio as it leaves HBM: 65,536 bytes of ciphertext, and the tag. -/
def Sealed.sealing (f : Sealed) : Bytes × Bytes :=
  gcm (sealKey f.key f.nonce) (nonceBytes f.nonce) f.aad (mreads f.payload 0 Config.folioBytes)

/-- The bytes on the medium: of a flyleaf, bytes 0x00 to 0x3F stand in clear (R46). DEDUCED, log entry 39. -/
def Sealed.bytes (f : Sealed) : Bytes :=
  if f.kind = 1 then mreads f.payload 0 64 ++ f.sealing.1.drop 64 else f.sealing.1

/-- Seal record: nonce, tag, 4 zero bytes (Table 14.3, Table 13.2). -/
def Sealed.record (f : Sealed) : Bytes := nonceBytes f.nonce ++ f.sealing.2 ++ zeros 4

/-! ## The battery-backed register file (R372, Table 17.9) -/

/-- Bytes 0x000 to 0xFCF. -/
def Battery.body (b : Battery) : Bytes :=
  let parts := List.range Config.partitions
  fit 0xFD0 (natLe 8 b.formatted.toNat ++ natLe 4 b.fwFloor ++ natLe 4 b.bindFloor ++ natLe 4 b.bindEpoch ++
    natLe 4 (if b.debugUnlocked then 0x5A5A5A5A else 0) ++ zeros 8 ++ fit 48 (b.keyHash.getD []) ++ zeros 48 ++
    parts.flatMap (fun p =>
      let (e, pool, v) := tgetD b.keyEpochs p (0, 0, [])
      natLe 4 e ++ natLe 4 pool ++ fit 8 v) ++
    parts.flatMap (fun p =>
      let (h, mctp) := tgetD b.keyAuth p ([], false)
      fit 48 h ++ natLe 4 mctp.toNat ++ zeros 12) ++
    natLe 8 b.auditSeq ++ fit 48 b.auditHash ++ natLe 8 b.flashSeq ++
    natLe 4 b.safeEntries ++ natLe 1 b.lastSource ++ zeros 3 ++ natLe 8 b.lastTime ++
    fit 256 (b.lastSixteen.flatMap fun e => natLe 8 e.1 ++ natLe 1 e.2 ++ zeros 7))

/-- The 4 KiB file: its MAC stands at 0xFD0. -/
def Battery.file (b : Battery) : Bytes := b.body ++ hmac384 batteryKey b.body

end Machine
end Sys2Proof
end

