-- ==== Sys2Proof/Machine/Operands.lean ====
section
/-!
DEFINITION. Sys2Proof/Machine/Operands.lean: every operand form of the submission ring: the header of Table 19.6, the
bodies of Table 19.7, the checks that R403 makes when an entry is read, the edit list of R405 and the speculation
field of Table 2.7. A body field is named by its offset in the entry, as Table 19.7 names it.
-/
namespace Sys2Proof
namespace Machine

/-- The fields of a verb's body that Table 19.7 gives: offset and size in bytes. -/
def bodyFields : VerbOp → List (Nat × Nat)
  | .openS => [(0x20, 8), (0x28, 4), (0x2C, 4), (0x34, 4), (0x38, 1), (0x39, 1), (0x3A, 2), (0x3C, 2)]
  | .append => [(0x20, 8), (0x28, 4), (0x2C, 1)]
  | .step => [(0x20, 4), (0x24, 4), (0x28, 4), (0x2C, 4), (0x30, 4), (0x34, 2), (0x36, 1), (0x38, 4), (0x40, 8),
              (0x48, 8), (0x50, 4)]
  | .park => [(0x20, 4), (0x24, 1), (0x28, 8)]
  | .revive => []
  | .fork => []
  | .splice => [(0x20, 8), (0x28, 1)]
  | .close => []
  | .place => [(0x20, 4), (0x24, 4), (0x28, 1)]
  | .grammarLoad => [(0x20, 8), (0x28, 4), (0x2C, 4)]
  | .grammarDrop => [(0x2C, 4)]
  | .indexLoad => [(0x20, 8), (0x28, 8), (0x30, 2)]
  | .query => [(0x20, 8), (0x28, 8), (0x30, 8), (0x38, 2), (0x3A, 2), (0x3C, 2), (0x3E, 2), (0x40, 2), (0x44, 4),
               (0x48, 4)]
  | .delete => [(0x20, 8), (0x28, 2), (0x2A, 2), (0x2C, 4)]
  | .indexDrop => [(0x2A, 2)]
  | .programLoad => [(0x20, 8), (0x28, 8)]
  | .handoffSend => [(0x20, 1), (0x22, 2), (0x24, 2), (0x28, 4)]
  | .handoffClaim => [(0x20, 1), (0x22, 2), (0x26, 2)]
  | .ckptTake => [(0x20, 8)]
  | .ckptRestore => [(0x20, 8)]
  | .undef => []

/-- The entry offsets of the body bytes that a verb does not use. -/
def unusedOffsets (op : VerbOp) : List Nat :=
  ((List.range 96).map (fun i => 0x20 + i)).filter fun o => !(bodyFields op).any fun f => f.1 ≤ o && o < f.1 + f.2

/-- The header fields of an entry of 128 bytes. -/
def entryOpcode (b : Bytes) : Nat := fld b 0x00 1
def entryFlags (b : Bytes) : Nat := fld b 0x01 1
def entrySeq (b : Bytes) : Nat := fld b 0x02 1
def entryPrio (b : Bytes) : Nat := fld b 0x03 1
def entryQueue (b : Bytes) : Nat := fld b 0x04 2
def entryHandle (b : Bytes) : Nat := fld b 0x08 8
def entryTag (b : Bytes) : Nat := fld b 0x10 8
def entryBody (b : Bytes) : Bytes := sub b 0x20 96

/-- The checks of R403 on the words of an entry, whatever the state of the device. -/
def entryMalformed (b : Bytes) : Bool :=
  let op := verbOf (entryOpcode b)
  let flags := entryFlags b
  let scope := scopeOf op flags
  op == .undef ||
  (List.range 8).any (fun i => flags.testBit i && !(flagMask op).testBit i) ||
  entryPrio b ≥ 8 || !zeroFld b 0x06 2 || !zeroFld b 0x18 8 || entryQueue b ≥ 4096 ||
  (unusedOffsets op).any (fun o => b.getD o 0 != 0) ||
  (scope == .part && (entryHandle b != 0 || entrySeq b != 0)) ||
  (scope != .part && entryQueue b != 0) ||
  (op == .step && flags.testBit flagStop && !zeroFld b 0x20 96)

/-- A field of a verb's body, named by its offset in the entry. -/
def Verb.f (v : Verb) (off n : Nat) : Nat := fld v.body (off - 0x20) n

/-- A FLAGS bit of a verb. -/
def Verb.flag (v : Verb) (n : Nat) : Bool := v.flags.testBit n

/-- The verb is CLOSE, or STEP with STOP: the two that act on reading (R38). -/
def Verb.acts (v : Verb) : Bool := v.op == .close || (v.op == .step && v.flag flagStop)

/-- The verb would revive a parked session (R39): REVIVE, APPEND, STEP, SPLICE, FORK or PLACE. -/
def Verb.revives (v : Verb) : Bool :=
  v.op == .revive || v.op == .append || (v.op == .step && !v.flag flagStop) || v.op == .splice || v.op == .fork ||
  v.op == .place

/-- Scope of a verb that has been read. -/
def Verb.scope (v : Verb) : Scope := scopeOf v.op v.flags

/-- L of R211: the tokens or bytes that a verb is policed on. -/
def Verb.policeLen (v : Verb) (maxNewOfSection : Nat) : Nat :=
  match v.op with
  | .step => if v.flag flagStop then 0 else if v.f 0x20 4 = 0 then maxNewOfSection else v.f 0x20 4
  | .append => v.f 0x28 4
  | _ => 0

/-- SPEC of OPEN, coded as bits [10:0] of the speculation field (Table 2.7): heads, nodes, enable. -/
def specHeadsOf (w : Nat) : Nat := w % 8
def specNodesOf (w : Nat) : Nat := w / 8 % 128
def specOnOf (w : Nat) : Bool := w.testBit 10

/-- An edit of a SPLICE (R405). -/
structure Edit where
  insert : Bool
  inputTokens : Bool
  pos : Nat
  len : Nat
  input : Nat
  deriving DecidableEq, Repr, Inhabited

/-- The 24 bytes of one edit; none: a field is out of range or a reserved byte is set. -/
def parseEdit (b : Bytes) : Option Edit :=
  let kind := fld b 0 1
  let ik := fld b 1 1
  if kind ≤ 1 && ik ≤ 1 && zeroFld b 2 2 && zeroFld b 12 4 && b.length == 24 then
    some { insert := kind == 1, inputTokens := ik == 1, pos := fld b 4 4, len := fld b 8 4, input := fld b 16 8 }
  else none

/-- An edit list of `count` edits. -/
def parseEdits (b : Bytes) (count : Nat) : Option (List Edit) :=
  (List.range count).foldr (fun i acc =>
    match acc, parseEdit (sub b (24 * i) 24) with
    | some l, some e => some (e :: l)
    | _, _ => none) (some [])

/-- Where an edit's span ends. -/
def Edit.stop (e : Edit) : Nat := if e.insert then e.pos else e.pos + e.len

/-- Edits stand in ascending POSITION and their spans do not overlap (R405). -/
def editsOrdered : List Edit → Bool
  | [] => true
  | [_] => true
  | a :: b :: r => decide (a.pos ≤ b.pos) && decide (a.stop ≤ b.pos) && editsOrdered (b :: r)

/-- The undelivered lines that a write of `n` bytes at an offset leaves: a line written whole is good again (R72). -/
def rewritten (off n : Nat) (lines : List Nat) : List Nat := lines.filter fun o => !(off ≤ o && o + 64 ≤ off + n)

end Machine
end Sys2Proof
end

