-- ==== Sys2Proof/Machine/Shaper.lean ====
section
/-!
DEFINITION. Sys2Proof/Machine/Shaper.lean: chapter 10. Policing (R211 to R215), the schedulers' tags and virtual time
(R216, R217), privileged queues (R219, R220), rate limits and the calendar wheel (R221), histograms (R222) and port
arbitration (R223).
-/
namespace Sys2Proof
namespace Machine

/-! ## Lengths (R211) -/

/-- COST_WEIGHT, 0 acting as 1. -/
def State.costWeight (s : State) (p : Nat) : Nat := max 1 (bits (s.reg .shpPartCfg p) 15 0)
def State.entryOvh (s : State) (p : Nat) : Nat := bits (s.reg .shpPartCfg p) 31 16
def State.frameOvh (s : State) (p : Nat) : Nat := bits (s.reg .shpPartCost p) 47 32
/-- WU_PER_MS, 0 acting as 1. -/
def State.wuPerMs (s : State) (p : Nat) : Nat := max 1 (bits (s.reg .shpPartCost p) 31 0)
/-- Work units of n tokens. -/
def State.workUnits (s : State) (p n : Nat) : Nat := n * s.costWeight p + s.entryOvh p
/-- The quotient rounded up. -/
def ceilDiv (a b : Nat) : Nat := (a + b - 1) / b

/-! ## Policers (R212 to R215). Buckets are in millionths of a work unit; one work unit per ms is one millionth per ns. -/

inductive Colour where
  | green | yellow | red | never
  deriving DecidableEq, Repr, Inhabited

def State.polMode (s : State) (q : Nat) : Nat := bits (s.reg .shpQueueCfg q) 44 43
def State.colorAware (s : State) (q : Nat) : Bool := bit (s.reg .shpQueueCfg q) 45
def State.redDefers (s : State) (q : Nat) : Bool := bit (s.reg .shpQueueCfg q) 46
def State.cir (s : State) (q : Nat) : Nat := bits (s.reg .shpPolRate q) 63 32
/-- PIR; below CIR it acts as CIR. -/
def State.pir (s : State) (q : Nat) : Nat := max (s.cir q) (bits (s.reg .shpPolRate q) 31 0)
def State.cbs (s : State) (q : Nat) : Nat := bits (s.reg .shpPolBurst q) 63 32
def State.ebs (s : State) (q : Nat) : Nat := bits (s.reg .shpPolBurst q) 31 0
/-- Millionths. -/
def mu (n : Nat) : Nat := n * 1000000

def State.policer (s : State) (q : Nat) : Policer := tgetD s.shp.policers q {}
def State.setPolicer (s : State) (q : Nat) (x : Policer) : State :=
  { s with shp := { s.shp with policers := tput s.shp.policers q x } }

/-- The buckets of queue q filled up to now: srTCM spills the committed bucket into the excess one, trTCM fills both. -/
def State.refilled (s : State) (q : Nat) : Policer :=
  let x := s.policer q
  let dt := s.now - x.time
  let c := x.tc + s.cir q * dt
  if s.polMode q = 1 then
    { tc := min c (mu (s.cbs q)), te := min (x.te + (c - mu (s.cbs q))) (mu (s.ebs q)), time := s.now }
  else if s.polMode q = 2 then
    { tc := min c (mu (s.cbs q)), te := min (x.te + s.pir q * dt) (mu (s.ebs q)), time := s.now }
  else { x with time := s.now }

/-- Full buckets, as an image loads them. -/
def State.fullBuckets (s : State) (q : Nat) : State :=
  s.setPolicer q { tc := mu (s.cbs q), te := mu (s.ebs q), time := s.now }

/-- The pre-colour of a verb from its PRIO (R213). -/
def State.preColour (s : State) (q prio : Nat) : Colour :=
  if !s.colorAware q then .green
  else if prio ≥ bits (s.reg .shpQueueCfg q) 42 40 then .green
  else if prio ≥ bits (s.reg .shpQueueCfg q) 39 37 then .yellow
  else .red

/-- Table 10.2: the colour of a verb of length `len` work units and the buckets after it. -/
def colourOf (mode : Nat) (pre : Colour) (len cbs ebs : Nat) (x : Policer) : Colour × Policer :=
  let b := mu len
  if mode = 1 then
    if len > cbs + ebs then (.never, x)
    else if pre = .green ∧ x.tc ≥ b then (.green, { x with tc := x.tc - b })
    else if pre ≠ .red ∧ x.te ≥ b then (.yellow, { x with te := x.te - b })
    else (.red, x)
  else if mode = 2 then
    if len > ebs then (.never, x)
    else if pre = .red ∨ x.te < b then (.red, x)
    else if pre = .yellow ∨ x.tc < b then (.yellow, { x with te := x.te - b })
    else (.green, { x with te := x.te - b, tc := x.tc - b })
  else (.green, x)

/-- A verb is coloured: the buckets are filled first (R215), then debited. -/
def State.colour (s : State) (q len : Nat) (pre : Colour) : Colour × State :=
  let (c, x) := colourOf (s.polMode q) pre len (s.cbs q) (s.ebs q) (s.refilled q)
  (c, s.setPolicer q x)

/-- The counter of a colour, when the queue has a policer. -/
def State.countColour (s : State) (q : Nat) (c : Colour) : State :=
  if s.polMode q = 1 || s.polMode q = 2 then
    match c with
    | .green => s.count .shpPolGreen q
    | .yellow => s.count .shpPolYellow q
    | _ => s.count .shpPolRed q
  else s

/-- A hand-off verb that a member reads between T_C and its consistency point (R309). -/
def State.heldByPoint (s : State) (p : Nat) (v : Verb) : Bool :=
  (v.op == .handoffSend || v.op == .handoffClaim) && (s.ckpOf p).phase == 1 && v.arrival ≥ (s.ckpOf p).tc

/-- A verb is admitted to its service queue and its slot is released; a verb of the new epoch on a partition in a
composition change is held in its slot instead (R238), and so is a hand-off verb before a consistency point (R309). -/
def State.enterQueue (s : State) (p vid : Nat) : State :=
  match s.verb? p vid with
  | none => s
  | some v =>
    if (s.fencedByChange p && v.epoch != s.epoch) || s.heldByPoint p v then s.modVerb p vid fun v => { v with phase := .held }
    else (s.releaseSlot p vid).modVerb p vid fun v => { v with phase := .queued }

/-- Held verbs are admitted once what held them is gone, in ring order. -/
def State.releaseHeld (s : State) (p : Nat) : State :=
  (((s.verbs p).filter fun v => v.phase == .held).map (·.id)).foldl (fun t vid => t.enterQueue p vid) s

/-- Length on which a verb is policed (R211): for a SPLICE, the inputs of its edit list. -/
def State.policedLen (s : State) (p : Nat) (v : Verb) : Nat :=
  let n :=
    match v.op with
    | .splice =>
      (match v.edits with
       | some b => (match parseEdits b (v.f 0x28 1) with
                    | some l => l.foldl (fun a e => if e.insert then a + e.len else a) 0
                    | none => 0)
       | none => 0)
    | _ =>
      v.policeLen (match s.seq? v.dir v.seq with | some q => q.maxNew | none => 0)
  s.workUnits p n

/-- Verbs of queue q that a policer holds, in ring order. -/
def State.deferred (s : State) (p q : Nat) : List Verb :=
  (s.verbs p).filter fun v => v.phase == .deferred && v.queue == q

/-- A verb is coloured for the first time: by its PRIO; or again: yellow on a colour-aware queue, else green (R214). -/
def State.colourVerb (s : State) (p : Nat) (v : Verb) : Colour × State :=
  let pre :=
    if v.coloured then (if s.colorAware v.queue then Colour.yellow else Colour.green) else s.preColour v.queue v.prio
  let (c, t) := s.colour v.queue (s.policedLen p v) pre
  let t := if c = .red ∧ v.coloured = true then t else t.countColour v.queue c
  (c, t.modVerb p v.id fun v => { v with coloured := true })

/-- A verb at the head of its queue's ingress is coloured, and admitted, refused or held (R214). DEDUCED, log entry 8. -/
def State.policeVerb (s : State) (p : Nat) (v : Verb) : Bool × State :=
  let (c, t) := s.colourVerb p v
  match c with
  | .green => (true, t.enterQueue p v.id)
  | .yellow => (true, t.enterQueue p v.id)
  | .never => (true, t.complete p v.id .policed)
  | .red =>
    if s.redDefers v.queue then
      (false, if v.phase == .deferred then t
              else (t.modVerb p v.id fun v => { v with phase := .deferred }).count .shpDeferred v.queue)
    else (true, t.complete p v.id .policed)

/-- The held verbs of a queue in their turn, until one stays red. -/
def State.retryQueue (s : State) (p : Nat) : List Verb → State
  | [] => s
  | v :: r =>
    let (on, t) := s.policeVerb p v
    if on then t.retryQueue p r else t

/-- A verb comes to ingress (R214): behind held verbs of its queue it is held too. -/
def State.ingress (s : State) (p vid : Nat) : State :=
  match s.verb? p vid with
  | none => s
  | some v =>
    if (s.deferred p v.queue).isEmpty then (s.policeVerb p v).2
    else (s.modVerb p vid fun v => { v with phase := .deferred }).count .shpDeferred v.queue

/-- DEFERRED_ADMIT: as buckets refill, the held verbs are coloured again in order (R214). -/
def doDeferredAdmit (p q : Nat) (s : State) : State :=
  if s.live then s.retryQueue p (s.deferred p q) else s

/-- Buckets clamped to the bursts in force (R215). -/
def State.clampBuckets (s : State) (q : Nat) : State :=
  let x := s.policer q
  s.setPolicer q { x with tc := min x.tc (mu (s.cbs q)), te := min x.te (mu (s.ebs q)) }

/-- A write to a policer's parameters takes effect at once: buckets up to now under the old values, then clamped, then
held verbs are coloured again (R214, R215). -/
def State.policerWrite (s : State) (q : Nat) (r : RegName) (v : W64) : State :=
  let t := (s.setPolicer q (s.refilled q)).setReg r q 0 v
  let t := t.clampBuckets q
  match t.ownerOfQueue q with
  | some p => t.retryQueue p (t.deferred p q)
  | none => t

/-! ## Tags and virtual time (R216, R217) -/

/-- 2^64. -/
def wrap64 (n : Nat) : Nat := n % two64
/-- a ≤ b by the sign of their difference as a 64-bit two's-complement number (R217). -/
def leq64 (a b : Nat) : Bool := wrap64 (b + two64 - a % two64) < two64 / 2
def max64 (a b : Nat) : Nat := if leq64 a b then b else a

/-- WEIGHT, 0 acting as 1. -/
def State.weight (s : State) (q : Nat) : Nat := max 1 (bits (s.reg .shpQueueCfg q) 63 48)

/-- Start of queue q: V for a queue that is marked behind, else the larger of its tag and V. A queue that was never
charged has no tag that could stand ahead of V: it starts at V. -/
def Sched.start (x : Sched) (q : Nat) : Nat :=
  match tget x.tags q with
  | some t => if x.behind.contains q then x.vtime else max64 t x.vtime
  | none => x.vtime

/-- Finish tag: S_q + ⌈U_min × 65,536 / w_q⌉. -/
def finishTag (x : Sched) (q umin w : Nat) : Nat := wrap64 (x.start q + ceilDiv (umin * 65536) w)

/-- Queue q is served `u`: its tag moves to S_q + ⌈u × 65,536 / w_q⌉ and its mark is cleared. -/
def Sched.serve (x : Sched) (q u w : Nat) : Sched :=
  { x with tags := tput x.tags q (wrap64 (x.start q + ceilDiv (u * 65536) w)), behind := x.behind.filter (· != q) }

/-- V after a charge: the larger of V and the smallest start among the queues with work; queues without work whose tag
V has passed are marked behind. -/
def Sched.advance (x : Sched) (work : List Nat) : Sched :=
  match work with
  | [] => x
  | q0 :: r =>
    let least := r.foldl (fun a q => if leq64 a (x.start q) then a else x.start q) (x.start q0)
    let v := max64 x.vtime least
    let lag := (x.tags.map (·.1)).filter fun q =>
      !work.contains q && !x.behind.contains q && leq64 (tgetD x.tags q 0) v && tgetD x.tags q 0 != v
    { x with vtime := v, behind := x.behind ++ lag }

/-! ## Rate limits and the calendar wheel (R221) -/

def State.rateEn (s : State) (q : Nat) : Bool := bit (s.reg .shpQueueCfg q) 47
def State.rate (s : State) (q : Nat) : Nat := bits (s.reg .shpRateCfg q) 63 32
def State.burstNs (s : State) (q : Nat) : Nat := bits (s.reg .shpRateCfg q) 15 0 * 1000

/-- The shaper lets queue q send (R93, R221); RATE 0 holds the queue. -/
def State.eligible (s : State) (q : Nat) : Bool :=
  !s.rateEn q || (s.rate q != 0 && !s.shp.ineligible.contains q)

/-- Span of the wheel: 65,536 slots of 1 µs. -/
def wheelSpan : Nat := 65536 * 1000

/-- The overflow list stays ordered by time. -/
def insertByTime (e : Nat × Nat) : List (Nat × Nat) → List (Nat × Nat)
  | [] => [e]
  | x :: r => if e.2 < x.2 then e :: x :: r else x :: insertByTime e r

/-- Queue q is charged `u`: its eligibility time moves on, and the queue goes into the wheel or the overflow list if it
may not be served now (R221). -/
def State.rateCharge (s : State) (q u : Nat) : State :=
  if s.rateEn q && s.rate q != 0 then
    let e := max (tgetD s.shp.elig q 0) s.now + ceilDiv (u * 1000000) (s.rate q)
    let x := { s.shp with elig := tput s.shp.elig q e }
    let t := e - s.burstNs q
    if s.now ≥ t then { s with shp := x }
    else if t > s.now + wheelSpan then
      { s with shp := { x with overflow := insertByTime (q, t) (x.overflow.filter (·.1 != q)), wheel := tdel x.wheel q,
                               ineligible := q :: x.ineligible.filter (· != q) } }
    else
      { s with shp := { x with wheel := tput x.wheel q t, overflow := x.overflow.filter (·.1 != q),
                               ineligible := q :: x.ineligible.filter (· != q) } }
  else s

/-- The wheel advances to the slot of the present µs: due overflow entries move into it, and the queues of the slot become
eligible (R221). -/
def State.turnWheel (s : State) : State :=
  let x := s.shp
  let due := x.overflow.filter fun e => e.2 ≤ s.now + wheelSpan
  let wheel := due.foldl (fun w e => tput w e.1 e.2) x.wheel
  let out := (wheel.filter fun e => e.2 ≤ s.now).map (·.1)
  { s with shp := { x with wheel := wheel.filter (fun e => e.2 > s.now),
                           overflow := x.overflow.filter (fun e => e.2 > s.now + wheelSpan),
                           ineligible := x.ineligible.filter (fun q => !out.contains q),
                           wheelPos := s.now / 1000 % 65536 } }

/-! ## Schedulers and privileged queues (R219, R220) -/

def State.sched (s : State) : SchedId → Sched
  | .step p => tgetD s.shp.step p {}
  | .text => s.shp.text
  | .recallU => s.shp.recallU
  | .fabric l => tgetD s.shp.fabric l {}
def State.setSched (s : State) (id : SchedId) (x : Sched) : State :=
  match id with
  | .step p => { s with shp := { s.shp with step := tput s.shp.step p x } }
  | .text => { s with shp := { s.shp with text := x } }
  | .recallU => { s with shp := { s.shp with recallU := x } }
  | .fabric l => { s with shp := { s.shp with fabric := tput s.shp.fabric l x } }

/-- PQk is in use (SHP_DRR_CFG.EN). -/
def State.pqOn (s : State) (k : Nat) : Bool := bit (s.reg .shpDrrCfg k) 63

/-- The privileged queue PQn (3 to 7) that a service queue is designated as, if that PQ is in use (R220). -/
def State.privOf (s : State) (q : Nat) : Option Nat :=
  (List.range 8).find? fun k => 3 ≤ k && s.pqOn k && bits (s.reg .shpDrrCfg k) 59 48 == q &&
    bits (s.reg .shpQueueCfg q) 36 34 == k

def Sched.deficit (x : Sched) (k : Nat) : Int := tgetD x.deficits k 0

/-- Queue q is served under R219 at this scheduler: it is designated and its deficit is positive. -/
def State.privNow (s : State) (id : SchedId) (q : Nat) : Option Nat :=
  match s.privOf q with
  | some k => if (s.sched id).deficit k > 0 then some k else none
  | none => none

/-- ns of a length at a scheduler (R220). -/
def State.lenNs (s : State) (id : SchedId) (u : Nat) : Nat :=
  match id with
  | .step p => ceilDiv (u * 1000000) (s.wuPerMs p)
  | .fabric _ => ceilDiv u 25
  | _ => u

/-- Queue q is charged `u` at a scheduler: to its deficit while it is served as privileged, else to its tag; then V
moves on over the queues with work, and the rate limit is charged (R216, R217, R220, R221). -/
def State.charge (s : State) (id : SchedId) (q u : Nat) (work : List Nat) : State :=
  let x := s.sched id
  let t :=
    match s.privNow id q with
    | some k =>
      s.setSched id (({ x with deficits := tput x.deficits k (x.deficit k - (s.lenNs id u : Int)) } : Sched).advance work)
    | none => s.setSched id ((x.serve q u (s.weight q)).advance work)
  match id with
  | .step _ => (t.count .shpServed q u).rateCharge q u
  | .fabric _ => t.rateCharge q u
  | _ => t

/-- QUANTUM_NS of PQk and ROUND_US of PQ0, in ns. -/
def State.quantum (s : State) (k : Nat) : Nat := bits (s.reg .shpDrrCfg k) 31 0
def State.roundNs (s : State) : Nat := bits (s.reg .shpDrrCfg 0) 47 32 * 1000

/-- Requests waiting at a port. -/
def State.port (s : State) (id : PortId) : Port :=
  match s.shp.ports.find? (fun e => e.1 == id) with
  | some e => e.2
  | none => {}
def State.setPort (s : State) (id : PortId) (x : Port) : State :=
  { s with shp := { s.shp with ports := (id, x) :: s.shp.ports.filter (fun e => e.1 != id) } }

/-- The privileged queues that have a request waiting among these. -/
def State.privWaiting (s : State) (reqs : List PortReq) : List Nat :=
  (List.range 8).filter fun k => s.pqOn k && reqs.any fun r =>
    r.priv == some k || (match r.queue with | some q => s.privOf q == some k | none => false)

/-- A privileged queue that runs out of work loses a positive deficit (R219). -/
def State.dropIdle (s : State) (id : SchedId) (work : List Nat) : State :=
  let x := s.sched id
  let ds := (List.range 8).foldl (fun d k =>
    if !work.contains k && tgetD d k (0 : Int) > 0 then tput d k 0 else d) x.deficits
  s.setSched id { x with deficits := ds }

/-- A round at a scheduler: every privileged queue with work gains its quantum; the others lose a positive deficit. -/
def State.drrRound (s : State) (id : SchedId) (work : List Nat) : State :=
  let x := s.sched id
  let ds := (List.range 8).foldl (fun d k =>
    if work.contains k then tput d k (tgetD d k 0 + (s.quantum k : Int))
    else if tgetD d k (0 : Int) > 0 then tput d k 0 else d) x.deficits
  s.setSched id { x with deficits := ds, lastRound := s.now }

/-- R219's condition for a round: a privileged queue has work, none that has work holds a positive deficit, and
ROUND_US has passed since the last round. -/
def State.roundDue (s : State) (id : SchedId) (work : List Nat) : Bool :=
  let x := s.sched id
  !work.isEmpty && work.all (fun k => x.deficit k ≤ 0) && (x.lastRound == 0 || s.now ≥ x.lastRound + s.roundNs)

/-! ## Histograms (R222, Table 10.5) -/

/-- Bin of a depth. -/
def depthBin (n : Nat) : Nat := if n = 0 then 0 else min 15 (n.log2 + 1)
/-- Bin of a delay in ns. -/
def delayBin (ns : Nat) : Nat := if ns < 16000 then 0 else min 15 ((ns / 16000).log2 + 1)

/-- One 32-bit half of a histogram register, incremented; saturates. -/
def binAdd (w : W64) (odd : Bool) : W64 × Bool :=
  let lo := if odd then 32 else 0
  let c := bits w (lo + 31) lo
  if c + 1 ≥ satMax then (setBits w (lo + 31) lo satMax, true) else (setBits w (lo + 31) lo (c + 1), false)

/-- One sample into bin k of a histogram of queue q; SAT bits are [15:0] for depth, [31:16] for delay. -/
def State.sampleBin (s : State) (r : RegName) (q k satLo : Nat) : State :=
  let (w, hit) := binAdd (s.reg r q (k / 2)) (k % 2 == 1)
  let t := (s.setReg r q (k / 2) w).stampAdd (regAddr r q (k / 2) + k % 2) 1
  if hit && !bit (s.reg .shpHistSat q) (satLo + k) then
    (t.setReg .shpHistSat q 0 (setBit (s.reg .shpHistSat q) (satLo + k) true)).raise srcSat
      { raw := regAddr r q (k / 2) }
  else t

/-- Verbs of queue q that have been read and have not begun, held ones included. -/
def State.queued (s : State) (p q : Nat) : List Verb :=
  (s.verbs p).filter fun v => v.queue == q && (v.phase == .deferred || v.phase == .held || v.phase == .queued) && !v.acts

/-- One sample of one queue. -/
def State.sampleQueue (s : State) (p q : Nat) : State :=
  let l := s.queued p q
  let delay := l.foldl (fun a v => max a (s.now - v.arrival)) 0
  (s.sampleBin .shpHistDepth q (depthBin l.length) 0).sampleBin .shpHistDelay q (delayBin delay) 16

/-- HIST_SAMPLE: at every multiple of 100,000 ns, each queue of a partition's range (R222); not in the safe state. -/
def doHistSample (s : State) : State :=
  if s.live && s.now % 100000 == 0 then
    (List.range Config.partitions).foldl (fun t p =>
      if (t.recPart p).mode == .safe then t
      else (List.range (t.qcount p)).foldl (fun t i => t.sampleQueue p (t.qbase p + i)) t) s
  else s

/-! ## Port arbitration (R223) -/

/-- The caps of the regulator: grants to a class and higher, in the last 32. -/
def capOf : ArbClass → Nat
  | .a => 16
  | .b => 29
  | .c => 31
  | .d => 32

/-- A request of this class waits at the port. -/
def Port.waits (x : Port) (cls : ArbClass) : Bool := x.reqs.any fun q => q.cls == cls

/-- The regulator holds the class back: a lower class waits, and the class and those above have had their share of the
last 32 grants. -/
def Port.heldBack (x : Port) (cls : ArbClass) : Bool :=
  cls != .d && x.reqs.any (fun q => classRank q.cls > classRank cls) &&
    countp (fun g => classRank g ≤ classRank cls) x.win ≥ capOf cls

/-- The class of the next grant: the pseudocode of R223 for one class, then the next. -/
def nextGrantFrom (x : Port) : List ArbClass → Option ArbClass
  | [] => none
  | cls :: r => if !x.waits cls || x.heldBack cls then nextGrantFrom x r else some cls

/-- The four classes in their order. -/
def arbClasses : List ArbClass := [.a, .b, .c, .d]

def nextGrant (x : Port) : Option ArbClass := nextGrantFrom x arbClasses

/-- The counts of held-back requests after a choice: one for each class above the one granted that waited and was held
back. DESIGN CHOICE, log entry 8. -/
def Port.countHolds (x : Port) (granted : ArbClass) : Tab Nat :=
  arbClasses.foldl (fun (m : Tab Nat) cls =>
    if classRank cls < classRank granted && x.waits cls && x.heldBack cls then
      tput m (classRank cls) (tgetD m (classRank cls) 0 + 1) else m) x.holds

/-- A request joins a port's queue. -/
def State.request (s : State) (id : PortId) (r : PortReq) : State :=
  let x := s.port id
  s.setPort id { x with reqs := x.reqs ++ [r] }

/-- The requests of one owner run in another class from now on. -/
def State.reclass (s : State) (o : PortOwner) (cls : ArbClass) : State :=
  let one := fun (r : PortReq) => if r.owner == some o then { r with cls := cls } else r
  { s with shp := { s.shp with ports := s.shp.ports.map fun e => (e.1, { e.2 with reqs := e.2.reqs.map one }) } }

/-- A transfer asks every port that it crosses for its bytes there. DEDUCED, log entry 8. -/
def State.carry (s : State) (l : List (PortId × Nat)) (cls : ArbClass) (o : PortOwner) : State :=
  ((l.map (·.1)).eraseDups).foldl (fun (t : State) id =>
    t.request id { cls := cls, len := ((l.filter fun e => e.1 == id).map (·.2)).sum, owner := some o }) s

/-- The first element that satisfies a test is taken out. -/
def eraseFirst {α : Type} (c : α → Bool) : List α → List α
  | [] => []
  | x :: r => if c x then r else x :: eraseFirst c r

/-- The scheduler of a port, if it has one (Table 10.3). -/
def schedOfPort : PortId → Option SchedId
  | .link l => some (.fabric l)
  | _ => none

/-- Bytes of one grant at a port (Table 10.6); a link grants whole frames. -/
def grantBytes : PortId → Option Nat
  | .hbm _ => some 2048
  | .buf => some 1024
  | .link _ => none
  | .nand _ => some 4096
  | .host => some 512

/-- What a request is for is still under way. -/
def State.ownerLive (s : State) : PortOwner → Bool
  | .folio d => (match tget s.fol.folios d with | some f => f.promoting || f.demoting | none => false)
  | .quire dir => (match tget s.dir.sessions dir with
      | some x => x.parkOp.isSome || x.revive.isSome || x.send.isSome
      | none => false)
  | .step p => (s.spnOf p).cur.isSome
  | .engine e => (s.engOf e).switching.isSome
  | .verb p vid => (s.verb? p vid).isSome
  | .unit ch u => (s.chanOf ch).relocs.any fun r => r.unit == u && !r.freed

/-- Smallest unit of length at a scheduler (Table 10.3), for partition p. -/
def State.umin (s : State) (id : SchedId) (p : Nat) : Nat :=
  match id with
  | .step p' => s.costWeight p' + s.entryOvh p'
  | .fabric _ => 64 + s.frameOvh p
  | _ => 1000

/-- Whether request a is served before b at a scheduler: privileged queues with a positive deficit first, in PQ order,
then the smallest finish tag, then the lower queue number (R216, R219); requests without a queue keep arrival order. -/
def State.servedBefore (s : State) (id : SchedId) (a b : PortReq) : Bool :=
  let key (r : PortReq) : Nat × Nat × Nat :=
    let x := s.sched id
    match r.priv, r.queue with
    | some k, _ => if x.deficit k > 0 then (0, k, 0) else (2, two64, k)
    | none, some q =>
      (match s.privNow id q with
       | some k => (0, k, q)
       | none => (1, wrap64 (finishTag x q (s.umin id ((s.ownerOfQueue q).getD 0)) (s.weight q) + two64 - x.vtime), q))
    | none, none => (1, 0, 0)
  let (a1, a2, a3) := key a
  let (b1, b2, b3) := key b
  decide (a1 < b1) || (a1 == b1 && (decide (a2 < b2) || (a2 == b2 && decide (a3 < b3))))

/-- A request waits for a grant: what it is for is not over, and at a port with a scheduler its queue may be served now
(R221). -/
def State.waiting (s : State) (id : PortId) (r : PortReq) : Bool :=
  (match r.owner with | some o => s.ownerLive o | none => true) &&
  (match r.queue with | some q => s.eligible q || (schedOfPort id).isNone | none => true)

/-- The request of a class that is granted next: arrival order, or the scheduler's order where the port has one. -/
def State.pick (s : State) (id : PortId) (cls : ArbClass) (reqs : List PortReq) : Option PortReq :=
  match reqs.filter fun r => r.cls == cls with
  | [] => none
  | r :: t =>
    match schedOfPort id with
    | none => some r
    | some sch => some (t.foldl (fun a b => if s.servedBefore sch b a then b else a) r)

/-- Class C and D requests of this port are held: its HBM stack is above 95 °C (Table 18.7). -/
def State.held (s : State) (id : PortId) : Bool :=
  match id with
  | .hbm c => s.pwr.hbmHold.contains (c / 32)
  | _ => false

/-- The grant in progress at a port ends, and its queue is charged (R216, R219). `work`: the requests that wait for a
grant of the port's scheduler. -/
def State.endGrant (s : State) (id : PortId) (work : List PortReq) : State :=
  match (s.port id).cur, schedOfPort id with
  | some r, some sch =>
    (match r.priv with
     | some k =>
       let y := s.sched sch
       s.setSched sch { y with deficits := tput y.deficits k (y.deficit k - (s.lenNs sch r.len : Int)) }
     | none => (match r.queue with
       | some q => s.charge sch q r.len (work.filterMap fun (w : PortReq) => w.queue)
       | none => s)).dropIdle sch (s.privWaiting work)
  | _, _ => s

/-- A request that is granted `n` bytes keeps its place for the rest. -/
def takeGrant (r : PortReq) (n : Nat) : List PortReq → List PortReq
  | [] => []
  | x :: rest =>
    if x == r then (if r.len > n then { r with len := r.len - n } :: rest else rest) else x :: takeGrant r n rest

/-- The next grant at a port is chosen (R223): of the requests in `open_` that wait, the class under the regulator, then
the request. The request granted is `cur` of the answer; the port's other requests are left. -/
def State.grantOf (s : State) (id : PortId) (open_ : List PortReq) : State :=
  let x := s.port id
  let y := open_.filter fun r => s.waiting id r && (!s.held id || classRank r.cls ≤ classRank .b)
  let z : Port := { x with reqs := y }
  match nextGrant z with
  | none => s.setPort id { x with cur := none }
  | some cls =>
    match s.pick id cls y with
    | none => s.setPort id { x with cur := none }
    | some r =>
      let n := match grantBytes id with | some b => min b r.len | none => r.len
      s.setPort id { win := (cls :: x.win).take 32, reqs := takeGrant r n x.reqs, cur := some { r with len := n },
                     holds := z.countHolds cls }

/-- The requests of a port whose work is over are gone (DEDUCED, log entry 8). -/
def State.tidyPort (s : State) (id : PortId) : State :=
  let x := s.port id
  s.setPort id { x with reqs := x.reqs.filter fun r => match r.owner with | some o => s.ownerLive o | none => true }

/-- The grant in progress ends, its queue is charged, and the next request is granted (R223). -/
def State.grantNext (s : State) (id : PortId) : State :=
  let t := (s.tidyPort id).endGrant id (s.port id).reqs
  t.grantOf id (t.port id).reqs

/-! ## The commands of this file -/

/-- DEFERRED_ADMIT (R214). -/
def execDeferredAdmit (p q : Nat) (s : State) : Host.Outcome State Fault Refusal :=
  .next (doDeferredAdmit p q s)

/-- HIST_SAMPLE (R222). -/
def execHistSample (s : State) : Host.Outcome State Fault Refusal :=
  .next (doHistSample s)

end Machine
end Sys2Proof
end

