-- ==== Sys2Proof/Machine/Rings.lean ====
section
/-!
DEFINITION. Sys2Proof/Machine/Rings.lean: the submission and completion rings (chapter 19, "Rings"; R401 to R409), the
reading of an entry (R32, R209, R402, R403) and the instant at which a verb's turn comes (R37).
-/
namespace Sys2Proof
namespace Machine

/-- The function of partition p takes part on the host link: enabled, not in D3hot. -/
def State.vfOn (s : State) (p : Nat) : Bool :=
  let v := s.vf p
  s.live && s.hif.linkUp && v.enabled && !v.d3hot

/-! ## Doorbells (R401, R402) -/

/-- A doorbell write without effect: HIF_DB_ERR is incremented. -/
def State.dbErr (s : State) (p : Nat) : State := s.countSat .hifDbErr p

/-- SQ_DOORBELL. -/
def doSqDoorbell (p tail : Nat) (s : State) : State :=
  if !s.vfOn p then s
  else
    let v := s.vf p
    let size := ringSlots v.sqSize
    let given := (v.sqTail + size - v.sqHead) % size
    let fresh := (tail + size - v.sqTail) % size
    if !v.sqEnable || v.tdi != .run || tail ≥ size || given + fresh > size - 1 then s.dbErr p
    else s.setVf p { v with sqTail := tail }

/-- CQ_DOORBELL. -/
def doCqDoorbell (p head : Nat) (s : State) : State :=
  if !s.vfOn p then s
  else
    let v := s.vf p
    let size := ringSlots v.cqSize
    let freed := (head + size - v.cqHead) % size
    if !v.cqEnable || v.tdi != .run || head ≥ size || freed > v.cqUsed then s.dbErr p
    else s.setVf p { v with cqHead := head, cqUsed := v.cqUsed - freed }

/-! ## Enabling and disabling (R401) -/

/-- SQ_ENABLE: BASE and SIZE take effect only while ENABLE reads 0; otherwise a change of either is refused and counted
once. From 0 to 1 the ring's slot index is 0. -/
def doSqEnable (p base log2 : Nat) (s : State) : State :=
  if !s.vfOn p then s
  else
    let v := s.vf p
    if v.sqEnable then
      (if v.sqBase != base || v.sqSize != log2 then s.accessErr (.vf p) else s)
    else
      s.setVf p { v with sqBase := base, sqSize := log2, sqEnable := true, sqHead := 0, sqTail := 0, sqRead := 0,
                         sqSlots := [] }

/-- SQ_DISABLE: entries read are taken into the device, and HEAD moves to the read position. -/
def doSqDisable (p : Nat) (s : State) : State :=
  if !s.vfOn p then s
  else
    let v := s.vf p
    if !v.sqEnable then s
    else
      (s.setVf p { v with sqEnable := false, sqHead := v.sqRead, sqSlots := [] }).setVerbs p
        ((s.verbs p).map fun x => { x with slot := none })

/-- CQ_ENABLE: the slot index is 0 and the phase 1. -/
def doCqEnable (p base log2 : Nat) (s : State) : State :=
  if !s.vfOn p then s
  else
    let v := s.vf p
    if v.cqEnable then
      (if v.cqBase != base || v.cqSize != log2 then s.accessErr (.vf p) else s)
    else
      s.setVf p { v with cqBase := base, cqSize := log2, cqEnable := true, cqIndex := 0, cqPhase := true, cqHead := 0,
                         cqUsed := 0 }

/-- CQ_DISABLE: records wait in the record buffer (R406). -/
def doCqDisable (p : Nat) (s : State) : State :=
  if !s.vfOn p then s else s.setVf p { s.vf p with cqEnable := false }

/-! ## Reading an entry (R402, R403) -/

/-- Every entry of the partition completes with FENCED when it is read (R403): it is fenced or being reset (R342), it
is REFORM or ABSENT in a composition change under way (R238), or no image in force holds it (R234, R394). DEDUCED, log entry 7. -/
def State.entriesFenced (s : State) (p : Nat) : Bool :=
  let m := (s.recPart p).mode
  m == .fenced || m == .resetting || m == .safe || (s.partImage? p).isNone ||
  s.kindOf p == .reform || s.kindOf p == .absent

/-- The next entry may be read: the ring is enabled, an entry is given, fewer than 4,096 stand beyond HEAD. -/
def State.canReadSq (s : State) (p : Nat) : Bool :=
  let v := s.vf p
  let size := ringSlots v.sqSize
  s.hostUp p && v.sqEnable && v.sqRead != v.sqTail && (v.sqRead + size - v.sqHead) % size < 4096

/-- The queue that a verb is charged to (R209): its own field; its sequence's; for a session-scope verb that of the
source sequence of FORK, else of the lowest live sequence. DEDUCED, log entry 8. -/
def State.queueOf (s : State) (v : Verb) : Nat :=
  match v.scope with
  | .part => v.queueField
  | .sequence => (match s.seq? v.dir v.seq with | some q => q.queue | none => 0)
  | .session =>
    match s.session? v.dir with
    | none => 0
    | some x =>
      match (if v.op == .fork then tget x.seqs v.seq else none), x.seqs.find? (fun e => e.2.state != .closed) with
      | some q, _ => q.queue
      | none, some e => e.2.queue
      | none, none => 0

/-- A CLOSE or STEP with STOP has been read: its sequences are no candidates from now on (R93). -/
def State.markStopping (s : State) (v : Verb) : State :=
  if v.op == .close && v.flag flagSession then s.modSeqs v.dir fun q => { q with stopping := true }
  else s.modSeq v.dir v.seq fun q => { q with stopping := true }

/-- A verb whose entry has been read comes to ingress: the checks of R403, R32 and R209 in their order. -/
def State.accept (s : State) (p : Nat) (b : Bytes) (v : Verb) : State :=
  if s.entriesFenced p then s.complete p v.id .fenced
  else if entryMalformed b then s.complete p v.id .badArgument
  else if v.scope != .part && (s.checkHandle p v.handle v.seq v.scope).isNone then s.complete p v.id .badHandle
  else if v.acts then
    ((s.releaseSlot p v.id).modVerb p v.id fun v => { v with phase := .begun }).markStopping v
  else if v.scope == .part && !s.queueIn p v.queueField then s.complete p v.id .badArgument
  else
    (s.modVerb p v.id fun w => { w with queue := s.queueOf v }).ingress p v.id

/-- The verb that an entry of 128 bytes read now spells, with the edit list that a SPLICE names (R403). -/
def State.entryVerb (s : State) (p : Nat) (b : Bytes) (edits : Option Bytes) : Verb :=
  { id := s.hif.nextVerb, op := verbOf (entryOpcode b), opcode := entryOpcode b, flags := entryFlags b,
    seq := entrySeq b, prio := entryPrio b, queueField := entryQueue b, handle := entryHandle b, tag := entryTag b,
    body := entryBody b, arrival := s.now, epoch := s.readEpoch p, slot := some (s.vf p).sqRead, edits := edits }

/-- The verb has been read: the read position moves on, and the verb stands last in ring order. -/
def State.takeEntry (s : State) (p : Nat) (v : Verb) : State :=
  let x := s.vf p
  let t := s.setVf p { x with sqRead := (x.sqRead + 1) % ringSlots x.sqSize,
                              sqSlots := x.sqSlots ++ [(x.sqRead, false)] }
  let t := { t with hif := { t.hif with nextVerb := s.hif.nextVerb + 1 } }
  t.setVerbs p (t.verbs p ++ [v])

/-- SQ_ENTRY_READ: the entry at the read position has arrived. -/
def doSqEntryRead (p : Nat) (data edits : Option Bytes) (s : State) : State :=
  if !s.canReadSq p then s
  else
    let b := data.getD (zeros 128)
    let v := s.entryVerb p b edits
    let t := s.takeEntry p v
    match data with
    | none => (t.complete p v.id (if s.entriesFenced p then .fenced else .badArgument) 0x8000).dbErr p
    | some _ => t.accept p b v

/-! ## The turn of a verb (R37, R182, R406) -/

/-- The index that INDEX_LOAD, DELETE or INDEX_DROP names. -/
def Verb.index? (v : Verb) : Option Nat :=
  match v.op with
  | .indexLoad => some (v.f 0x30 2)
  | .delete | .indexDrop => some (v.f 0x2A 2)
  | _ => none

/-- Verb w, earlier on the ring and not complete, keeps verb v from beginning: R37 for one session; a STEP waits until grammar loads
and drops have completed, and these until those before them have begun (R182); the verbs that change one index wait for one
another (R192). -/
def blocks (w v : Verb) : Bool :=
  if v.index?.isSome && v.index? == w.index? then true else
  if v.op == .step && (w.op == .grammarLoad || w.op == .grammarDrop) then true
  else if v.op == .grammarLoad || v.op == .grammarDrop then (w.op == .grammarLoad || w.op == .grammarDrop) && w.phase != .running
  else if v.scope == .part || w.scope == .part || w.handle != v.handle then false
  else v.scope == .session || w.scope == .session || w.seq == v.seq

/-- The verbs that stand before a verb on the ring. -/
def before (vid : Nat) (l : List Verb) : List Verb := l.takeWhile fun w => w.id != vid

/-- The session is in hand-off: its record is being acquired, written, sent or reclaimed. A hand-off that has been reclaimed
and whose slot is being cleared holds no verb back (R280). -/
def Session.inHandoff (x : Session) : Bool :=
  match x.send with
  | none => false
  | some o => !(o.done && (o.phase == .zeroHeader || o.phase == .release))

/-- The verb's turn has come (R37): nothing earlier blocks it, no CLOSE that acts covers its session, and no hand-off
of its session is outstanding (R280). -/
def State.turn (s : State) (p : Nat) (v : Verb) : Bool :=
  (before v.id (s.verbs p)).all (fun w => !blocks w v) &&
  (s.verbs p).all (fun w => !(w.op == .close && w.phase == .begun && v.scope != .part && w.handle == v.handle &&
    (w.flag flagSession || v.scope == .session || w.seq == v.seq))) &&
  (v.scope == .part ||
    (match s.session? v.dir with
     | some x => !x.inHandoff
     | none => true))

/-- The live sequences of a session in number order. -/
def Session.live (x : Session) : List Seq := (x.seqs.map (·.2)).filter fun q => q.state != .closed

/-- The state that Table 2.4 asks of a verb's sequence or session. PARKED and REVIVING pass for the verbs that revive:
they wait for the revive. -/
def stateAccepts (v : Verb) (x : Session) : Bool :=
  let st := fun n => match tget x.seqs n with | some q => q.state | none => .closed
  let parkish := fun (q : SeqState) => q == .parked || q == .reviving
  match v.op with
  | .append => let q := st v.seq; q == .new || q == .wait || parkish q
  | .splice => let q := st v.seq; q == .new || q == .wait || parkish q
  | .step => let q := st v.seq; q == .wait || parkish q
  | .place => let q := st v.seq; q == .new || q == .wait || parkish q
  | .fork => let q := st v.seq; q == .wait || parkish q
  | .park => x.live.all fun q => q.state == .new || q.state == .wait
  | .revive => x.live.all fun q => parkish q.state
  | .handoffSend => x.live.all fun q => q.state == .new || q.state == .wait || q.state == .parked
  | _ => true

/-- A session verb, which needs the partition's model program (R144, R235); GRAMMAR_LOAD needs it too. DEDUCED, log entry 20. -/
def needsProgram (op : VerbOp) : Bool :=
  op == .openS || op == .append || op == .step || op == .park || op == .revive || op == .fork || op == .splice ||
  op == .close || op == .grammarLoad

/-- The verbs that a STATE partition does not take (R272). -/
def stateRefuses (op : VerbOp) : Bool :=
  op == .step || op == .append || op == .splice || op == .fork || op == .place || op == .revive

/-- What refuses a verb at the instant at which it would begin; none: it begins. -/
def State.refuses (s : State) (p : Nat) (v : Verb) : Option Status :=
  if !s.hasPrk p then some .badState
  else if needsProgram v.op && (s.program? p).isNone then some .badState
  else if v.scope == .part then none
  else
    match s.checkHandle p v.handle v.seq v.scope with
    | none => some .badHandle
    | some d =>
      if v.op == .close then none
      else if (s.recOf d).damaged then some .tierFailed
      else if (s.recOf d).expired then some .ttlExpired
      else
        match s.session? d with
        | none => some .badHandle
        | some x =>
          let q := tget x.seqs v.seq
          if (v.scope == .sequence || v.op == .fork) && (match q with | some q => q.state == .poisoned | none => false)
          then some .poisoned
          else if s.roleOf p == .state && stateRefuses v.op then some .badState
          else if v.op == .place && !s.objectMode p then some .badState
          else if stateAccepts v x then none
          else some .badState

/-- VERB_BEGIN: a queued verb's turn has come, and it is checked again. A held verb begins once the fence is gone.
DEDUCED, log entry 6. -/
def doVerbBegin (p vid : Nat) (s : State) : State :=
  match s.verb? p vid with
  | none => s
  | some v =>
    if !s.live || v.phase != .queued || s.bufferFull p || !s.turn p v || s.partFenced p || (s.partImage? p).isNone then s
    else
      match s.refuses p v with
      | some st => s.complete p vid st
      | none => s.modVerb p vid fun v => { v with phase := .begun }

/-! ## Writing completion records (R406, R409) -/

/-- Vector 0 of the virtual function is sent. -/
def State.signal (s : State) (p : Nat) : State :=
  let v := s.vf p
  (s.setVf p { v with unsignalled := 0, msix := v.msix ++ [0] }).emit (.msix (.vf p) 0)

/-- The interrupt that follows a record: at COAL_COUNT records (0 acts as 1), or at once where COAL_US is 0. -/
def State.coalesce (s : State) (p : Nat) : State :=
  let v := s.vf p
  let t := s.setVf p { v with unsignalled := v.unsignalled + 1,
                              unsignalledSince := if v.unsignalled = 0 then s.now else v.unsignalledSince }
  if v.coalUs = 0 || v.unsignalled + 1 ≥ max 1 v.coalCount then t.signal p else t

/-- A slot of the CQ is free and a record waits for it. -/
def State.canWriteCq (s : State) (p : Nat) : Bool :=
  let v := s.vf p
  s.hostUp p && v.cqEnable && !v.waiting.isEmpty && v.cqUsed < ringSlots v.cqSize - 1

/-- CQ_RECORD_WRITE: the oldest record goes into the next slot with its CSN and phase. -/
def doCqRecordWrite (p : Nat) (s : State) : State :=
  if !s.canWriteCq p then s
  else
    let v := s.vf p
    match v.waiting with
    | [] => s
    | w :: rest =>
      let size := ringSlots v.cqSize
      let bytes := recordBytes w.record v.csnNext v.cqPhase
      let rest := ((rest.take Config.recordBuffer).map fun x => { x with inDir := false }) ++
        rest.drop Config.recordBuffer
      let last := v.cqIndex + 1 = size
      let t := s.setVf p { v with waiting := rest, csnNext := (v.csnNext + 1) % two64, cqUsed := v.cqUsed + 1,
                                  cqIndex := if last then 0 else v.cqIndex + 1,
                                  cqPhase := if last then !v.cqPhase else v.cqPhase }
      let t := t.emit (.hostWrite (v.cqBase + 128 * v.cqIndex) bytes)
      let t := if w.notice.isSome then t
               else t.modSeq (hIndex w.record.handle) w.record.seq fun q => { q with csn := v.csnNext }
      t.coalesce p

/-- COAL_TIMER_EXPIRE: COAL_US has passed since the first unsignalled record. -/
def doCoalTimerExpire (p : Nat) (s : State) : State :=
  let v := s.vf p
  if s.hostUp p && v.unsignalled > 0 && s.now ≥ v.unsignalledSince + 1000 * v.coalUs then s.signal p else s

/-! ## The commands of this file -/

/-- SQ_DOORBELL (R402). -/
def execSqDoorbell (p tail : Nat) (s : State) : Host.Outcome State Fault Refusal :=
  .next (doSqDoorbell p tail s)

/-- CQ_DOORBELL (R401). -/
def execCqDoorbell (p head : Nat) (s : State) : Host.Outcome State Fault Refusal :=
  .next (doCqDoorbell p head s)

/-- SQ_ENABLE (R401). -/
def execSqEnable (p base log2 : Nat) (s : State) : Host.Outcome State Fault Refusal :=
  .next (doSqEnable p base log2 s)

/-- SQ_DISABLE (R401). -/
def execSqDisable (p : Nat) (s : State) : Host.Outcome State Fault Refusal :=
  .next (doSqDisable p s)

/-- CQ_ENABLE (R401). -/
def execCqEnable (p base log2 : Nat) (s : State) : Host.Outcome State Fault Refusal :=
  .next (doCqEnable p base log2 s)

/-- CQ_DISABLE (R401). -/
def execCqDisable (p : Nat) (s : State) : Host.Outcome State Fault Refusal :=
  .next (doCqDisable p s)

/-- SQ_ENTRY_READ (R402). -/
def execSqEntryRead (p : Nat) (data edits : Option Bytes) (s : State) : Host.Outcome State Fault Refusal :=
  .next (doSqEntryRead p data edits s)

/-- VERB_BEGIN (R37). -/
def execVerbBegin (p vid : Nat) (s : State) : Host.Outcome State Fault Refusal :=
  .next (doVerbBegin p vid s)

/-- CQ_RECORD_WRITE (R406). -/
def execCqRecordWrite (p : Nat) (s : State) : Host.Outcome State Fault Refusal :=
  .next (doCqRecordWrite p s)

/-- COAL_TIMER_EXPIRE (R409). -/
def execCoalTimerExpire (p : Nat) (s : State) : Host.Outcome State Fault Refusal :=
  .next (doCoalTimerExpire p s)

end Machine
end Sys2Proof
end

