-- ==== Sys2Proof/Machine/Folios.lean ====
section
/-!
DEFINITION. Sys2Proof/Machine/Folios.lean: chapter 3 and the space of T3 and T4 (R290, R301): descriptors and references
(R58, R82, R83), heat (R74), the prefix index (R80), the bindery's promotions and demotions (R75 to R79).
-/
namespace Sys2Proof
namespace Machine

/-- Units that a list of pairs or numbers holds no more. -/
def listErase (l out : List Nat) : List Nat := l.filter fun x => !out.contains x

/-! ## Space in T4 (R289, R290, R297) -/

/-- Usable units of a channel: raw units × (100 − OP_PCT) / 100; a block of the model holds `unitsPerBlock` units.
DEDUCED, log entry 11. -/
def unitsPerBlock : Nat := 4096

def State.opPct (s : State) : Nat := bits (s.reg .nvfFtlCfg) 63 56
def State.usableUnits (s : State) (c : Nat) : Nat := (s.chanOf c).nblocks * unitsPerBlock * (100 - s.opPct) / 100
def State.freeUnitsOf (s : State) (c : Nat) : Nat := s.usableUnits c - (s.chanOf c).alloc.length

/-- The partition's channels that accept new folio writes (Table 14.4: ACTIVE). -/
def State.writableChans (s : State) (p : Nat) : List Nat :=
  (s.partImage p).part.nand.filter fun c => (s.chanOf c).state == .active

/-- w of R290: the largest of 1, 2, 4, 8 and 16 that does not exceed n. -/
def stripeWidth (n : Nat) : Nat := if n ≥ 16 then 16 else if n ≥ 8 then 8 else if n ≥ 4 then 4 else if n ≥ 2 then 2 else n

/-- Channels by most free units first, ties to the lower channel. -/
def State.insertChan (s : State) (c : Nat) : List Nat → List Nat
  | [] => [c]
  | x :: r => if s.freeUnitsOf c > s.freeUnitsOf x then c :: x :: r else x :: s.insertChan c r

/-- The channels that a folio goes to. -/
def State.pickChans (s : State) (p : Nat) : List Nat :=
  let l := s.writableChans p
  (l.foldl (fun a c => s.insertChan c a) []).take (stripeWidth l.length)

/-- The lowest logical address, a multiple of k, at which every chosen channel has k free units. -/
def State.lowestAddr (s : State) (chans : List Nat) (k : Nat) : Nat :=
  let busy := chans.flatMap fun c => (s.chanOf c).alloc
  let free := fun a => (List.range k).all fun i => !busy.contains (a + i)
  match (List.range (busy.length + 1)).find? (fun i => free (k * i)) with
  | some i => k * i
  | none => 0

/-- The mask of a set of channels. -/
def chanMask (l : List Nat) : Nat := l.foldl (fun a c => a + 2 ^ c) 0
/-- The channels of a T4 location. -/
def locChans (loc : Nat) : List Nat := (List.range 32).filter fun c => (loc / two32).testBit c
/-- The units of a T4 location on each of its channels. -/
def locUnits (loc : Nat) : List Nat :=
  let w := (locChans loc).length
  (List.range (if w = 0 then 0 else 16 / w)).map fun i => loc % two32 + i

/-- A place for one folio in T4, if the partition's T4 share and its channels have room. DEDUCED, log entry 11. -/
def State.allocT4 (s : State) (p : Nat) : Option (Nat × State) :=
  let chans := s.pickChans p
  let x := s.folPart p
  if chans.isEmpty || x.t4Use ≥ (s.partImage p).folio.t4Share then none
  else
    let k := 16 / chans.length
    if chans.any (fun c => s.freeUnitsOf c < k) then none
    else
      let a := s.lowestAddr chans k
      let units := (List.range k).map fun i => a + i
      let t := chans.foldl (fun t c => t.modChan c fun h => { h with alloc := h.alloc ++ units }) s
      some (chanMask chans * two32 + a, t.setFolPart p { x with t4Use := x.t4Use + 1 })

/-- The units of a T4 location are freed: they are unmapped, and a relocation of one is not carried on (R292). -/
def State.freeT4 (s : State) (p loc : Nat) : State :=
  let units := locUnits loc
  let t := (locChans loc).foldl (fun t c => t.modChan c fun h =>
    { h with alloc := listErase h.alloc units, map := units.foldl tdel h.map, seqs := units.foldl tdel h.seqs,
             relocs := h.relocs.map fun r => if units.contains r.unit then { r with freed := true } else r }) s
  t.modFolPart p fun x => { x with t4Use := x.t4Use - 1 }

/-! ## Space in T3 (R301, R302) -/

/-- Frames of the window in use by any partition. -/
def State.t3Used (s : State) : List Nat := s.fol.parts.flatMap fun e => e.2.t3Frames
def State.t3Frames (s : State) : Nat := bits (s.reg .hifT3Cfg) 28 0
def State.t3Mode (s : State) : Nat := bits (s.reg .hifT3Cfg) 63 62
/-- The path that MODE selects is up (Table 14.9): PCIe with a selective IDE stream over the physical function, or
CXL.mem. -/
def State.t3Up (s : State) : Bool :=
  s.live && ((s.t3Mode == 1 && s.hif.linkUp && s.hif.ideStreams.contains 0) || (s.t3Mode == 2 && s.hif.linkUp && s.hif.cxlMem))

/-- A frame for one folio, if the partition's T3 share has room. DEDUCED, log entry 11. -/
def State.allocT3 (s : State) (p : Nat) : Option (Nat × State) :=
  let x := s.folPart p
  let used := s.t3Used
  if !s.t3Up || x.t3Use ≥ (s.partImage p).folio.t3Share || used.length ≥ s.t3Frames then none
  else
    match (List.range (used.length + 1)).find? (fun f => !used.contains f) with
    | some f => some (f, s.setFolPart p { x with t3Use := x.t3Use + 1, t3Frames := x.t3Frames ++ [f] })
    | none => none

def State.freeT3 (s : State) (p f : Nat) : State :=
  s.modFolPart p fun x => { x with t3Use := x.t3Use - 1, t3Frames := x.t3Frames.filter (· != f) }

/-- A place in T3 or T4. -/
def State.allocTier (s : State) (p tier : Nat) : Option (Nat × State) :=
  if tier = 3 then s.allocT3 p else if tier = 4 then s.allocT4 p else none
def State.freeTier (s : State) (p tier loc : Nat) : State :=
  if tier = 3 then s.freeT3 p loc else if tier = 4 then s.freeT4 p loc else s

/-- Bytes moved to or from a tier are counted (HIF_T3_RD_BYTES, HIF_T3_WR_BYTES). -/
def State.countRead (s : State) (p tier : Nat) : State :=
  if tier = 3 then s.count .hifT3RdBytes p Config.folioBytes else s
def State.countWrite (s : State) (p tier : Nat) : State :=
  if tier = 3 then s.count .hifT3WrBytes p Config.folioBytes else s

/-! ## Heat (R74) -/

def heatTick (cfg : W64) : Nat := max 1 (bits cfg 31 0) * 1000000 / 16

/-- `n` ticks of decay. -/
def decay : Nat → Nat → Nat
  | 0, h => h
  | n + 1, h => decay n (h * 245 / 256)

/-- heat_now: the heat and the time of its last whole tick. -/
def heatNow (cfg : W64) (f : Folio) (now : Nat) : Nat × Nat :=
  let n := (now - f.heatTime) / heatTick cfg
  (decay (min n 255) f.heat, f.heatTime + n * heatTick cfg)

/-- on_step_read. -/
def heated (cfg : W64) (f : Folio) (now : Nat) : Folio :=
  let (h, t) := heatNow cfg f now
  { f with heat := min 255 (h + bits cfg 47 40), heatTime := t }

/-! ## Descriptors, references and pins (R58, R82, R83) -/

/-- T1 share and watermarks of a partition, in folios. -/
def State.t1Share (s : State) (p : Nat) : Nat := (s.partImage p).folio.t1Share
def State.t1High (s : State) (p : Nat) : Nat := (s.partImage p).folio.t1High
def State.t1Low (s : State) (p : Nat) : Nat := (s.partImage p).folio.t1Low
/-- Room for n more folios in T1. -/
def State.t1Room (s : State) (p n : Nat) : Bool := (s.folPart p).t1Use + n ≤ s.t1Share p

/-- KV folios of the partition that pressure demotion may choose (R76). -/
def State.victims (s : State) (p : Nat) : List (Nat × Folio) :=
  s.fol.folios.filter fun e =>
    e.2.part == p && e.2.kind == .kv && e.2.tier == 1 && e.2.pin == 0 && !e.2.demoting && !e.2.promoting

/-- Rising heat, then oldest last update (the update as the descriptor holds it). -/
def State.colder (s : State) (p : Nat) (a b : Nat × Folio) : Bool :=
  let cfg := s.reg .folHeatCfg p
  let ha := (heatNow cfg a.2 s.now).1
  let hb := (heatNow cfg b.2 s.now).1
  decide (ha < hb) || (ha == hb && decide (a.2.heatTime < b.2.heatTime))

def State.coldest (s : State) (p : Nat) : Option Nat :=
  match s.victims p with
  | [] => none
  | e :: r => some (r.foldl (fun a b => if s.colder p b a then b else a) e).1

/-- Demotion targets in the order that DEMOTE_TO gives (Table 3.5). -/
def State.demoteTo (s : State) (p : Nat) : List Nat :=
  match bits (s.reg .folHeatCfg p) 35 34 with
  | 0 => [3]
  | 1 => [4]
  | _ => [4, 3]

/-- The first tier of a list that has room, with the place taken there. -/
def State.allocFirst (s : State) (p : Nat) : List Nat → Option (Nat × Nat × State)
  | [] => none
  | t :: r =>
    match s.allocTier p t with
    | some (loc, s') => some (t, loc, s')
    | none => s.allocFirst p r

/-- The ports that a folio crosses on its way to or from a place in T3 or T4, with its bytes at each (R290, R301). -/
def tierPorts (tier loc : Nat) : List (PortId × Nat) :=
  let cs := locChans loc
  if tier = 3 then [(.host, Config.folioBytes)]
  else if tier = 4 then cs.map fun c => (.nand c, Config.folioBytes / max 1 cs.length)
  else []

/-- A demotion of folio i starts in a class, to the first of `tiers` with room (R77). -/
def State.startDemotion (s : State) (p i : Nat) (cls : ArbClass) (tiers : List Nat) : State :=
  match s.allocFirst p tiers with
  | none => s
  | some (tier, loc, t) =>
    (t.modFolio i fun f => { f with demoting := true, target := tier, targetLoc := loc, moveCls := cls, moveSince := s.now }).carry
      (tierPorts tier loc) cls (.folio i)

/-- Pressure demotion, while it runs, keeps one folio on its way out (R76): it runs until use falls below the low
watermark, and one that a no-space miss started also ends where nothing can be chosen. Object mode demotes nothing (R84).
DESIGN CHOICE, log entry 38. -/
def State.pressureStep (s : State) (p : Nat) : State :=
  let x := s.folPart p
  if s.objectMode p || !x.pressure then s
  else if x.t1Use < s.t1Low p then s.setFolPart p { x with pressure := false, forced := false }
  else if s.fol.folios.any (fun e => e.2.part == p && e.2.demoting && e.2.moveCls == .c) then s
  else
    match s.coldest p with
    | none => s.setFolPart p { x with pressure := !x.forced, forced := false }
    | some i => s.startDemotion p i .c (s.demoteTo p)

/-- T1 use has risen: above the high watermark pressure demotion begins (R76). -/
def State.checkPressure (s : State) (p : Nat) : State :=
  if s.objectMode p then s
  else if (s.folPart p).t1Use > s.t1High p then
    (s.modFolPart p fun x => { x with pressure := true, forced := false }).pressureStep p
  else s

/-- A no-space miss starts pressure demotion whatever T1 use is (R76, R88). -/
def State.forcePressure (s : State) (p : Nat) : State :=
  if s.objectMode p then s
  else (s.modFolPart p fun x => { x with pressure := true, forced := x.forced || !x.pressure }).pressureStep p

/-- A new folio in T1: the descriptor at the head of the partition's list, with one reference. None: the descriptor
share is exhausted (R58). -/
def State.allocFolio (s : State) (p : Nat) (kind : FolioKind) (fmt : KvFmt) (layer h : Nat) : Option (Nat × State) :=
  match (s.folPart p).desc.take with
  | none => none
  | some (i, fl) =>
    let gen := match s.folio? i with | some f => f.gen | none => 0
    let f : Folio := { kind := kind, fmt := fmt, part := p, tier := 1, gen := gen, refcnt := 1, heatTime := s.now,
                       handle := h, layer := layer, copied := (s.ckpOf p).phase == 2 }
    let t := s.setFolio i f
    some (i, (t.modFolPart p fun x => { x with desc := fl, t1Use := x.t1Use + 1 }).checkPressure p)

/-- A folio leaves the prefix index with the entries that hold it (R83). -/
def State.leavePrefix (s : State) (p i : Nat) : State :=
  let x := s.folPart p
  let out := x.prefixIdx.filter fun e => e.folios.contains i
  let t := s.setFolPart p { x with prefixIdx := x.prefixIdx.filter fun e => !e.folios.contains i }
  out.foldl (fun t e => e.folios.foldl (fun t k => t.modFolio k fun f => { f with inPrefix := false }) t) t

/-- A folio with no reference and no pin is freed: its space returns, its generation rises, its payload is zero (R59,
R83). A folio that the running checkpoint still needs is kept (R313). -/
def State.reapFolio (s : State) (i : Nat) : State :=
  match s.folio? i with
  | none => s
  | some f =>
    if f.kind == .free || f.refcnt != 0 || f.pin != 0 then s
    else if (s.ckpOf f.part).phase == 2 && !f.copied then s.setFolio i { f with zombie := true }
    else
      let t := if f.demoting then s.freeTier f.part f.target f.targetLoc else s
      let t := if f.tier = 1 || f.promoting then t.modFolPart f.part fun x => { x with t1Use := x.t1Use - 1 } else t
      let t := if f.tier = 1 then t else t.freeTier f.part f.tier f.loc
      let t := f.oldPlaces.foldl (fun t e => t.freeTier f.part e.1 e.2) t
      let t := t.setFolio i { gen := (f.gen + 1) % 65536 }
      (t.modFolPart f.part fun x => { x with desc := x.desc.give i }).pressureStep f.part

/-- A reference drop (R83): at zero the folio leaves the prefix index, and is freed once nothing pins it. -/
def State.dropRef (s : State) (i : Nat) : State :=
  match s.folio? i with
  | none => s
  | some f =>
    let t := s.setFolio i { f with refcnt := f.refcnt - 1 }
    if f.refcnt ≤ 1 then ((if f.inPrefix then t.leavePrefix f.part i else t)).reapFolio i else t

def State.addRef (s : State) (i : Nat) : State := s.modFolio i fun f => { f with refcnt := f.refcnt + 1 }
/-- The most operations that PIN counts (Table 3.1). -/
def maxPins : Nat := 65535

/-- PIN of each folio of a list can rise once for each time that the list names it; else the operation waits (R79). -/
def State.pinRoom (s : State) (l : List Nat) : Bool :=
  l.all fun i => match s.folio? i with | some f => f.pin + l.count i ≤ maxPins | none => true

/-- PIN rises; a demotion that has not committed is abandoned (R77), and pressure demotion, while it runs, goes on with another. -/
def State.pin (s : State) (i : Nat) : State :=
  match s.folio? i with
  | none => s
  | some f =>
    if f.demoting then
      ((s.setFolio i { f with pin := f.pin + 1, demoting := false }).freeTier f.part f.target f.targetLoc).pressureStep f.part
    else s.setFolio i { f with pin := f.pin + 1 }

/-- PIN falls; a folio that nothing pins any more can be demoted under pressure again (R76), or is freed (R83). -/
def State.unpin (s : State) (i : Nat) : State :=
  match s.folio? i with
  | none => s
  | some f =>
    let t := (s.setFolio i { f with pin := f.pin - 1 }).reapFolio i
    if f.pin ≤ 1 then t.pressureStep f.part else t

def State.dropRefs (s : State) (l : List Nat) : State := l.foldl State.dropRef s
def State.addRefs (s : State) (l : List Nat) : State := l.foldl State.addRef s
def State.pins (s : State) (l : List Nat) : State := l.foldl State.pin s

/-- The most references of a folio (Table 3.1). -/
def maxRefs : Nat := 65535

/-- A copy of a folio with one reference (R82); the running checkpoint's capture already holds the original. -/
def State.copyFolio (s : State) (i h : Nat) : Option (Nat × State) :=
  match s.folio? i with
  | none => none
  | some f =>
    match s.allocFolio f.part f.kind f.fmt f.layer h with
    | none => none
    | some (k, t) => some (k, t.modFolio k fun g => { g with valid := f.valid, payload := f.payload, t0 := f.t0, dirty := f.dirty,
                                                             heat := f.heat, heatTime := f.heatTime })

/-! ## Entries and spans (R62, R64, R66, R67) -/

/-- Descriptors that a span names. -/
def Span.refs (x : Span) : List Nat := (x.entries.filter fun e => e.refKind == 1).map (·.ref)
def Seq.refs (q : Seq) : List Nat := q.spans.flatMap Span.refs
/-- Page-table entries of a sequence (R66). -/
def Seq.entryCount (q : Seq) : Nat := (q.spans.map fun x => x.entries.length).sum
/-- Tokens of a sequence's spans. -/
def Seq.ledger (q : Seq) : List Nat := q.spans.flatMap (·.ledger)

/-- Tokens per folio and layers per folio of a partition (R60). -/
def State.tokensPer (s : State) (p : Nat) : Nat := max 1 (s.partImage p).folio.tokens
def State.layersPer (s : State) (p : Nat) : Nat := max 1 (s.partImage p).folio.layersPer
def State.kvFmt (s : State) (p : Nat) : KvFmt := (s.partImage p).folio.kvFmt
/-- KV folios of one span: L / layers-per-folio. -/
def State.foliosPerSpan (s : State) (p : Nat) : Nat :=
  match s.program? p with
  | some g => g.layers / s.layersPer p
  | none => 0

/-- Room in the page-table share for n more entries (R66). -/
def State.ptRoom (s : State) (p n : Nat) : Bool := (s.folPart p).ptUse + n ≤ (s.partImage p).part.ptShare
def State.addPt (s : State) (p n : Nat) : State := s.modFolPart p fun x => { x with ptUse := x.ptUse + n }
def State.subPt (s : State) (p n : Nat) : State := s.modFolPart p fun x => { x with ptUse := x.ptUse - n }

/-- Reads issued against a folio's place outside T1 run: a PARK gathers it (R78, Table 3.7). -/
def State.sourceRead (s : State) (i : Nat) : Bool :=
  s.dir.sessions.any fun e => e.2.parkOp.isSome && e.2.seqs.any fun q => q.2.refs.contains i

/-- The places that committed promotions of these folios have left are released where no read against them runs any more. -/
def State.releaseSources (s : State) (l : List Nat) : State :=
  l.foldl (fun (t : State) i =>
    match t.folio? i with
    | none => t
    | some f =>
      if t.sourceRead i then t
      else f.oldPlaces.foldl (fun t e => t.freeTier f.part e.1 e.2) (t.setFolio i { f with oldPlaces := [] })) s

/-- The check of R67 before an entry with REF_KIND 1 is used. -/
def State.entryOk (s : State) (p : Nat) (e : Pte) : Bool :=
  match s.folio? e.ref with
  | some f => e.refKind == 1 && f.gen == e.dgen && f.part == p
  | none => false

/-- An entry that is used fails the check of R67. -/
def State.badEntry (s : State) (p : Nat) (l : List Span) : Bool :=
  l.any fun x => x.entries.any fun e => e.refKind == 1 && !s.entryOk p e

/-- A page-table integrity fault of a sequence is reported (R67, Table 16.5). -/
def State.pteFault (s : State) (p d n : Nat) : State :=
  s.raise 0x59 { part := some p, dir := some d, seq := n, raw := ((s.seq? d n).bind (·.spine)).getD 0 }

/-! ## Staging copies in T0 (R69, Table 3.6) -/

/-- The bytes of a folio as the step under way sees them: its T0 copy, or its payload. -/
def Folio.bytes (f : Folio) : Mem := f.t0.getD f.payload

/-- Staging: a step's working set is copied from T1 to T0, in class B. -/
def State.stageIn (s : State) (l : List Nat) : State :=
  l.foldl (fun (t : State) i => t.modFolio i fun f =>
    if f.t0.isNone then { f with t0 := some f.payload, t0Loc := (Config.stagePlace i).toNat } else f) s

/-- The T0 copies of a step that completes: what is dirty is written back to T1, and the copies are gone. -/
def State.unstage (s : State) (l : List Nat) : State :=
  l.foldl (fun (t : State) i => t.modFolio i fun f => { f with payload := f.bytes, dirty := false, t0 := none, t0Loc := 0 }) s

/-- The T0 copies of a step that is rolled back are dropped: T1 stands (R69, R336). -/
def State.dropStage (s : State) (l : List Nat) : State :=
  l.foldl (fun (t : State) i => t.modFolio i fun f => { f with dirty := false, t0 := none, t0Loc := 0 }) s

/-- The 256 bytes of a descriptor (Table 3.1). -/
def Folio.descBytes (f : Folio) : Bytes :=
  let kind := match f.kind with | .free => 0 | .flyleaf => 1 | .pageTable => 2 | .kv => 3
  natLe 4 (kind + at' (kvFmtCode f.fmt) 4 + at' (f.part % 16) 8 + at' (f.tier % 16) 12 + at' f.dirty.toNat 16 + at' f.copied.toNat 17 +
    at' f.inPrefix.toNat 18 + at' f.promoting.toNat 19 + at' f.demoting.toNat 20) ++
  natLe 2 f.gen ++ natLe 2 f.refcnt ++ natLe 2 f.pin ++ natLe 1 f.heat ++ zeros 5 ++ natLe 8 f.heatTime ++ natLe 8 f.loc ++
  natLe 8 f.t0Loc ++ natLe 8 f.handle ++ natLe 4 (f.layer % 256 + at' (f.valid % 2048) 8) ++ (if f.tier ≥ 3 then nonceBytes f.nonce else zeros 12) ++ natLe 16 f.tag ++
  fit 48 (f.digest.getD []) ++ natLe 16 (if f.inPrefix then f.chain else 0) ++ zeros 112

/-- A demoted folio as sealed under its session's data key and a nonce: PARK_ID zero, no ordinal (Table 14.5).
DEDUCED, log entry 39. -/
def State.demoted (s : State) (f : Folio) (nonce : Nat) : Sealed :=
  { kind := 3, fmt := f.fmt, layer := f.layer, valid := f.valid, ordinal := 0xFFFFFFFF, nonce := nonce, payload := f.payload,
    key := ((s.session? (hIndex f.handle)).bind (·.sdk)).getD 0 }

/-- The AES-256-GCM tag of a demoted folio's seal (R299). -/
def State.sealTag (s : State) (f : Folio) (nonce : Nat) : Nat := leNat (s.demoted f nonce).sealing.2

/-- A sealed folio goes out to its frame of the T3 window (R301): a parked quire's with its seal record in the seal area, a demoted one's
record stays in the descriptor (R300). -/
def State.writeT3 (s : State) (f : Sealed) (frame : Nat) (parked : Bool) : State :=
  let t := s.emit (.hostWrite (bits (s.reg .hifT3Base) 63 16 * 65536 + Config.folioBytes * frame) f.bytes)
  if parked then t.emit (.hostWrite (bits (s.reg .hifT3SealBase) 63 12 * 4096 + 32 * frame) f.record) else t

/-- The folios of a quire are written to the places that they name in a tier. -/
def State.writeQuire (s : State) (p tier : Nat) (l : List Sealed) : State :=
  if tier = 3 then l.foldl (fun (t : State) f => t.writeT3 f f.loc true) (s.count .hifT3WrBytes p (l.length * Config.folioBytes)) else s

/-! ## The prefix index (R80) -/

/-- The words that the chain digest covers. -/
def State.chainWords (s : State) (p prev : Nat) (ledger : List Nat) : List Nat :=
  let g := (s.partImage p).prog.id
  [g, s.tokensPer p, s.layersPer p, kvFmtCode (s.kvFmt p), prev] ++ ledger
def State.chainOf (s : State) (p prev : Nat) (ledger : List Nat) : Nat := (Config.chainDigest (s.chainWords p prev ledger)).toNat

/-- Chain digest of the first n spans of a context. -/
def State.chainOver (s : State) (p : Nat) (spans : List (List Nat)) : Nat := spans.foldl (fun prev l => s.chainOf p prev l) 0

/-- The entry of the index that holds this span after these spans: digest and ledger agree (R80). -/
def State.prefixHit (s : State) (p : Nat) (earlier : List (List Nat)) (ledger : List Nat) : Option PrefixEntry :=
  let prev := s.chainOver p earlier
  let key := s.chainOf p prev ledger
  if (s.partImage p).folio.prefixOn then
    (s.folPart p).prefixIdx.find? fun e => e.chain == key && e.prev == prev && e.ledger == ledger
  else none

/-- A full span of a sequence enters the index, if there is room and every span before it is full and unmodified.
DESIGN CHOICE, log entry 38. -/
def State.enterPrefix (s : State) (p : Nat) (earlier : List (List Nat)) (span : Span) : State :=
  let x := s.folPart p
  let f := (s.partImage p).folio
  let prev := s.chainOver p earlier
  let key := s.chainOf p prev span.ledger
  if !f.prefixOn || x.prefixIdx.length ≥ f.prefixMax || x.prefixIdx.any (fun e => e.chain == key && e.ledger == span.ledger)
  then s
  else
    let t := s.setFolPart p { x with prefixIdx := x.prefixIdx ++
      [{ chain := key, prev := prev, ledger := span.ledger, folios := span.refs }] }
    span.refs.foldl (fun t i => t.modFolio i fun f => { f with inPrefix := true, chain := key }) t

/-! ## Promotions (R75, R78) -/

/-- A promotion starts: PIN rises, and its place in T1 is taken; where PIN cannot rise it waits (R79). -/
def State.startPromotion (s : State) (i : Nat) (cls : ArbClass) : State :=
  match s.folio? i with
  | none => s
  | some f =>
    if f.tier = 1 || f.promoting || f.pin ≥ maxPins then s
    else
      let t := (s.pin i).modFolio i fun f => { f with promoting := true, moveCls := cls, moveSince := s.now }
      let t := t.carry (tierPorts f.tier f.loc) cls (.folio i)
      (t.modFolPart f.part fun x => { x with t1Use := x.t1Use + 1 }).checkPressure f.part

/-- Whether a folio belongs to a sequence that holds a Spine entry. -/
def State.residentFolio (s : State) (p i : Nat) : Bool :=
  s.dir.sessions.any fun e => e.2.part == p && e.2.seqs.any fun q => q.2.spine.isSome && q.2.refs.contains i

/-- PREFETCH_START (R75, Table 3.6). -/
def doPrefetchStart (i : Nat) (s : State) : State :=
  match s.folio? i with
  | none => s
  | some f =>
    let cfg := s.reg .folHeatCfg f.part
    if s.live && s.hasPrk f.part && f.kind == .kv && (f.tier == 3 || f.tier == 4) && !f.promoting && !s.objectMode f.part &&
       (heatNow cfg f s.now).1 ≥ bits cfg 55 48 && (s.folPart f.part).t1Use + 1 ≤ s.t1High f.part && s.t1Room f.part 1 &&
       s.residentFolio f.part i
    then s.startPromotion i .d
    else s

/-- A demand promotion no longer stands in its tier's backlog. -/
def State.subDemand (s : State) (p tier n : Nat) : State :=
  s.modFolPart p fun x => { x with demandBacklog := tput x.demandBacklog tier (tgetD x.demandBacklog tier 0 - n) }
def State.addDemand (s : State) (p tier n : Nat) : State :=
  s.modFolPart p fun x => { x with demandBacklog := tput x.demandBacklog tier (tgetD x.demandBacklog tier 0 + n) }

/-- Room in T1 for one promotion. -/
def State.canPromote (s : State) (p : Nat) : Bool := s.t1Room p 1

/-- A PLACE moves its folios one after another (R85, Table 11.6): the first that still stands elsewhere starts, unless it
moves already; one that is pinned in T1 is moved once its pins are gone (R77). Without room the verb completes with NO_CAPACITY; folios already moved stay moved.
DESIGN CHOICE, log entry 38. -/
def State.placeStep (s : State) (p : Nat) (o : PlaceOp) : State :=
  match o.left.find? (fun i => match s.folio? i with | some f => f.tier != o.tier | none => false) with
  | none => s.modFolPart p fun x => { x with places := x.places.map fun w => if w.verb == o.verb then { w with left := [] } else w }
  | some i =>
    let stop := (s.modFolPart p fun x => { x with places := x.places.filter fun w => w.verb != o.verb }).complete p o.verb
      .noCapacity
    match s.folio? i with
    | none => s
    | some f =>
      if f.promoting || f.demoting then s
      else if f.pin != 0 && f.tier = 1 then s
      else if o.tier = 1 then (if s.canPromote p then s.startPromotion i .c else stop)
      else
        match s.allocTier p o.tier with
        | none => stop
        | some _ =>
          if f.tier = 1 then s.startDemotion p i .c [o.tier]
          else if s.canPromote p then s.startPromotion i .c else stop

/-- Every PLACE of the partition goes on. -/
def State.placeAll (s : State) (p : Nat) : State := (s.folPart p).places.foldl (fun t o => t.placeStep p o) s

/-- Pins of a list of folios go, and what waited for them goes on: pressure demotion, and a PLACE whose demotion a pin abandoned. -/
def State.unpins (s : State) (l : List Nat) : State :=
  let t := l.foldl State.unpin s
  ((l.filterMap fun i => (s.folio? i).map (·.part)).eraseDups).foldl State.placeAll t

/-- A sequence that waited out a tier miss waits no longer once its folios are in T1 (Table 3.8). -/
def State.landed (s : State) (p : Nat) : State :=
  let all := fun (q : Seq) => q.spans.all fun x => x.entries.all fun e =>
    match s.folio? e.ref with | some f => f.tier == 1 | none => true
  { s with dir := { s.dir with sessions := tmap (fun _ x =>
      if x.part == p then { x with seqs := tmap (fun _ q =>
        if q.stalled && !q.waitsRoom && all q then { q with stalled := false } else q) x.seqs } else x) s.dir.sessions } }

/-- PROMOTION_COMMIT: one update of the descriptor; the source copy is released, at once or when the reads issued against it have
completed (R78). A PLACE then goes on to its next folio. -/
def doPromotionCommit (i : Nat) (s : State) : State :=
  match s.folio? i with
  | none => s
  | some f =>
    if s.live && f.promoting then
      let kept := s.sourceRead i
      let t := s.countRead f.part f.tier
      let t := if kept then t else t.freeTier f.part f.tier f.loc
      let t := if f.moveCls == .b then t.subDemand f.part f.tier Config.folioBytes else t
      let t := t.setFolio i { f with tier := 1, loc := 0, promoting := false, nonce := 0, tag := 0,
                                      oldPlaces := if kept then f.oldPlaces ++ [(f.tier, f.loc)] else f.oldPlaces }
      ((t.unpins [i]).placeAll f.part).landed f.part
    else s

/-- DEMOTION_COMMIT: the target copy is written; with PIN at zero one update of the descriptor makes it the folio's
payload, sealed under a fresh nonce; otherwise the demotion is abandoned (R77, R299). -/
def doDemotionCommit (i : Nat) (s : State) : State :=
  match s.folio? i with
  | none => s
  | some f =>
    if s.live && f.demoting then
      if f.pin != 0 then
        (((s.setFolio i { f with demoting := false }).freeTier f.part f.target f.targetLoc).pressureStep f.part).placeAll
          f.part
      else
        let (n, t) := s.drawn
        let t := t.setFolio i { f with tier := f.target, loc := f.targetLoc, demoting := false, nonce := n, tag := s.sealTag f n }
        let t := t.modFolPart f.part fun x => { x with t1Use := x.t1Use - 1 }
        let t := if f.target = 3 then t.writeT3 (s.demoted f n) f.targetLoc false else t
        ((t.countWrite f.part f.target).pressureStep f.part).placeAll f.part
    else s

/-- EAGER_DEMOTION: with EAGER set, a folio colder than DEMOTE starts out of T1 in class D (Table 3.6). -/
def doEagerDemotion (i : Nat) (s : State) : State :=
  match s.folio? i with
  | none => s
  | some f =>
    let cfg := s.reg .folHeatCfg f.part
    if s.live && s.hasPrk f.part && bit cfg 33 && !bit cfg 32 && f.kind == .kv && f.tier == 1 && f.pin == 0 && !f.demoting && !f.promoting &&
       (heatNow cfg f s.now).1 < bits cfg 63 56
    then s.startDemotion f.part i .d (s.demoteTo f.part)
    else s

/-! ## Estimates (R53, R54) -/

/-- Latency in ns and bandwidth in 10⁶ B/s of a tier, both with 16 fraction bits. -/
def State.est (s : State) (p tier : Nat) : Nat × Nat := tgetD (s.folPart p).est tier (0, 0)

/-- lat[tier] + bytes / bw[tier] in ns, rounded down: bytes at bw × 10⁶ B/s take bytes × 1,000 / bw ns.
DESIGN CHOICE, log entry 37. -/
def State.estNs (s : State) (p tier bytes : Nat) : Nat :=
  let (lat, bw) := s.est p tier
  if bw = 0 then lat / 65536 else (lat + bytes * 1000 * 65536 * 65536 / bw) / 65536

/-- x ← x + (observed − x) / 2^shift, truncated toward zero. -/
def ewma (x obs : Nat) (shift : Nat) : Nat := ((x : Int) + Int.tdiv ((obs : Int) - x) (2 ^ shift)).toNat

def State.ewmaShift (s : State) (p : Nat) : Nat := min 6 (bits (s.reg .folWakeCfg p) 39 32)

/-- The estimates after a revive whose latency and bandwidth were observed, in units of the estimates. -/
def State.observe (s : State) (p tier latNs bytes ns : Nat) : State :=
  let (lat, bw) := s.est p tier
  let k := s.ewmaShift p
  let obs := if ns = 0 then bw else bytes * 1000 * 65536 / ns
  s.modFolPart p fun x => { x with est := tput x.est tier (ewma lat (latNs * 65536) k, ewma bw obs k) }

/-! ## The commands of this file -/

/-- PROMOTION_COMMIT (R78). -/
def execPromotionCommit (d : Nat) (s : State) : Host.Outcome State Fault Refusal :=
  .next (doPromotionCommit d s)

/-- DEMOTION_COMMIT (R77). -/
def execDemotionCommit (d : Nat) (s : State) : Host.Outcome State Fault Refusal :=
  .next (doDemotionCommit d s)

/-- EAGER_DEMOTION (R75). -/
def execEagerDemotion (d : Nat) (s : State) : Host.Outcome State Fault Refusal :=
  .next (doEagerDemotion d s)

/-- PREFETCH_START (R75). -/
def execPrefetchStart (d : Nat) (s : State) : Host.Outcome State Fault Refusal :=
  .next (doPrefetchStart d s)

end Machine
end Sys2Proof
end

