-- ==== Sys2Proof/Machine/Contexts.lean ====
section
/-!
DEFINITION. Sys2Proof/Machine/Contexts.lean: candidates of the step builder (R93), the address spaces of R147, the engine
contexts of R151 and R152, command instances (R148), the checks of R146, the choice of the context to run (R159, R160) and
the debt that an overrun leaves (R218).
-/
namespace Sys2Proof
namespace Machine

/-! ## Candidates (R93) -/

/-- R93 with the eligibility test of R221 set aside (R217): the sequence has work for the STEP scheduler. -/
def Seq.hasWork (q : Seq) : Bool :=
  q.spine.isSome && !q.stalled && !q.stopping && !q.suspect &&
  ((q.state == .prefill && !q.pending.isEmpty) || (q.state == .decode && q.run.isSome))

/-- The sequences of a partition as (directory index, sequence). -/
def State.allSeqs (s : State) (p : Nat) : List (Nat × Seq) :=
  s.dir.sessions.flatMap fun e => if e.2.part == p then e.2.seqs.map fun y => (e.1, y.2) else []

/-- Sequences with work. -/
def State.workers (s : State) (p : Nat) : List (Nat × Seq) := (s.allSeqs p).filter fun e => e.2.hasWork

/-- Queues with work for the STEP scheduler of a partition. -/
def State.stepWork (s : State) (p : Nat) : List Nat := ((s.workers p).map fun e => e.2.queue).eraseDups

/-- Engine-time debt of `ns` is charged to the queues of the gathering in proportion to their work units (R218). -/
def State.chargeDebt (s : State) (p ns : Nat) (g : Gather) : State :=
  let u := ceilDiv (ns * s.wuPerMs p) 1000000
  let queues := (g.entries.map (·.queue)).eraseDups
  let total := (g.entries.map (·.units)).sum
  queues.foldl (fun t q =>
    let mine := ((g.entries.filter fun e => e.queue == q).map (·.units)).sum
    if total = 0 then t else t.charge (.step p) q (ceilDiv (u * mine) total) (t.stepWork p)) s

/-! ## The gathering of a context and its tables (R97) -/

/-- The gathering that a context slot works on: the step's, or the rolled-back one of a replay (R339). -/
def State.gatherOf (s : State) (p slot : Nat) : Option Gather :=
  if slot = 0 then (s.spnOf p).cur else if slot = 1 then (s.recPart p).gather else none

def Gather.rows (g : Gather) : Nat := (g.entries.map (·.qLen)).sum
/-- MASK of an entry. -/
def GEntry.mask (e : GEntry) : Nat := if e.tree.isEmpty then (if e.prefixLen = 0 then 0 else 1) else 2

/-- The 32 bytes of a length-table entry (Table 4.3). -/
def GEntry.bytes (e : GEntry) : Bytes :=
  natLe 32 (at' e.kvLen 224 + at' (e.qLen - 1) 207 + at' e.pos 160 + at' e.qOffset 128 + at' e.prefixLen 96 +
    at' e.tree.length 88 + at' e.mask 84 + at' e.kind 80 + at' e.seq 72 + at' e.spine 58)

/-- Offset of the length table in space 3, and the size of the space. -/
def lenTableAt : Nat := 0x100000
def space3Size : Nat := lenTableAt + 32 * 8192

/-- Bytes of space 3: the token array, 4 bytes a token, and the length table. DESIGN CHOICE, log entry 13. -/
def space3 (g : Option Gather) (off n : Nat) : Bytes :=
  match g with
  | none => zeros n
  | some g =>
    let toks := (g.entries.flatMap (·.tokens)).flatMap fun t => natLe 4 t
    let tab := g.entries.flatMap GEntry.bytes
    (List.range n).map fun i =>
      if off + i < lenTableAt then toks.getD (off + i) 0 else tab.getD (off + i - lenTableAt) 0

/-! ## Address spaces (R147) -/

def spaceOf (a : Nat) : Nat := a / 2 ^ 60
def offOf (a : Nat) : Nat := a % 2 ^ 48

/-- Bytes of a space that the partition may use. -/
def State.spaceSize (s : State) (p : Nat) : Nat → Nat
  | 0 => Config.storeBytes
  | 1 => (s.partImage p).part.stateBuf
  | 2 => (s.partImage p).part.hbm.length * Config.channelBytes
  | 3 => space3Size
  | _ => 0

/-- `n` bytes at an address lie inside a space that accepts the access. -/
def State.addrOk (s : State) (p a n : Nat) (wr : Bool) : Bool :=
  a / 2 ^ 48 % 4096 == 0 && spaceOf a ≤ 3 && !(wr && spaceOf a == 3) && offOf a + n ≤ s.spaceSize p (spaceOf a)

/-- `n` bytes read by engine e under a context slot. -/
def State.readSpace (s : State) (p e slot a n : Nat) : Bytes :=
  match spaceOf a with
  | 0 => mreads (s.engOf e).store (offOf a) n
  | 1 => mreads (if slot = 1 then (s.recPart p).buf else (s.spnOf p).buf) (offOf a) n
  | 2 => mreads (if slot = 1 then (s.recPart p).hbm else (s.spnOf p).hbm) (offOf a) n
  | _ => space3 (s.gatherOf p slot) (offOf a) n

/-- Bytes written by engine e under a context slot; space 3 takes none. A replay writes to its scratch (R339). -/
def State.writeSpace (s : State) (p e slot a : Nat) (b : Bytes) : State :=
  let r := s.recPart p
  match spaceOf a with
  | 0 => s.modEng e fun x => { x with store := mwrites x.store (offOf a) b }
  | 1 =>
    if slot = 1 then s.setRecPart p { r with buf := mwrites r.buf (offOf a) b }
    else s.modSpn p fun x => { x with buf := mwrites x.buf (offOf a) b }
  | 2 =>
    if slot = 1 then s.setRecPart p { r with hbm := mwrites r.hbm (offOf a) b }
    else s.modSpn p fun x => { x with hbm := mwrites x.hbm (offOf a) b, poison := rewritten (offOf a) b.length x.poison }
  | _ => s

/-- Bytes without a defined result (R149, R158): each is a free value. -/
def State.smear (s : State) (p e slot a n : Nat) : State :=
  ({ s with free := s.free + n }).writeSpace p e slot a ((List.range n).map fun i => Config.freeByte (s.free + i))

/-! ## Contexts (R151, R152) -/

/-- A context is ready while it has not reached END or stopped on a fault (R159). -/
def Ctx.ready (x : Ctx) : Bool := !x.ended && !x.faulted
/-- It waits at an AWAIT, a BARRIER or a reservation. -/
def Ctx.blocked (x : Ctx) : Bool := x.waiting != 0

def State.ctx? (s : State) (e slot : Nat) : Option Ctx := tget (s.engOf e).slots slot
def State.modCtx (s : State) (e slot : Nat) (f : Ctx → Ctx) : State :=
  s.modEng e fun x => match tget x.slots slot with
    | some y => { x with slots := tput x.slots slot (f y) }
    | none => x

/-- The instances that a command expands into (R148): the length-table entry or the 128-row group of each.
DESIGN CHOICE, log entry 18. -/
def instances (g : Option Gather) (x : Ctx) (m : Cmd) : List Nat :=
  let n := match g with | some g => g.entries.length | none => 0
  let rows := match g with | some g => g.rows | none => 0
  match m.rep with
  | 1 => (List.range n).filter fun k => k % max 1 x.every == x.pick
  | 2 => List.range (ceilDiv rows 128)
  | _ => [0]

/-- An expansion without instances completes at once. -/
def skipEmpty (g : Option Gather) (x : Ctx) : Nat → Ctx
  | 0 => x
  | k + 1 =>
    match x.cmds[x.index]? with
    | none => x
    | some m => if (instances g x m).isEmpty then skipEmpty g { x with index := x.index + 1, inst := 0 } k else x

/-- A fresh context of a command stream. -/
def newCtx (g : Option Gather) (stream : Nat) (st : Stream) (now : Nat) : Ctx :=
  skipEmpty g { stream := stream, cmds := st.cmds, every := st.every, pick := st.pick, resumedAt := now, startedAt := now }
    st.cmds.length

/-- A command repetition: its partition, slot and context, the command with the addresses of this repetition, and the
length-table entry that it works on. -/
structure Inst where
  p : Nat
  slot : Nat
  ctx : Ctx
  cmd : Cmd
  entry : Nat
  deriving DecidableEq, Repr, Inhabited

/-- The command of one repetition. -/
def instCmd (g : Option Gather) (m : Cmd) (ord : Nat) : Cmd :=
  let rows := match g with | some g => g.rows | none => 0
  { m with addrA := m.addrA + ord * m.note.strideA, addrB := m.addrB + ord * m.note.strideB,
           addrC := m.addrC + ord * m.note.strideC, m := if m.rep = 2 then min m.m (rows - 128 * ord) else m.m }

/-- The repetition at which an engine's running context stands. A stream that ends without END stands at an undefined
command. -/
def State.current (s : State) (e : Nat) : Option Inst :=
  let x := s.engOf e
  match s.ownerOfEngine e, tget x.slots x.running with
  | some p, some y =>
    if s.live && x.switching.isNone && !x.stopped && y.ready then
      let g := s.gatherOf p x.running
      let m := y.cmds.getD y.index { opcode := 0 }
      some { p := p, slot := x.running, ctx := y, cmd := instCmd g m y.inst, entry := (instances g y m).getD y.inst 0 }
    else none
  | _, _ => none

/-! ## The checks of R146 -/

/-- Bytes of a row of `n` elements in a format. -/
def rowBytes (fmt n : Nat) : Nat := fmtBytes fmt n

/-- Operands of one vector operation lie in the store. -/
def vecOk (o : VecOp) : Bool :=
  let inStore := fun a n => decide (a + n ≤ Config.storeBytes)
  1 ≤ o.count && o.fmt < 8 && inStore o.a (4 * o.count) && inStore o.b (4 * o.count) && inStore o.c (4 * o.count) &&
  inStore o.dst (4 * o.count)

/-- The fields of a command stand in the ranges that Table 7.2 states for them, in every command for those that it does not limit to
some, and its format codes are not reserved. DESIGN CHOICE, log entry 13. -/
def cmdInRange (m : Cmd) : Bool :=
  m.rsv == 0 && m.rep ≤ 2 && m.fmt % 16 < 8 && m.fmt / 16 < 8 && m.out % 16 < 8 && m.out < 32 &&
  1 ≤ m.m && m.m ≤ 65536 && 1 ≤ m.k && m.k ≤ 65536 && 1 ≤ m.n && m.n ≤ 512 && 1 ≤ m.parts && m.parts ≤ 65535 &&
  m.part < m.parts

/-- The fields that a TASK carries are in their ranges, and its addresses inside their spaces. -/
def State.taskOk (s : State) (p : Nat) (m : Cmd) : Bool :=
  let fa := m.fmt % 16
  let fb := m.fmt / 16
  let fo := m.out % 16
  m.kind ≤ 4 && 1 ≤ m.budget && m.budget ≤ 1100000 && m.issueOp == 0 &&
  (m.addrP == 0 || m.kind == 1 || m.kind == 2 || m.kind == 3) &&
  (match m.kind with
   | 0 =>
     (pairRule fa fb).isSome && s.addrOk p m.addrA (m.m * rowBytes fa m.k) false &&
     s.addrOk p m.addrB (m.n * rowBytes fb m.k) false && s.addrOk p m.addrC (m.m * rowBytes fo m.n) true &&
     (m.out < 16 || s.addrOk p m.addrC (4 * m.m * m.n) false)
   | 1 => m.note.vops.all vecOk && s.addrOk p m.addrA 0 false && s.addrOk p m.addrB 0 false && s.addrOk p m.addrC 0 false
   | 2 => s.addrOk p m.addrP 64 false && s.addrOk p m.addrA 0 false && s.addrOk p m.addrB 0 false && s.addrOk p m.addrC 0 true
   | 3 => s.addrOk p m.addrA 0 false && s.addrOk p m.addrB 0 false && s.addrOk p m.addrC 0 false
   | _ => s.addrOk p m.addrA m.note.moveBytes false && s.addrOk p m.addrC m.note.moveBytes true)

/-- An ISSUE: its length, tag, peer and the region granted there (R154), and its local address. -/
def State.issueOk (s : State) (p : Nat) (m : Cmd) : Bool :=
  64 ≤ m.length && m.length ≤ 16777216 && m.length % 64 == 0 && m.tag < 1024 && m.issueOp ≤ 1 &&
  (s.fabSec.peers.any fun x => x.id == m.fabric / 2 ^ 52) &&
  ((s.partImage p).links.onPeers.any fun g => g.dev == m.fabric / 2 ^ 52 && g.part == m.fabric / 2 ^ 48 % 16 &&
    g.base ≤ m.fabric % 2 ^ 48 && m.fabric % 2 ^ 48 + m.length ≤ g.base + g.size) &&
  (if m.issueOp = 0 then s.addrOk p m.addrC m.length true else s.addrOk p m.addrA m.length false)

/-- R146: the command passes the checks that the sequencer makes when it fetches it. -/
def State.cmdOk (s : State) (p : Nat) (m : Cmd) : Bool :=
  cmdInRange m && 1 ≤ m.opcode && m.opcode ≤ 5 &&
  (if m.opcode = 1 then s.taskOk p m
   else m.kind == 0 && m.budget == 0 && m.addrP == 0 &&
     (if m.opcode = 2 then s.issueOk p m else m.issueOp == 0 && m.tag < 1024))

/-! ## Pre-emption points (R159, R160) -/

/-- Privileged queue of a slot: recovery for REPLAY, management for TEST (Table 7.3). -/
def slotQueue (slot : Nat) : Nat := if slot = 1 then 0 else 2

def State.sliceNs (s : State) (p : Nat) : Nat := bits (s.reg .engSliceCfg p) 31 16 * 1000
def State.awaitNs (s : State) (p : Nat) : Nat := bits (s.reg .engSliceCfg p) 15 0 * 1000

/-- The privileged contexts that are ready, replay first. -/
def State.privReady (s : State) (e : Nat) : List Nat :=
  [1, 2].filter fun k => match s.ctx? e k with | some y => y.ready | none => false

/-- Every ready privileged context at a new round gains its quantum. -/
def State.grantRounds (s : State) (e : Nat) : State :=
  (s.privReady e).foldl (fun t k => t.modCtx e k fun y =>
    if y.newRound then { y with deficit := y.deficit + (s.quantum (slotQueue k) : Int), newRound := false } else y) s

/-- The first slot of a list whose deficit is positive. -/
def State.firstPositive (s : State) (e : Nat) (l : List Nat) : Option Nat :=
  l.find? fun k => match s.ctx? e k with | some y => decide (y.deficit > 0) | none => false

/-- choose of R159, after the rounds have been granted: the slot to run, and whether the round of the running slot is over. -/
def State.chosen (s : State) (p e : Nat) : Nat × Bool :=
  let x := s.engOf e
  let priv := s.privReady e
  let step := match s.ctx? e 0 with | some y => y.ready && !y.blocked | none => false
  match tget x.slots x.running with
  | none => (if step then 0 else (s.firstPositive e priv).getD 0, false)
  | some y =>
    if x.running = 0 then
      let waiting := y.blocked && s.now ≥ y.waitSince + s.awaitNs p
      let ended := s.now ≥ y.resumedAt + s.sliceNs p
      if ended || waiting then ((s.firstPositive e priv).getD 0, false) else (0, false)
    else if y.ready && !y.blocked && y.deficit > 0 then (x.running, false)
    else if step then (0, true)
    else ((s.firstPositive e (priv.filter (· != x.running))).getD 0, true)

/-- The running context leaves the engine: a privileged one pays for its time, STEP's overrun is charged as debt (R160,
R218). -/
def State.leaveCtx (s : State) (p e : Nat) : State :=
  let x := s.engOf e
  if x.running = 0 then
    match x.overrunSince, s.gatherOf p 0 with
    | some t0, some g =>
      ((s.modEng e fun x => { x with overrunSince := none }).count .engOverrunNs e (s.now - t0)).chargeDebt p (s.now - t0) g
    | _, _ => s.modEng e fun x => { x with overrunSince := none }
  else s.modCtx e x.running fun y => { y with deficit := y.deficit - ((s.now - y.startedAt : Nat) : Int) }

/-- A privileged context's deficit as it stands while it runs: time since its first command. -/
def State.payRunning (s : State) (e : Nat) : State :=
  let x := s.engOf e
  if x.running = 0 then s
  else s.modCtx e x.running fun y =>
    { y with deficit := y.deficit - ((s.now - y.startedAt : Nat) : Int), startedAt := s.now }

/-- ENG_SLICE_CFG as it stood at an engine's last pre-emption point (R159). -/
def State.sliceCfg (s : State) (p e : Nat) : W64 := (s.engOf e).cfg.getD (s.reg .engSliceCfg p)
def cfgSliceNs (w : W64) : Nat := bits w 31 16 * 1000

/-- The HBM channels over which an engine's save areas are striped: eight of its partition's own, a different eight for each of
its engines (R153), dealt out in order. DESIGN CHOICE, log entry 8. -/
def State.saveChannels (s : State) (p e : Nat) : List Nat :=
  ((s.partImage p).part.hbm.drop (8 * ((s.enginesOf p).findIdx fun x => x == e))).take 8

/-- A context switch begins: the outgoing store is saved and the incoming one restored, in class A where a REPLAY slot takes part
(R153, R225). -/
def State.beginSwitch (s : State) (p e k : Nat) : State :=
  let cls : ArbClass := if k = 1 || (s.engOf e).running = 1 then .a else .b
  let t := (s.leaveCtx p e).modEng e fun x => { x with switching := some k, switchSince := s.now }
  t.carry ((s.saveChannels p e).map fun c => (.hbm c, 2 * (Config.storeBytes + 4096) / 8)) cls (.engine e)

/-- A pre-emption point: the engine chooses, and a switch begins if another context is chosen. -/
def State.choose (s : State) (p e : Nat) : State :=
  let s := s.modEng e fun x => { x with cfg := some (s.reg .engSliceCfg p), pointAt := some s.now }
  let t := (s.payRunning e).grantRounds e
  let x := t.engOf e
  let (k, ended) := t.chosen p e
  let t := if ended then t.modCtx e x.running fun y => { y with newRound := true } else t
  if k = x.running || (t.ctx? e k).isNone then t
  else t.beginSwitch p e k

/-- The engine chooses again where its running context has been unloaded, and where a context becomes ready in the instant of its last
pre-emption point (R159, R161). -/
def State.rechoose (s : State) (p e : Nat) : State :=
  let x := s.engOf e
  if x.switching.isNone && !x.stopped && ((tget x.slots x.running).isNone || x.pointAt == some s.now) then s.choose p e else s

/-- A context after the command repetition at which it stands. -/
def nextInst (g : Option Gather) (y : Ctx) : Ctx :=
  let n := (instances g y (y.cmds.getD y.index { opcode := 0 })).length
  let y := { y with waiting := 0, waitTag := 0, waitSince := 0, maskLate := false }
  if y.inst + 1 < n then { y with inst := y.inst + 1 } else skipEmpty g { y with index := y.index + 1, inst := 0 } y.cmds.length

/-- A context goes on to its next command repetition, and the engine's heartbeat counts the one that completed (R148,
R163). -/
def State.advanceCtx (s : State) (p e slot : Nat) : State :=
  (s.count .engHeartbeat e).modCtx e slot (nextInst (s.gatherOf p slot))

/-- The running command repetition completes: a pre-emption point. -/
def State.finishCmd (s : State) (e : Nat) (i : Inst) : State := (s.advanceCtx i.p e i.slot).choose i.p e

/-- The running context waits (R145, R155, R164): since when, and for which tag; also a pre-emption point. -/
def State.block (s : State) (e : Nat) (i : Inst) (why tag : Nat) : State :=
  (s.modCtx e i.slot fun y =>
    if y.waiting = why then y else { y with waiting := why, waitTag := tag, waitSince := s.now }).choose i.p e

/-- The sequencer stops the context. -/
def State.stopCtx (s : State) (e slot : Nat) : State :=
  (s.modCtx e slot fun y => { y with faulted := true }).modEng e fun x => { x with stopped := true }

/-- The detail of an engine's sequencer fault (Table 16.3). -/
def seqDetail (e : Nat) (i : Inst) (unit cause : Nat) : FaultDetail :=
  { part := some i.p, engine := some e, slot := i.slot, cmd := i.ctx.index, stream := i.ctx.stream, unit := unit,
    cause := cause }

/-- A malformed task does not start; the context stops and the fault is reported (R146). -/
def State.malformed (s : State) (e : Nat) (i : Inst) : State :=
  (s.stopCtx e i.slot).raise (0x20 + e) (seqDetail e i 3 2)

/-- The command passes R146's checks, as the stream has it and as its repetition has it (R147). -/
def State.instOk (s : State) (i : Inst) : Bool :=
  cmdInRange (i.ctx.cmds.getD i.ctx.index { opcode := 0 }) && s.cmdOk i.p i.cmd

/-- A command of the running context, if it stands at one that `is` accepts: malformed commands stop the context, others
take `eff`. -/
def State.runCmd (s : State) (e : Nat) (is : Cmd → Bool) (eff : Inst → State → State) : State :=
  match s.current e with
  | none => s
  | some i =>
    let undef := !(1 ≤ i.cmd.opcode && i.cmd.opcode ≤ 5 && (i.cmd.opcode != 1 || i.cmd.kind ≤ 4))
    if undef then s.malformed e i
    else if !is i.cmd then s
    else if !s.instOk i then s.malformed e i
    else eff i s

/-! ## ENG_NUMERIC (R126, Table 5.7) -/

/-- One 16-bit counter of ENG_NUMERIC: places of the counter and of its SAT bit. -/
def State.bumpNumeric (s : State) (e lo sat : Nat) (hit : Bool) : State :=
  if !hit then s
  else
    let w := s.reg .engNumeric e
    let n := bits w (lo + 15) lo
    let w' := setBits w (lo + 15) lo (min 0xFFFF (n + 1))
    let s := s.stampAdd (regAddr .engNumeric e 0 + lo / 16) 1
    if n + 1 ≥ 0xFFFF && !bit w sat then
      (s.setReg .engNumeric e 0 (setBit w' sat true)).raise srcSat { raw := regAddr .engNumeric e 0, engine := some e }
    else s.setReg .engNumeric e 0 w'

def State.countClip (s : State) (e : Nat) (hit : Bool) : State := s.bumpNumeric e 0 61 hit
def State.countNan (s : State) (e : Nat) (hit : Bool) : State := s.bumpNumeric e 16 62 hit
def State.countDegen (s : State) (e : Nat) (hit : Bool) : State := s.bumpNumeric e 32 63 hit

/-- FP32 values packed as bytes, and read from bytes. -/
def packF (l : List Nat) : Bytes := l.flatMap fun w => natLe 4 w
def unpackF (b : Bytes) : List Nat := (List.range (b.length / 4)).map fun i => fld b (4 * i) 4

end Machine
end Sys2Proof
end

