-- ==== Sys2Proof/Machine/Routes.lean ====
section
/-!
DEFINITION. Sys2Proof/Machine/Routes.lean: the topology that a device reads from the link-state advertisements it holds:
the spanning tree, the orientation of the trunks, and the routes of R260.
-/
namespace Sys2Proof
namespace Machine

/-- Forwarding time that R260 adds to each hop. -/
def hopNs : Nat := 300
/-- Longest path that is installed, in hops (R260). -/
def maxHops : Nat := 24
/-- "No trunk" in a route (Table 12.9). -/
def noTrunk : Nat := 0x7F

/-- A hop of the fabric: from, to, cost. -/
abbrev Hop := Nat × Nat × Nat

/-- The hops that a set of advertisements lists, each with its cost. -/
def lsaHops (db : Tab LsaMsg) : List Hop := db.flatMap fun e => e.2.links.map fun k => (e.1, k.1, k.2.2 + hopNs)

/-- Breadth-first search: `seen` holds each device reached with its depth. -/
def bfs (hops : List Hop) : Nat → List Nat → Nat → Tab Nat → Tab Nat
  | 0, _, _, seen => seen
  | fuel + 1, frontier, depth, seen =>
    let new := (hops.filter fun h => frontier.contains h.1 && (tget seen h.2.1).isNone).map fun h => h.2.1
    if new.isEmpty then seen else bfs hops fuel new (depth + 1) (new.foldl (fun m v => tput m v (depth + 1)) seen)

/-- Every device reached from `u`, with its depth below `u`. -/
def reachFrom (hops : List Hop) (u : Nat) : Tab Nat := bfs hops (hops.length + 1) [u] 0 [(u, 0)]

/-- The root: the lowest device ID in the connected fabric of `u`. -/
def rootOf (hops : List Hop) (u : Nat) : Nat := ((reachFrom hops u).map (·.1)).foldl min u

/-- Depth of each device in the breadth-first tree from the root. -/
def treeOf (hops : List Hop) (u : Nat) : Tab Nat := reachFrom hops (rootOf hops u)

/-- Depth of a device; one that the tree does not hold counts as deeper than any it holds. -/
def depthOf (tree : Tab Nat) (u : Nat) : Nat := tgetD tree u 4096

/-- A hop is up when it goes towards a device of smaller (depth, device ID), and down otherwise. -/
def hopDown (tree : Tab Nat) (u v : Nat) : Bool :=
  !(decide (depthOf tree v < depthOf tree u) || (depthOf tree v == depthOf tree u && decide (v < u)))

/-- The parent of `u`: of its neighbours one step nearer to the root, the lowest device ID. -/
def parentOf (hops : List Hop) (tree : Tab Nat) (u : Nat) : Option Nat :=
  if depthOf tree u = 0 then none
  else
    match (hops.filter fun h => h.1 == u && depthOf tree h.2.1 + 1 == depthOf tree u).map fun h => h.2.1 with
    | [] => none
    | v :: r => some (r.foldl min v)

/-- Cheaper, or as cheap with fewer hops. -/
def cheaper (a b : Nat × Nat) : Bool := decide (a.1 < b.1) || (a.1 == b.1 && decide (a.2 < b.2))

/-- Key of a device and a state of DOWN among the partial paths. -/
def pathKey (u : Nat) (down : Bool) : Nat := 2 * u + down.toNat

/-- The better of a path to a key and the one held. -/
def improve (m : Tab (Nat × Nat)) (k : Nat) (x : Nat × Nat) : Tab (Nat × Nat) :=
  match tget m k with
  | some y => if cheaper x y then tput m k x else m
  | none => tput m k x

/-- One more hop on every legal partial path: up hops come first, down hops after. -/
def relax (tree : Tab Nat) (hops : List Hop) (m : Tab (Nat × Nat)) : Tab (Nat × Nat) :=
  hops.foldl (fun n h =>
    let dn := hopDown tree h.1 h.2.1
    let n := match tget m (pathKey h.1 false) with
      | some (c, k) => improve n (pathKey h.2.1 dn) (c + h.2.2, k + 1)
      | none => n
    match tget m (pathKey h.1 true) with
    | some (c, k) => if dn then improve n (pathKey h.2.1 true) (c + h.2.2, k + 1) else n
    | none => n) m

/-- `n` rounds of `relax`. -/
def relaxN (tree : Tab Nat) (hops : List Hop) : Nat → Tab (Nat × Nat) → Tab (Nat × Nat)
  | 0, m => m
  | n + 1, m => relaxN tree hops n (relax tree hops m)

/-- Cheapest legal path of at most 24 hops to a destination among the partial paths. -/
def bestTo (m : Tab (Nat × Nat)) (d : Nat) : Option (Nat × Nat) :=
  match tget m (pathKey d false), tget m (pathKey d true) with
  | some x, some y => some (if cheaper y x then y else x)
  | some x, none => some x
  | none, y => y

/-- A first hop of this device: neighbour, trunk, and the paths that go on from there for a frame that had not taken a
down hop before (`pre` false) or had. -/
structure FirstHop where
  peer : Nat
  trunk : Nat
  paths : Tab (Nat × Nat)
  deriving DecidableEq, Repr, Inhabited

/-- The legal first hops for a state of DOWN. -/
def firstHops (self : Nat) (trunkTo : Nat → Nat) (tree : Tab Nat) (hops : List Hop) (down : Bool) : List FirstHop :=
  let mine := hops.filter fun h => h.1 == self
  let peers := mine.foldl (fun (a : Tab Nat) h => match tget a h.2.1 with
    | some x => tput a h.2.1 (min x h.2.2)
    | none => tput a h.2.1 h.2.2) []
  (peers.filter fun e => !down || hopDown tree self e.1).map fun e =>
    { peer := e.1, trunk := trunkTo e.1,
      paths := relaxN tree hops (maxHops - 1) [(pathKey e.1 (hopDown tree self e.1), (e.2, 1))] }

/-- Cheapest of the first hops to a destination, ties to fewer hops and then to the lower device ID: peer, trunk, cost and
hops. -/
def bestHop (d : Nat) : List FirstHop → Option (Nat × Nat × Nat × Nat)
  | [] => none
  | f :: r =>
    match bestTo f.paths d, bestHop d r with
    | some (c, k), some (p', t', c', k') =>
      if cheaper (c', k') (c, k) || (c == c' && k == k' && decide (p' < f.peer)) then some (p', t', c', k')
      else some (f.peer, f.trunk, c, k)
    | some (c, k), none => some (f.peer, f.trunk, c, k)
    | none, x => x

/-- Primary and alternate to a destination (R260): validity, primary, alternate, hops, cost. -/
def routeTo (fs : List FirstHop) (d : Nat) : Bool × Nat × Nat × Nat × Nat :=
  match bestHop d fs with
  | none => (false, noTrunk, noTrunk, 0, 0)
  | some (p, t, c, k) =>
    let alt := match bestHop d (fs.filter fun f => f.peer != p) with
      | some (_, t', _, _) => t'
      | none => noTrunk
    (true, t, alt, k, c)

/-- The routes of device `self` to every other device that the advertisements name (R260). -/
def routesFor (self : Nat) (trunkTo : Nat → Nat) (db : Tab LsaMsg) : Tab Route :=
  let hops := lsaHops db
  let tree := treeOf hops self
  let up := firstHops self trunkTo tree hops false
  let dn := firstHops self trunkTo tree hops true
  ((reachFrom hops self).filter fun e => e.1 != self).map fun e =>
    let (v, p, a, k, c) := routeTo up e.1
    let (v', p', a', k', c') := routeTo dn e.1
    (e.1, { validU := v, priU := p, altU := a, hopsU := k, costU := c, validD := v', priD := p', altD := a', hopsD := k',
            costD := c' })

/-- LAT_U and LAT_D: a cost in units of 8 ns; 0xFFF stands for 32.76 µs or more. -/
def routeLat (cost : Nat) : Nat := min 0xFFF (cost / 8)

/-- FAB_ROUTE of one device ID (Table 12.9). -/
def routeWord (r : Route) : W64 :=
  let lat := routeLat
  w64 (at' r.validU.toNat 63 + at' r.priU 56 + at' r.altU 49 + at' (min 31 r.hopsU) 44 + at' (lat r.costU) 32 +
    at' r.validD.toNat 31 + at' r.priD 24 + at' r.altD 17 + at' (min 31 r.hopsD) 12 + lat r.costD)

end Machine
end Sys2Proof
end

