-- ==== Sys2Proof/Machine/Frames.lean ====
section
/-!
DEFINITION. Sys2Proof/Machine/Frames.lean: what every initiator of the fabric shares (chapter 12): trunks and the choice of
a link (R261), the queueing of a frame at a link's egress (R255), requests cut into frames (R250) and the bound on
unanswered frames (R252).
-/
namespace Sys2Proof
namespace Machine

/-- Frame types (Table 12.4). -/
def tyReadReq : Nat := 0x01
def tyWriteReq : Nat := 0x02
def tyCasReq : Nat := 0x03
def tyShardReq : Nat := 0x04
def tyReadRsp : Nat := 0x11
def tyWriteAck : Nat := 0x12
def tyCasRsp : Nat := 0x13
def tyShardRsp : Nat := 0x14
def tyErrorRsp : Nat := 0x1F

/-- The frame is a request. -/
def frameReq (f : Frame) : Bool := f.type < 0x10

/-- Bytes of a frame on the link: header and tag, 64 B, and its payload. -/
def frameBytes (f : Frame) : Nat := 64 + 64 * ceilDiv f.payload.length 64

/-- Credits of 64 B that a frame takes. -/
def frameCredits (f : Frame) : Nat := ceilDiv (frameBytes f) 64

/-- Lane of a partition's requests or responses (Table 12.5). -/
def partLane (p : Nat) (rsp : Bool) : Nat := 3 + 2 * p + rsp.toNat

/-- The partition whose lane a lane number is. -/
def lanePart (lane : Nat) : Option Nat := if lane < 3 then none else some ((lane - 3) / 2)

/-- The lane carries requests (Table 12.5). -/
def requestLane (lane : Nat) : Bool := lane = 1 || (3 ≤ lane && (lane - 3) % 2 = 0)

/-- Length of a frame at the FABRIC scheduler (R211): its payload, and FRAME_OVH of the lane's partition, or the 64 bytes of
header and tag on a device lane. -/
def State.frameLen (s : State) (f : Frame) : Nat :=
  64 * ceilDiv f.payload.length 64 + (match lanePart f.lane with | some p => s.frameOvh p | none => 64)

/-- Links of the trunk numbered `t`: all UP links to the same device. -/
def State.trunkLinks (s : State) (t : Nat) : List Nat :=
  (List.range Config.links).filter fun l => (s.linkOf l).state == .up && (s.linkOf l).peerId == (s.linkOf t).peerId

/-- Trunk of a link: the lowest link to the same device among those that discovery has passed. -/
def State.trunkOf (s : State) (l : Nat) : Nat :=
  if !(s.linkOf l).helloOk then 0x7F
  else ((List.range Config.links).find? fun k => (s.linkOf k).helloOk && (s.linkOf k).peerId == (s.linkOf l).peerId).getD 0x7F

/-- Credits that this device gives the lane in the LINKS section of its partition (R253); device lanes always have some. -/
def State.laneGranted (s : State) (l lane : Nat) : Bool :=
  match lanePart lane with
  | none => true
  | some p => (match tget (s.partImage p).links.credits l with
    | some (a, b) => if (lane - 3) % 2 = 0 then a != 0 else b != 0
    | none => false)

/-- Credits held for a lane of a link. -/
def State.laneCredits (s : State) (l lane : Nat) : Nat := tgetD (s.linkOf l).credits lane 0

/-- The link of a trunk whose lane holds the most free credits, ties to the lower link. -/
def State.pickLink (s : State) (t lane : Nat) : Option Nat :=
  match (s.trunkLinks t).filter (fun l => s.laneGranted l lane) with
  | [] => none
  | l :: r => some (r.foldl (fun a b => if s.laneCredits b lane > s.laneCredits a lane then b else a) l)

/-- The tables of a frame's own generation (R262). -/
def State.routesOf (s : State) (gen : Bool) : Tab Route :=
  if gen == s.fab.routeGen then s.fab.routes else (s.fab.oldRoutes.getD s.fab.routes)

/-- The egress link of a frame (R261): primary, else alternate. -/
def State.egress (s : State) (f : Frame) : Option Nat :=
  let r := tgetD (s.routesOf f.routeGen) f.dst.1 {}
  let valid := if f.down then r.validD else r.validU
  let pri := if f.down then r.priD else r.priU
  let alt := if f.down then r.altD else r.altU
  if !valid then none
  else
    match s.pickLink pri f.lane with
    | some l => some l
    | none => if alt = 0x7F then none else s.pickLink alt f.lane

/-- The service queue that a frame is charged to: of this device's own requests the queue of the verb or of the work that
asked (R209); of a response and of a frame that is only forwarded the first of the lane's partition. DESIGN CHOICE, log
entry 18. -/
def State.frameQueue (s : State) (f : Frame) : Option Nat :=
  (lanePart f.lane).map fun p =>
    match s.fab.requests.find? (fun r => frameReq f && f.src.1 == s.fab.devId && r.tag == f.tag) with
    | some r => r.queue
    | none => s.qbase p

/-- Privileged queue of a frame on a device lane (Table 12.5): recovery runs in class A and checkpoint copying in class C
(Table 10.7); anything else there is management. DEDUCED, log entry 18. -/
def lanePriv (f : Frame) : Option Nat :=
  if f.lane = 1 || f.lane = 2 then some (match f.cls with | .a => 0 | .c => 1 | _ => 2) else none

/-- Orientation of the trunks under a frame's own generation. -/
def State.treeOfGen (s : State) (gen : Bool) : Tab Nat :=
  if gen == s.fab.routeGen then s.fab.tree else (if s.fab.oldRoutes.isSome then s.fab.oldTree else s.fab.tree)

/-- A frame joins the queue of a link; DOWN is set once it takes a down hop. `ing` is the link that it came in on. -/
def State.queueFrame (s : State) (l : Nat) (f : Frame) (ing : Option Nat) : State :=
  let f := { f with down := f.down || hopDown (s.treeOfGen f.routeGen) s.fab.devId (s.linkOf l).peerId }
  s.request (.link l) { cls := f.cls, queue := s.frameQueue f, priv := lanePriv f, len := s.frameLen f, frame := some f,
                        ingress := ing }

/-- A lane gets back the credits of a frame that the device has forwarded or consumed (R254). -/
def State.returnCredit (s : State) (ing : Option Nat) (f : Frame) : State :=
  match ing with
  | some l => s.emit (.credit l f.lane (frameCredits f))
  | none => s

/-- The frame is a compare-and-swap on the same location as `g`, which arrived in this instant too and comes after it: from a
higher source device, or from a higher partition of the same one (R251). -/
def casAfter (f g : Frame) : Bool :=
  g.type == tyCasReq && g.dst == f.dst && g.offset == f.offset && g.arrived == f.arrived &&
    (decide (f.src.1 < g.src.1) || (f.src.1 == g.src.1 && decide (f.src.2 < g.src.2)))

/-- A frame's place among those that wait: last, but before the compare-and-swaps that R251 orders after it. -/
def placeFrame (f : Frame) : List Frame → List Frame
  | [] => [f]
  | g :: r => if f.type == tyCasReq && casAfter f g then f :: g :: r else g :: placeFrame f r

/-- A frame that has arrived for this device waits to be handled. -/
def State.arrive (s : State) (f : Frame) : State :=
  { s with fab := { s.fab with inbox := placeFrame { f with arrived := s.now } s.fab.inbox } }

/-- The answer of a device to a request frame. -/
def answerOf (f : Frame) (type : Nat) (payload : Bytes) (error : Nat) : Frame :=
  { type := type, lane := if f.lane = 1 then 2 else f.lane + (if f.type < 0x10 then 1 else 0), cls := f.cls,
    src := f.dst, dst := f.src, tag := f.tag, index := f.index, len := ceilDiv payload.length 64, error := error,
    payload := payload }

/-- A frame goes out, or to this device itself. A request that has no route is answered with NO_ROUTE and a response is
discarded (R261). -/
def State.sendFrame (s : State) (f : Frame) (ing : Option Nat := none) : State :=
  if f.dst.1 = s.fab.devId then (s.arrive f).returnCredit ing f
  else
    match s.egress f with
    | some l => s.queueFrame l f ing
    | none =>
      let t := s.returnCredit ing f
      if !frameReq f then t
      else
        let a := { answerOf f tyErrorRsp [] 2 with routeGen := s.fab.routeGen }
        if f.src.1 = s.fab.devId then t.arrive a
        else (match t.egress a with | some l => t.queueFrame l a none | none => t)

/-- A response of this device. -/
def State.respond (s : State) (f : Frame) (type : Nat) (payload : Bytes) (error : Nat) : State :=
  s.sendFrame { answerOf f type payload error with routeGen := s.fab.routeGen }

/-- Unanswered request frames to a device. -/
def State.unanswered (s : State) (dev : Nat) : Nat :=
  (s.fab.requests.map fun r => countp (fun f => f.dst.1 == dev) r.frames).sum

/-- One unsent frame of a request goes out under its destination's next E2E_SEQ. -/
def State.sendNext (s : State) (tag : Nat) : State :=
  match s.fab.requests.find? (fun r => r.tag == tag) with
  | none => s
  | some r =>
    match r.unsent with
    | [] => s
    | f :: rest =>
      let n := tgetD s.fab.e2eNext f.dst.1 0
      let f := { f with e2eSeq := n, routeGen := s.fab.routeGen }
      let t := { s with fab := { s.fab with
        e2eNext := tput s.fab.e2eNext f.dst.1 ((n + 1) % two32),
        requests := lmod (fun (x : Request) => x.tag == tag)
          (fun x => { x with frames := x.frames ++ [f], unsent := rest, times := tput x.times f.index s.now })
          s.fab.requests } }
      t.sendFrame f

/-- Frames go out to a device while it has fewer than 4,096 unanswered ones (R252). -/
def State.pump (s : State) (dev : Nat) : Nat → State
  | 0 => s
  | k + 1 =>
    if s.unanswered dev ≥ 4096 then s
    else
      match s.fab.requests.find? (fun r => r.unsent.any fun f => f.dst.1 == dev) with
      | none => s
      | some r => (s.sendNext r.tag).pump dev k

/-- Frames of a transfer: up to 2,048 B each, INDEX from 0 (R250). -/
def framesOf (type lane : Nat) (cls : ArbClass) (src dst : Nat × Nat) (offset tag len : Nat) (data : Bytes) : List Frame :=
  (List.range (max 1 (ceilDiv len 2048))).map fun i =>
    let n := min 2048 (len - 2048 * i)
    { type := type, lane := lane, cls := cls, src := src, dst := dst, offset := offset + 2048 * i, tag := tag, index := i,
      len := ceilDiv n 64, payload := sub data (2048 * i) n }

/-- The queue that a request is charged to (R209): the verb's; for a session's hand-off the one of its HANDOFF_SEND; the
first of the partition's for its engines, whose steps serve sequences of several queues. DESIGN CHOICE, log entry 18. -/
def State.askerQueue (s : State) (p : Nat) (a : Asker) : Nat :=
  let own : Option Verb := match a with
    | .engine _ _ _ => none
    | .send d => (s.verbs p).find? fun v => v.op == .handoffSend && v.dir == d && v.phase == .running
    | .claim q vid => s.verb? q vid
    | .shard q vid _ => s.verb? q vid
  match own with
  | some v => v.queue
  | none => s.qbase p

/-- A request of partition p: its frames are made and as many as may go are sent. The tag is the answer. -/
def State.startRequest (s : State) (asker : Asker) (type p : Nat) (cls : ArbClass) (dst : Nat × Nat) (offset addr len : Nat)
    (data : Bytes) : Nat × State :=
  let tag := s.fab.nextTag
  let fs := framesOf type (partLane p false) cls (s.fab.devId, p) dst offset tag len data
  let r : Request := { tag := tag, asker := asker, queue := s.askerQueue p asker, dst := dst, frames := [], unsent := fs, addr := addr, total := len }
  let t := { s with fab := { s.fab with nextTag := (tag + 1) % two32, requests := s.fab.requests ++ [r] } }
  (tag, t.pump dst.1 fs.length)

end Machine
end Sys2Proof
end

