-- ==== Sys2Proof/Machine/Links.lean ====
section
/-!
DEFINITION. Sys2Proof/Machine/Links.lean: the links of the fabric (chapter 12): flits and link-level replay, forwarding,
port grants, discovery, link-state advertisements, route switches, link failure, key updates and the timebase.
-/
namespace Sys2Proof
namespace Machine

/-! ## Small parts -/

/-- The row of the link table for a link (Table 12.8). -/
def State.linkRow (s : State) (l : Nat) : LinkRow := tgetD s.fabSec.links l {}
/-- A quad is parked by the image in force (R30). -/
def State.quadParked (s : State) (q : Nat) : Bool := s.fabSec.parkedQuads.testBit q
/-- The link is active in the link table and its quad is not parked. -/
def State.linkActive (s : State) (l : Nat) : Bool := l < Config.links && (s.linkRow l).active && !s.quadParked (l / 4)
/-- Clock domain of a quad among the 40 of Table 1.4. -/
def quadDomain (q : Nat) : Nat := 8 + q
/-- Fault source of a link's quad (Table 16.1). -/
def quadSource (l : Nat) : Nat := 0x85 + l / 4
/-- DETAIL of a fabric source (Table 16.3): link [127:121], peer [120:109], tag [108:99], error code [98:91]. -/
def fabDetail (l peer tag err : Nat) : Nat := at' l 121 + at' peer 109 + at' (tag % 1024) 99 + at' err 91
/-- Links that are UP. -/
def State.upLinks (s : State) : List Nat := (List.range Config.links).filter fun l => (s.linkOf l).state == .up

/-- One entry of the peer list as the 16 bytes that the membership digest covers (Table 12.8, R257). -/
def peerBytes (x : Peer) : Bytes := natLe 8 x.uid ++ natLe 2 x.id ++ natLe 4 x.latBudget ++ natLe 2 0
/-- The membership digest. -/
def State.membership (s : State) : Bytes := sha384 (s.fabSec.peers.flatMap peerBytes)

/-- This device's own HELLO on a link (Table 12.7). -/
def State.helloMsg (s : State) (l : Nat) : HelloMsg :=
  { uid := s.sec.uid, id := s.fab.devId, link := l, digest := s.membership }

/-! ## Flits and control frames (R246, R247, R253, R256) -/

/-- Flits of 256 bytes for a number of 64-byte units. -/
def flitsFor (units : Nat) : Nat := ceilDiv units 4

/-- Flits sent and not acknowledged. -/
def Link.outstanding (x : Link) : Nat := (x.txSeq + 4096 - (x.ackSeq + 1) % 4096) % 4096

/-- 64-byte places left in the last flit of frame bytes, in which a frame that follows at once starts (R246). -/
def Link.room (x : Link) : Nat :=
  if x.txFill != 0 && (x.replay.getLast?.map (·.1)) == some ((x.txSeq + 4095) % 4096) then 4 - x.txFill else 0

/-- `units` units join the replay buffer under the flits that carry them, the last of which names the entry. `shared`: the
first of them stand in the flit under way. -/
def Link.keep (x : Link) (units shared : Nat) (e : Sent) : Link :=
  let new := flitsFor (units - shared)
  let seq := (x.txSeq + new) % 4096
  { x with txSeq := seq, replay := x.replay ++ [((seq + 4095) % 4096, e)],
           txFill := if new = 0 then (x.txFill + units) % 4 else (units - shared) % 4 }

/-- 64-byte units of a control frame: header and tag, and its content (Table 12.7). DESIGN CHOICE, log entry 19. -/
def ctrlUnits : Ctrl → Nat
  | .lsa m => 1 + ceilDiv (14 + 7 * m.links.length) 64
  | _ => 2

/-- A control frame as the link shows it. -/
def ctrlOut (l : Nat) : Ctrl → Out
  | .hello m => .hello l m
  | .auth => .authMsg l
  | .lsa m => .lsa l m
  | .lsaAck origin seq => .lsaAck l origin seq
  | .syncReq t1 => .syncReq l t1
  | .syncRsp t1 t2 t3 => .syncRsp l t1 t2 t3
  | .keyUpdate phase => .keyUpdate l phase

/-- A control frame can be sent now: lane 0 holds credits for it and the replay buffer has room. -/
def State.ctrlSendable (s : State) (l : Nat) (c : Ctrl) : Bool :=
  let x := s.linkOf l
  (x.state == .authenticating || x.state == .mismatch || x.state == .up) && tgetD x.credits 0 0 ≥ ctrlUnits c &&
    x.outstanding + flitsFor (ctrlUnits c) ≤ Config.replayFlits

/-- A control frame leaves in flits of KIND 2, which share no body with other frames; it takes a frame counter once the link
is keyed. -/
def State.sendCtrlNow (s : State) (l : Nat) (c : Ctrl) : State :=
  let x := s.linkOf l
  let y := { x with txFill := 0, credits := tput x.credits 0 (tgetD x.credits 0 0 - ctrlUnits c),
                    txFrames := if x.keyed then x.txFrames + 1 else x.txFrames }
  (s.setLink l { (y.keep (ctrlUnits c) 0 (.ctrl c)) with txFill := 0 }).emit (ctrlOut l c)

/-- Control frames that wait leave in their order while they can. -/
def State.drainCtrl (s : State) (l : Nat) : Nat → State
  | 0 => s
  | n + 1 =>
    match (s.linkOf l).ctrlWait with
    | [] => s
    | c :: r =>
      if s.ctrlSendable l c then ((s.modLink l fun x => { x with ctrlWait := r }).sendCtrlNow l c).drainCtrl l n else s

/-- A control frame goes out on a link as soon as it can. -/
def State.sendCtrl (s : State) (l : Nat) (c : Ctrl) : State :=
  let t := s.modLink l fun x => { x with ctrlWait := x.ctrlWait ++ [c] }
  t.drainCtrl l (t.linkOf l).ctrlWait.length

/-! ## Advertisements (R259, R260) -/

/-- SWITCH_DELAY_US in ns. -/
def State.switchDelay (s : State) : Nat := s.fabSec.switchDelayUs * 1000

/-- a is newer than b: 32-bit sequence numbers compared as in R217. -/
def newer32 (a b : Nat) : Bool := a != b && (a + two32 - b % two32) % two32 < two32 / 2

/-- An advertisement goes out on a link and waits for its acknowledgement. -/
def State.sendLsa (s : State) (m : LsaMsg) (l : Nat) : State :=
  let kept := s.fab.unacked.filter fun e => !(e.1 == l && e.2.1.origin == m.origin)
  { s with fab := { s.fab with unacked := kept ++ [(l, m, s.now)] } }.sendCtrl l (.lsa m)

/-- The latest SWITCH_AT since the previous switch. -/
def State.noteSwitch (s : State) (at_ : Nat) : State :=
  { s with fab := { s.fab with switchAt := some (max (s.fab.switchAt.getD 0) at_) } }

/-- A link-state change: this device lists its UP links, once they are measured (R258), in a new advertisement and floods it
(R259). -/
def State.flood (s : State) : State :=
  let at_ := s.now + s.switchDelay
  let m : LsaMsg :=
    { origin := s.fab.devId, seq := (s.fab.lsaSeq + 1) % two32, switchAt := at_,
      links := (s.upLinks.filter fun l => !(s.linkOf l).measuring).map fun l => ((s.linkOf l).peerId, l, (s.linkOf l).delay) }
  let t := { s with fab := { s.fab with lsaSeq := m.seq, lsas := tput s.fab.lsas s.fab.devId m } }
  s.upLinks.foldl (fun t l => t.sendLsa m l) (t.noteSwitch at_)

/-! ## The tree and the master (R268, R269) -/

/-- Position in the spanning tree after a change of the tables. -/
def State.setTree (s : State) : State :=
  let hops := lsaHops s.fab.lsas
  let tree := treeOf hops s.fab.devId
  let parent := parentOf hops tree s.fab.devId
  { s with fab := { s.fab with
      tree := tree, master := rootOf hops s.fab.devId, depth := depthOf tree s.fab.devId,
      hasParent := parent.isSome, parent := parent.getD 0, firstSync := s.fab.firstSync && parent == some s.fab.parent } }

/-- FAB_SYNC_STATUS.STATE takes a value; HOLDOVER and DEPTH_EXCEEDED raise source 0xA8 (R269). -/
def State.setSync (s : State) (v : Nat) : State :=
  let t := { s with fab := { s.fab with sync := v } }
  if v = s.fab.sync || v < 2 then t else t.raise 0xA8 {}

/-- A device without a parent free-runs on its reference clock and reports HOLDOVER (R269). -/
def State.orphan (s : State) : State :=
  if s.fab.hasParent then s else { s with fab := { s.fab with rateAdj := 0 } }.setSync 2

/-! ## Route switch (R260, R262, R263) -/

/-- A request frame of this device goes out again under the new tables, with RESENT set. -/
def State.resend (s : State) (tag : Nat) (f : Frame) : State :=
  let f := { f with resent := true, routeGen := s.fab.routeGen }
  let upd := fun (x : Request) =>
    { x with frames := lmod (fun g => g.index == f.index) (fun _ => f) x.frames, times := tput x.times f.index s.now }
  let t := { s with fab := { s.fab with requests := lmod (fun x => x.tag == tag) upd s.fab.requests } }
  t.sendFrame f

/-- What a switch does with one unanswered request frame. -/
def State.switchFrame (s : State) (r : Request) (f : Frame) : State :=
  if f.dst.1 = s.fab.devId then s
  else if !(tgetD s.fab.routes f.dst.1 {}).validU then s.arrive (answerOf f tyErrorRsp [] 2)
  else if f.routeGen != s.fab.routeGen && s.now ≥ tgetD r.times f.index 0 + s.switchDelay then s.resend r.tag f
  else s

/-- The routes over their budget, by LAT_U in its units of 8 ns: each is counted and reported once for the switch (R263). -/
def State.checkBudgets (s : State) : State :=
  let late := s.fabSec.peers.filter fun x =>
    let r := tgetD s.fab.routes x.id {}
    x.id != s.fab.devId && r.validU && 8 * routeLat r.costU > x.latBudget
  late.foldl (fun t x => (t.countSat .fabBudgetOver 0).raise 0x9D { raw := fabDetail 0 x.id 0 0 }) s

/-- Since when no lane has held a frame of the old generation. -/
def State.trackOld (s : State) : State :=
  if s.fab.oldRoutes.isNone then s
  else
    let held := s.shp.ports.any fun e => e.2.reqs.any fun r =>
      match r.frame with | some f => f.routeGen != s.fab.routeGen | none => false
    { s with fab := { s.fab with oldIdleSince :=
        if held then none else some (s.fab.oldIdleSince.getD s.now) } }

/-- New routes take effect in one instant. -/
def State.switchRoutes (s : State) : State :=
  let routes := routesFor s.fab.devId (fun n =>
    ((List.range Config.links).find? fun k => (s.linkOf k).helloOk && (s.linkOf k).peerId == n).getD noTrunk) s.fab.lsas
  let t := { s with fab := { s.fab with
    routes := routes, oldRoutes := some s.fab.routes, oldTree := s.fab.tree, oldIdleSince := none,
    routeGen := !s.fab.routeGen, switchAt := none } }
  let t := (t.setTree.orphan).count .fabSwitches
  let t := (s.fab.requests.foldl (fun t r => r.frames.foldl (fun t f => t.switchFrame r f) t) t)
  (t.checkBudgets).trackOld

/-- The switch is due: the latest SWITCH_AT has come. -/
def State.switchDue (s : State) : Bool := match s.fab.switchAt with | some t => s.now ≥ t | none => false

/-- ROUTE_SWITCH (R262). -/
def doRouteSwitch (s : State) : State := if s.pwr.pwrok && s.switchDue then s.switchRoutes else s

/-- ROUTE_TABLE_RETIRE: the previous tables go once no lane has held a frame of their generation for 10 µs (R262). -/
def doRouteTableRetire (s : State) : State :=
  match s.fab.oldRoutes, s.fab.oldIdleSince with
  | some _, some t =>
    if s.pwr.pwrok && s.now ≥ t + 10000 then
      { s with fab := { s.fab with oldRoutes := none, oldIdleSince := none, oldTree := [] } }
    else s
  | _, _ => s

/-- LSA: acknowledged; kept and forwarded when it is newer for its origin. One that comes in the instant of a switch
belongs to the next switch (R259, R262). -/
def doLsa (l : Nat) (m : LsaMsg) (s : State) : State :=
  if s.pwr.pwrok && (s.linkOf l).state == .up then
    let t := (doRouteSwitch s).sendCtrl l (.lsaAck m.origin m.seq)
    let new := match tget t.fab.lsas m.origin with | some x => newer32 m.seq x.seq | none => true
    if new then
      let t := { t with fab := { t.fab with lsas := tput t.fab.lsas m.origin m } }.noteSwitch m.switchAt
      (t.upLinks.filter (· != l)).foldl (fun t k => t.sendLsa m k) t
    else t
  else s

/-- LSA_ACK. -/
def doLsaAck (l origin seq : Nat) (s : State) : State :=
  let kept := s.fab.unacked.filter fun e => !(e.1 == l && e.2.1.origin == origin && e.2.1.seq == seq)
  { s with fab := { s.fab with unacked := kept } }

/-- LSA_RESEND: to a neighbour that has not answered within 50 µs (R259). -/
def doLsaResend (l origin : Nat) (s : State) : State :=
  match s.fab.unacked.find? (fun e => e.1 == l && e.2.1.origin == origin) with
  | some (_, m, since) =>
    if s.pwr.pwrok && (s.linkOf l).state == .up && s.now ≥ since + 50000 then s.sendLsa m l else s
  | none => s

/-! ## Sending (R247, R253 to R256) -/

/-- A frame can be sent now: the lane holds credits for all of it, and the replay buffer has room. -/
def State.sendable (s : State) (l : Nat) (f : Frame) : Bool :=
  let x := s.linkOf l
  x.state == .up && s.laneCredits l f.lane ≥ frameCredits f &&
    x.outstanding + flitsFor (frameCredits f - x.room) ≤ Config.replayFlits

/-- The first request of each lane. -/
def laneHeads : List PortReq → List Nat → List PortReq
  | [], _ => []
  | r :: rest, seen =>
    match r.frame with
    | some f => if seen.contains f.lane then laneHeads rest seen else r :: laneHeads rest (f.lane :: seen)
    | none => laneHeads rest seen

/-- A frame leaves on a link: its counter and key phase are set, its credits are taken, and the replay buffer keeps it. -/
def State.transmit (s : State) (l : Nat) (r : PortReq) (f : Frame) : State :=
  let x := s.linkOf l
  let f := { f with frameCtr := x.txFrames, keyPhase := x.txPhase }
  let y := { x with txFrames := x.txFrames + 1,
                    credits := tput x.credits f.lane (tgetD x.credits f.lane 0 - frameCredits f) }
  let t := s.setLink l (y.keep (frameCredits f) (min x.room (frameCredits f)) (.frame f))
  let t := (t.emit (.frame l f)).returnCredit r.ingress f
  let t := if f.src.1 = s.fab.devId then
      (match lanePart f.lane with | some p => t.count .fabPartTx p (frameBytes f) | none => t) else t
  t.trackOld

/-- The grant in progress at a link ends; of the lanes whose head frame can be sent, the next is granted and sent (R223,
R255). A lane that lacks credits is not waiting. -/
def State.grantLink (s : State) (l : Nat) : State :=
  let x := s.port (.link l)
  let heads := (laneHeads x.reqs []).filter fun r => match r.frame with | some f => s.sendable l f | none => false
  let t := (s.endGrant (.link l) x.reqs).grantOf (.link l) heads
  match (t.port (.link l)).cur with
  | some r => (match r.frame with | some f => t.transmit l r f | none => t)
  | none => t.modLink l fun y => { y with txFill := 0 }

/-- PORT_GRANT_END. -/
def doPortGrantEnd (port : PortId) (s : State) : State :=
  if !s.live then s
  else match port with
    | .link l => s.grantLink l
    | _ => s.grantNext port

/-! ## Receiving (R246, R247, R249, R254, R256, R261) -/

/-- The layout that Table 12.2 gives. -/
def flitOk (f : Flit) : Bool :=
  f.kind ≤ 2 && f.seq < 4096 && f.ack < 4096 && f.credits.length ≤ 2 && f.credits.all (fun e => e.1 < 35 && e.2 < 1024) && f.rsvZero

/-- The layout that Table 12.3 gives, field by field: a request on a lane of requests, a response on one of responses, and
in ERROR_RSP a code of Table 12.6. -/
def frameOk (f : Frame) : Bool :=
  ([tyReadReq, tyWriteReq, tyCasReq, tyShardReq, tyReadRsp, tyWriteAck, tyCasRsp, tyShardRsp, tyErrorRsp].contains f.type) &&
  f.rsvZero && 1 ≤ f.lane && f.lane < 35 && requestLane f.lane == frameReq f && f.hops < 256 && f.src.1 < 4096 && f.src.2 < 16 && f.dst.1 < 4096 && f.dst.2 < 16 &&
  f.offset < 2 ^ 48 && f.len ≤ 32 && (frameReq f || f.e2eSeq = 0) &&
  (if f.type = tyErrorRsp then 1 ≤ f.error && f.error ≤ 7 else f.error = 0 || (f.type = tyCasRsp && f.error = 1)) &&
  (if f.type = tyReadReq then f.payload.isEmpty
   else if f.type = tyWriteAck || f.type = tyErrorRsp then f.payload.isEmpty && f.len = 0
   else ceilDiv f.payload.length 64 = f.len)

/-- A frame that has been decrypted and checked: kept when it is for this device, else forwarded (R261). -/
def State.takeFrame (s : State) (l : Nat) (f : Frame) : State :=
  if !frameOk f then (s.countSat .fabBadFrame l).returnCredit (some l) f
  else if f.dst.1 = s.fab.devId then
    let t := (s.arrive f).returnCredit (some l) f
    match lanePart f.lane with | some p => t.count .fabPartRx p (frameBytes f) | none => t
  else
    let f := { f with hops := f.hops + 1 }
    if f.hops ≥ maxHops then
      let t := s.returnCredit (some l) f
      if frameReq f then t.sendFrame { answerOf f tyErrorRsp [] 7 with routeGen := s.fab.routeGen } else t
    else (s.sendFrame f (some l)).trackOld

/-- Discovery begins on a trained link, and again after a tag failure (R256, R258): its flits start anew, lane 0 has its
credits, and HELLO goes out. -/
def State.discover (s : State) (l : Nat) : State :=
  (s.modLink l fun x =>
    { x with state := .authenticating, keyed := false, secret := 0, helloOk := false, measuring := false, lastValid := s.now, txSeq := 0,
             ackSeq := 4095, rxSeq := 4095, replay := [], txFill := 0, ctrlWait := [], naking := false, uncorrRun := 0,
             credits := [(0, 33)] }).sendCtrl l (.hello (s.helloMsg l))

/-- The receiver accepts a frame's key phase: the phase in force, or the old one for 1,024 frames. -/
def Link.phaseOk (x : Link) (f : Frame) : Bool := f.keyPhase == x.rxPhase || x.rxOldLeft > 0

/-- A frame under the replay buffer goes out again after a failure: on its trunk, or on its current route (R266). -/
def State.rescue (s : State) (l : Nat) (f : Frame) (resent : Bool) (ing : Option Nat) : State :=
  let f := { f with resent := f.resent || resent }
  match s.pickLink l f.lane with
  | some k => s.queueFrame k f ing
  | none => s.sendFrame f ing

/-- A link leaves for the state `to`: the frames of its replay buffer are resent with RESENT set, those that waited go on, keys
and credits are gone (R363), the change is flooded. -/
def State.leaveLink (s : State) (l : Nat) (dest : LinkState) : State :=
  let x := s.linkOf l
  let waiting := (s.port (.link l)).reqs
  let was := x.state
  let t := s.setLink l { x with
    state := dest, keyed := false, secret := 0, measuring := false, downSince := s.now, replay := [], txFill := 0, ctrlWait := [],
    credits := [], naking := false, uncorrRun := 0, txSeq := 0, ackSeq := 4095, rxSeq := 4095, rxOldLeft := 0 }
  let t := { t with fab := { t.fab with unacked := t.fab.unacked.filter fun e => e.1 != l } }
  let t := t.setPort (.link l) { (t.port (.link l)) with reqs := [], cur := none }
  let t := x.replay.foldl (fun t e => match e.2 with | .frame f => t.rescue l f true none | .ctrl _ => t) t
  let t := waiting.foldl (fun t r => match r.frame with | some f => t.rescue l f false r.ingress | none => t) t
  if was == .up then (t.flood).trackOld else t

/-- A link that was UP or on its way there is down (R245, R266): counted and reported, its frames go on elsewhere. -/
def State.downLink (s : State) (l : Nat) : State :=
  (((s.count .fabDowns l).raise (quadSource l) { raw := fabDetail l (s.linkOf l).peerId 0 0 })).leaveLink l .down

/-- The frames that end in a flit. -/
def State.takeFrames (s : State) (l : Nat) : List (Frame × Bool) → State
  | [] => s
  | (f, tagOk) :: r =>
    let x := s.linkOf l
    if tagOk && x.phaseOk f then
      ((s.setLink l { x with rxOldLeft := x.rxOldLeft - 1 }).takeFrame l f).takeFrames l r
    else
      let t := (s.countSat .fabTagFail l)
      (t.downLink l).discover l

/-- The control frames that end in a flit: each gives its credits of lane 0 back; under a key its tag is checked. -/
def State.takeCtrls (s : State) (l : Nat) : List (Nat × Bool) → State
  | [] => s
  | (n, tagOk) :: r =>
    let x := s.linkOf l
    if !x.keyed || tagOk then
      ((s.setLink l { x with rxOldLeft := x.rxOldLeft - 1 }).emit (.credit l 0 n)).takeCtrls l r
    else ((s.countSat .fabTagFail l).downLink l).discover l

/-- Acknowledged flits leave the replay buffer: those up to `ack`, among the ones not acknowledged before. -/
def Link.acked (x : Link) (ack : Nat) : Link :=
  if (x.txSeq + 4096 - (ack + 1) % 4096) % 4096 ≤ x.outstanding then
    { x with ackSeq := ack, replay := x.replay.filter fun e => (ack + 4096 - e.1 % 4096) % 4096 ≥ 2048 }
  else x

/-- The header of a flit: acknowledgement, credits and a NAK's resend (Table 12.2, R247). -/
def State.takeHeader (s : State) (l : Nat) (f : Flit) : State :=
  let x := (s.linkOf l).acked f.ack
  let x := { x with lastValid := s.now, uncorrRun := 0,
                    credits := f.credits.foldl (fun c e => tput c e.1 (tgetD c e.1 0 + e.2)) x.credits }
  let t := s.setLink l x
  let t := if f.corrected > 0 then t.count .fabFecCorr l f.corrected else t
  let t := if f.nak && x.outstanding != 0 then
      (t.count .fabReplay l).emit (.resend l ((x.ackSeq + 1) % 4096) ((x.txSeq + 4095) % 4096))
    else t
  t.drainCtrl l x.ctrlWait.length

/-- FLIT_RX. A flit that arrives in an uncorrectable codeword, or whose header breaks Table 12.2, is discarded and draws a NAK.
DESIGN CHOICE, log entry 19. -/
def doFlitRx (l : Nat) (f : Flit) (s : State) : State :=
  let x := s.linkOf l
  if !s.pwr.pwrok || !(x.state == .up || x.state == .authenticating || x.state == .mismatch) then s
  else if f.uncorrectable || !flitOk f then
    let t := if f.uncorrectable then
        (s.countSat .fabUncorr l).modLink l fun x => { x with uncorrRun := x.uncorrRun + 1, naking := true }
      else s.modLink l fun x => { x with naking := true }
    t.emit (.nakFlit l x.rxSeq)
  else if f.kind = 0 then s.takeHeader l f
  else if f.seq != (x.rxSeq + 1) % 4096 then
    s.modLink l fun x => { x with lastValid := s.now, uncorrRun := 0 }
  else
    let t := s.takeHeader l f
    let t := (t.modLink l fun x => { x with rxSeq := f.seq, naking := false }).emit (.ackFlit l f.seq)
    if f.kind = 2 then t.takeCtrls l f.ctrl else if x.state == .up then t.takeFrames l f.frames else t

/-! ## Link states (R245, R258, R266, R267) -/

/-- The link has lost its peer: no valid flit for 500 ns, 16 uncorrectable codewords in a row, or its quad's clock. -/
def State.linkLost (s : State) (l : Nat) : Bool :=
  let x := s.linkOf l
  s.now ≥ x.lastValid + 500 || x.uncorrRun ≥ 16 || s.pwr.clockLost.contains (quadDomain (l / 4))

/-- LINK_DOWN. -/
def doLinkDown (l : Nat) (s : State) : State :=
  if s.pwr.pwrok && ((s.linkOf l).state == .up || (s.linkOf l).state == .authenticating) && s.linkLost l then s.downLink l
  else s

/-- LINK_RETRY: a DOWN link trains again every 100 ms (R267). -/
def doLinkRetry (l : Nat) (s : State) : State :=
  let x := s.linkOf l
  if s.pwr.pwrok && (x.state == .down || x.state == .training) && s.now ≥ x.downSince + 100000000 &&
     !s.pwr.clockLost.contains (quadDomain (l / 4))
  then s.setLink l { x with state := .training, downSince := s.now }
  else s

/-- LINK_TRAINED (R258). -/
def doLinkTrained (l : Nat) (s : State) : State :=
  if s.pwr.pwrok && s.linkActive l && (s.linkOf l).state == .training && s.pwr.stage ≥ 7 then s.discover l else s

/-- HELLO: digest, peer list and link table (R258, step 1). -/
def State.helloPasses (s : State) (l : Nat) (m : HelloMsg) : Bool :=
  let r := s.linkRow l
  m.digest == s.membership && s.fabSec.peers.any (fun x => x.uid == m.uid && x.id == m.id) &&
  (r.peerId == 0xFFF || (r.peerId == m.id && r.peerLink == m.link))

def doHello (l : Nat) (m : HelloMsg) (s : State) : State :=
  let x := s.linkOf l
  if s.pwr.pwrok && (x.state == .authenticating || x.state == .mismatch) then
    if s.helloPasses l m then
      (s.setLink l { x with state := .authenticating, helloOk := true, peerId := m.id, peerLink := m.link,
                            peerUid := m.uid, lastValid := s.now }).sendCtrl l .auth
    else s.setLink l { x with state := .mismatch, helloOk := false }
  else s

/-- Credits with which a lane starts: those of Table 12.5, and the LINKS sections'. DESIGN CHOICE, log entry 19. -/
def State.startCredits (s : State) (l : Nat) : Tab Nat :=
  let im := match s.bind.image with | some im => some im | none => s.bind.pendingImage
  let links := fun p => match im with | some x => (tgetD x.parts p {}).links | none => {}
  [(0, 33), (1, 99), (2, 99)] ++ (List.range Config.partitions).flatMap fun p =>
    match tget (links p).credits l with
    | some (a, b) => [(3 + 2 * p, a), (4 + 2 * p, b)]
    | none => []

/-- AUTH: the mutual authentication of SPDM and its outcome (R258, step 2): the link is UP under new keys, its partition and
device lanes have their credits, and a SYNC exchange measures it (step 3). -/
def doAuth (l uid : Nat) (secret : BitVec 384) (ok : Bool) (s : State) : State :=
  let x := s.linkOf l
  if s.pwr.pwrok && x.state == .authenticating && x.helloOk then
    if ok && uid == x.peerUid then
      (s.setLink l { x with
        state := .up, keyed := true, secret := secret, measuring := true,
        credits := tput (s.startCredits l) 0 (tgetD x.credits 0 0), txPhase := false, rxPhase := false, txFrames := 0,
        txUpdates := 0, rxUpdates := 0, rxOldLeft := 0, lastValid := s.now }).sendCtrl l (.syncReq s.now)
    else s.setLink l { x with state := .mismatch, helloOk := false }
  else s

/-! ## Keys (R256) -/

/-- Frames that one link key covers. -/
def keyFrames : Nat := two32

/-- The export master secret of a link's present session. -/
def State.linkSecret (s : State) (l : Nat) : Bytes := natLe 48 (s.linkOf l).secret.toNat

/-- Direction of the frames that this device sends on a link: 0 runs from the lower device ID to the higher (R357). -/
def State.linkDir (s : State) (l : Nat) : Nat := if s.fab.devId < (s.linkOf l).peerId then 0 else 1

/-- Context of a link's derivations (Table 17.4), for the frames that it sends or receives. -/
def State.linkContext (s : State) (l : Nat) (tx : Bool) : Bytes :=
  let x := s.linkOf l
  if tx then natLe 1 (s.linkDir l) ++ natLe 4 x.txUpdates else natLe 1 (1 - s.linkDir l) ++ natLe 4 x.rxUpdates

/-- Key and salt of one direction of a link (R256, Table 17.4). -/
def State.linkKey (s : State) (l : Nat) (tx : Bool) : Bytes :=
  kdf (s.linkSecret l) ['H', 'R', 'E', '-', 'L', 'I', 'N', 'K'] (s.linkContext l tx) 32
def State.linkSalt (s : State) (l : Nat) (tx : Bool) : Bytes :=
  kdf (s.linkSecret l) ['H', 'R', 'E', '-', 'L', 'S', 'A', 'L', 'T'] (s.linkContext l tx) 4

/-- Nonce of the next frame that a link sends: the salt of the direction, then FRAME_CTR (R256). -/
def State.linkNonce (s : State) (l : Nat) : Bytes := s.linkSalt l true ++ natLe 8 (s.linkOf l).txFrames

/-- KEY_UPDATE. -/
def doKeyUpdate (l : Nat) (phase : Bool) (s : State) : State :=
  let x := s.linkOf l
  if s.pwr.pwrok && x.state == .up && phase != x.rxPhase then
    s.setLink l { x with rxPhase := phase, rxOldLeft := 1024, rxUpdates := x.rxUpdates + 1 }
  else s

/-- KEY_UPDATE_SEND. -/
def doKeyUpdateSend (l : Nat) (s : State) : State :=
  let x := s.linkOf l
  if s.pwr.pwrok && x.state == .up && x.txFrames ≥ keyFrames && s.ctrlSendable l (.keyUpdate (!x.txPhase)) then
    (s.sendCtrlNow l (.keyUpdate (!x.txPhase))).modLink l fun y =>
      { y with txPhase := !x.txPhase, txFrames := 0, txUpdates := x.txUpdates + 1 }
  else s

/-! ## The timebase (R5, R268, R269) -/

/-- A link that is UP to the parent. -/
def State.parentLink (s : State) : Option Nat :=
  if s.fab.hasParent then s.upLinks.find? fun l => (s.linkOf l).peerId == s.fab.parent else none

/-- SYNC_TIMER: every 1 ms. -/
def doSyncTimer (s : State) : State :=
  match s.parentLink with
  | some l =>
    if s.pwr.pwrok && s.now ≥ s.fab.lastSync + 1000000 then
      { s with fab := { s.fab with lastSync := s.now } }.sendCtrl l (.syncReq s.now)
    else s
  | none => s

/-- SYNC_REQ: the parent answers with t1, the arrival t2 and its own departure time. -/
def doSyncReq (l t1 t2 : Nat) (s : State) : State :=
  if s.pwr.pwrok && (s.linkOf l).state == .up then s.sendCtrl l (.syncRsp t1 t2 s.now) else s

/-- ((t2 − t1) − (t4 − t3)) / 2. -/
def syncOffset (t1 t2 t3 t4 : Nat) : Int := Int.tdiv (((t2 : Int) - t1) - ((t4 : Int) - t3)) 2

/-- Rate that removes an offset within 1 ms, in 0.01 ppm, inside ±200 ppm. DESIGN CHOICE, log entry 19. -/
def slewFor (offset : Int) : Int := max (-20000) (min 20000 (offset * 100))

/-- Error bound of a depth, in ns. -/
def depthBound (depth : Nat) : Nat := if depth ≤ 12 then 50 else 4 * depth

/-- The timebase may step: PHASE is 0 in the bring-up that follows a cold start or DEVICE_RESET. -/
def State.mayStep (s : State) : Bool := s.bind.phase == .none && s.pwr.kind = 0 && s.pwr.stage = 7

/-- The SYNC exchange of a link that has come UP measures its round trip and its one-way delay, and the device floods its
links (R258, steps 3 and 4). -/
def State.measureLink (s : State) (l t1 t2 t3 t4 : Nat) : State :=
  let x := s.linkOf l
  if s.pwr.pwrok && x.state == .up && x.measuring then
    let rtt := (t4 - t1) - (t3 - t2)
    (s.setLink l { x with rtt := rtt, delay := rtt / 2, measuring := false }).flood
  else s

/-- The timebase follows the parent by the offset that an exchange finds (R268). -/
def State.follow (s : State) (l t1 t2 t3 t4 : Nat) : State :=
  if s.pwr.pwrok && (s.linkOf l).state == .up && s.fab.hasParent && (s.linkOf l).peerId == s.fab.parent then
    let off := syncOffset t1 t2 t3 t4
    let t := { s with fab := { s.fab with offset := off, firstSync := true } }
    let within := off.natAbs ≤ depthBound s.fab.depth
    let state := if s.fab.depth > 12 then 3 else if within || s.mayStep then 1 else 0
    if s.mayStep then
      { t with now := (((s.now : Int) + off) % (two64 : Int)).toNat, fab := { t.fab with rateAdj := 0 } }.setSync state
    else { t with fab := { t.fab with rateAdj := slewFor off } }.setSync (if s.pwr.clockLost.contains 37 then 2 else state)
  else s

/-- SYNC_RSP. -/
def doSyncRsp (l t1 t2 t3 t4 : Nat) (s : State) : State := (s.measureLink l t1 t2 t3 t4).follow l t1 t2 t3 t4

/-! ## The commands of this file -/

/-- PORT_GRANT_END (R223). -/
def execPortGrantEnd (port : PortId) (s : State) : Host.Outcome State Fault Refusal :=
  .next (doPortGrantEnd port s)

/-- FLIT_RX (R247). -/
def execFlitRx (l : Nat) (flit : Flit) (s : State) : Host.Outcome State Fault Refusal :=
  .next (doFlitRx l flit s)

/-- LINK_DOWN (R266). -/
def execLinkDown (l : Nat) (s : State) : Host.Outcome State Fault Refusal :=
  .next (doLinkDown l s)

/-- LINK_RETRY (R267). -/
def execLinkRetry (l : Nat) (s : State) : Host.Outcome State Fault Refusal :=
  .next (doLinkRetry l s)

/-- LINK_TRAINED (R258). -/
def execLinkTrained (l : Nat) (s : State) : Host.Outcome State Fault Refusal :=
  .next (doLinkTrained l s)

/-- HELLO (R258). -/
def execHello (l : Nat) (m : HelloMsg) (s : State) : Host.Outcome State Fault Refusal :=
  .next (doHello l m s)

/-- AUTH (R258). -/
def execAuth (l uid : Nat) (secret : BitVec 384) (ok : Bool) (s : State) : Host.Outcome State Fault Refusal :=
  .next (doAuth l uid secret ok s)

/-- LSA (R259). -/
def execLsa (l : Nat) (m : LsaMsg) (s : State) : Host.Outcome State Fault Refusal :=
  .next (doLsa l m s)

/-- LSA_ACK (R259). -/
def execLsaAck (l origin seq : Nat) (s : State) : Host.Outcome State Fault Refusal :=
  .next (doLsaAck l origin seq s)

/-- LSA_RESEND (R259). -/
def execLsaResend (l origin : Nat) (s : State) : Host.Outcome State Fault Refusal :=
  .next (doLsaResend l origin s)

/-- ROUTE_SWITCH (R262). -/
def execRouteSwitch (s : State) : Host.Outcome State Fault Refusal :=
  .next (doRouteSwitch s)

/-- ROUTE_TABLE_RETIRE (R262). -/
def execRouteTableRetire (s : State) : Host.Outcome State Fault Refusal :=
  .next (doRouteTableRetire s)

/-- KEY_UPDATE (R256). -/
def execKeyUpdate (l : Nat) (phase : Bool) (s : State) : Host.Outcome State Fault Refusal :=
  .next (doKeyUpdate l phase s)

/-- KEY_UPDATE_SEND (R256). -/
def execKeyUpdateSend (l : Nat) (s : State) : Host.Outcome State Fault Refusal :=
  .next (doKeyUpdateSend l s)

/-- SYNC_TIMER (R268). -/
def execSyncTimer (s : State) : Host.Outcome State Fault Refusal :=
  .next (doSyncTimer s)

/-- SYNC_REQ (R268). -/
def execSyncReq (l t1 t2 : Nat) (s : State) : Host.Outcome State Fault Refusal :=
  .next (doSyncReq l t1 t2 s)

/-- SYNC_RSP (R268). -/
def execSyncRsp (l t1 t2 t3 t4 : Nat) (s : State) : Host.Outcome State Fault Refusal :=
  .next (doSyncRsp l t1 t2 t3 t4 s)

end Machine
end Sys2Proof
end

