-- ==== Sys2Proof/Machine/Text.lean ====
section
/-!
DEFINITION. Sys2Proof/Machine/Text.lean: chapter 8. Tokenizing (R168 to R173), detokenizing and the stop matcher (R174 to
R181), stop lists (R176), grammars (R182 to R186), and the records in which a STEP ends (R106, R107, R179).
-/
namespace Sys2Proof
open Machine

/-! ## Vocabularies (R166, R167, R174) and grammar images (R182) -/

def Vocab.size (v : Vocab) : Nat := v.entries.length
def Vocab.entry (v : Vocab) (t : Nat) : VEntry := v.entries.getD t {}

/-- A signed 32-bit score. -/
def scoreFits (x : Int) : Bool := -2147483648 ≤ x && x < 2147483648

/-- The rules of R166. -/
def Vocab.ok (v : Vocab) : Bool :=
  let plain := v.entries.filter fun e => !e.special
  let byteE := v.entries.filter (·.byteFlag)
  1 ≤ v.size && v.size ≤ 524288 &&
  plain.all (fun e => 1 ≤ e.bytes.length && e.bytes.length ≤ 64) && v.entries.all (fun e => e.bytes.length ≤ 64) &&
  (plain.map (·.bytes)).eraseDups.length == plain.length &&
  byteE.length == 256 && byteE.all (fun e => e.bytes.length == 1) && (byteE.map (·.bytes)).eraseDups.length == 256 &&
  countp (·.endFlag) v.entries ≤ 4 && v.entries.all (fun e => !e.endFlag || e.special) &&
  v.merges.length ≤ 524288 && v.merges.all (fun m => m.1 < v.size && m.2.1 < v.size && m.2.2 < v.size) &&
  (!v.lattice || v.entries.all fun e => scoreFits e.score) &&
  1 ≤ v.splitStates && v.splitStates ≤ 4096 && v.splitStart < v.splitStates &&
  v.splitter.all fun r => r.state < v.splitStates && r.next < v.splitStates

/-- The byte entry of one byte value. -/
def Vocab.byteEntry (v : Vocab) (b : Byte) : Nat :=
  match v.entries.findIdx? (fun e => e.byteFlag && e.bytes == [b]) with
  | some i => i
  | none => 0

/-- The one non-special entry that has these bytes. -/
def Vocab.withBytes (v : Vocab) (b : Bytes) : Option Nat := v.entries.findIdx? fun e => !e.special && e.bytes == b

/-- The end entries. -/
def Vocab.ends (v : Vocab) : List Nat := (List.range v.size).filter fun t => (v.entry t).endFlag

/-- The splitter's transition: the first rule of the state that holds the byte; none: the start state, no cut. -/
def Vocab.split (v : Vocab) (st : Nat) (b : Byte) : Nat × Bool :=
  match v.splitter.find? (fun r => r.state == st && r.lo ≤ b.toNat && b.toNat ≤ r.hi) with
  | some r => (r.next, r.cut)
  | none => (v.splitStart, false)

/-- Lookups that HBM serves: entries beyond the on-chip ones (R167). DEDUCED, log entry 17. -/
def Vocab.overflow (v : Vocab) (toks : List Nat) : Nat := countp (fun t => t ≥ v.onchip) toks

/-- The bytes that a committed token renders. -/
def Vocab.render (v : Vocab) (showSpecial : Bool) (t : Nat) : Bytes :=
  let e := v.entry t
  if e.endFlag then [] else if e.special && !showSpecial then [] else e.bytes

/-- Whether a transition asks for this stack top. -/
def TopTest.fits (t : TopTest) (stack : List Nat) : Bool :=
  match t with
  | .any => true
  | .empty => stack.isEmpty
  | .sym x => stack.getLast? == some x

/-- The transition for a state, a byte and a stack. -/
def GrammarImage.trans? (g : GrammarImage) (st : Nat) (b : Byte) (stack : List Nat) : Option GTrans :=
  g.trans.find? fun r => r.state == st && r.byte == b.toNat && r.top.fits stack

/-- R182: bounds of a grammar image, and the vocabulary that it was compiled against. -/
def GrammarImage.ok (g : GrammarImage) (v : Vocab) : Bool :=
  1 ≤ g.states && g.states ≤ 65536 && g.symbols ≤ 65535 && g.bitmaps ≤ 65536 && g.start < g.states &&
  g.accepting.all (· < g.states) && g.accept.all (fun e => e.1 < g.states && e.2.all (· < v.size)) &&
  g.check.all (fun e => e.1 < g.states && e.2.all (· < v.size)) &&
  g.trans.all (fun t => t.state < g.states && t.next < g.states && t.byte < 256 &&
    (match t.op with | .push x => decide (x < g.symbols) | _ => true)) &&
  g.vocab == v

namespace Machine

/-- The vocabulary of a partition's model program; the image sets how many of its entries are on-chip (R167). -/
def State.vocab (s : State) (p : Nat) : Vocab :=
  let own := (s.partImage p).text.vocab
  match s.program? p with
  | some g => { g.vocab with onchip := own.onchip }
  | none => own

/-! ## Pieces (R171) -/

/-- The splitter's pieces: `cur` is the piece under way, last byte first. DEDUCED, log entry 17. -/
def splitInto (v : Vocab) : Bytes → Nat → Bytes → List Bytes
  | [], _, cur => if cur.isEmpty then [] else [cur.reverse]
  | b :: r, st, cur =>
    let (st', cut) := v.split st b
    if cut && !cur.isEmpty then cur.reverse :: splitInto v r st' [b] else splitInto v r st' (b :: cur)

/-- A piece cut after every 4,096 bytes; `cut` marks the parts that such a cut ends. -/
def cutLong (before : Option Nat) : Nat → Bytes → List Piece
  | 0, _ => []
  | fuel + 1, b =>
    if b.length > 4096 then { bytes := b.take 4096, cut := true, before := before } :: cutLong before fuel (b.drop 4096)
    else [{ bytes := b, before := before }]

/-- The pieces of one input. -/
def piecesOf (v : Vocab) (before : Option Nat) (b : Bytes) : List Piece :=
  (splitInto v b v.splitStart []).flatMap fun x => cutLong before (x.length / 4096 + 1) x

/-! ## Rank-merge mode (R172) -/

/-- The rank of the merge that names a pair, with the entry it forms. -/
def mergeRank (merges : List (Nat × Nat × Nat)) (a b : Nat) : Option (Nat × Nat) :=
  match merges.findIdx? (fun m => m.1 == a && m.2.1 == b) with
  | some r => some (r, (merges.getD r (0, 0, 0)).2.2)
  | none => none

/-- The pair of lowest rank, the leftmost on a tie: rank, place, result. -/
def bestPair (merges : List (Nat × Nat × Nat)) : List Nat → Nat → Option (Nat × Nat × Nat) → Option (Nat × Nat × Nat)
  | a :: b :: r, i, best =>
    let best' :=
      match mergeRank merges a b, best with
      | some (k, x), none => some (k, i, x)
      | some (k, x), some (k0, _, _) => if k < k0 then some (k, i, x) else best
      | none, _ => best
    bestPair merges (b :: r) (i + 1) best'
  | _, _, best => best

/-- Merges until no pair is named; each merge shortens the list. -/
def mergeLoop (merges : List (Nat × Nat × Nat)) : Nat → List Nat → List Nat
  | 0, toks => toks
  | fuel + 1, toks =>
    match bestPair merges toks 0 none with
    | none => toks
    | some (_, i, x) => mergeLoop merges fuel (toks.take i ++ x :: toks.drop (i + 2))

def rankMerge (v : Vocab) (piece : Bytes) : List Nat :=
  mergeLoop v.merges piece.length (piece.map v.byteEntry)

/-! ## Lattice mode (R173) -/

/-- A node of the lattice. -/
structure LatNode where
  score : Int
  length : Nat
  id : Nat
  start : Option Nat
  deriving DecidableEq, Repr, Inhabited

/-- Score, then the longer last entry, then the lower identifier. -/
def latBetter (c b : LatNode) : Bool :=
  decide (c.score > b.score) ||
  (c.score == b.score && (decide (c.length > b.length) || (c.length == b.length && decide (c.id < b.id))))

/-- The best node that ends at place j, from the nodes of the places before it. -/
def latAt (v : Vocab) (piece : Bytes) (best : List (Option LatNode)) (j : Nat) : Option LatNode :=
  (List.range (min j 64)).foldl (fun acc i =>
    let k := j - min j 64 + i
    match v.withBytes (sub piece k (j - k)), best.getD k none with
    | some e, some n =>
      let c : LatNode := { score := n.score + (v.entry e).score, length := j - k, id := e, start := some k }
      (match acc with
       | none => some c
       | some b => if latBetter c b then some c else some b)
    | _, _ => acc) none

/-- The nodes of places 0 to n. -/
def latAll (v : Vocab) (piece : Bytes) : List (Option LatNode) :=
  (List.range piece.length).foldl (fun best j => best ++ [latAt v piece best (j + 1)])
    [some { score := 0, length := 0, id := 0, start := none }]

/-- The tokens of the best path to place j. -/
def latBack (best : List (Option LatNode)) : Nat → Nat → List Nat → List Nat
  | 0, _, acc => acc
  | fuel + 1, j, acc =>
    if j = 0 then acc
    else
      match best.getD j none with
      | some n => (match n.start with | some k => latBack best fuel k (n.id :: acc) | none => acc)
      | none => acc

def lattice (v : Vocab) (piece : Bytes) : List Nat := latBack (latAll v piece) (piece.length + 1) piece.length []

/-- The tokens of one piece. -/
def tokenize (v : Vocab) (piece : Bytes) : List Nat := if v.lattice then lattice v piece else rankMerge v piece

/-- The tokens of a list of pieces. -/
def tokensOf (v : Vocab) (l : List Piece) : List Nat := l.flatMap fun x => tokenize v x.bytes

/-! ## Stop lists (R176, Table 8.5) -/

/-- The packed stop strings from offset `off`; none: malformed. -/
def parseStrings (b : Bytes) : Nat → Nat → Option (List Bytes)
  | 0, _ => some []
  | k + 1, off =>
    if off ≥ b.length then none
    else
      let n := fld b off 1
      if n < 1 || n > 64 || off + 1 + n > b.length then none
      else
        match parseStrings b k (off + 1 + n) with
        | some l => some (sub b (off + 1) n :: l)
        | none => none

/-- A stop list: its strings and its tokens; none: malformed. `size` is ENTRIES. -/
def parseStops (b : Bytes) (size : Nat) : Option (List Bytes × List Nat) :=
  let ns := fld b 0 1
  let nt := fld b 1 1
  let toks := (List.range nt).map fun i => fld b (8 + 4 * i) 4
  if b.length < 0x28 || ns > 16 || nt > 8 || !zeroFld b 2 6 || toks.any (· ≥ size) then none
  else
    match parseStrings b ns 0x28 with
    | some l => some (l, toks)
    | none => none

/-! ## The stop matcher (R177, R178) -/

/-- `x` ends with `y`. -/
def endsWith (x y : Bytes) : Bool := y.length ≤ x.length && x.drop (x.length - y.length) == y

/-- The longest stop string that completes at the end of `x`. -/
def longestHit (strings : List Bytes) (x : Bytes) : Option Nat :=
  (strings.filter (endsWith x)).foldl (fun acc y =>
    match acc with
    | none => some y.length
    | some n => some (max n y.length)) none

/-- The earliest end, above `from`, at which a stop string completes: start and end. -/
def firstHit (strings : List Bytes) (buf : Bytes) : List Nat → Option (Nat × Nat)
  | [] => none
  | e :: r =>
    match longestHit strings (buf.take e) with
    | some n => some (e - n, e)
    | none => firstHit strings buf r

/-- The longest suffix of `buf` that is a proper prefix of a stop string: its length. -/
def heldLen (strings : List Bytes) (buf : Bytes) : Nat :=
  let fits := fun h => strings.any fun x => decide (h < x.length) && x.take h == buf.drop (buf.length - h)
  ((List.range (min 63 buf.length + 1)).reverse.find? fits).getD 0

/-- What a feed answers: bytes released, the new tail, the new overhang, whether a stop string completed. -/
structure Fed where
  out : Bytes := []
  tail : Bytes := []
  overhang : Bytes := []
  hit : Bool := false
  deriving DecidableEq, Repr, Inhabited

/-- R177. -/
def feed (strings : List Bytes) (incl : Bool) (tail data : Bytes) : Fed :=
  let buf := tail ++ data
  match firstHit strings buf ((List.range data.length).map fun i => tail.length + 1 + i) with
  | some (a, e) => { out := if incl then buf.take e else buf.take a, overhang := buf.drop e, hit := true }
  | none =>
    let h := heldLen strings buf
    { out := buf.take (buf.length - h), tail := buf.drop (buf.length - h) }

/-- TEXT bits of a STEP (Table 8.4). -/
def StepRun.incl (r : StepRun) : Bool := r.textFlags.testBit 0
def StepRun.holdTail (r : StepRun) : Bool := r.textFlags.testBit 1
def StepRun.dropOvh (r : StepRun) : Bool := r.textFlags.testBit 2
def StepRun.showSpecial (r : StepRun) : Bool := r.textFlags.testBit 3

/-- R178: the stop conditions of a committed token, and the status that ends the STEP, if one does. -/
def stopCheck (v : Vocab) (r : StepRun) (tail : Bytes) (t : Nat) : Fed × Option Status :=
  if r.stopTokens.contains t then
    let f := if r.incl then feed r.stops r.incl tail (v.render r.showSpecial t) else { tail := tail }
    (if f.hit then f else { out := f.out ++ f.tail, hit := true }, some .stopped)
  else if (v.entry t).endFlag then ({ tail := tail }, some .ok)
  else
    let f := feed r.stops r.incl tail (v.render r.showSpecial t)
    (f, if f.hit then some .stopped else none)

/-! ## Grammars (R182 to R186) -/

/-- The byte walk of R184; the stack's bottom stands first. -/
def walkBytes (g : GrammarImage) : Bytes → Nat → List Nat → Option (Nat × List Nat)
  | [], st, stk => some (st, stk)
  | b :: r, st, stk =>
    match g.trans? st b stk with
    | none => none
    | some tr =>
      match tr.op with
      | .keep => walkBytes g r tr.next stk
      | .push x => if stk.length ≥ 256 then none else walkBytes g r tr.next (stk ++ [x])
      | .pop => walkBytes g r tr.next stk.dropLast

/-- walk: special entries have none. -/
def walk (g : GrammarImage) (v : Vocab) (st : Nat) (stk : List Nat) (t : Nat) : Option (Nat × List Nat) :=
  let e := v.entry t
  if e.special || t ≥ v.size then none else walkBytes g e.bytes st stk

/-- txt_mask: the admitted tokens, ascending. -/
def txtMask (g : GrammarImage) (v : Vocab) (st : Nat) (stk : List Nat) : List Nat :=
  let acc := tgetD g.accept st []
  let chk := (tgetD g.check st []).filter fun t => (walk g v st stk t).isSome
  let fin := if g.accepting.contains st && stk.isEmpty then v.ends else []
  (List.range v.size).filter fun t => acc.contains t || chk.contains t || fin.contains t

/-- R185: the state and stack after a committed token; an end entry leaves them. -/
def walkCommit (g : GrammarImage) (v : Vocab) (st : Nat) (stk : List Nat) (t : Nat) : Nat × List Nat :=
  (walk g v st stk t).getD (st, stk)

/-- State and stack along a path of tokens; none: the grammar rejects it (R186). -/
def walkPath (g : GrammarImage) (v : Vocab) : List Nat → Nat → List Nat → Option (Nat × List Nat)
  | [], st, stk => some (st, stk)
  | t :: r, st, stk =>
    match walk g v st stk t with
    | some (a, b) => walkPath g v r a b
    | none => none

/-- The loaded grammar of a sequence; none: it runs without one. -/
def State.grammarOf (s : State) (p gid : Nat) : Option GrammarImage :=
  if gid = 0 then none else (tget (s.txtPart p).grammars gid).map (·.image)

/-- Bytes that a loaded image takes of GRAMMAR_MIB. -/
def grammarSpace (len : Nat) : Nat := ceilDiv len 65536 * 65536
def State.grammarUse (s : State) (p : Nat) : Nat := ((s.txtPart p).grammars.map fun e => grammarSpace e.2.image.len).sum
def State.grammarMib (s : State) (p : Nat) : Nat := bits (s.reg .txtPartCfg p) 14 0
def State.grammarMax (s : State) (p : Nat) : Nat := bits (s.reg .txtPartCfg p) 27 15

/-- Bytes of a bitmap over a vocabulary: padded with zeros to a multiple of 64 (R186). -/
def bitmapBytes (size : Nat) : Nat := ceilDiv size 512 * 64

/-- A mask as the bitmap that the mask writer writes: token i at bit i mod 8 of byte i / 8 (R186). -/
def bitmapOf (size : Nat) (toks : List Nat) : Bytes :=
  toks.foldl (fun b t => b.modify (t / 8) (fun x => x ||| BitVec.ofNat 8 (2 ^ (t % 8)))) (zeros (bitmapBytes size))

/-- The tokens that a bitmap admits, ascending. -/
def bitmapToks (size : Nat) (b : Bytes) : List Nat := (List.range size).filter fun t => (b.getD (t / 8) 0).getLsbD (t % 8)

/-- The bitmap of a state: identical ones are stored once, under the first state that has it. -/
def bitmapId (g : GrammarImage) (st : Nat) : Nat :=
  ((List.range st).find? fun k => tgetD g.accept k [] == tgetD g.accept st []).getD st

/-- One bitmap read of the grammar engine, through the partition's cache (first in, first out). DEDUCED, log entry 17. -/
def State.bitmapRead (s : State) (p gid : Nat) (g : GrammarImage) (st : Nat) : State :=
  let x := s.txtPart p
  let key := (gid, bitmapId g st)
  let places := bits (s.reg .txtPartCfg p) 46 32 * 1024 / max 1 (bitmapBytes (s.vocab p).size)
  if x.cache.contains key then s
  else
    let c := x.cache ++ [key]
    let c := c.drop (c.length - places)
    (s.setTxtPart p { x with cache := c, cacheHigh := max x.cacheHigh c.length }).count .txtBitmapMiss p

/-! ## GRAMMAR_LOAD and GRAMMAR_DROP (R182) -/

/-- GRAMMAR_LOAD begins: identifiers 0 and 0xFFFF_FFFF are out of range. -/
def doGrammarLoad (p vid : Nat) (s : State) : State :=
  match s.begun? p vid .grammarLoad with
  | none => s
  | some v =>
    let gid := v.f 0x2C 4
    if gid = 0 || gid = 0xFFFFFFFF then s.complete p vid .badArgument
    else (s.runVerb p vid).request .host { cls := .d, len := v.f 0x28 4, owner := some (.verb p vid) }

/-- GRAMMAR_LOAD_DONE: the image has been read from the host and checked. -/
def doGrammarLoadDone (p vid : Nat) (img : Option GrammarImage) (s : State) : State :=
  match s.running? p vid .grammarLoad with
  | none => s
  | some v =>
    let gid := v.f 0x2C 4
    let x := s.txtPart p
    match img with
    | none => s.complete p vid .badArgument
    | some g =>
      let g := { g with len := v.f 0x28 4 }
      if !g.ok (s.vocab p) then s.complete p vid .badArgument
      else if (tget x.grammars gid).isSome then s.complete p vid .badState
      else if x.grammars.length + 1 > s.grammarMax p || s.grammarUse p + grammarSpace g.len > s.grammarMib p * 1048576
      then s.complete p vid .noCapacity
      else (s.setTxtPart p { x with grammars := tput x.grammars gid { image := g } }).complete p vid .ok

/-- A STEP is running under the grammar. -/
def State.grammarInUse (s : State) (p gid : Nat) : Bool :=
  s.dir.sessions.any fun e => e.2.part == p && e.2.seqs.any fun q => q.2.run.isSome && q.2.grammar == gid

/-- The drop takes effect: verb `vid` completes, and with it every other drop of the grammar that waits for this. -/
def State.dropGrammar (s : State) (p gid vid : Nat) : State :=
  let x := s.txtPart p
  let drops := (s.verbs p).filter fun v =>
    v.op == .grammarDrop && v.f 0x2C 4 == gid && (v.phase == .running || v.id == vid)
  (s.setTxtPart p { x with grammars := tdel x.grammars gid, cache := x.cache.filter fun e => e.1 != gid }).completeAll p
    (drops.map (·.id)) .ok

/-- GRAMMAR_DROP begins. -/
def doGrammarDrop (p vid : Nat) (s : State) : State :=
  match s.begun? p vid .grammarDrop with
  | none => s
  | some v =>
    let gid := v.f 0x2C 4
    let x := s.txtPart p
    match tget x.grammars gid with
    | none => s.complete p vid .badArgument
    | some g =>
      if s.grammarInUse p gid || (s.ckpOf p).jobs.contains (.grammar gid) then
        (s.setTxtPart p { x with grammars := tput x.grammars gid { g with dropping := true } }).runVerb p vid
      else s.dropGrammar p gid vid

/-- GRAMMAR_DROP_EFFECT: every STEP that ran under the grammar has completed, and a running checkpoint has copied it
(R313). -/
def doGrammarDropEffect (p gid : Nat) (s : State) : State :=
  if !s.live || s.grammarInUse p gid || (s.ckpOf p).jobs.contains (.grammar gid) then s
  else
    match tget (s.txtPart p).grammars gid,
          (s.verbs p).find? (fun v => v.op == .grammarDrop && v.phase == .running && v.f 0x2C 4 == gid) with
    | some g, some v => if g.dropping then s.dropGrammar p gid v.id else s
    | _, _ => s

/-! ## Pipes (R165, R169, R216 to R221) -/

/-- Tokenize pipes (Table 8.1). -/
def tokenPipes : Nat := 4

/-- Verbs whose input waits for a tokenize pipe and whose queue may be served, in ring order by partition. -/
def State.pipeWaiters (s : State) : List (Nat × Verb) :=
  (List.range Config.partitions).flatMap fun p =>
    ((s.verbs p).filter fun (v : Verb) => v.phase == .running && !v.pieces.isEmpty && s.eligible v.queue &&
      !s.txt.pipes.any fun e => e.2.part == p && e.2.verb == v.id).map fun v => (p, v)

/-- The scheduler takes verb `a` before verb `b`: by the order of its queues, within one queue in order of arrival (R216, R219). -/
def State.takenBefore (s : State) (id : SchedId) (a b : Nat × Verb) : Bool :=
  let req := fun (x : Nat × Verb) => ({ cls := .b, queue := some x.2.queue } : PortReq)
  s.servedBefore id (req a) (req b) ||
    (!s.servedBefore id (req b) (req a) && (decide (a.2.arrival < b.2.arrival) ||
      (a.2.arrival == b.2.arrival && (decide (a.1 < b.1) || (a.1 == b.1 && decide (a.2.id < b.2.id))))))

/-- The verb that a scheduler takes next. -/
def State.nextWaiter (s : State) (id : SchedId) : List (Nat × Verb) → Option (Nat × Verb)
  | [] => none
  | a :: r => some (r.foldl (fun b x => if s.takenBefore id x b then x else b) a)

/-- A grant of a pipe scheduler ends: its pipe time is charged to the queue, and V moves on over the queues that wait. -/
def State.endPipe (s : State) (id : SchedId) (q ns : Nat) (waits : List Nat) : State :=
  (s.charge id q ns waits).dropIdle id (waits.filterMap s.privOf)

/-- QUERYs that have been read and wait for a walk-pipe slot (R188), and whose queue may be served. -/
def State.slotWaiters (s : State) : List (Nat × Verb) :=
  (List.range Config.partitions).flatMap fun p =>
    ((s.verbs p).filter fun (v : Verb) => v.phase == .begun && v.op == .query && s.eligible v.queue).map fun v => (p, v)

/-- Tokenize pipes whose verb has no input left, or has ended, are free again. -/
def State.freePipes (s : State) : State :=
  s.txt.pipes.foldl (fun (t : State) (e : Nat × PipeJob) =>
    let j := e.2
    let busy : Bool := match t.verb? j.part j.verb with | some v => v.phase == .running && !v.pieces.isEmpty | none => false
    if busy then t
    else { t with txt := { t.txt with pipes := tdel t.txt.pipes e.1 } }.endPipe .text j.queue (t.now - j.since)
      (t.pipeWaiters.map fun (x : Nat × Verb) => x.2.queue)) s

/-- Free pipes are granted to the verbs that wait; `n` bounds the grants. -/
def State.fillPipes (s : State) : Nat → State
  | 0 => s
  | n + 1 =>
    match (List.range tokenPipes).find? (fun k => (tget s.txt.pipes k).isNone), s.nextWaiter .text s.pipeWaiters with
    | some k, some (p, v) =>
      let job : PipeJob := { part := p, verb := v.id, queue := v.queue, since := s.now }
      { s with txt := { s.txt with pipes := tput s.txt.pipes k job } }.fillPipes n
    | _, _ => s

/-- The TEXT scheduler grants tokenize pipes: one for the whole input of a verb (R169). DESIGN CHOICE, log entry 21. -/
def State.grantText (s : State) : State := s.freePipes.fillPipes tokenPipes

/-- A detokenize pipe has rendered and matched `n` bytes: its time is charged to the STEP's queue. DESIGN CHOICE, log entry 21. -/
def State.detokenized (s : State) (q n : Nat) : State :=
  s.endPipe .text q (Config.detokNs n s.now).toNat (s.pipeWaiters.map fun x => x.2.queue)

/-! ## Output and the records of a STEP (R106, R107, R174, R179) -/

/-- Bytes that the matcher releases go to the output buffer in order. -/
def State.release (s : State) (p d n : Nat) (b : Bytes) : State :=
  match s.seq? d n with
  | none => s
  | some q =>
    match q.run with
    | none => s
    | some r =>
      if b.isEmpty then s
      else
        let t := (s.emit (.hostWrite (r.outAddr + r.outEnd) b)).count .txtOutBytes p b.length
        let t := match s.verb? p r.verb with | some v => t.detokenized v.queue b.length | none => t
        t.modSeq d n fun q => { q with run := some { r with outEnd := r.outEnd + b.length } }

/-- The output buffer is full: fewer than 127 bytes remain (R180). -/
def StepRun.full (r : StepRun) : Bool := r.outLen - r.outEnd < 127

/-- The body of a STEP record (Table 4.6, Table 19.9). -/
def stepBody (q : Seq) (r : StepRun) (final : Bool) : RecBody :=
  let first := r.emitted == r.recTokens && r.emitted > 0
  [(0x20, 4, r.recTokens), (0x24, 4, q.ctxLen), (0x28, 8, q.stepCounter), (0x30, 4, r.outEnd),
   (0x34, 4, if first then sat32 r.ttftNs else 0), (0x38, 4, sat32 (if final then r.maxTbt else r.tbtNs)),
   (0x3C, 2, min 255 r.recProposed * 256 + min 255 r.recAccepted)] ++
  (if r.cheaper = 3 then [(0x40, 4, r.windowFirst), (0x44, 4, r.windowLen)] else [])

/-- A record's own measures, cleared once the record is written. -/
def StepRun.cleared (r : StepRun) : StepRun :=
  { r with recTokens := 0, recProposed := 0, recAccepted := 0, cheaper := 0, ttftMiss := false, tbtMiss := false }

/-- A PARTIAL record of a STEP with STREAM (R106). -/
def State.partialRecord (s : State) (p d n : Nat) : State :=
  match s.seq? d n with
  | none => s
  | some q =>
    match q.run with
    | none => s
    | some r =>
      match s.verb? p r.verb with
      | none => s
      | some v =>
        let t := s.post p (verbRec v .ok (stepFlags true r.ttftMiss r.tbtMiss false r.cheaper) (stepBody q r false) none)
        t.modSeq d n fun q => { q with run := some r.cleared }

/-- The sequence's charge no longer stands (R336). -/
def State.unpay (s : State) (p d n : Nat) : State :=
  s.modSpn p fun x => { x with paid := x.paid.filter fun e => e != (d, n) }

/-- The sequence leaves the gathering under construction (R98). -/
def State.leaveNext (s : State) (p d n : Nat) : State :=
  s.modSpn p fun x => { x with next := x.next.map fun g =>
    { g with entries := g.entries.filter fun e => !(e.dir == d && e.seq == n) } }

/-- A running STEP ends (R103, R106, R178, R179): the matcher tail is released or kept, the final record is written, the
sequence returns to WAIT, and a STEP with STOP that waited for it completes. `keep` false: CLOSE discards (R108). -/
def State.endStep (s : State) (p d n : Nat) (st : Status) (outFull : Bool := false) (keep : Bool := true) : State :=
  match s.seq? d n with
  | none => s
  | some q =>
    match q.run with
    | none => s
    | some r =>
      let t := if keep && st != .stopped && !r.holdTail then
                 (s.release p d n q.tail).modSeq d n fun q => { q with tail := [] }
               else s
      let t := if st == .stopped then t.count .txtStops p else if st == .grammarDead then t.count .txtGrammarDead p else t
      let st := if r.truncated && st == .ok then Status.deadlineCheaper else st
      let t :=
        match t.seq? d n with
        | none => t
        | some q' =>
          (match q'.run with
           | none => t
           | some r' =>
             t.complete p r.verb st (stepFlags false r'.ttftMiss r'.tbtMiss outFull r'.cheaper) (stepBody q' r' true))
      let t := t.modSeq d n fun q =>
        { q with run := none, tree := [], stalled := false, waitsRoom := false,
                 pending := [], state := if q.state == .decode then .wait else q.state }
      let t := (t.unpay p d n).leaveNext p d n
      t.completeAll p r.stopVerbs .ok

/-- A running APPEND or SPLICE ends (R101): unabsorbed input is discarded, and the record reports the context length. -/
def State.endInput (s : State) (p d n : Nat) (st : Status) : State :=
  match s.seq? d n with
  | none => s
  | some q =>
    match q.absorbing with
    | none => s
    | some vid =>
      let t := s.modSeq d n fun q =>
        { q with absorbing := none, pending := [], stalled := false, waitsRoom := false, tipWindow := none,
                 state := if q.state == .prefill then .wait else q.state }
      let window : RecBody := match q.tipWindow with | some w => [(0x40, 4, w.1), (0x44, 4, w.2)] | none => []
      let t := t.complete p vid st (if q.tipWindow.isSome then 48 else 0) ((0x24, 4, q.ctxLen) :: window)
      ((t.unpay p d n).leaveNext p d n).grantText

/-- Whatever runs on a sequence ends with a status. -/
def State.endWork (s : State) (p d n : Nat) (st : Status) : State := (s.endStep p d n st).endInput p d n st

/-! ## Pending input (R101, R168, R169) -/

/-- Sums over a sequence's spans. -/
def Seq.ctx (q : Seq) : Nat := (q.spans.map fun x => x.ledger.length).sum
def Seq.kv (q : Seq) : Nat := (q.spans.map fun x => x.valid).sum
/-- The section's context length and the tokens in KV follow the spans. -/
def Seq.sync (q : Seq) : Seq := { q with ctxLen := q.ctx, kvLen := q.kv }
/-- Input tokens not yet absorbed. -/
def Seq.pendCount (q : Seq) : Nat := (q.pending.map fun r => r.tokens.length).sum
/-- The last committed token, whose key is not in KV yet (R102, R131). DEDUCED, log entry 14. -/
def Seq.root (q : Seq) : Option Nat := if q.kvLen < q.ctxLen then q.ledger.getLast? else none

/-- Tokens join the pending input of a sequence; at the end of the context they follow the last token that a STEP
sampled, whose key is computed with them. -/
def Seq.addPending (q : Seq) (toks : List Nat) (span : Option Nat) : Seq :=
  if toks.isEmpty then q
  else
    let lead := match span, q.root with
      | none, some t => if q.pending.any (fun r => r.old && !r.recompute) then [] else [{ tokens := [t], old := true }]
      | _, _ => []
    let rest := match q.pending.getLast? with
      | some r => if !r.old && r.span == span && lead.isEmpty then
                    q.pending.dropLast ++ [{ r with tokens := r.tokens ++ toks }]
                  else q.pending ++ lead ++ [{ tokens := toks, span := span }]
      | none => lead ++ [{ tokens := toks, span := span }]
    { q with pending := rest }

/-- The verb's input is all tokenized and absorbed: it completes with OK at this instant (R101). -/
def State.absorbed (s : State) (p d n : Nat) : State :=
  match s.seq? d n with
  | none => s
  | some q =>
    match q.absorbing with
    | none => s
    | some vid =>
      match s.verb? p vid with
      | none => s
      | some v => if q.pending.isEmpty && v.pieces.isEmpty then s.endInput p d n .ok else s

/-- The tokens of finished pieces become pending; under R170 they wait until the last piece is finished. -/
def State.finishPiece (s : State) (p : Nat) (v : Verb) (rest : List Piece) (done : List Nat × Option Nat) : State :=
  let l := v.finished ++ [done]
  if v.allFirst && !rest.isEmpty then s.modVerb p v.id fun v => { v with pieces := rest, finished := l }
  else
    l.foldl (fun t e => t.modSeq v.dir v.seq fun q => q.addPending e.1 e.2)
      (s.modVerb p v.id fun v => { v with pieces := rest, finished := [] })

/-- PIECE_TOKENIZED: the pipe that holds a verb's input finishes the next piece, whose tokens become pending (R169); with its
last piece the pipe is free and its time is charged. `read` false: the host read of the input has failed, and the verb ends;
what it had absorbed stays (R168). DEDUCED, log entry 21. -/
def doPieceTokenized (p vid : Nat) (read : Bool) (s : State) : State :=
  match s.verb? p vid with
  | none => s
  | some v =>
    match v.pieces with
    | [] => s
    | x :: rest =>
      if !s.live || v.phase != .running || !s.txt.pipes.any (fun e => e.2.part == p && e.2.verb == vid) then s
      else if !read then s.endInput p v.dir v.seq .badArgument
      else
        let toks := tokenize (s.vocab p) x.bytes
        let t := s.finishPiece p v rest (toks, x.before)
        let t := (t.count .txtInBytes p x.bytes.length).count .txtOvfLookups p ((s.vocab p).overflow toks)
        let t := if x.cut then t.count .txtLongPiece p else t
        (if rest.isEmpty then t.grantText else t).absorbed p v.dir v.seq

/-! ## The wheel and the rounds of the schedulers (R219, R221) -/

/-- Service queues that have work waiting at a scheduler. -/
def State.workAt (s : State) : SchedId → List Nat
  | .step p => s.stepWork p
  | .text => s.pipeWaiters.map fun x => x.2.queue
  | .recallU => s.slotWaiters.map fun x => x.2.queue
  | .fabric l => (s.port (.link l)).reqs.filterMap (·.queue)

/-- Privileged queues that have work at a scheduler. -/
def State.privWork (s : State) (id : SchedId) : List Nat :=
  let dev := match id with | .fabric l => s.privWaiting (s.port (.link l)).reqs | _ => []
  (dev ++ (s.workAt id).filterMap s.privOf).eraseDups

/-- DRR_ROUND_START. -/
def doDrrRoundStart (id : SchedId) (s : State) : State :=
  let w := s.privWork id
  if s.live && s.roundDue id w then (s.drrRound id w).grantText else s

/-- WHEEL_TICK: the queues of the slot may be served again, at the text unit's pipes at once. -/
def doWheelTick (s : State) : State := if s.live && s.now % 1000 == 0 then s.turnWheel.grantText else s

/-! ## The commands of this file -/

/-- GRAMMAR_LOAD (R182). -/
def execGrammarLoad (p vid : Nat) (s : State) : Host.Outcome State Fault Refusal :=
  .next (doGrammarLoad p vid s)

/-- GRAMMAR_DROP (R182). -/
def execGrammarDrop (p vid : Nat) (s : State) : Host.Outcome State Fault Refusal :=
  .next (doGrammarDrop p vid s)

/-- GRAMMAR_DROP_EFFECT (R182). -/
def execGrammarDropEffect (p gid : Nat) (s : State) : Host.Outcome State Fault Refusal :=
  .next (doGrammarDropEffect p gid s)

/-- PIECE_TOKENIZED (R169). -/
def execPieceTokenized (p vid : Nat) (read : Bool) (s : State) : Host.Outcome State Fault Refusal :=
  .next (doPieceTokenized p vid read s)

/-- WHEEL_TICK (R221). -/
def execWheelTick (s : State) : Host.Outcome State Fault Refusal :=
  .next (doWheelTick s)

/-- DRR_ROUND_START (R219). -/
def execDrrRoundStart (sch : SchedId) (s : State) : Host.Outcome State Fault Refusal :=
  .next (doDrrRoundStart sch s)

/-- GRAMMAR_LOAD_DONE (R182). -/
def execGrammarLoadDone (p vid : Nat) (img : Option GrammarImage) (s : State) : Host.Outcome State Fault Refusal :=
  .next (doGrammarLoadDone p vid img s)

end Machine
end Sys2Proof
end

