-- ==== Sys2Proof/Machine/Quires.lean ====
section
/-!
DEFINITION. Sys2Proof/Machine/Quires.lean: a quire as bytes: the page lists (R64, Table 3.3), the sequence sections (Table 2.7), the
flyleaf (Table 2.6) and the run-time fields of a Spine entry (Table 2.8).
-/
namespace Sys2Proof
namespace Machine

/-! ## Folios and sequences of a session -/

/-- The folios of the session in the order of R45 after the flyleaf and page tables: each once. -/
def Session.kvFolios (x : Session) : List Nat := (x.seqs.flatMap fun e => e.2.refs).eraseDups
/-- Every page-table entry's folio, once for each entry. -/
def Session.allRefs (x : Session) : List Nat := x.seqs.flatMap fun e => e.2.refs
def Session.liveSeqs (x : Session) : List Seq := (x.seqs.map (·.2)).filter fun q => q.state != .closed
/-- Page-table entries of the session's resident sequences. -/
def Session.ptEntries (x : Session) : Nat := (x.seqs.map fun e => if e.2.spine.isSome then e.2.entryCount else 0).sum

/-- The directory records of a partition's sessions that satisfy a test. -/
def State.sessionsOf (s : State) (p : Nat) (f : Session → Bool) : List Nat :=
  (s.dir.sessions.filter fun e => e.2.part == p && f e.2).map (·.1)

/-! ## Page lists (R45, R58, R64) -/

/-- Slots of 16 B that the page lists of a session take. -/
def State.slotsOf (s : State) (x : Session) : Nat :=
  (x.seqs.map fun e => e.2.spans.length * (s.foliosPerSpan x.part + ceilDiv (s.tokensPer x.part) 4)).sum
def State.ptNeed (s : State) (x : Session) (more : Nat) : Nat :=
  max 1 (ceilDiv ((s.slotsOf x + more * (s.foliosPerSpan x.part + ceilDiv (s.tokensPer x.part) 4)) * 16) Config.folioBytes)

/-- One page-table entry (Table 3.3). -/
def pteBytes (e : Pte) : Bytes :=
  natLe 4 e.ref ++ natLe 2 e.dgen ++ zeros 2 ++
  natLe 8 (e.refKind % 4 + at' e.layer 13 + at' e.valid 21 + at' e.posBase 32)

/-- The span record of one span (R64): a place for the entry of every layer group, then the ledger's places, four tokens to a slot;
places that the span does not fill are zero. -/
def State.spanBytes (s : State) (p : Nat) (y : Span) : Bytes :=
  fit (16 * s.foliosPerSpan p) (y.entries.flatMap pteBytes) ++
    fit (16 * ceilDiv (s.tokensPer p) 4) (y.ledger.flatMap fun t => natLe 4 t)

/-- The page lists of a session, sequence by sequence. -/
def State.pageList (s : State) (x : Session) : Bytes := x.seqs.flatMap fun e => e.2.spans.flatMap (s.spanBytes x.part)

/-! ## Sections and the flyleaf (R46, R47) -/

/-- The 768 bytes of a sequence section (Table 2.7); `first` is the index of its first page-table entry. -/
def sectionBytes (q : Seq) (first : Nat) : Bytes :=
  let tail := if q.overhang.isEmpty then q.tail else q.overhang
  natLe 8 (q.num % 256 + at' (seqStateCode q.state) 8) ++ natLe 8 q.stepCounter ++ natLe 4 q.ctxLen ++ natLe 4 q.nextPos ++
  natLe 4 first ++ natLe 4 q.entryCount ++ natLe 4 q.grammar ++ natLe 2 q.gState ++ natLe 2 q.gStack.length ++
  natLe 8 (q.specHeads + at' q.specNodes 3 + at' q.specOn.toNat 10) ++ natLe 8 q.specProposed ++ natLe 8 q.specAccepted ++
  natLe 1 q.overhang.length ++ natLe 1 q.tail.length ++ fit 64 tail ++ zeros 62 ++
  fit 512 (q.gStack.flatMap fun x => natLe 2 x) ++ natLe 4 q.ttftUs ++ natLe 4 q.tbtUs ++ natLe 1 q.prio ++ natLe 1 q.cls ++
  natLe 2 q.queue ++ natLe 4 q.maxNew ++ zeros 48

/-- The sections of a session in number order, each with its first entry's index. -/
def Session.sections (x : Session) : List (Nat × Bytes) :=
  ((x.seqs.map (·.2)).foldl (fun (a : Nat × List (Nat × Bytes)) q =>
    (a.1 + q.entryCount, a.2 ++ [(q.num, sectionBytes q a.1)])) (0, [])).2

/-- The flyleaf payload (Table 2.6) of a quire with `pts` page-table folios. -/
def State.flyleafBytes (s : State) (x : Session) (pts : Nat) : Bytes :=
  let live := x.liveSeqs.map (·.num)
  let n := 1 + pts + x.kvFolios.length
  let head := natLe 4 0x51554952 ++ natLe 4 1 ++ natLe 8 x.handle ++ natLe 4 x.wrapEpoch ++
    natLe 4 (x.objectMode.toNat + 2 * (decide (x.seqs.length > 1)).toNat) ++
    keyWrap (s.sessionWrapKey x.part x.handle (s.recOf (hIndex x.handle)).salt) (dataKey x.wrappedSdk) ++
    natLe 8 x.seed ++ natLe 8 x.ttl ++ natLe 8 x.wakeHint ++ natLe 8 x.parkTime ++
    natLe 8 (live.map (2 ^ ·)).sum ++ natLe 4 n ++ natLe 4 pts ++ natLe 4 (s.partImage x.part).prog.id ++
    natLe 4 (s.tokensPer x.part % 65536 + at' (s.layersPer x.part) 16) ++ natLe 4 (kvFmtCode (s.kvFmt x.part)) ++ zeros 900
  let secs := x.sections
  fit Config.folioBytes (head ++ (List.range 64).flatMap fun k =>
    match secs.find? (fun e => e.1 == k && live.contains k) with | some e => e.2 | none => zeros 768)

/-- Bytes as a folio's payload: an unlisted byte reads as zero. -/
def memOf (b : Bytes) : Mem := (enum b).filter fun e => e.2 != 0

/-- A session as its quire records it: entries name ordinals (R68), and each section carries the state to which the sequence returns
(R47). -/
def Session.written (x : Session) (spans : Span → Span) : Session :=
  { x with seqs := tmap (fun _ (y : Seq) =>
      { y with state := if y.state == .draining then y.prev else y.state, spans := y.spans.map spans }) x.seqs }

/-! ## Run-time fields of a Spine entry (R49) -/

/-- Page-list pointer: the HBM address at which the first span record of sequence n stands: the session's page-table folios hold its
page lists end to end. 0 for a sequence without a span record. -/
def State.pagePointer (s : State) (x : Session) (n : Nat) : Nat :=
  let before := (x.seqs.filter fun e => e.1 < n).flatMap fun e => e.2.spans.flatMap (s.spanBytes x.part)
  match x.ptFolios[before.length / Config.folioBytes]? with
  | some i => (match s.folio? i with | some f => f.loc + before.length % Config.folioBytes | none => 0)
  | none => 0

/-- Bytes 0x300 to 0x5FF of the Spine entry of sequence q (Table 2.8). -/
def State.spineRunTime (s : State) (x : Session) (q : Seq) : Bytes :=
  fit 768 (natLe 8 x.handle ++ natLe 8 (s.pagePointer x q.num) ++ natLe 8 q.arrival ++ natLe 8 (q.ttftDeadline.getD 0) ++
    natLe 8 q.lastEmit ++ natLe 8 (q.nextDeadline.getD 0) ++ natLe 4 (((q.pending.filter fun r => !r.old).map fun r => r.tokens.length).sum) ++
    natLe 4 ((q.run.map (·.emitted)).getD 0) ++ natLe 8 q.csn)

end Machine
end Sys2Proof
end

