-- ==== Sys2Proof/Machine/Sessions.lean ====
section
/-!
DEFINITION. Sys2Proof/Machine/Sessions.lean: the lifecycle of sessions (chapter 2): OPEN, FORK, PARK, the revives, expiry
and erase (R50 to R56), wake-ahead (R53), failed tiers (R303, R304) and PLACE (R85).
-/
namespace Sys2Proof
namespace Machine

/-! ## Draws and keys (R51, R299, R300) -/

/-- A draw of `n` bits of the device's generator. -/
def State.draw (s : State) (n : Nat) : Nat × State := ((Config.drbg s.free).toNat % 2 ^ n, { s with free := s.free + 1 })

/-- Epoch of the partition's PRK (Table 17.9). -/
def State.prkEpoch (s : State) (p : Nat) : Nat := (tgetD s.sec.battery.keyEpochs p (0, 0, [])).1
/-- Pool epoch of a partition. -/
def State.poolEpoch (s : State) (p : Nat) : Nat := (tgetD s.sec.battery.keyEpochs p (0, 0, [])).2.1

/-! ## Directory records (R33, R34) -/

/-- The partition's free list of records. -/
def State.dirFree (s : State) (p : Nat) : FreeList :=
  match tget s.dir.free p with
  | some f => f
  | none => FreeList.fresh (s.partImage p).part.dirBase (s.partImage p).part.dirCount
def State.setDirFree (s : State) (p : Nat) (f : FreeList) : State := { s with dir := { s.dir with free := tput s.dir.free p f } }

/-- A record is freed: its generation rises in the same instant, and it joins the tail of the free list, or retires. -/
def State.freeRecord (s : State) (p d : Nat) : State :=
  let g := (s.recOf d).gen
  if g + 1 > 0xFFFFFF then (s.setRec d { gen := g, retired := true }).countSat .spnDirRetired p
  else (s.setRec d { gen := g + 1 }).setDirFree p ((s.dirFree p).give d)

/-! ## Page-table folios (R45, R58) -/

/-- Page-table folios up to `n` in all. -/
def State.growPt (s : State) (d : Nat) : Nat → Option State
  | 0 => some s
  | k + 1 =>
    match s.session? d with
    | none => none
    | some x =>
      if !s.t1Room x.part 1 then none
      else
        match s.allocFolio x.part .pageTable (s.kvFmt x.part) 0 x.handle with
        | none => none
        | some (i, t) => (t.modSession d fun x => { x with ptFolios := x.ptFolios ++ [i] }).growPt d k

/-- The session's page list grows by `more` spans; none: no descriptor or no room (R58). DEDUCED, log entry 10. -/
def State.reservePt (s : State) (d more : Nat) : Option State :=
  match s.session? d with
  | none => none
  | some x => s.growPt d (s.ptNeed x more - x.ptFolios.length)

/-! ## Erase (R51, R83) -/

/-- A parked quire's places are freed, or, while the running checkpoint has not copied it, owed (R313). -/
def State.freeQuire (s : State) (p : Nat) (q : Quire) : State :=
  if (s.ckpOf p).phase == 2 && q.uncopied then
    s.modCkp p fun c => { c with owed := c.owed ++ q.folios.map fun f => (q.tier, f.loc) }
  else q.folios.foldl (fun t f => t.freeTier p q.tier f.loc) s

/-- A PARK under way is abandoned: its places are freed and its pins go. -/
def State.abandonPark (s : State) (d : Nat) : State :=
  match s.session? d with
  | none => s
  | some x =>
    match x.parkOp with
    | none => s
    | some o =>
      let t := o.locs.foldl (fun t l => t.freeTier x.part o.tier l) s
      let t := t.modSession d fun x => { x with parkOp := none }
      (t.releaseSources x.kvFolios).unpins x.kvFolios

/-- Descriptors of a revive under way are given back, its Spine entries too, and its bytes leave the backlog. -/
def State.abandonRevive (s : State) (d : Nat) : State :=
  match s.session? d with
  | none => s
  | some x =>
    match x.revive with
    | none => s
    | some o =>
      let t := o.descs.foldl (fun t i => (t.unpin i).dropRef i) s
      let t := (x.seqs.map (·.1)).foldl (fun t n => t.dropSpine d n) t
      let t := t.subPt x.part (x.ptEntries)
      let t := t.modFolPart x.part fun f =>
        { f with reviveBacklog := tput f.reviveBacklog o.tier (tgetD f.reviveBacklog o.tier 0 - o.bytes) }
      t.modSession d fun x => { x with revive := none }

/-- One sequence leaves its resident state: references and Spine entry are released, and its entries no longer count. -/
def State.dropSeq (s : State) (d n : Nat) : State :=
  match s.session? d with
  | none => s
  | some x =>
    match tget x.seqs n with
    | none => s
    | some q =>
      let t := if x.quire.isNone then s.dropRefs q.refs else s
      let t := if q.spine.isSome then t.subPt x.part q.entryCount else t
      (t.dropSpine d n).modSeq d n fun q =>
        { q with spans := [], pending := [], tree := [], run := none, absorbing := none, ctxLen := 0, kvLen := 0,
                 overhang := [], tail := [] }

/-- R51: salt overwritten, data key discarded, resident folios freed, T3 and T4 space released. -/
def State.erase (s : State) (d : Nat) : State :=
  match s.session? d with
  | none => s
  | some x =>
    let t := s.abandonRevive d
    let t := t.abandonPark d
    let t := (x.seqs.map (·.1)).foldl (fun t n => t.dropSeq d n) t
    let t := match x.flyleaf with | some i => t.dropRef i | none => t
    let t := t.dropRefs x.ptFolios
    let t := match x.quire with | some q => t.freeQuire x.part q | none => t
    let t := t.setRec d { t.recOf d with salt := 0 }
    t.modSession d fun x => { x with sdk := none, wrappedSdk := 0, flyleaf := none, ptFolios := [], quire := none }

/-- A session ends for good: erased, its record freed. -/
def State.endSession (s : State) (d : Nat) : State :=
  match s.session? d with
  | none => s
  | some x => ((s.erase d).dropSession d).freeRecord x.part d

/-! ## OPEN (Table 2.4, R33, R58, R209, R404, R422) -/

/-- Arguments of OPEN that are out of range. -/
def State.openBad (s : State) (p : Nat) (v : Verb) : Bool :=
  let mx := v.f 0x34 4
  let spec := v.f 0x3C 2
  mx < 1 || mx > Config.maxContext || v.f 0x38 1 > 63 || v.f 0x39 1 > 7 || !s.queueIn p (v.f 0x3A 2) ||
  specHeadsOf spec > 4 || specNodesOf spec > 64 || spec ≥ 2048

/-- Sequence 0 of a new session. -/
def openSeq (v : Verb) : Seq :=
  let spec := v.f 0x3C 2
  { num := 0, state := .new, ttftUs := v.f 0x28 4, tbtUs := v.f 0x2C 4, maxNew := v.f 0x34 4, cls := v.f 0x38 1,
    prio := v.f 0x39 1, queue := v.f 0x3A 2, specHeads := specHeadsOf spec, specNodes := specNodesOf spec,
    specOn := specOnOf spec }

/-- OPEN. DEDUCED, log entry 10. -/
def doOpen (p vid : Nat) (s : State) : State :=
  match s.begun? p vid .openS with
  | none => s
  | some v =>
    if s.openBad p v then s.complete p vid .badArgument
    else
      match (s.dirFree p).take, s.freeSpine p with
      | some (d, fl), some sp =>
        if !s.t1Room p 2 then s.complete p vid .noCapacity
        else
          let r := s.recOf d
          let h := mkHandle p r.gen d
          (match s.allocFolio p .flyleaf (s.kvFmt p) 0 h with
           | none => s.complete p vid .noCapacity
           | some (fly, t) =>
             match t.allocFolio p .pageTable (s.kvFmt p) 0 h with
             | none => s.complete p vid .noCapacity
             | some (pt, t) =>
               let (salt, t) := t.draw 128
               let (key, t) := t.drawn
               let x : Session :=
                 { handle := h, part := p, objectMode := s.objectMode p, seed := v.f 0x20 8,
                   ttl := (s.partImage p).part.ttlDefault, sdk := some key, seqs := [(0, openSeq v)],
                   flyleaf := some fly, ptFolios := [pt] }
               let t := (t.setDirFree p fl).setRec d
                 { gen := r.gen, inUse := true, object := s.objectMode p, live := 1, flyleafLoc := fly, salt := salt }
               let t := (t.setSession d x).giveSpine d 0 sp
               t.complete p vid .ok 0 [] (some h))
      | _, _ => s.complete p vid .noCapacity

/-! ## Revives (Table 2.3, R39, R53, R54, R66, R68, R87, R300, R422) -/

/-- Folios of a quire, one descriptor each, pinned until they land. -/
def State.allocQuire (s : State) (p h : Nat) : List Sealed → List Nat → Option (List Nat × State)
  | [], acc => some (acc.reverse, s)
  | f :: r, acc =>
    let kind := if f.kind = 1 then FolioKind.flyleaf else if f.kind = 2 then FolioKind.pageTable else FolioKind.kv
    match s.allocFolio p kind f.fmt f.layer h with
    | none => none
    | some (i, t) => (t.pin i).allocQuire p h r (i :: acc)

/-- Spine entries for the live sequences, in ascending number (R422). -/
def State.giveSpines (s : State) (p d : Nat) : List Nat → Option State
  | [] => some s
  | n :: r =>
    match s.freeSpine p with
    | none => none
    | some i => (s.giveSpine d n i).giveSpines p d r

/-- What refuses a revive when it would start. -/
def State.reviveBad (s : State) (d : Nat) : Option Status :=
  match s.session? d with
  | none => some .badHandle
  | some x =>
    if s.roleOf x.part == .state then some .badState
    else if x.objectMode != s.objectMode x.part then some .badState
    else
      match x.quire with
      | none => some .badState
      | some q =>
        let n := (x.liveSeqs.map Seq.entryCount).sum
        if s.freeSpines x.part < x.liveSeqs.length || !s.ptRoom x.part n || !s.t1Room x.part q.folios.length ||
           (s.folPart x.part).desc.left < q.folios.length then some .noCapacity
        else none

/-- A revive starts: the session is REVIVING, its Spine entries and descriptors are allocated, its TTL stops.
DEDUCED, log entry 10. -/
def State.startRevive (s : State) (d : Nat) (cause : Option Nat) (wake : Bool) : Option State :=
  match s.session? d, s.reviveBad d with
  | some x, none =>
    (match x.quire with
     | none => none
     | some q =>
       match s.giveSpines x.part d (x.liveSeqs.map (·.num)) with
       | none => none
       | some t =>
         match t.allocQuire x.part x.handle q.folios [] with
         | none => none
         | some (descs, t) =>
           let bytes := q.folios.length * Config.folioBytes
           let t := t.addPt x.part ((x.liveSeqs.map Seq.entryCount).sum)
           let t := t.modFolPart x.part fun f =>
             { f with reviveBacklog := tput f.reviveBacklog q.tier (tgetD f.reviveBacklog q.tier 0 + bytes) }
           let op : ReviveOp := { cause := cause, began := s.now, tier := q.tier, bytes := bytes, wake := wake, descs := descs }
           let t := t.modSession d fun x => { x with revive := some op }
           let t := t.carry (q.folios.flatMap fun f => tierPorts q.tier f.loc) .c (.quire d)
           some (t.modSeqs d fun q => if q.state == .closed then q else { q with state := .reviving }))
  | _, _ => none

/-- The session is parked. -/
def Session.isParked (x : Session) : Bool := x.quire.isSome && x.revive.isNone && x.liveSeqs.all fun q => q.state == .parked

/-- A verb needs its session resident (Table 2.3): resident, it goes on (`true`); parked, a revive starts or the verb
completes; reviving, it waits. -/
def State.resident (s : State) (p : Nat) (v : Verb) : Bool × State :=
  match s.session? v.dir with
  | none => (false, s)
  | some x =>
    if x.quire.isNone then (true, s)
    else if x.revive.isSome then (false, s)
    else
      match s.startRevive v.dir (some v.id) false with
      | some t => (false, t)
      | none => (false, s.complete p v.id ((s.reviveBad v.dir).getD .noCapacity))

/-- The verbs of a session that wait for its revive, in ring order. -/
def State.reviveWaiters (s : State) (p d : Nat) : List Verb :=
  (s.verbs p).filter fun v => v.scope != .part && v.dir == d && v.revives && (v.phase == .begun || v.phase == .running)

/-- A revive fails: the session returns to PARKED, every verb that waits for it completes, a wake-ahead start posts a
notice instead. -/
def State.failRevive (s : State) (d : Nat) (st : Status) : State :=
  match s.session? d with
  | none => s
  | some x =>
    match x.revive with
    | none => s
    | some o =>
      let ws := (s.reviveWaiters x.part d).map (·.id)
      let t := (s.abandonRevive d).modSeqs d fun q => if q.state == .reviving then { q with state := .parked } else q
      let t := t.completeAll x.part ws st
      if o.wake then t.notice x.part d x.handle st else t

/-- REVIVE: a parked session starts to revive; on a REVIVING one the verb joins. -/
def doRevive (p vid : Nat) (s : State) : State :=
  match s.begun? p vid .revive with
  | none => s
  | some v =>
    match s.session? v.dir with
    | none => s.complete p vid .badHandle
    | some x =>
      if x.quire.isNone then s.complete p vid .badState
      else
        match x.revive with
        | some _ => (s.runVerb p vid).modSession v.dir fun x =>
            { x with revive := x.revive.map fun o => { o with joined := o.joined ++ [vid] } }
        | none =>
          match s.startRevive v.dir (some vid) false with
          | some t => t.runVerb p vid
          | none => s.complete p vid ((s.reviveBad v.dir).getD .noCapacity)

/-- Entries of a quire rewritten to descriptors (R68): REF_KIND 1, the ordinal's descriptor and its generation. -/
def reviveSpan (s : State) (descs : List Nat) (x : Span) : Span :=
  { x with entries := x.entries.map fun e =>
      let i := descs.getD e.ref 0
      { e with refKind := 1, ref := i, dgen := (match s.folio? i with | some f => f.gen | none => 0) } }

/-- The seals of a quire open: each with its own record, the PARK_ID of the record and its ordinal (R300); the data key
unwraps under the current PRK epoch (R360). DESIGN CHOICE, log entry 12. -/
def State.quireOpens (s : State) (d : Nat) (x : Session) (q : Quire) : Bool :=
  x.wrapEpoch == s.prkEpoch x.part &&
  (enum q.folios).all fun e => e.2.intact && e.2.ordinal == e.1 && e.2.parkId == (s.recOf d).parkId && e.2.key == x.wrappedSdk

/-- REVIVE_DONE: the last folio is in T1. `latNs` and `ns` are the observed latency and the time from the first byte to
the last (R54), both differences of timebase values of this revive, so neither can pass the time since it began (R22). -/
def doReviveDone (d latNs ns : Nat) (s : State) : State :=
  match s.session? d with
  | none => s
  | some x =>
    match x.revive, x.quire with
    | some o, some q =>
      if !s.live then s
      else if !s.quireOpens d x q then s.failRevive d .tierFailed
      else
        let p := x.part
        let t := (enum q.folios).foldl (fun t e =>
          t.modFolio (o.descs.getD e.1 0) fun f => { f with payload := e.2.payload, valid := e.2.valid }) s
        let refs := (x.seqs.flatMap fun e => e.2.spans.flatMap fun y => y.entries.map (·.ref)).map fun k => o.descs.getD k 0
        let t := (o.descs.foldl (fun t i => t.modFolio i fun f =>
          { f with refcnt := if f.kind == .kv then refs.count i else 1 }) t).unpins o.descs
        let lat := min latNs (s.now - o.began)
        let t := (t.observe p o.tier lat o.bytes (min ns (s.now - o.began - lat))).modFolPart p fun f =>
          { f with reviveBacklog := tput f.reviveBacklog o.tier (tgetD f.reviveBacklog o.tier 0 - o.bytes) }
        let t := if o.tier = 3 then t.count .hifT3RdBytes p o.bytes else t
        let t := t.freeQuire p q
        let t := t.modSession d fun x =>
          { x with quire := none, revive := none, sdk := some x.wrappedSdk, flyleaf := o.descs.head?,
                   ptFolios := (o.descs.drop 1).take q.ptFolios,
                   seqs := tmap (fun _ y => { y with state := if y.state == .reviving then y.prev else y.state,
                                                     spans := y.spans.map (reviveSpan t o.descs) }) x.seqs }
        let t := t.setRec d { t.recOf d with parked := false, tier := 0, parkId := 0, flyleafLoc := o.descs.headD 0 }
        let t := if o.wake && x.wakeHint != 0 && s.now > x.wakeHint then t.count .folWakeLate p else t
        let done := (match o.cause with | some c => [c] | none => []) ++ o.joined
        t.completeAll p (((t.verbs p).filter fun v => v.op == .revive && done.contains v.id).map (·.id)) .ok
    | _, _ => s

/-! ## PARK (R45, R48, R50, R55, R68, R299, R300) -/

/-- Places for `n` folios in one tier. -/
def State.allocMany (s : State) (p tier : Nat) : Nat → List Nat → Option (List Nat × State)
  | 0, acc => some (acc.reverse, s)
  | n + 1, acc =>
    match s.allocTier p tier with
    | none => none
    | some (loc, t) => t.allocMany p tier n (loc :: acc)

/-- The first tier of a list that holds the whole quire. -/
def State.allocQuireTier (s : State) (p n : Nat) : List Nat → Option (Nat × List Nat × State)
  | [] => none
  | t :: r =>
    match s.allocMany p t n [] with
    | some (locs, s') => some (t, locs, s')
    | none => s.allocQuireTier p n r

/-- PARK begins: candidates are discarded, space for the whole quire is taken, its folios are pinned.
DESIGN CHOICE, log entry 37. -/
def doPark (p vid : Nat) (s : State) : State :=
  match s.begun? p vid .park with
  | none => s
  | some v =>
    let tier := v.f 0x24 1
    match s.session? v.dir with
    | none => s.complete p vid .badHandle
    | some x =>
      if x.quire.isSome then s.complete p vid .badState
      else
        let n := 1 + s.ptNeed x 0 + x.kvFolios.length
        match s.allocQuireTier p n (if tier = 0 then [4, 3] else [tier]) with
        | none => s.complete p vid .noCapacity
        | some (t, locs, s') =>
          if x.seqs.any fun e => s.badEntry p e.2.spans then (s.pteFault p v.dir v.seq).complete p vid .tierFailed
          else if !s.pinRoom x.kvFolios then s
          else
          let (pid, s') := s'.draw 64
          let op : ParkOp := { verb := vid, began := s.now, tier := t, ttl := v.f 0x20 4, hint := v.f 0x28 8, locs := locs,
                               parkId := pid }
          let s' := (s'.modSeqs v.dir fun q => { q with tree := [] }).modSession v.dir fun x => { x with parkOp := some op }
          let places := locs.map (fun l => (t, l)) ++ x.kvFolios.filterMap fun i => (s.folio? i).map fun f => (f.tier, f.loc)
          ((s'.pins x.kvFolios).carry (places.flatMap fun e => tierPorts e.1 e.2) .c (.quire v.dir)).runVerb p vid

/-- Entries of the quire name ordinals (R68). -/
def parkSpan (order : List Nat) (base : Nat) (x : Span) : Span :=
  { x with entries := x.entries.map fun e =>
      { e with refKind := 2, dgen := 0, ref := base + (match order.findIdx? (· == e.ref) with | some k => k | none => 0) } }

/-- The sealed folios of a quire, each under a fresh nonce. -/
def State.sealAll (s : State) (parkId key : Nat) : List (Nat × Sealed) → State × List Sealed
  | [] => (s, [])
  | (loc, f) :: r =>
    let (n, t) := s.drawn
    let (t, l) := t.sealAll parkId key r
    (t, { f with parkId := parkId, key := key, nonce := n, loc := loc } :: l)

/-- The folios of a session in the order of R45, unsealed; `y` is the session as its quire records it (R46, R64). -/
def State.quireFolios (s : State) (x y : Session) (pts : Nat) : List Sealed :=
  let fly : Sealed := { kind := 1, fmt := s.kvFmt x.part, ordinal := 0, payload := memOf (s.flyleafBytes y pts) }
  let page := fun i => memOf (sub (s.pageList y) (i * Config.folioBytes) Config.folioBytes)
  let pt := (List.range pts).map fun i => ({ kind := 2, fmt := s.kvFmt x.part, ordinal := 1 + i, payload := page i } : Sealed)
  let kv := (enum x.kvFolios).map fun e =>
    match s.folio? e.2 with
    | some f => ({ kind := 3, fmt := f.fmt, layer := f.layer, valid := f.valid, ordinal := 1 + pts + e.1,
                   payload := f.payload, intact := !f.lost } : Sealed)
    | none => ({ kind := 3, ordinal := 1 + pts + e.1 } : Sealed)
  fly :: pt ++ kv

/-- TTL instant of a park: park time plus TTL seconds; all ones: never (R50, Table 2.11). -/
def ttlInstantOf (parkTime ttl : Nat) : Nat := if ttl = Config.ttlNever then two64 - 1 else parkTime + ttl * 1000000000

/-- R52: the session expires: erased, EXPIRED, one notice. DESIGN CHOICE, log entry 37. -/
def State.expire (s : State) (d : Nat) : State :=
  match s.session? d with
  | none => s
  | some x =>
    let t := (s.erase d).modSeqs d fun q => if q.state == .closed then q else { q with state := .expired }
    let t := t.setRec d { t.recOf d with expired := true, parked := false, tier := 0 }
    t.notice x.part d x.handle .ttlExpired

/-- PARK_DONE: the last folio is written; the session is PARKED. A folio that is lost cannot be read (R304). DESIGN CHOICE, log entry 37. -/
def doParkDone (d : Nat) (s : State) : State :=
  match s.session? d with
  | none => s
  | some x =>
    match x.parkOp with
    | none => s
    | some o =>
      if !s.live then s
      else if x.kvFolios.any fun i => (match s.folio? i with | some f => f.lost | none => false) then
        (s.abandonPark d).complete x.part o.verb .tierFailed
      else
        let p := x.part
        let pts := s.ptNeed x 0
        let key := x.sdk.getD 0
        let order := x.kvFolios
        let reads := countp (fun i => match s.folio? i with | some f => f.tier == 3 | none => false) order
        let ttl := if o.ttl = 0 then (s.partImage p).part.ttlDefault else o.ttl
        let y := ({ x with ttl := ttl, wakeHint := o.hint, parkTime := o.began, wrappedSdk := key, wrapEpoch := s.prkEpoch p,
                           objectMode := s.objectMode p } : Session).written (parkSpan order (1 + pts))
        let (t, folios) := s.sealAll o.parkId key (o.locs.zip (s.quireFolios x y pts))
        let t := t.modSession d fun x => { x with parkOp := none }
        let t := ((t.releaseSources order).unpins order).dropRefs x.allRefs
        let t := t.dropRefs x.ptFolios
        let t := match x.flyleaf with | some i => t.dropRef i | none => t
        let t := t.subPt p x.ptEntries
        let t := (x.seqs.map (·.1)).foldl (fun t n => t.dropSpine d n) t
        let t := t.count .hifT3RdBytes p (reads * Config.folioBytes)
        let t := t.writeQuire p o.tier folios
        let inst := ttlInstantOf o.began ttl
        let q : Quire := { tier := o.tier, folios := folios, ptFolios := pts, keyEpoch := s.prkEpoch p,
                           program := (s.partImage p).prog.id, tokensPer := s.tokensPer p, layersPer := s.layersPer p,
                           fmt := s.kvFmt p }
        let t := t.modSession d fun x =>
          { x with quire := some q, parkOp := none, flyleaf := none, ptFolios := [], sdk := none, wrappedSdk := key,
                   wrapEpoch := s.prkEpoch p, ttl := ttl, wakeHint := o.hint, parkTime := o.began,
                   objectMode := s.objectMode p,
                   seqs := tmap (fun _ y => if y.state == .closed then y else
                     { y with prev := y.state, state := .parked, spans := y.spans.map (parkSpan order (1 + pts)) }) x.seqs }
        let t := t.setRec d { t.recOf d with parked := true, object := s.objectMode p, tier := o.tier,
                                             flyleafLoc := o.locs.headD 0, parkId := o.parkId, ttlInstant := inst }
        let t := t.complete p o.verb .ok
        if inst != two64 - 1 && inst < s.now then t.expire d else t

/-! ## Expiry and wake-ahead (R39, R52, R53) -/

/-- A reviving verb accepted before the TTL instant that has not completed holds off expiry (R39). -/
def State.ttlHeld (s : State) (d : Nat) : Bool :=
  match s.session? d with
  | none => false
  | some x =>
    s.roleOf x.part != .state && (s.verbs x.part).any fun v =>
      v.scope != .part && v.handle == x.handle && v.revives && v.arrival < (s.recOf d).ttlInstant

/-- TTL instants that have passed, and that no verb holds off, expire (R39, R52). -/
def State.expireDue (s : State) (p : Nat) : State :=
  (s.sessionsOf p Session.isParked).foldl (fun t d =>
    let i := (t.recOf d).ttlInstant
    if i != two64 - 1 && t.now ≥ i && !t.ttlHeld d then t.expire d else t) s

/-- TTL_EXPIRE: the TTL instant of a PARKED session is reached. -/
def doTtlExpire (d : Nat) (s : State) : State :=
  match s.session? d with
  | none => s
  | some x =>
    let i := (s.recOf d).ttlInstant
    if s.live && (s.recPart x.part).mode != .safe && x.isParked && i != two64 - 1 && s.now ≥ i && !s.ttlHeld d then s.expire d else s

/-- Start of a wake-ahead: H − est − GUARD_NS (R53). -/
def State.wakeStart (s : State) (x : Session) (q : Quire) : Int :=
  let bytes := q.folios.length * Config.folioBytes
  let est := s.estNs x.part q.tier (tgetD (s.folPart x.part).reviveBacklog q.tier 0 + bytes)
  (x.wakeHint : Int) - est - bits (s.reg .folWakeCfg x.part) 31 0

/-- WAKE_AHEAD_START: suspended in a fenced partition and during a drain (R238, R342). A start that cannot be made posts
a notice (Table 2.3). -/
def doWakeAheadStart (d : Nat) (s : State) : State :=
  match s.session? d with
  | none => s
  | some x =>
    match x.quire with
    | none => s
    | some q =>
      let r := s.recOf d
      let due := s.live && s.hasPrk x.part && x.isParked && x.wakeHint != 0 && !q.woken && !r.damaged && !r.expired &&
        s.roleOf x.part != .state && !s.fencedByChange x.part &&
        ((s.recPart x.part).mode == .normal || (s.recPart x.part).mode == .recovering) &&
        (r.ttlInstant == two64 - 1 || s.now < r.ttlInstant) && (s.now : Int) ≥ s.wakeStart x q
      if due then
        let t := (s.modSession d fun x => { x with quire := x.quire.map fun q => { q with woken := true } }).count
          .folWakeStarts x.part
        match t.startRevive d none true with
        | some t => t
        | none => t.notice x.part d x.handle ((t.reviveBad d).getD .noCapacity)
      else s

/-! ## FORK (R42, R66, R82, R422) -/

/-- One more reference on each folio of a list; a folio with 65,535 references is copied instead (R82). -/
def State.shareRefs (s : State) (h : Nat) : List Pte → List Pte → Option (List Pte × State)
  | [], acc => some (acc.reverse, s)
  | e :: r, acc =>
    match s.folio? e.ref with
    | none => s.shareRefs h r (e :: acc)
    | some f =>
      if f.refcnt < maxRefs then (s.addRef e.ref).shareRefs h r (e :: acc)
      else if !s.t1Room f.part 1 then none
      else
        match s.copyFolio e.ref h with
        | none => none
        | some (k, t) =>
          (t.countSat .folRefSat f.part).shareRefs h r
            ({ e with ref := k, dgen := (match t.folio? k with | some g => g.gen | none => 0) } :: acc)

/-- The spans of a forked sequence. -/
def State.shareSpans (s : State) (h : Nat) : List Span → List Span → Option (List Span × State)
  | [], acc => some (acc.reverse, s)
  | x :: r, acc =>
    match s.shareRefs h x.entries [] with
    | none => none
    | some (es, t) => t.shareSpans h r ({ x with entries := es } :: acc)

/-- The lowest sequence number not in use (R31). -/
def Session.freeNum (x : Session) : Option Nat :=
  (List.range Config.maxSeqs).find? fun n => match tget x.seqs n with | some q => q.state == .closed | none => true

/-- FORK. -/
def doFork (p vid : Nat) (s : State) : State :=
  match s.begun? p vid .fork with
  | none => s
  | some v =>
    let (on, t) := s.resident p v
    if !on then t
    else
      match s.session? v.dir with
      | none => s.complete p vid .badHandle
      | some x =>
        match tget x.seqs v.seq with
        | none => s.complete p vid .badState
        | some q =>
          if q.state != .wait then s.complete p vid .badState
          else
            match x.freeNum, s.freeSpine p with
            | some n, some sp =>
              if s.badEntry p q.spans then (s.pteFault p v.dir v.seq).complete p vid .tierFailed
              else if !s.ptRoom p q.entryCount then s.complete p vid .noCapacity
              else
                (match s.reservePt v.dir q.spans.length with
                 | none => s.complete p vid .noCapacity
                 | some t =>
                   match t.shareSpans x.handle q.spans [] with
                   | none => s.complete p vid .noCapacity
                   | some (spans, t) =>
                     let y : Seq := { q with num := n, spans := spans, state := .wait, spine := none, pending := [], tree := [],
                                             csn := 0, ttftDeadline := none, nextDeadline := none, stopping := false }
                     let t := (t.modSession v.dir fun x => { x with seqs := tput x.seqs n y }).giveSpine v.dir n sp
                     let t := t.addPt p q.entryCount
                     let t := t.setRec v.dir { t.recOf v.dir with live := (t.recOf v.dir).live + 1 }
                     t.complete p vid .ok 0 [(0x20, 1, n)])
            | _, _ => s.complete p vid .noCapacity

/-! ## PLACE (R85, Table 3.6) -/

/-- PLACE begins: the folios of the spans are listed, and the first starts to move. -/
def doPlace (p vid : Nat) (s : State) : State :=
  match s.begun? p vid .place with
  | none => s
  | some v =>
    let tier := v.f 0x28 1
    let first := v.f 0x20 4
    let n := v.f 0x24 4
    let (on, t) := s.resident p v
    match s.seq? v.dir v.seq with
    | none => s.complete p vid .badHandle
    | some q =>
      if (tier != 1 && tier != 3 && tier != 4) || first + n > q.spans.length then s.complete p vid .badArgument
      else if !on then t
      else if q.state != .new && q.state != .wait then s.complete p vid .badState
      else if s.badEntry p ((q.spans.drop first).take n) then (s.pteFault p v.dir v.seq).complete p vid .tierFailed
      else
        let l := (((q.spans.drop first).take n).flatMap Span.refs).eraseDups
        let o : PlaceOp := { verb := vid, left := l, tier := tier }
        let t := (s.runVerb p vid).modFolPart p fun x => { x with places := x.places ++ [o] }
        t.placeStep p o

/-- PLACE_DONE: every folio of the spans stands in the target tier. -/
def doPlaceDone (p vid : Nat) (s : State) : State :=
  match s.running? p vid .place with
  | none => s
  | some _ =>
    let x := s.folPart p
    if x.places.any (fun o => o.verb == vid && o.left.isEmpty) then
      (s.setFolPart p { x with places := x.places.filter fun o => o.verb != vid }).complete p vid .ok
    else s

/-! ## The commands of this file -/

/-- OPEN (R33). -/
def execOpenSession (p vid : Nat) (s : State) : Host.Outcome State Fault Refusal :=
  .next (doOpen p vid s)

/-- PARK (R50). -/
def execPark (p vid : Nat) (s : State) : Host.Outcome State Fault Refusal :=
  .next (doPark p vid s)

/-- REVIVE (R36). -/
def execRevive (p vid : Nat) (s : State) : Host.Outcome State Fault Refusal :=
  .next (doRevive p vid s)

/-- FORK (R42). -/
def execFork (p vid : Nat) (s : State) : Host.Outcome State Fault Refusal :=
  .next (doFork p vid s)

/-- PLACE (R85). -/
def execPlace (p vid : Nat) (s : State) : Host.Outcome State Fault Refusal :=
  .next (doPlace p vid s)

/-- PARK_DONE (R50). -/
def execParkDone (dir : Nat) (s : State) : Host.Outcome State Fault Refusal :=
  .next (doParkDone dir s)

/-- REVIVE_DONE (R54). -/
def execReviveDone (dir latNs ns : Nat) (s : State) : Host.Outcome State Fault Refusal :=
  .next (doReviveDone dir latNs ns s)

/-- PLACE_DONE (R85). -/
def execPlaceDone (p vid : Nat) (s : State) : Host.Outcome State Fault Refusal :=
  .next (doPlaceDone p vid s)

/-- WAKE_AHEAD_START (R53). -/
def execWakeAheadStart (dir : Nat) (s : State) : Host.Outcome State Fault Refusal :=
  .next (doWakeAheadStart dir s)

/-- TTL_EXPIRE (R52). -/
def execTtlExpire (dir : Nat) (s : State) : Host.Outcome State Fault Refusal :=
  .next (doTtlExpire dir s)

end Machine
end Sys2Proof
end

