-- ==== Sys2Proof/Machine/Attention.lean ====
section
/-!
DEFINITION. Sys2Proof/Machine/Attention.lean: chapter 6, the attention task: the parameter block (R129), the key order
(R130), the KV of new tokens (R61, R131), masks (R99, R137, R138), scores, softmax and split parts (R140, R141), the waves
of R139 and the counters of R143. A KV payload holds, for each layer of the folio, the keys and then the values of each
head, slot by slot.
-/
namespace Sys2Proof
namespace Machine

/-! ## The parameter block (R129, Table 6.2) -/

/-- An attention parameter block. -/
structure AttParam where
  d : Nat
  group : Nat
  heads : Nat
  kvCode : Nat
  rotDims : Nat
  split2 : Bool
  scale : Nat
  window : Nat
  spans : Nat
  outFmt : Nat
  invFreq : Nat
  deriving DecidableEq, Repr, Inhabited

/-- The block read from 64 bytes; none: a value outside its range or a reserved byte that is not zero. -/
def parseAtt (b : Bytes) : Option AttParam :=
  let hd := fld b 0 1
  let x : AttParam :=
    { d := 64 * 2 ^ hd, group := fld b 1 1, heads := fld b 2 1, kvCode := fld b 3 1, rotDims := fld b 4 2,
      split2 := fld b 6 1 == 1, scale := fld b 8 4, window := fld b 0xC 4, spans := fld b 0x10 2, outFmt := fld b 0x12 1,
      invFreq := fld b 0x18 8 }
  if hd ≤ 2 && 1 ≤ x.group && x.group ≤ 64 && 1 ≤ x.heads && x.heads ≤ 64 && x.kvCode ≤ 3 && x.rotDims % 2 == 0 &&
     x.rotDims ≤ x.d && fld b 6 1 ≤ 1 && fld b 7 1 == 0 && 0 < x.scale && x.scale < f32Inf && x.outFmt ≤ 3 &&
     zeroFld b 0x13 5 && zeroFld b 0x20 32
  then some x else none

/-- Format code of Table 5.2 for a KV format code. -/
def kvTableFmt : Nat → Nat
  | 0 => 5
  | 1 => 6
  | 2 => 2
  | _ => 1

/-- The inverse frequencies of a block; none: one is not finite, or the table leaves the store. -/
def State.invFreqs (s : State) (p e slot : Nat) (x : AttParam) : Option (List Nat) :=
  let n := x.rotDims / 2
  if spaceOf x.invFreq != 0 || !s.addrOk p x.invFreq (4 * n) false then none
  else
    let l := unpackF (s.readSpace p e slot x.invFreq (4 * n))
    if l.all (fun w => !isNaN32 w && !isInf32 w) then some l else none

/-! ## The key order (R130) -/

/-- Slots from slot `k` of the first span on, n of them; a recomputed run keeps to the tokens that a span holds. -/
def slotRun (tokens : Nat) (recompute : Bool) : List (Nat × Span) → Nat → Nat → List (Nat × Nat)
  | [], _, _ => []
  | (i, x) :: r, k, n =>
    let room := (if recompute then x.valid else tokens) - k
    let m := min n room
    ((List.range m).map fun a => (i, k + a)) ++ slotRun tokens recompute r 0 (n - m)

/-- The places that an entry's tokens take, the tree's depth included. -/
def State.placesOf (s : State) (p : Nat) (q : Seq) (en : GEntry) (n : Nat) : List (Nat × Nat) :=
  slotRun (s.tokensPer p) (en.kind == 2) ((enum q.spans).drop en.slot0.1) en.slot0.2 n

/-- Depth of the tree of an entry. -/
def GEntry.depth (en : GEntry) : Nat := en.tree.foldl (fun a x => max a x.depth) 0

/-- The places of recompute work: `n` tokens from the token `off` of span `i` on, over the tokens that the spans hold. -/
def redoPlaces (spans : List Span) (i off n : Nat) : List (Nat × Nat) := (slotRun 0 true ((enum spans).drop i) 0 (off + n)).drop off

/-- Tokens of an entry that go to folio slots: all of a tip-in or a recompute, the root of a decode unless its key stands
there already. -/
def GEntry.slotCount (en : GEntry) : Nat := if en.kind = 0 then (if en.old then 0 else 1) else en.qLen

/-- A key: where it stands, its index in the key order, its position and, for a tree node, its number. -/
structure Key where
  span : Nat
  slot : Nat
  idx : Nat
  pos : Nat
  node : Option Nat := none
  deriving DecidableEq, Repr, Inhabited

/-- Keys of the spans: the slots that hold tokens or take this step's. -/
def spanKeys (news : List (Nat × Nat)) : List (Nat × Span) → Nat → List Key
  | [], _ => []
  | (i, x) :: r, base =>
    let n := news.foldl (fun a e => if e.1 = i then max a (e.2 + 1) else a) x.valid
    ((List.range n).map fun k => { span := i, slot := k, idx := base + k, pos := x.pos + k : Key }) ++
      spanKeys news r (base + n)

/-- The key order of an entry: the folio slots, then the tree's nodes in the places of their depths. -/
def State.keyOrder (s : State) (p : Nat) (q : Seq) (en : GEntry) : List Key :=
  let news := s.placesOf p q en en.slotCount
  let places := s.placesOf p q en (1 + en.depth)
  let nodes := (List.range en.depth).flatMap fun a =>
    (enum en.tree).filterMap fun e =>
      if e.2.depth = a + 1 then
        some { span := (places.getD (a + 1) (q.spans.length, 0)).1, slot := 0, idx := en.kvLen + a + 1, pos := en.pos + a + 1,
               node := some (e.1 + 1) : Key }
      else none
  spanKeys news (enum q.spans) 0 ++ nodes

/-! ## Masks (R99, R137, R138, Table 4.4) -/

/-- Node `a` is node `b` or an ancestor of it (0 is the root); nodes stand after their parents. -/
def isAncestor (tree : List TreeNode) (a b : Nat) : Nat → Bool
  | 0 => a == b
  | k + 1 => a == b || (b != 0 && isAncestor tree a ((tree.getD (b - 1) { token := 0, parent := 0, depth := 0 }).parent) k)

/-- Index of query token t in the key order. DEDUCED, log entry 14. -/
def GEntry.queryIdx (en : GEntry) (t : Nat) : Nat :=
  if en.tree.isEmpty || t = 0 then en.kvLen + t
  else en.kvLen + (en.tree.getD (t - 1) { token := 0, parent := 0, depth := 0 }).depth

/-- Position of query token t (R136). -/
def GEntry.queryPos (en : GEntry) (t : Nat) : Nat := en.pos + (en.queryIdx t - en.kvLen)

/-- Query t admits a key. -/
def GEntry.admits (en : GEntry) (window t : Nat) (k : Key) : Bool :=
  let i := en.queryIdx t
  let inMask :=
    match k.node with
    | some m => isAncestor en.tree m t 8
    | none =>
      if en.mask = 2 then decide (k.idx ≤ en.kvLen)
      else decide (k.idx ≤ i) || (decide (i < en.prefixLen) && decide (k.idx < en.prefixLen))
  inMask && (window = 0 || decide (i < k.idx + window)) &&
  (match en.window with | some first => decide (first ≤ k.span) | none => true)

/-! ## KV in folios (R61, R63) and in tree slots (R103) -/

/-- Offset of a head's key or value block in a folio's payload. -/
def kvOffset (heads tokens vb layerIn isV head slot : Nat) : Nat :=
  (((layerIn * 2 + isV) * heads + head) * tokens + slot) * vb

/-- The page-table entry of a span that holds a layer. -/
def spanEntry (layersPer layer : Nat) (x : Span) : Option Pte := x.entries.find? fun e => e.layer == layer - layer % layersPer

/-- What an attention task works on. -/
structure AttCtx where
  p : Nat
  dir : Nat
  seq : Seq
  en : GEntry
  x : AttParam
  layer : Nat
  head : Nat
  entryNo : Nat
  slot : Nat
  deriving DecidableEq, Repr, Inhabited

/-- Bytes of one key or value vector. -/
def AttCtx.vb (a : AttCtx) : Nat := fmtBytes (kvTableFmt a.x.kvCode) a.x.d

/-- The descriptor that holds a span's keys and values of the task's layer, if its entry is sound and it is in T1 (R67,
R133). -/
def State.attFolio (s : State) (a : AttCtx) (span : Nat) : Option Nat :=
  match spanEntry (s.layersPer a.p) a.layer (a.seq.spans.getD span {}) with
  | none => none
  | some e =>
    if s.entryOk a.p e then (match s.folio? e.ref with | some f => if f.tier = 1 then some e.ref else none | none => none)
    else none

/-- Offset of a vector of the task. -/
def State.attOff (s : State) (a : AttCtx) (isV slot : Nat) : Nat :=
  kvOffset a.x.heads (s.tokensPer a.p) a.vb (a.layer % s.layersPer a.p) isV a.head slot

/-- The tree slots and the payload that the task reads: a replay's are those of its scratch (R339). -/
def State.treeIn (s : State) (a : AttCtx) : List TreeKv :=
  if a.slot = 1 then (s.recPart a.p).treeKv else (s.spnOf a.p).treeKv
def State.payloadIn (s : State) (a : AttCtx) (i : Nat) : Mem :=
  let own := match s.folio? i with | some f => f.bytes | none => []
  if a.slot = 1 then tgetD (s.recPart a.p).folios i own else own

/-- The bytes of a key or a value. -/
def State.kvBytes (s : State) (a : AttCtx) (isV : Nat) (k : Key) : Bytes :=
  match k.node with
  | some n =>
    (match (s.treeIn a).find? (fun y => y.entry == a.entryNo && y.node == n && y.layer == a.layer && y.head == a.head) with
     | some y => if isV = 0 then y.key else y.value
     | none => zeros a.vb)
  | none =>
    match s.attFolio a k.span with
    | some i => mreads (s.payloadIn a i) (s.attOff a isV k.slot) a.vb
    | none => zeros a.vb

/-- One token's key and value written to its slot of the T0 copy: the copy is dirty until the step completes, and the folio's digest
no longer stands (R69; a replay writes to its scratch: R339). -/
def State.putKv (s : State) (a : AttCtx) (at_ : Nat × Nat) (key val : Bytes) : State :=
  match s.attFolio a at_.1 with
  | none => s
  | some i =>
    let m := mwrites (mwrites (s.payloadIn a i) (s.attOff a 0 at_.2) key) (s.attOff a 1 at_.2) val
    let r := s.recPart a.p
    if a.slot = 1 then s.setRecPart a.p { r with folios := tput r.folios i m }
    else s.modFolio i fun f => { f with t0 := some m, dirty := true, digest := none }

/-- A tree node's key and value written to its tree slot. -/
def State.putTree (s : State) (a : AttCtx) (n : Nat) (key val : Bytes) : State :=
  let l := ((s.treeIn a).filter fun y =>
      !(y.entry == a.entryNo && y.node == n && y.layer == a.layer && y.head == a.head)) ++
    [{ entry := a.entryNo, node := n, layer := a.layer, head := a.head, key := key, value := val }]
  if a.slot = 1 then s.setRecPart a.p { s.recPart a.p with treeKv := l } else s.modSpn a.p fun x => { x with treeKv := l }

/-- New keys and values in KV format: rows of `d` FP32 values, the keys of all tokens and then their values. The answer
also says whether a conversion clipped or wrote a NaN block. -/
def State.writeKv (s : State) (a : AttCtx) (data : List Nat) : State × Bool × Bool :=
  let fmt := kvTableFmt a.x.kvCode
  let places := s.placesOf a.p a.seq a.en a.en.slotCount
  (List.range a.en.qLen).foldl (fun acc t =>
    let (s, clip, nan) := acc
    let row := fun b => ((data.drop ((b * a.en.qLen + t) * a.x.d)).take a.x.d)
    let (kb, c1, n1) := encodeRow fmt (row 0)
    let (vb, c2, n2) := encodeRow fmt (row 1)
    let s :=
      if a.en.kind = 0 && t ≥ 1 then s.putTree a t kb vb
      else match places[t]? with
        | some w => s.putKv a w kb vb
        | none => s
    (s, clip || c1 || c2, nan || n1 || n2)) (s, false, false)

/-! ## Rotation (R135) and scores (R140) -/

/-- A vector of FP32 values rotated by its position. -/
def rotate (x : AttParam) (freqs : List Nat) (pos : Nat) (v : List Nat) : List Nat :=
  let half := x.rotDims / 2
  let pair := fun i => if x.split2 then (i, i + half) else (2 * i, 2 * i + 1)
  (List.range half).foldl (fun v i =>
    let (j, k) := pair i
    let (a, b) := rotatePair pos (freqs.getD i 0) (v.getD j 0) (v.getD k 0)
    (v.set j a).set k b) v

/-- A stored vector decoded to FP32 (R134). -/
def decodeVec (fmt d : Nat) (b : Bytes) : List Nat := (List.range d).map fun i => encFv (elementAt fmt b i)

/-- Running maximum, sum and output of a softmax. -/
structure Soft where
  m : Nat
  l : Nat
  o : List Nat
  deriving DecidableEq, Repr, Inhabited

def softStart (d : Nat) : Soft := { m := f32NegInf, l := 0, o := List.replicate d 0 }

def expDiff (a b : Nat) : Nat := f32exp2 (f32mul (f32sub a b) log2E)

/-- One chunk of attend_part: its keys with their values. -/
def softChunk (scale : Nat) (q : List Nat) (x : Soft) (ks : List (List Nat × List Nat)) : Soft :=
  if ks.isEmpty then x
  else
    let sc := ks.map fun k => f32mul (dotTree q k.1) scale
    let mn := f32max x.m (maxTree sc)
    if mn = f32NegInf then x
    else
      let alpha := if x.m = f32NegInf then 0 else expDiff x.m mn
      let pr := sc.map fun w => expDiff w mn
      { m := mn, l := f32add (f32mul x.l alpha) (sumTree pr),
        o := (enum x.o).map fun e =>
          f32add (f32mul e.2 alpha) (sumTree ((pr.zip ks).map fun w => f32mul w.1 (w.2.2.getD e.1 0))) }

def attendPart (d scale : Nat) (q : List Nat) (chunks : List (List (List Nat × List Nat))) : Soft :=
  chunks.foldl (softChunk scale q) (softStart d)

/-- Two parts combined, in ascending part order. -/
def softJoin (a b : Soft) : Soft :=
  let mn := f32max a.m b.m
  if mn = f32NegInf then a
  else
    let x := if a.m = f32NegInf then 0 else expDiff a.m mn
    let y := if b.m = f32NegInf then 0 else expDiff b.m mn
    { m := mn, l := f32add (f32mul a.l x) (f32mul b.l y),
      o := (a.o.zip b.o).map fun e => f32add (f32mul e.1 x) (f32mul e.2 y) }

/-- The output of one query: zero where no key could be weighed. -/
def softEnd (d : Nat) (x : Soft) : List Nat :=
  if x.l = 0 || x.l = f32NegZero then List.replicate d 0 else x.o.map fun w => f32div w x.l

/-! ## The task -/

/-- Spans of split part `part` (R141). -/
def inPart (spansPer part span : Nat) : Bool := spansPer = 0 || (spansPer * part ≤ span && span < spansPer * (part + 1))

/-- The keys of a part. -/
def partKeys (x : AttParam) (part : Nat) (ks : List Key) : List Key := ks.filter fun k => inPart x.spans part k.span

/-- Keys of one query, grouped by span in key order, decoded and rotated. -/
def State.queryChunks (s : State) (a : AttCtx) (freqs : List Nat) (ks : List Key) (t : Nat) : List (List (List Nat × List Nat)) :=
  let fmt := kvTableFmt a.x.kvCode
  let adm := ks.filter fun k => a.en.admits a.x.window t k
  let spans := (adm.map (·.span)).eraseDups
  spans.map fun i => (adm.filter fun k => k.span == i).map fun k =>
    (rotate a.x freqs k.pos (decodeVec fmt a.x.d (s.kvBytes a 0 k)), decodeVec fmt a.x.d (s.kvBytes a 1 k))

/-- A block of the key order: how many of the entry's queries take one of its keys (R139). -/
def blockQueries (en : GEntry) (window : Nat) (blk : List Key) : Nat :=
  countp (fun t => blk.any fun k => en.admits window t k) (List.range en.qLen)

/-- Some query of the entry admits a key of this span; the keys of tree nodes stand in no span. -/
def spanAdmitted (a : AttCtx) (ks : List Key) (k : Key) : Bool :=
  k.node.isSome || ks.any fun x => x.node.isNone && x.span == k.span &&
    (List.range a.en.qLen).any fun t => a.en.admits a.x.window t x

/-- Waves of the blocks, keys fetched and blocks passed over. -/
def attWork (a : AttCtx) (ks : List Key) : Nat × Nat × Nat :=
  (chunks (1024 / a.x.d) ks).foldl (fun acc blk =>
    let qb := blockQueries a.en a.x.window blk
    if blk.isEmpty then acc
    else if qb = 0 then (acc.1, acc.2.1, acc.2.2 + 1)
    else (acc.1 + max 1 (ceilDiv (qb * a.x.group) 16), acc.2.1 + countp (spanAdmitted a ks) blk, acc.2.2)) (0, 0, 0)

/-- The keys that are fetched: those of the blocks that some query admits, but none of a span of which no query admits a key (R137). -/
def fetchedKeys (a : AttCtx) (ks : List Key) : List Key :=
  (chunks (1024 / a.x.d) ks).flatMap fun blk =>
    if blockQueries a.en a.x.window blk = 0 then [] else blk.filter (spanAdmitted a ks)

/-- 64-byte lines of the fetched keys and values: each line of a folio once, each tree slot's lines by themselves. -/
def State.attLines (s : State) (a : AttCtx) (ks : List Key) : Nat :=
  let run := fun isV (k : Key) =>
    let o := s.attOff a isV k.slot
    (List.range ((o + a.vb - 1) / 64 + 1 - o / 64)).map fun i => (k.span, o / 64 + i)
  let folio := ks.filter fun k => k.node.isNone
  let tree := ks.filter fun k => k.node.isSome
  (folio.flatMap fun k => run 0 k ++ run 1 k).eraseDups.length + tree.length * 2 * ceilDiv a.vb 64

/-- The entry of a repetition and its sequence. -/
def State.attCtx (s : State) (i : Inst) (x : AttParam) : Option AttCtx :=
  match s.gatherOf i.p i.slot with
  | none => none
  | some g =>
    match g.entries[i.entry]? with
    | none => none
    | some en =>
      match s.seq? en.dir en.seq with
      | none => none
      | some q => some { p := i.p, dir := en.dir, seq := q, en := en, x := x, layer := i.cmd.note.layer,
                         head := i.cmd.note.kvHead, entryNo := i.entry, slot := i.slot }

/-- Spans of which some query of the entry admits a key, among the part's keys. -/
def spansRead (a : AttCtx) (ks : List Key) : List Nat :=
  ((fetchedKeys a ks).filter fun k => k.node.isNone).map (·.span) |>.eraseDups

/-- Every vector of the operands is free of NaN. -/
def noNaN (l : List Nat) : Bool := l.all fun w => !isNaN32 w

/-- The outputs of a task that is one part, or of the last part, which joins the parts' partials. -/
def Soft.words (x : Soft) : List Nat := x.m :: x.l :: x.o
def softPack (x : Soft) : Bytes := packF x.words
def softUnpack (b : Bytes) : Soft :=
  match unpackF b with
  | m :: l :: o => { m := m, l := l, o := o }
  | _ => softStart 0

/-- The stored keys and values that a query admits hold no NaN (R126). -/
def State.keysClean (s : State) (a : AttCtx) (ks : List Key) (t : Nat) : Bool :=
  let fmt := kvTableFmt a.x.kvCode
  (ks.filter fun k => a.en.admits a.x.window t k).all fun k =>
    noNaN (decodeVec fmt a.x.d (s.kvBytes a 0 k)) && noNaN (decodeVec fmt a.x.d (s.kvBytes a 1 k))

/-- The attention task (R131, R140, R141): KV of the new tokens, then for each query head the part's softmax; a single
part and the last one write outputs, every other part its maximum, sum and output at its place among the partials. -/
def State.attend (s : State) (e : Nat) (i : Inst) (a : AttCtx) (freqs : List Nat) : State :=
  let d := a.x.d
  let n := a.en.qLen
  let m := i.cmd
  let fresh := unpackF (s.readSpace a.p e i.slot m.addrB (8 * n * d))
  let (t, clip, nanBlk) := s.writeKv a fresh
  let order := t.keyOrder a.p a.seq a.en
  let ks := partKeys a.x m.part order
  let (waves, keys, skip) := attWork a ks
  let lines := t.attLines a (fetchedKeys a ks)
  let qs := unpackF (s.readSpace a.p e i.slot m.addrA (4 * n * a.x.group * d))
  let size := 4 * (d + 2)
  let rows := (List.range (n * a.x.group)).map fun r =>
    let tok := r / a.x.group
    let raw := (qs.drop (r * d)).take d
    let q := rotate a.x freqs (a.en.queryPos tok) raw
    (attendPart d a.x.scale q (t.queryChunks a freqs ks tok), noNaN raw && noNaN fresh && t.keysClean a ks tok)
  let place := fun (part r : Nat) => m.addrC + (part * (n * a.x.group) + r) * size
  let (t, clip2, nan) :=
    if m.part + 1 < m.parts then
      ((enum rows).foldl (fun t r => t.writeSpace a.p e i.slot (place m.part r.1) (softPack r.2.1)) t, false,
       rows.any fun r => r.2 && !noNaN r.1.words)
    else
      let outs := (enum rows).map fun r =>
        let earlier := (List.range m.part).map fun k => softUnpack (t.readSpace a.p e i.slot (place k r.1) size)
        (softEnd d ((earlier ++ [r.2.1]).foldl (fun acc y => match acc with
          | none => some y
          | some w => some (softJoin w y)) none |>.getD (softStart d)), r.2.2 && earlier.all fun x => noNaN x.words)
      (enum outs).foldl (fun acc r =>
        let (b, c1, blk) := encodeRow a.x.outFmt r.2.1
        (acc.1.writeSpace a.p e i.slot (m.addrC + r.1 * fmtBytes a.x.outFmt d) b, acc.2.1 || c1,
         acc.2.2 || blk || (r.2.2 && !noNaN r.2.1)))
        (t, false, false)
  let t := (((t.count .engAttWaves e waves).count .engAttKeys e keys).count .engAttLines e lines).count .engAttSkip e skip
  let t := (t.countClip e (clip || clip2)).countNan e (nanBlk || nan)
  t.finishCmd e i

/-- The folio of a span that the task reads lost a line: the line is not delivered, the task does not complete, and the read is
reported (R72, R133, Table 16.5). -/
def State.lostIn (s : State) (a : AttCtx) (span : Nat) : Option (Nat × Nat) :=
  match s.attFolio a span with
  | none => none
  | some i => (s.folio? i).bind fun f => if f.lost then some (i, f.lostStack) else none
def State.lineFault (s : State) (e : Nat) (i : Inst) (x : Nat × Nat) : State :=
  (s.stopCtx e i.slot).raise (0x48 + x.2)
    { part := some i.p, engine := some e, slot := i.slot, stepRead := true, folio := some x.1 }

/-- A page-table entry that fails R67 or whose folio is in neither T0 nor T1: the task does not complete (R133). -/
def State.ptFault (s : State) (e : Nat) (i : Inst) (a : AttCtx) : State :=
  (s.stopCtx e i.slot).raise 0x59
    { part := some i.p, engine := some e, slot := i.slot, dir := some a.dir, seq := a.seq.num,
      raw := a.seq.spine.getD 0 }

/-- The parameter block of a task, if it passes R129; the layer and the head exist. -/
def State.attParam (s : State) (e : Nat) (i : Inst) : Option (AttParam × List Nat) :=
  match parseAtt (s.readSpace i.p e i.slot i.cmd.addrP 64) with
  | none => none
  | some x =>
    let layers := match s.program? i.p with | some g => g.layers | none => 0
    if x.kvCode != kvFmtCode (s.kvFmt i.p) || i.cmd.note.kvHead ≥ x.heads || i.cmd.note.layer ≥ layers then none
    else
      match s.invFreqs i.p e i.slot x with
      | some f => some (x, f)
      | none => none

/-- Waves that the dot stage of an attention task takes (R139, R149). -/
def State.attWaves (s : State) (i : Inst) (a : AttCtx) : Nat :=
  (attWork a (partKeys a.x i.cmd.part (s.keyOrder a.p a.seq a.en))).1

end Machine
end Sys2Proof
end

