-- ==== Sys2Proof/Machine/Tasks.lean ====
section
/-!
DEFINITION. Sys2Proof/Machine/Tasks.lean: the commands of the engines (chapters 5 to 7): products (R117, R118), the vector
unit (R121, R122), attention, the sampling pass (R124), moves, ISSUE and AWAIT (R154 to R158), barriers, budgets (R149) and
context switches (R153, R159, R160).
-/
namespace Sys2Proof
namespace Machine

/-! ## Products (R117, R118, R119) -/

def productWaves (m : Cmd) : Nat :=
  match pairRule (m.fmt % 16) (m.fmt / 16) with
  | some r => m.m * r.rowWaves * ceilDiv m.k r.kt
  | none => 0

/-- Elements 0 to k − 1 of a row. -/
def rowOf (fmt k : Nat) (b : Bytes) : List Fv := (List.range k).map fun i => elementAt fmt b i

/-- A is M rows of K elements; B is N columns of K elements; C is M rows of N results. DESIGN CHOICE, log entry 13. -/
def State.product (s : State) (e : Nat) (i : Inst) : State :=
  let m := i.cmd
  let fa := m.fmt % 16
  let fb := m.fmt / 16
  let fo := m.out % 16
  match pairRule fa fb with
  | none => s
  | some r =>
    let rd := fun a n => s.readSpace i.p e i.slot a n
    let rows := (List.range m.m).map fun k => rowOf fa m.k (rd (m.addrA + k * rowBytes fa m.k) (rowBytes fa m.k))
    let cols := (List.range m.n).map fun k => rowOf fb m.k (rd (m.addrB + k * rowBytes fb m.k) (rowBytes fb m.k))
    let accs := if m.out < 16 then [] else unpackF (rd m.addrC (4 * m.m * m.n))
    let out := (enum rows).map fun row =>
      (enum cols).map fun col => columnAcc r (accs.getD (row.1 * m.n + col.1) 0) row.2 col.2
    let nan := (enum rows).any fun row => (enum cols).any fun col =>
      isNaN32 ((out.getD row.1 []).getD col.1 0) && !row.2.contains .nan && !col.2.contains .nan &&
      !isNaN32 (accs.getD (row.1 * m.n + col.1) 0)
    let enc := out.map fun l => encodeRow fo l
    let t := (enum enc).foldl (fun t x => t.writeSpace i.p e i.slot (m.addrC + x.1 * rowBytes fo m.n) x.2.1) s
    ((t.countClip e (enc.any fun x => x.2.1)).countNan e (nan || enc.any fun x => x.2.2)).finishCmd e i

/-! ## The vector unit (R121, R122) -/

/-- 1.0 or +0 for a comparison. -/
def boolF (b : Bool) : Nat := if b then f32One else 0

/-- One lane of an element-wise function. -/
def lane (fn : VecFn) (a b c : Nat) : Nat :=
  match fn with
  | .add => f32add a b
  | .sub => f32sub a b
  | .mul => f32mul a b
  | .fma => f32fma a b c
  | .div => f32div a b
  | .sqrt => f32sqrt a
  | .recip => f32recip a
  | .rsqrt => f32rsqrt a
  | .exp2 => f32exp2 a
  | .log2 => f32log2 a
  | .min => f32min a b
  | .max => f32max a b
  | .cmpLt => boolF (f32lt a b)
  | .cmpLe => boolF (f32le a b)
  | .cmpEq => boolF (f32eq a b)
  | _ => a

/-- How many of a, b and c a function reads. -/
def laneArgs : VecFn → Nat
  | .fma => 3
  | .add | .sub | .mul | .div | .min | .max | .cmpLt | .cmpLe | .cmpEq => 2
  | _ => 1

/-- Waves of one operation: 512 lanes a wave; a reduction takes the 9 levels of its tree besides. DESIGN CHOICE, log entry 13. -/
def vecWaves (o : VecOp) : Nat :=
  ceilDiv o.count 512 + (match o.fn with | .redSum | .redMax | .redMin => 9 | _ => 0)

/-- The result bytes of an operation, whether a conversion clipped, and whether a NaN came from operands without one. -/
def vecResult (store : Mem) (o : VecOp) : Bytes × Bool × Bool :=
  let a := unpackF (mreads store o.a (4 * o.count))
  let b := if laneArgs o.fn ≥ 2 then unpackF (mreads store o.b (4 * o.count)) else []
  let c := if laneArgs o.fn = 3 then unpackF (mreads store o.c (4 * o.count)) else []
  match o.fn with
  | .redSum => (packF [sumTree a], false, sumMakesNaN a)
  | .redMax => (packF [quiet (maxTree a)], false, false)
  | .redMin => (packF [quiet (minTree a)], false, false)
  | .convert => let (x, clip, blk) := encodeRow o.fmt a; (x, clip, blk)
  | .widen =>
    let l := rowOf o.fmt o.count (mreads store o.a (fmtBytes o.fmt o.count))
    (packF (l.map encFv), false, false)
  | fn =>
    let l := (List.range o.count).map fun k =>
      let w := lane fn (a.getD k 0) (b.getD k 0) (c.getD k 0)
      (w, isNaN32 w && noNaN [a.getD k 0, b.getD k 0, c.getD k 0])
    (packF (l.map (·.1)), false, l.any (·.2))

/-- The operations of a list in order. DESIGN CHOICE, log entry 13. -/
def State.vector (s : State) (e : Nat) (i : Inst) : State :=
  let (t, clip, nan) := i.cmd.note.vops.foldl (fun acc o =>
    let (t, clip, nan) := acc
    let (b, x, y) := vecResult (t.engOf e).store o
    (t.modEng e fun g => { g with store := mwrites g.store o.dst b }, clip || x, nan || y)) (s, false, false)
  ((t.countClip e clip).countNan e nan).finishCmd e i

/-! ## The sampling pass (R103, R123 to R125) -/

/-- First entry and count of a sampling entry range (ADDR_P: 16 bits each). -/
def sampleRange (m : Cmd) : Nat × Nat := (m.addrP % 65536, m.addrP / 65536 % 65536)

/-- Rows of logits of an entry: its root and its nodes; an entry that samples nothing has none. -/
def sampleRows (en : GEntry) : Nat := if en.kind = 0 then en.qLen else 0

/-- Waves of one position (Table 5.6): mask, ranking and, unless greedy, the kept candidates' passes and the walk. -/
def sampleWaves (vocab : Nat) (greedy : Bool) (topK : Nat) : Nat :=
  let v := ceilDiv vocab 512
  let k := ceilDiv (if topK = 0 then vocab else min topK vocab) 512
  if greedy then v + (v + 9) else v + 4 * v + (k + k + (k + 9)) + 1 + (k + 9)

/-- The child of a node that holds a token. -/
def childWith (tree : List TreeNode) (node tok : Nat) : Option Nat :=
  match tree.findIdx? (fun x => x.parent == node && x.token == tok) with
  | some i => some (i + 1)
  | none => none

/-- The row of logits of a node, as a function of the token. -/
def State.logits (s : State) (p e slot addr vocab row : Nat) : Nat → Nat :=
  let l := unpackF (s.readSpace p e slot (addr + row * vocab * 4) (vocab * 4))
  fun t => l.getD t 0

/-- The most candidates that a template takes of one head. -/
def maxCandidates : Nat := 64

/-- The ranked tokens of one extra head (R102). -/
def headRank (vocab : Nat) (l : Nat → Nat) : List Nat :=
  (((ranked ((List.range vocab).map fun t => (t, zeroUp (l t)))).map (·.1)).take maxCandidates)

/-- The sampling of one entry along its tree, from `node` on: every position on the path that its tokens take.
DESIGN CHOICE, log entry 18. -/
def State.samplePath (s : State) (e : Nat) (i : Inst) (q : Seq) (r : StepRun) (seed row vocab : Nat) :
    Nat → Nat → GEntry → Nat → GEntry × Nat
  | 0, _, en, degen => (en, degen)
  | k + 1, node, en, degen =>
    let ids := match en.masks.find? (fun x => x.1 == node) with
      | some (_, b) => bitmapToks vocab b
      | none => List.range vocab
    if ids.isEmpty then (en, degen)
    else
      let depth := en.samples.length
      let (t, dg) := sample (s.logits i.p e i.slot i.cmd.addrA vocab (row + node)) ids r.invTemp.toNat r.topK r.topP.toNat
        seed en.seq (q.stepCounter + depth)
      let heads := (List.range q.specHeads).map fun h =>
        (node, h + 1, headRank vocab (s.logits i.p e i.slot i.cmd.addrB vocab ((row + node) * q.specHeads + h)))
      let en := { en with samples := en.samples ++ [(node, t)],
                          heads := if q.specOn then en.heads ++ heads else en.heads }
      match childWith en.tree node t with
      | some n => s.samplePath e i q r seed row vocab k n en (degen + dg.toNat)
      | none => (en, degen + dg.toNat)

/-- A gathering of a slot with `f` applied to entry k. -/
def State.modEntry (s : State) (p slot k : Nat) (f : GEntry → GEntry) : State :=
  let g' := fun (g : Gather) => { g with entries := (enum g.entries).map fun x => if x.1 = k then f x.2 else x.2 }
  if slot = 0 then s.modSpn p fun x => { x with cur := x.cur.map g' }
  else if slot = 1 then s.setRecPart p { s.recPart p with gather := (s.recPart p).gather.map g' }
  else s

/-- The entries of a range, each with its first row. -/
def rangeRows : List (Nat × GEntry) → Nat → List (Nat × Nat × GEntry)
  | [], _ => []
  | (k, en) :: r, row => (row, k, en) :: rangeRows r (row + sampleRows en)

/-- The entries that a sampling task works on. -/
def State.sampled (s : State) (i : Inst) : List (Nat × Nat × GEntry) :=
  match s.gatherOf i.p i.slot with
  | none => []
  | some g =>
    let (first, n) := sampleRange i.cmd
    rangeRows (((enum g.entries).drop first).take n) 0

/-- The positions that the pass samples of one entry: those on the path that its tokens take. -/
def State.sampledPath (s : State) (e : Nat) (i : Inst) (row : Nat) (en : GEntry) : Option (StepRun × GEntry × Nat) :=
  match s.seq? en.dir en.seq, s.session? en.dir with
  | some q, some x =>
    q.run.map fun r =>
      let (en', degen) := s.samplePath e i q r x.seed row (s.vocab i.p).size (en.tree.length + 1) 0
        { en with samples := [], heads := [] } 0
      (r, en', degen)
  | _, _ => none

/-- One entry is sampled. -/
def State.sampleEntry (s : State) (e : Nat) (i : Inst) (row k : Nat) (en : GEntry) : State :=
  match s.sampledPath e i row en with
  | none => s
  | some (_, en', degen) => (List.range degen).foldl (fun t _ => t.countDegen e true) (s.modEntry i.p i.slot k fun _ => en')

/-- Waves of the vector unit in a sampling task: those of every position that the pass samples in its range (R103, Table 5.6). -/
def State.sampleTaskWaves (s : State) (e : Nat) (i : Inst) : Nat :=
  ((s.sampled i).map fun x =>
    if x.2.2.kind != 0 || !x.2.2.maskWait.isEmpty then 0
    else
      match s.sampledPath e i x.1 x.2.2 with
      | some (r, en, _) => en.samples.length * sampleWaves (s.vocab i.p).size (zeroUp r.invTemp.toNat == 0) r.topK
      | none => 0).sum

/-- The sampling pass over its range; it waits while a mask of the range is still being written (R186). -/
def State.sampleTask (s : State) (e : Nat) (i : Inst) : State :=
  let l := s.sampled i
  if l.any (fun x => !x.2.2.maskWait.isEmpty) then
    if i.ctx.maskLate then s
    else (s.count .txtMaskLate i.p).modCtx e i.slot fun y => { y with maskLate := true }
  else ((l.filter fun x => x.2.2.kind == 0).foldl (fun t x => t.sampleEntry e i x.1 x.2.1 x.2.2) s).finishCmd e i

/-! ## Budgets (R149, R150) -/

/-- Unit of a task's waves: 0 array, 1 vector, 2 attention (Table 16.3). -/
def taskUnit (kind : Nat) : Nat := if kind = 0 then 0 else if kind = 2 then 2 else 1

/-- Waves of the task, at the unit that it uses. -/
def State.taskWaves (s : State) (e : Nat) (i : Inst) : Nat :=
  match i.cmd.kind with
  | 0 => productWaves i.cmd
  | 1 => (i.cmd.note.vops.map vecWaves).sum
  | 2 => (match s.attParam e i with
    | some (x, _) => (match s.attCtx i x with | some a => s.attWaves i a | none => 0)
    | none => 0)
  | 3 => s.sampleTaskWaves e i
  | _ => 0

/-- The task reaches BUDGET + 1 waves before it completes. -/
def State.overBudget (s : State) (e : Nat) (i : Inst) : Bool := s.taskWaves e i > i.cmd.budget

/-- A TASK of one kind that stays inside its budget takes its effect. -/
def State.runTask (s : State) (e kind : Nat) (eff : Inst → State → State) : State :=
  s.runCmd e (fun m => m.opcode == 1 && m.kind == kind) fun i t => if t.overBudget e i then t else eff i t

/-- TASK_PRODUCT. -/
def doTaskProduct (e : Nat) (s : State) : State := s.runTask e 0 fun i t => t.product e i
/-- TASK_VECTOR. -/
def doTaskVector (e : Nat) (s : State) : State := s.runTask e 1 fun i t => t.vector e i
/-- The logits of a sampling range, and those of the extra heads, lie inside their spaces (R146). -/
def State.sampleOperands (s : State) (i : Inst) : Bool :=
  let row := 4 * (s.vocab i.p).size
  (s.sampled i).all fun x =>
    let heads := match s.seq? x.2.2.dir x.2.2.seq with | some q => if q.specOn then q.specHeads else 0 | none => 0
    let n := x.1 + sampleRows x.2.2
    s.addrOk i.p i.cmd.addrA (n * row) false && s.addrOk i.p i.cmd.addrB (n * heads * row) false

/-- TASK_SAMPLE. -/
def doTaskSample (e : Nat) (s : State) : State :=
  s.runTask e 3 fun i t => if t.sampleOperands i then t.sampleTask e i else t.malformed e i
/-- TASK_MOVE. -/
def doTaskMove (e : Nat) (s : State) : State :=
  s.runTask e 4 fun i t =>
    (t.writeSpace i.p e i.slot i.cmd.addrC (t.readSpace i.p e i.slot i.cmd.addrA i.cmd.note.moveBytes)).finishCmd e i

/-- The operands of an attention task lie inside their spaces (R146): queries, new keys and values, and its outputs or, in a split
task, every part's partials. -/
def State.attOperands (s : State) (i : Inst) (a : AttCtx) : Bool :=
  let m := i.cmd
  let rows := a.en.qLen * a.x.group
  s.addrOk i.p m.addrA (4 * rows * a.x.d) false && s.addrOk i.p m.addrB (8 * a.en.qLen * a.x.d) false &&
  s.addrOk i.p m.addrC (max (rows * fmtBytes a.x.outFmt a.x.d) (if m.parts > 1 then m.parts * rows * 4 * (a.x.d + 2) else 0)) true

/-- TASK_ATTENTION: an entry that the repetition does not have takes no work. -/
def doTaskAttention (e : Nat) (s : State) : State :=
  s.runTask e 2 fun i t =>
    match t.attParam e i with
    | none => t.malformed e i
    | some (x, freqs) =>
      match t.attCtx i x with
      | none => t.finishCmd e i
      | some a =>
        if !t.attOperands i a then t.malformed e i else
        let ks := partKeys x i.cmd.part (t.keyOrder a.p a.seq a.en)
        let l := (spansRead a ks) ++ (t.placesOf a.p a.seq a.en a.en.slotCount).map (·.1)
        if l.any fun n => (t.attFolio a n).isNone then t.ptFault e i a
        else
          match l.findSome? (t.lostIn a) with
          | some f => t.lineFault e i f
          | none => t.attend e i a freqs

/-- Destinations of a task's outputs, left incomplete by a budget fault. -/
def State.outputsOf (s : State) (e : Nat) (i : Inst) : List (Nat × Nat) :=
  match i.cmd.kind with
  | 0 => [(i.cmd.addrC, i.cmd.m * rowBytes (i.cmd.out % 16) i.cmd.n)]
  | 1 => i.cmd.note.vops.map fun o => (o.dst, 4 * o.count)
  | 2 =>
    (match s.attParam e i with
     | some (x, _) => (match s.attCtx i x with
       | some a =>
         let rows := a.en.qLen * x.group
         if i.cmd.part + 1 < i.cmd.parts then [(i.cmd.addrC + i.cmd.part * rows * 4 * (x.d + 2), rows * 4 * (x.d + 2))]
         else [(i.cmd.addrC, rows * fmtBytes x.outFmt x.d)]
       | none => [])
     | none => [])
  | 4 => [(i.cmd.addrC, i.cmd.note.moveBytes)]
  | _ => []

/-- Keys and values that a stopped attention task has left incomplete in the slots of its new tokens: free values (R149). -/
def State.smearKv (s : State) (e : Nat) (i : Inst) : State :=
  match s.attParam e i with
  | none => s
  | some (x, _) =>
    match s.attCtx i x with
    | none => s
    | some a =>
      let places := s.placesOf a.p a.seq a.en a.en.slotCount
      (List.range a.en.qLen).foldl (fun t k =>
        let row := fun b => (List.range a.vb).map fun j => Config.freeByte (s.free + (2 * k + b) * a.vb + j)
        if a.en.kind = 0 && k ≥ 1 then t.putTree a k (row 0) (row 1)
        else match places[k]? with
          | some w => t.putKv a w (row 0) (row 1)
          | none => t) { s with free := s.free + 2 * a.en.qLen * a.vb }

/-- Tokens that a stopped sampling task has drawn: some first part of each entry's path, how much of it no rule says (R149). -/
def State.cutSamples (s : State) (e : Nat) (i : Inst) : State :=
  ((s.sampled i).filter fun x => x.2.2.kind == 0).foldl (fun t x =>
    match s.sampledPath e i x.1 x.2.2 with
    | none => t
    | some (_, en, _) =>
      let n := (Config.freeByte t.free).toNat % (en.samples.length + 1)
      ({ t with free := t.free + 1 }).modEntry i.p i.slot x.2.1 fun _ => { en with samples := en.samples.take n }) s

/-- The outputs of a task that stops at its budget are left incomplete. -/
def State.incomplete (s : State) (e : Nat) (i : Inst) : State :=
  let t := (s.outputsOf e i).foldl (fun u x => u.smear i.p e i.slot x.1 x.2) s
  if i.cmd.kind = 2 then t.smearKv e i else if i.cmd.kind = 3 then t.cutSamples e i else t

/-- BUDGET_FAULT: a unit's count reaches BUDGET + 1; the task stops at that wave, its outputs are left incomplete. The waves that the
dot stage took are counted (R143). -/
def doBudgetFault (e unit : Nat) (s : State) : State :=
  s.runCmd e (fun m => m.opcode == 1 && taskUnit m.kind == unit) fun i t =>
    if !t.overBudget e i then t
    else
      let t' := (t.incomplete e i).count .engAttWaves e (if i.cmd.kind = 2 then i.cmd.budget + 1 else 0)
      ((t'.stopCtx e i.slot).modEng e fun x => { x with budgetLog := (i.slot, i.ctx.index, unit) }).raise (0x20 + e)
        (seqDetail e i unit 3)

/-! ## Remote reads and writes (R154 to R158) -/

/-- The service class of an engine's requests is B (Table 10.7). -/
def State.issue (s : State) (e : Nat) (i : Inst) (type : Nat) (data : Bytes) : State :=
  let m := i.cmd
  let dst := (m.fabric / 2 ^ 52, m.fabric / 2 ^ 48 % 16)
  let addr := if type = tyReadReq then m.addrC else m.addrA
  let (_, t) := s.startRequest (.engine e i.slot m.tag) type i.p .b dst (m.fabric % 2 ^ 48) addr m.length data
  t.modCtx e i.slot fun y => { y with tags := tput y.tags m.tag (tgetD y.tags m.tag 0 + 1) }

/-- The partition's reply buffer in use, and its high-water mark. -/
def State.takeReply (s : State) (p n : Nat) : State :=
  s.modSpn p fun x => { x with replyUse := x.replyUse + n, replyHigh := max x.replyHigh (x.replyUse + n) }

/-- ISSUE_READ: into the store it takes a reservation in the reply buffer, and waits for room without sending (R155). -/
def doIssueRead (e : Nat) (s : State) : State :=
  s.runCmd e (fun m => m.opcode == 2 && m.issueOp == 0) fun i t =>
    let m := i.cmd
    let store := spaceOf m.addrC == 0
    if store && (t.spnOf i.p).replyUse + m.length > (t.partImage i.p).part.replyBuf then t.block e i 4 0
    else
      let t := if store then (t.takeReply i.p m.length).modCtx e i.slot fun y => { y with resv := y.resv ++ [(m.tag, m.length)] }
               else t
      let t := t.modCtx e i.slot fun y => { y with dests := y.dests ++ [(m.tag, m.addrC, m.length)] }
      (t.issue e i tyReadReq []).finishCmd e i

/-- ISSUE_WRITE: the source is read when the request is queued. A replay, which writes only to its scratch, sends none
(R339). -/
def doIssueWrite (e : Nat) (s : State) : State :=
  s.runCmd e (fun m => m.opcode == 2 && m.issueOp == 1) fun i t =>
    if i.slot = 1 then t.finishCmd e i else
    (t.issue e i tyWriteReq (t.readSpace i.p e i.slot i.cmd.addrA i.cmd.length)).finishCmd e i

/-- Bytes that two destinations share, as (address, bytes). -/
def overlapOf (a b : Nat × Nat × Nat) : Option (Nat × Nat) :=
  let lo := max a.2.1 b.2.1
  let hi := min (a.2.1 + a.2.2) (b.2.1 + b.2.2)
  if lo < hi then some (lo, hi - lo) else none

/-- The overlaps among destinations that an AWAIT covers with the ones before it (R158). -/
def overlaps (tag : Nat) : List (Nat × Nat × Nat) → List (Nat × Nat)
  | [] => []
  | a :: r => (r.filterMap fun b => if a.1 = tag || b.1 = tag then overlapOf a b else none) ++ overlaps tag r

/-- Detail of a remote fault: peer, tag and code (Table 16.3). -/
def remoteDetail (e : Nat) (i : Inst) (x : Nat × Nat × Nat) : FaultDetail :=
  { part := some i.p, engine := some e, slot := i.slot, raw := at' x.2.1 109 + at' x.1 99 + at' x.2.2 91 }

/-- Contexts that wait for a reservation that can be taken now wait no longer (R155, R159). -/
def State.wakeResv (s : State) (p : Nat) : State :=
  let room := (s.partImage p).part.replyBuf - (s.spnOf p).replyUse
  (s.enginesOf p).foldl (fun t e => t.modEng e fun x => { x with slots := tmap (fun _ (y : Ctx) =>
    if y.waiting = 4 && (y.cmds.getD y.index { opcode := 0 }).length ≤ room then { y with waiting := 0, waitSince := 0 } else y) x.slots }) s

/-- AWAIT (R156, R157). -/
def doAwait (e : Nat) (s : State) : State :=
  s.runCmd e (fun m => m.opcode == 3) fun i t =>
    let tag := i.cmd.tag
    match i.ctx.errs.find? (fun x => x.1 == tag) with
    | some x => (t.stopCtx e i.slot).raise 0x9E (remoteDetail e i x)
    | none =>
      if tgetD i.ctx.tags tag 0 != 0 then t.block e i 2 tag
      else
        let mine := i.ctx.replies.filter fun r => r.tag == tag
        let t := mine.foldl (fun t r => t.writeSpace i.p e i.slot r.addr r.bytes) t
        let t := (overlaps tag i.ctx.dests).foldl (fun t x => t.smear i.p e i.slot x.1 x.2) t
        let freed := ((i.ctx.resv.filter fun r => r.1 == tag).map (·.2)).sum
        let t := (t.modSpn i.p fun x => { x with replyUse := x.replyUse - freed }).wakeResv i.p
        let t := t.modCtx e i.slot fun y =>
          { y with replies := y.replies.filter (fun r => r.tag != tag), resv := y.resv.filter (fun r => r.1 != tag),
                   dests := y.dests.filter (fun r => r.1 != tag), tags := tdel y.tags tag }
        t.finishCmd e i

/-- The answer to an ISSUE whose frames have all been answered (R156): data go to the store, to the reply buffer while the
context is switched out, or to memory; the tag's count falls. -/
def State.engineReply (s : State) (r : Request) (e slot tag : Nat) : State :=
  match s.ownerOfEngine e, s.ctx? e slot with
  | some p, some y =>
    let peer := r.dst.1
    let left := tgetD y.tags tag 0 - 1
    let met := y.waiting == 2 && y.waitTag == tag && (left = 0 || r.err != .none)
    let t := s.modCtx e slot fun y =>
      { y with tags := tput y.tags tag left, waiting := if met then 0 else y.waiting, waitSince := if met then 0 else y.waitSince,
               waitTag := if met then 0 else y.waitTag }
    if r.err != .none then t.modCtx e slot fun y => { y with errs := y.errs ++ [(tag, peer, fabErrCode r.err)] }
    else if r.data.isEmpty then t
    else
      let x := s.engOf e
      let out := spaceOf r.addr == 0 && !(x.running == slot && x.switching.isNone)
      if out then
        t.modCtx e slot fun _ => { (t.ctx? e slot).getD y with
          replies := ((t.ctx? e slot).getD y).replies ++ r.data.map fun d => { tag := tag, addr := r.addr + 2048 * d.1, bytes := d.2 } }
      else r.data.foldl (fun t d => t.writeSpace p e slot (r.addr + 2048 * d.1) d.2) t
  | _, _ => s

/-! ## Barriers and END (R145) -/

/-- The engines of the partition whose context of this slot takes part. -/
def State.barrierEngines (s : State) (p slot : Nat) : List Nat := (s.enginesOf p).filter fun e => (s.ctx? e slot).isSome

/-- A context stands at a BARRIER with this tag. -/
def State.atBarrier (s : State) (e slot tag : Nat) : Bool :=
  match s.ctx? e slot with
  | some y => y.waiting == 3 && y.waitTag == tag
  | none => false

/-- The streams of a replay run in turn on the quarantine engine (R339). Stream `y` stands aside, at a BARRIER or at its
end; the lowest that can run takes the engine, once all have reached the BARRIER they pass it, and once all have ended the
replay is over. -/
def State.nextStream (s : State) (p e : Nat) (y : Ctx) : State :=
  let r := s.recPart p
  let g := s.gatherOf p 1
  let all := tput r.streams y.stream { y with saved := (s.engOf e).store }
  let live := all.filter fun x => !x.2.ended
  let pass := !live.isEmpty && live.all fun x => x.2.waiting == 3 && (live.all fun z => z.2.waitTag == x.2.waitTag)
  let all := if pass then tmap (fun _ x => if x.ended then x else nextInst g x) all else all
  let t := if pass then s.count .engHeartbeat e live.length else s
  match all.find? (fun x => !x.2.ended && x.2.waiting != 3) with
  | some x =>
    let z := { x.2 with saved := [], deficit := y.deficit, newRound := y.newRound, startedAt := y.startedAt }
    (t.modEng e fun m => { m with store := x.2.saved, slots := tput m.slots 1 z }).setRecPart p
      { r with streams := tdel all x.1 }
  | none => (t.modCtx e 1 fun _ => y).setRecPart p { r with streams := tdel all y.stream,
                                                            ended := if live.isEmpty then some false else r.ended }

/-- BARRIER: when the last engine arrives, every context goes on. -/
def doBarrier (e : Nat) (s : State) : State :=
  s.runCmd e (fun m => m.opcode == 4) fun i t =>
    let tag := i.cmd.tag
    if i.slot = 1 then
      (if i.ctx.tags.any (fun x => x.2 != 0) then t.block e i 3 tag
       else (t.nextStream i.p e { i.ctx with waiting := 3, waitTag := tag, waitSince := t.now }).choose i.p e)
    else
    let all := t.barrierEngines i.p i.slot
    if all.all (fun k => k == e || t.atBarrier k i.slot tag) then
      all.foldl (fun t k =>
        let u := t.advanceCtx i.p k i.slot
        let x := u.engOf k
        if x.running = i.slot && x.switching.isNone then u.choose i.p k else u) t
    else t.block e i 3 tag

/-- END. -/
def doEndStream (e : Nat) (s : State) : State :=
  s.runCmd e (fun m => m.opcode == 5) fun i t =>
    let t := t.count .engHeartbeat e
    (if i.slot = 1 then t.nextStream i.p e { i.ctx with ended := true }
     else t.modCtx e i.slot fun y => { y with ended := true }).choose i.p e

/-! ## Switches (R153, R159 to R161) -/

/-- CONTEXT_SWITCH_DONE: the outgoing store is saved, the incoming one restored. -/
def doContextSwitchDone (e : Nat) (s : State) : State :=
  let x := s.engOf e
  match x.switching with
  | none => s
  | some k =>
    if !s.live then s
    else
      match tget x.slots k with
      | none => s.modEng e fun x => { x with switching := none }
      | some y =>
        let slots := match tget x.slots x.running with
          | some z => tput x.slots x.running { z with saved := x.store }
          | none => x.slots
        let slots := tput slots k { y with saved := [], resumedAt := s.now, startedAt := s.now }
        let t := s.setEng e { x with store := y.saved, slots := slots, running := k, switching := none, overrunSince := none }
        (t.count .engSwitches e).count .engSwitchNs e (s.now - x.switchSince)

/-- AWAIT_SWITCH_TIMEOUT: an unsatisfied wait has lasted AWAIT_SWITCH_US, and the engine chooses `target`. -/
def doAwaitSwitchTimeout (e target : Nat) (s : State) : State :=
  match s.current e with
  | none => s
  | some i =>
    if i.ctx.blocked && s.now ≥ i.ctx.waitSince + s.awaitNs i.p && (((s.payRunning e).grantRounds e).chosen i.p e).1 == target
    then s.choose i.p e
    else s

/-- STEP_SLICE_EXPIRE: the slice is over while a privileged context stands ready with a positive deficit; inside a command
the overrun starts, otherwise the engine chooses at once. -/
def doStepSliceExpire (e : Nat) (s : State) : State :=
  let x := s.engOf e
  match s.ownerOfEngine e with
  | none => s
  | some p =>
    if !s.live || x.running != 0 || x.switching.isSome || x.stopped then s
    else
      let t := s.grantRounds e
      if (t.firstPositive e (t.privReady e)).isNone then s
      else
        match s.ctx? e 0 with
        | none => t.choose p e
        | some y =>
          if s.now < y.resumedAt + cfgSliceNs (s.sliceCfg p e) then s
          else if !y.ready || y.blocked then t.choose p e
          else t.modEng e fun x => { x with overrunSince := some (x.overrunSince.getD s.now) }

/-- A self-test program is loaded into the TEST slot (Table 7.3). -/
def State.loadTest (s : State) (p e : Nat) (prog : List Cmd) : State :=
  (s.modEng e fun x => { x with slots := tput x.slots 2 (newCtx none 2 { cmds := prog } s.now) }).rechoose p e

/-- TEST_CONTEXT_LOAD (R151): the management port loads a self-test program signed by Caszar into slot 2. -/
def doTestContextLoad (e : Nat) (signed : Bool) (prog : List Cmd) (s : State) : State :=
  match s.ownerOfEngine e with
  | none => s
  | some p =>
    if s.live && signed then
      s.loadTest p e prog
    else s

/-! ## The commands of this file -/

/-- TASK_PRODUCT (R118). -/
def execTaskProduct (e : Nat) (s : State) : Host.Outcome State Fault Refusal :=
  .next (doTaskProduct e s)

/-- TASK_VECTOR (R121). -/
def execTaskVector (e : Nat) (s : State) : Host.Outcome State Fault Refusal :=
  .next (doTaskVector e s)

/-- TASK_ATTENTION (R140). -/
def execTaskAttention (e : Nat) (s : State) : Host.Outcome State Fault Refusal :=
  .next (doTaskAttention e s)

/-- TASK_SAMPLE (R124). -/
def execTaskSample (e : Nat) (s : State) : Host.Outcome State Fault Refusal :=
  .next (doTaskSample e s)

/-- TASK_MOVE (R145). -/
def execTaskMove (e : Nat) (s : State) : Host.Outcome State Fault Refusal :=
  .next (doTaskMove e s)

/-- ISSUE_READ (R154). -/
def execIssueRead (e : Nat) (s : State) : Host.Outcome State Fault Refusal :=
  .next (doIssueRead e s)

/-- ISSUE_WRITE (R154). -/
def execIssueWrite (e : Nat) (s : State) : Host.Outcome State Fault Refusal :=
  .next (doIssueWrite e s)

/-- AWAIT (R156). -/
def execAwait (e : Nat) (s : State) : Host.Outcome State Fault Refusal :=
  .next (doAwait e s)

/-- BARRIER (R145). -/
def execBarrier (e : Nat) (s : State) : Host.Outcome State Fault Refusal :=
  .next (doBarrier e s)

/-- END (R145). -/
def execEndStream (e : Nat) (s : State) : Host.Outcome State Fault Refusal :=
  .next (doEndStream e s)

/-- BUDGET_FAULT (R149). -/
def execBudgetFault (e unit : Nat) (s : State) : Host.Outcome State Fault Refusal :=
  .next (doBudgetFault e unit s)

/-- CONTEXT_SWITCH_DONE (R153). -/
def execContextSwitchDone (e : Nat) (s : State) : Host.Outcome State Fault Refusal :=
  .next (doContextSwitchDone e s)

/-- AWAIT_SWITCH_TIMEOUT (R159). -/
def execAwaitSwitchTimeout (e target : Nat) (s : State) : Host.Outcome State Fault Refusal :=
  .next (doAwaitSwitchTimeout e target s)

/-- STEP_SLICE_EXPIRE (R160). -/
def execStepSliceExpire (e : Nat) (s : State) : Host.Outcome State Fault Refusal :=
  .next (doStepSliceExpire e s)

/-- TEST_CONTEXT_LOAD (R151). -/
def execTestContextLoad (e : Nat) (signed : Bool) (prog : List Cmd) (s : State) : Host.Outcome State Fault Refusal :=
  .next (doTestContextLoad e signed prog s)

end Machine
end Sys2Proof
end

