-- ==== Sys2Proof/Machine/Input.lean ====
section
/-!
DEFINITION. Sys2Proof/Machine/Input.lean: the sequence verbs (Table 2.4): APPEND (R101, R168 to R170), SPLICE (R43, R405),
STEP (R104, R123, R175, R176, R179, R183, R404) and STEP with STOP (R38).
-/
namespace Sys2Proof
namespace Machine

/-! ## Spans of a context -/

/-- Position of the context's last token plus one (R43, Table 2.7). -/
def nextPosOf (spans : List Span) : Nat :=
  spans.foldl (fun a x => if x.ledger.isEmpty then a else x.pos + x.ledger.length) 0

/-- The spans up to and with the last that holds a token. -/
def usedSpans (spans : List Span) : Nat :=
  (enum spans).foldl (fun a e => if e.2.ledger.isEmpty then a else e.1 + 1) 0

/-- The place of the next token at the end of the context, for folios of `t` tokens. -/
def endPlace (t : Nat) (spans : List Span) : Nat × Nat :=
  let n := usedSpans spans
  let len := (spans.getD (n - 1) {}).ledger.length
  if n > 0 && len < t then (n - 1, len) else (n, 0)

/-- Spans from place `k` on renumbered so that positions run without gaps (R43). -/
def renumberFrom (spans : List Span) (k : Nat) : List Span :=
  (spans.drop k).foldl (fun acc x => acc ++ [{ x with pos := nextPosOf acc, entries := x.entries.map fun e =>
    { e with posBase := nextPosOf acc } }]) (spans.take k)

/-- The sequence's sums, its next position and its page-table entries follow its spans (R62, Table 3.3). -/
def Seq.settle (q : Seq) : Seq :=
  let spans := q.spans.map fun x => { x with entries := x.entries.map fun e => { e with posBase := x.pos, valid := x.valid } }
  ({ q with spans := spans, nextPos := nextPosOf spans } : Seq).sync

/-! ## APPEND -/

/-- Spans that `n` more tokens at the end of a context need, and those there without page-table entries, as the span of a last
sampled token may be: its key is computed with them. -/
def State.newSpans (s : State) (p : Nat) (q : Seq) (n : Nat) : Nat :=
  let t := s.tokensPer p
  let (i, k) := endPlace t q.spans
  let room := if i < q.spans.length then t - k else 0
  if n = 0 then 0 else ceilDiv (n - room) t + countp (fun x => !x.ledger.isEmpty && x.entries.isEmpty) q.spans

/-- Token identifiers of 4 bytes. -/
def tokenIds (b : Bytes) : List Nat := (List.range (b.length / 4)).map fun i => fld b (4 * i) 4

/-- An input of a verb: its tokens at once, or the pieces that will yield them. -/
inductive Input where
  | tokens (l : List Nat)
  | pieces (l : List Piece)
  | bad
  deriving DecidableEq, Repr, Inhabited

/-- What was read of an input of `len` tokens or bytes, absorbed before span `before` (R168). -/
def State.inputOf (s : State) (p : Nat) (tokens : Bool) (len : Nat) (data : Option Bytes) (before : Option Nat) : Input :=
  if len = 0 then .tokens []
  else
    match data with
    | none => .bad
    | some b =>
      if tokens then
        if b.length < 4 * len || (tokenIds (b.take (4 * len))).any (· ≥ (s.vocab p).size) then .bad
        else .tokens (tokenIds (b.take (4 * len)))
      else if b.length < len then .bad
      else .pieces (piecesOf (s.vocab p) before (b.take len))

/-- Tokens that an input yields. -/
def State.inputTokens (s : State) (p : Nat) : Input → Nat
  | .tokens l => l.length
  | .pieces l => (tokensOf (s.vocab p) l).length
  | .bad => 0

/-- An input joins a sequence: tokens at once, pieces through the verb. -/
def State.takeInput (s : State) (p : Nat) (v : Verb) (before : Option Nat) : Input → State
  | .tokens l =>
    if (match s.verb? p v.id with | some w => w.allFirst | none => false) then
      s.modVerb p v.id fun w => { w with finished := w.finished ++ [(l, before)] }
    else s.modSeq v.dir v.seq fun q => q.addPending l before
  | .pieces l => s.modVerb p v.id fun w => { w with pieces := w.pieces ++ l }
  | .bad => s

/-- What bounds the tokens of an input before it is tokenized (R170): its bytes, or its tokens. -/
def inputBound : Input → Nat
  | .tokens l => l.length
  | .pieces l => (l.map fun x => x.bytes.length).sum
  | .bad => 0

/-- The verb's input may pass MAX_CONTEXT: it is tokenized whole before any of it becomes pending (R170). -/
def State.markBound (s : State) (p vid total : Nat) : State :=
  if total > Config.maxContext then s.modVerb p vid fun w => { w with allFirst := true } else s

/-- An APPEND or SPLICE begins to be absorbed: PREFILL (Table 2.3). -/
def State.beginInput (s : State) (p : Nat) (v : Verb) : State :=
  (s.modSeq v.dir v.seq fun q => { q with state := .prefill, absorbing := some v.id, arrival := v.arrival }).runVerb p v.id

/-- APPEND. -/
def doAppend (p vid : Nat) (data : Option Bytes) (s : State) : State :=
  match s.begun? p vid .append with
  | none => s
  | some v =>
    if v.f 0x2C 1 > 1 then s.complete p vid .badArgument
    else
      let (on, t) := s.resident p v
      if !on then t
      else
        match s.seq? v.dir v.seq with
        | none => s.complete p vid .badHandle
        | some q =>
          if q.state != .new && q.state != .wait then s.complete p vid .badState
          else
            let x := s.inputOf p (v.f 0x2C 1 == 1) (v.f 0x28 4) data none
            let n := s.inputTokens p x
            if x == .bad || q.ctxLen + n > Config.maxContext then s.complete p vid .badArgument
            else if n = 0 then s.complete p vid .ok 0 [(0x24, 4, q.ctxLen)]
            else if !s.ptRoom p (s.newSpans p q n * s.foliosPerSpan p) then s.complete p vid .noCapacity
            else (((s.beginInput p v).takeInput p v none x).markBound p vid (q.ctxLen + inputBound x)).grantText

/-! ## SPLICE (R43, R405) -/

/-- The token indices that are span boundaries: starts of spans, ends of full ones, the end of the context. -/
def bounds (t : Nat) : List Span → Nat → List Nat
  | [], at_ => [at_]
  | x :: r, at_ =>
    if x.ledger.isEmpty then bounds t r at_
    else at_ :: (if x.ledger.length = t then [at_ + x.ledger.length] else []) ++ bounds t r (at_ + x.ledger.length)

/-- Tokens before each span. -/
def starts : List Span → Nat → List (Nat × Span)
  | [], _ => []
  | x :: r, at_ => (at_, x) :: starts r (at_ + x.ledger.length)

/-- A span that starts at index `at_` is dropped by one of the edits. -/
def dropped (edits : List Edit) (at_ : Nat) (x : Span) : Bool :=
  !x.ledger.isEmpty && edits.any fun e => !e.insert && e.pos ≤ at_ && at_ + x.ledger.length ≤ e.pos + e.len

/-- Edits whose boundaries fall on folio boundaries, inside the context. -/
def editsFit (t : Nat) (spans : List Span) (edits : List Edit) : Bool :=
  let b := bounds t spans 0
  edits.all fun e => b.contains e.pos && (e.insert || b.contains (e.pos + e.len))

/-- The context after the drops, with an empty span before each place that an insertion names (none: at the end of the
context); each input takes the number of its empty span. `k` counts the spans so far. DESIGN CHOICE, log entry 37. -/
def spliceSpans (edits : List (Edit × Input)) (ctx : Nat) : List (Nat × Span) → List Span → List (Option Nat × Input) →
    List Span × List (Option Nat × Input)
  | [], acc, ins => (acc, ins ++ (edits.filter fun e => e.1.insert && e.1.pos == ctx).map fun e => (none, e.2))
  | (at_, x) :: r, acc, ins =>
    let here := if x.ledger.isEmpty then [] else edits.filter fun e => e.1.insert && e.1.pos == at_ && at_ < ctx
    let acc' := acc ++ here.map fun _ => ({ pos := nextPosOf acc, pure := false } : Span)
    let ins' := ins ++ (enum here).map fun e => (some (acc.length + e.1), e.2.2)
    spliceSpans edits ctx r (if dropped (edits.map (·.1)) at_ x then acc' else acc' ++ [x]) ins'

/-- Place of the first edit among the spans: every later span is modified (R80). -/
def firstEdit (edits : List Edit) (l : List (Nat × Span)) : Nat :=
  match edits with
  | [] => l.length
  | e :: _ => countp (fun x => x.1 < e.pos && !x.2.ledger.isEmpty) l

/-- SPLICE with its edit list and the inputs of its insertions, in order. -/
def State.splice (s : State) (p : Nat) (v : Verb) (q : Seq) (edits : List (Edit × Input)) : State :=
  let l := starts q.spans 0
  let es := edits.map (·.1)
  let (spans, ins) := spliceSpans edits q.ctxLen l [] []
  let k := firstEdit es l
  let out := (l.filter fun e => dropped es e.1 e.2).map (·.2)
  let spans := (enum spans).map fun e => { e.2 with pure := e.2.pure && decide (e.1 < k) }
  let spans := if v.flag flagRenumber then renumberFrom spans k else spans
  let t := (s.modSeq v.dir v.seq fun q => ({ q with spans := spans } : Seq).settle).dropRefs (out.flatMap Span.refs)
  let t := t.subPt p ((out.map fun x => x.entries.length).sum)
  if (ins.map fun e => s.inputTokens p e.2).sum = 0 then
    t.complete p v.id .ok 0 [(0x24, 4, (match t.seq? v.dir v.seq with | some q => q.ctxLen | none => 0))]
  else
    let total := (spans.map fun x => x.ledger.length).sum + (ins.map fun e => inputBound e.2).sum
    (ins.foldl (fun t e =>
      let placed := match e.2 with
        | .pieces l => Input.pieces (l.map fun x => { x with before := e.1 })
        | x => x
      t.takeInput p v e.1 placed) ((t.beginInput p v).markBound p v.id total)).grantText

/-- The inputs of the insertions, in order, paired with their edits. -/
def State.pairInputs (s : State) (p : Nat) : List Edit → List (Option Bytes) → List (Edit × Input)
  | [], _ => []
  | e :: r, ins =>
    if e.insert then (e, s.inputOf p e.inputTokens e.len (ins.headD none) none) :: s.pairInputs p r (ins.drop 1)
    else (e, .tokens []) :: s.pairInputs p r ins

/-- New spans that the inputs of a SPLICE need, less the spans that its drops release (R66). -/
def State.spliceNeed (s : State) (p : Nat) (q : Seq) (edits : List (Edit × Input)) : Nat :=
  let mid := ((edits.filter fun e => e.1.insert && e.1.pos != q.ctxLen).map fun e => ceilDiv (s.inputTokens p e.2) (s.tokensPer p)).sum
  let tail := ((edits.filter fun e => e.1.insert && e.1.pos == q.ctxLen).map fun e => s.inputTokens p e.2).sum
  let out := fun (e : Nat × Span) => dropped (edits.map (·.1)) e.1 e.2
  let stay := ((starts q.spans 0).filter fun e => !out e).map (·.2)
  mid + s.newSpans p { q with spans := stay } tail - countp (fun e => out e && !e.2.entries.isEmpty) (starts q.spans 0)

/-- SPLICE. DESIGN CHOICE, log entry 37. -/
def doSplice (p vid : Nat) (inputs : List (Option Bytes)) (s : State) : State :=
  match s.begun? p vid .splice with
  | none => s
  | some v =>
    match s.seq? v.dir v.seq, v.edits with
    | none, _ => s.complete p vid .badHandle
    | some _, none => s.complete p vid .badArgument
    | some q, some b =>
      match parseEdits b (v.f 0x28 1) with
      | none => s.complete p vid .badArgument
      | some es =>
        let edits := s.pairInputs p es inputs
        let n := (edits.map fun e => s.inputTokens p e.2).sum
        let less := ((es.filter fun e => !e.insert).map (·.len)).sum
        if v.f 0x28 1 > 16 || !editsOrdered es || !editsFit (s.tokensPer p) q.spans es || edits.any (fun e => e.2 == .bad) ||
           q.ctxLen - less + n > Config.maxContext
        then s.complete p vid .badArgument
        else
          let (on, t) := s.resident p v
          if !on then t
          else if q.state != .new && q.state != .wait then s.complete p vid .badState
          else if !s.ptRoom p (s.spliceNeed p q edits * s.foliosPerSpan p) then s.complete p vid .noCapacity
          else if s.badEntry p (((starts q.spans 0).filter fun e => dropped es e.1 e.2).map (·.2)) then
            (s.pteFault p v.dir v.seq).complete p vid .tierFailed
          else s.splice p v q edits

/-! ## STEP -/

/-- The verb's arguments are in range (R123, R404, Table 19.7). -/
def stepArgsOk (v : Verb) : Bool :=
  v.f 0x20 4 ≤ Config.maxContext && samplingOk (v.f 0x2C 4) (v.f 0x34 2) (v.f 0x30 4) && v.f 0x36 1 < 16 && v.f 0x50 4 ≥ 256

/-- The stop list of a STEP; none: its read failed or it is malformed (R176). -/
def State.stopsOf (s : State) (p : Nat) (v : Verb) (stops : Option Bytes) : Option (List Bytes × List Nat) :=
  if v.f 0x40 8 = 0 then some ([], [])
  else
    match stops with
    | some b => parseStops b (s.vocab p).size
    | none => none

/-- The grammar that a STEP runs under, with state and stack (R183); none: BAD_ARGUMENT. -/
def State.stepGrammar (s : State) (p : Nat) (v : Verb) (q : Seq) : Option (Nat × Nat × List Nat) :=
  let gid := v.f 0x38 4
  if gid = 0 then some (0, q.gState, q.gStack)
  else if gid = 0xFFFFFFFF then
    if q.grammar = 0 then some (0, q.gState, q.gStack)
    else
      match s.grammarOf p q.grammar with
      | some g => if q.gState < g.states && q.gStack.all (· < g.symbols) then some (q.grammar, q.gState, q.gStack) else none
      | none => none
  else
    match s.grammarOf p gid with
    | some g => some (gid, g.start, [])
    | none => none

/-- A target of a STEP: its own where it is not zero, else the section's. -/
def target (own sect : Nat) : Nat := if own = 0 then sect else own

/-- The run of a STEP. -/
def stepRun (v : Verb) (q : Seq) (stops : List Bytes × List Nat) : StepRun :=
  { verb := v.id, maxNew := target (v.f 0x20 4) q.maxNew, ttftUs := target (v.f 0x24 4) q.ttftUs,
    tbtUs := target (v.f 0x28 4) q.tbtUs, invTemp := BitVec.ofNat 32 (v.f 0x2C 4), topP := BitVec.ofNat 32 (v.f 0x30 4),
    topK := v.f 0x34 2, textFlags := v.f 0x36 1, stream := v.flag flagStream, stops := stops.1, stopTokens := stops.2,
    outAddr := v.f 0x48 8, outLen := v.f 0x50 4 }

/-- The overhang is discarded, or fed to the matcher before any token (R179). -/
def State.feedOverhang (s : State) (p d n : Nat) (r : StepRun) (q : Seq) : State :=
  if r.dropOvh then s.modSeq d n fun q => { q with overhang := [] }
  else if q.overhang.isEmpty then s
  else
    let f := feed r.stops r.incl q.tail q.overhang
    let t := (s.release p d n f.out).modSeq d n fun q => { q with tail := f.tail, overhang := f.overhang }
    if f.hit then t.endStep p d n .stopped else t

/-- STEP: DECODE begins, its deadline is set, the overhang is fed. DESIGN CHOICE, log entry 37. -/
def doStepGen (p vid : Nat) (stops : Option Bytes) (s : State) : State :=
  match s.begun? p vid .step with
  | none => s
  | some v =>
    if v.flag flagStop then s
    else if !stepArgsOk v then s.complete p vid .badArgument
    else
      match s.stopsOf p v stops, s.seq? v.dir v.seq with
      | none, _ => s.complete p vid .badArgument
      | some _, none => s.complete p vid .badHandle
      | some sl, some q =>
        match s.stepGrammar p v q with
        | none => s.complete p vid .badArgument
        | some (gid, gs, gk) =>
          let (on, t) := s.resident p v
          if !on then t
          else if q.state != .wait then s.complete p vid .badState
          else
            let r := stepRun v q sl
            let dl := if r.ttftUs = 0 then none else some (v.arrival + 1000 * r.ttftUs)
            let t := (s.runVerb p vid).modSeq v.dir v.seq fun q =>
              { q with state := .decode, run := some r, grammar := gid, gState := gs, gStack := gk, arrival := v.arrival,
                       ttftDeadline := dl, nextDeadline := none, lastEmit := 0, tree := [] }
            let t := t.feedOverhang p v.dir v.seq r q
            if q.ctxLen ≥ Config.maxContext then t.endStep p v.dir v.seq .length else t

/-! ## STEP with STOP (R38, R108) -/

/-- The gathering in flight holds tokens of the sequence. -/
def State.inFlight (s : State) (p d n : Nat) : Bool :=
  match (s.spnOf p).cur with
  | some g => g.entries.any fun e => e.dir == d && e.seq == n
  | none => false

/-- STEP_STOP. -/
def doStepStop (p vid : Nat) (s : State) : State :=
  match s.begun? p vid .step with
  | none => s
  | some v =>
    if !v.flag flagStop then s
    else
      match s.seq? v.dir v.seq with
      | none => s.complete p vid .ok
      | some q =>
        let t := s.leaveNext p v.dir v.seq
        match q.run with
        | none => (t.modSeq v.dir v.seq fun q => { q with stopping := false }).complete p vid .ok
        | some r =>
          if s.inFlight p v.dir v.seq then
            (t.runVerb p vid).modSeq v.dir v.seq fun q =>
              { q with run := some { r with stopVerbs := r.stopVerbs ++ [vid] } }
          else
            ((t.endStep p v.dir v.seq .cancelled).modSeq v.dir v.seq fun q => { q with stopping := false }).complete p vid .ok

/-! ## The commands of this file -/

/-- APPEND (R101). -/
def execAppend (p vid : Nat) (data : Option Bytes) (s : State) : Host.Outcome State Fault Refusal :=
  .next (doAppend p vid data s)

/-- STEP (R40). -/
def execStepGen (p vid : Nat) (stops : Option Bytes) (s : State) : Host.Outcome State Fault Refusal :=
  .next (doStepGen p vid stops s)

/-- STEP_STOP (R38). -/
def execStepStop (p vid : Nat) (s : State) : Host.Outcome State Fault Refusal :=
  .next (doStepStop p vid s)

/-- SPLICE (R43). -/
def execSplice (p vid : Nat) (inputs : List (Option Bytes)) (s : State) : Host.Outcome State Fault Refusal :=
  .next (doSplice p vid inputs s)

end Machine
end Sys2Proof
end

