-- ==== Sys2Proof/Machine/Gathering.lean ====
section
/-!
DEFINITION. Sys2Proof/Machine/Gathering.lean: building a step (chapter 4): slack and selection (R93 to R96), prefix hits (R80,
R96), tier misses and their policies (R88, R89, Table 3.8), the release of a gathering (R98, R132, R312) and the masks
(R186).
-/
namespace Sys2Proof
namespace Machine

/-! ## Pending input by segments -/

/-- Runs after their first `n` tokens; recompute work remembers where it goes on. -/
def dropRuns : List PendRun → Nat → List PendRun
  | [], _ => []
  | r :: rs, n => if r.tokens.length ≤ n then dropRuns rs (n - r.tokens.length) else
    { r with tokens := r.tokens.drop n, off := if r.recompute then r.off + n else 0 } :: rs

/-- Tokens that the front of the pending input offers for one run of slots: recompute work or an insertion by itself, the
last sampled token together with the input behind it. DEDUCED, log entry 16. -/
def segment : List PendRun → List Nat
  | [] => []
  | [a] => a.tokens
  | a :: b :: _ => if a.old && !a.recompute && b.span.isNone && !b.old then a.tokens ++ b.tokens else a.tokens

/-- Tokens of the sequence in the step in flight. -/
def State.flying (s : State) (p d n : Nat) : Nat :=
  match (s.spnOf p).cur with
  | some g => ((g.entries.filter fun e => e.dir == d && e.seq == n && e.kind != 0).map (·.qLen)).sum
  | none => 0

/-- The sequence's front work is a tip-in or recompute: PREFILL, or recompute work ahead of decoding (R101). -/
def Seq.feeds (q : Seq) : Bool :=
  q.state == .prefill || (match q.pending with | r :: _ => r.recompute | [] => false)

/-! ## Deadlines and slack (R93, R94) -/

/-- The deadline in force of a candidate; none: infinite. -/
def State.deadline (s : State) (p d : Nat) (q : Seq) : Option Nat :=
  match q.run with
  | some r => if r.emitted = 0 then q.ttftDeadline else q.nextDeadline
  | none =>
    match (s.verbs p).find? (fun v => v.op == .step && !v.acts && v.dir == d && v.seq == q.num && v.phase != .begun &&
        (match s.session? d with | some x => x.handle == v.handle | none => false)) with
    | some v => let t := target (v.f 0x24 4) q.ttftUs; if t = 0 then none else some (v.arrival + 1000 * t)
    | none => none

/-- A candidate with its slack. -/
structure Cand where
  dir : Nat
  q : Seq
  slack : Option Int
  deriving DecidableEq, Repr, Inhabited

/-- Lexicographic order of keys. -/
def lexLt : List Int → List Int → Bool
  | a :: r, b :: t => decide (a < b) || (a == b && lexLt r t)
  | _, _ => false

def insertBy (key : Cand → List Int) (c : Cand) : List Cand → List Cand
  | [] => [c]
  | x :: r => if lexLt (key c) (key x) then c :: x :: r else x :: insertBy key c r

def sortBy (key : Cand → List Int) (l : List Cand) : List Cand := l.foldl (fun a c => insertBy key c a) []

/-- Priority first, then arrival, then Spine index. -/
def tailKey (c : Cand) : List Int := [-(c.q.prio : Int), c.q.arrival, c.q.spine.getD 0]

/-- The order of normal candidates: privileged queues, then finish tags, equal tags by queue number (R95, R216, R219). DEDUCED,
log entry 16. -/
def State.finishKey (s : State) (p : Nat) (q : Nat) : List Int :=
  let x := s.sched (.step p)
  match s.privNow (.step p) q with
  | some k => [0, k]
  | none => [1, wrap64 (finishTag x q (s.umin (.step p) p) (s.weight q) + two64 - x.vtime), q]

/-- SPN_SCHED_CFG with the bounds of R92. -/
structure SchedCfg where
  urgentNs : Nat
  tipinMin : Nat
  chunkMax : Nat
  chunkMin : Nat
  budget : Nat
  maxSeq : Nat
  deriving DecidableEq, Repr, Inhabited

def State.schedCfg (s : State) (p : Nat) : SchedCfg :=
  let w := s.reg .spnSchedCfg p
  let l := s.reg .spnPartLimits p
  let b := bits l 16 0
  { urgentNs := bits w 63 48 * 1000, tipinMin := min b (bits w 47 34), chunkMax := max 1 (min b (bits w 33 20)),
    chunkMin := min b (bits w 19 10), budget := b, maxSeq := bits l 45 32 }

/-- Candidates in the order of R95. -/
def State.candidates (s : State) (p : Nat) : List Cand :=
  let l := ((s.workers p).filter fun e => s.eligible e.2.queue).map fun e =>
    { dir := e.1, q := e.2, slack := match s.deadline p e.1 e.2 with
        | some d => some ((d : Int) - s.now - (s.spnOf p).estNs)
        | none => none : Cand }
  let urgent := fun (c : Cand) => match c.slack with
    | some x => decide (x < (s.schedCfg p).urgentNs)
    | none => false
  sortBy (fun c => (c.slack.getD 0) :: tailKey c) (l.filter urgent) ++
  sortBy (fun c => s.finishKey p c.q.queue ++ tailKey c) (l.filter fun c => !urgent c)

/-! ## Prefix hits (R80, R96) -/

/-- References on the folios of an index entry; a folio with 65,535 references is no hit. -/
def State.hitEntries (s : State) (p : Nat) (e : PrefixEntry) (pos : Nat) : Option (List Pte) :=
  (enum e.folios).foldr (fun x acc =>
    match acc, s.folio? x.2 with
    | some l, some f =>
      if f.refcnt < maxRefs then
        some ({ posBase := pos, valid := e.ledger.length, layer := x.1 * s.layersPer p, refKind := 1, dgen := f.gen,
                ref := x.2 } :: l)
      else none
    | _, _ => none) (some [])

/-- One whole span at the front of the pending input that hits the index is absorbed; the answer says whether one was. A hit on a
folio that has all the references it can have is counted and is a miss (R82). -/
def State.absorbHit (s : State) (p d n : Nat) : Bool × State :=
  match s.seq? d n with
  | none => (false, s)
  | some q =>
    let t := s.tokensPer p
    match q.pending with
    | [] => (false, s)
    | r :: rest =>
      let whole := q.spans.all fun x => x.ledger.length == t && x.valid == t && x.pure
      if r.old || r.span.isSome || r.tokens.length < t || !whole then (false, s)
      else
        match s.prefixHit p (q.spans.map (·.ledger)) (r.tokens.take t) with
        | none => (false, s)
        | some e =>
          let pos := nextPosOf q.spans
          match s.hitEntries p e pos, if s.ptRoom p e.folios.length then s.reservePt d 1 else none with
          | none, _ => (false, s.countSat .folRefSat p)
          | some _, none => (false, s)
          | some l, some u =>
            let rest' := if r.tokens.length = t then rest else { r with tokens := r.tokens.drop t } :: rest
            (true, ((u.addRefs e.folios).addPt p e.folios.length).modSeq d n fun q =>
              ({ q with spans := q.spans ++ [{ entries := l, ledger := e.ledger, pos := pos, valid := t }],
                        pending := rest' } : Seq).settle)

/-- Every whole span at the front that hits; the answer says whether one did. -/
def State.absorbHits (s : State) (p d n : Nat) : Nat → Bool × State
  | 0 => (false, s)
  | k + 1 =>
    match s.absorbHit p d n with
    | (false, t) => (false, t)
    | (true, t) => (true, (t.absorbHits p d n k).2)

/-! ## Selection (R95, R96) -/

/-- Nodes that the next step of a decoding sequence carries: of the tree at hand, or of the one that the step in flight
proposes (R98). -/
def State.pendingNodes (s : State) (p d : Nat) (q : Seq) : Nat :=
  if !q.specOn then 0
  else if s.inFlight p d q.num then q.specNodes
  else q.tree.length

/-- The state of the filling loop. -/
structure Fill where
  s : State
  entries : List GEntry := []
  hits : List Nat := []
  left : Nat
  reserve : Nat
  deriving DecidableEq, Repr

/-- An entry that takes its tokens from a pending run. -/
def GEntry.tipIn (en : GEntry) (r : PendRun) : GEntry :=
  { en with kind := if r.recompute then 2 else 1, span := r.span, old := r.old && !r.recompute, off := r.off, missing := r.missing }

/-- One candidate is placed, if it fits: `pending` of R95 is the pending input of the consecutive places that one entry names (R97).
DEDUCED, log entry 16. -/
def fillOne (p : Nat) (cfg : SchedCfg) (prefixLen : Nat) (x : Fill) (c : Cand) : Fill :=
  if x.entries.length ≥ cfg.maxSeq || x.left = 0 then x
  else
    let base : GEntry := { dir := c.dir, seq := c.q.num, spine := c.q.spine.getD 0, kind := 0, qLen := 1, queue := c.q.queue }
    if !c.q.feeds then
      let nodes := x.s.pendingNodes p c.dir c.q
      let nodes := if 1 + nodes > x.left - x.reserve then 0 else nodes
      if 1 > x.left - x.reserve then x
      else { x with entries := x.entries ++ [{ base with qLen := 1 + nodes }], left := x.left - (1 + nodes) }
    else
      let fly := x.s.flying p c.dir c.q.num
      let input := (c.q.pending.map fun r => r.tokens.length).sum
      let (hit, t) := if x.s.inFlight p c.dir c.q.num then (false, x.s) else x.s.absorbHits p c.dir c.q.num input
      let q := (t.seq? c.dir c.q.num).getD c.q
      let runs := dropRuns q.pending fly
      let total := (segment runs).length
      let done := hit && total = 0 && (match q.absorbing with
        | some v => (match t.verb? p v with | some w => w.pieces.isEmpty | none => false)
        | none => false)
      let x := { x with s := t, hits := if done then x.hits ++ (match q.absorbing with | some v => [v] | none => []) else x.hits }
      if total = 0 then x
      else
        let need := if q.kvLen = 0 && fly = 0 then min total prefixLen else 0
        let n := min total (min (max cfg.chunkMax need) x.left)
        if n < max (min total cfg.chunkMin) need then x
        else
          let e := ({ base with qLen := n } : GEntry).tipIn (runs.headD { tokens := [] })
          { x with entries := x.entries ++ [e], left := x.left - n, reserve := x.reserve - n }

/-- A verb whose last token a hit absorbed completes (R101). -/
def State.completeHit (s : State) (p vid : Nat) : State :=
  match (s.allSeqs p).find? (fun e => e.2.absorbing == some vid) with
  | some e => s.endInput p e.1 e.2.num .ok
  | none => s

/-- The folios that a resident sequence waits for are promoted in class C as room allows (R89, Table 3.8). -/
def State.retryStalled (s : State) (p : Nat) : State :=
  let t := (s.allSeqs p).foldl (fun t e =>
    if !e.2.stalled then t
    else
      let miss := e.2.refs.filter fun i => match t.folio? i with | some f => f.tier != 1 | none => false
      let t := miss.foldl (fun t i => if t.canPromote p then t.startPromotion i .c else t) t
      let waits := miss.any fun i => match t.folio? i with | some f => f.tier != 1 && !f.promoting | none => false
      if e.2.waitsRoom && !waits && (!miss.isEmpty || t.t1Room p (t.foliosPerSpan p)) then
        t.modSeq e.1 e.2.num fun q => { q with waitsRoom := false }
      else t) s
  t.landed p

/-- The partition builds steps: it runs, its program is loaded, no fence has stopped it. -/
def State.steps (s : State) (p : Nat) : Bool :=
  s.live && !s.partFenced p && (s.partImage? p).isSome && (s.program? p).isSome &&
  !(s.fencedByChange p && (s.bind.deadlineDone || s.bind.phase == .switching))

/-- SELECTION. -/
def doSelection (p : Nat) (s : State) : State :=
  if !s.steps p || (s.spnOf p).next.isSome then s
  else
    let s := s.retryStalled p
    let cfg := s.schedCfg p
    let cands := s.candidates p
    let pre := match s.program? p with | some g => g.biPrefix | none => 0
    let x := cands.foldl (fillOne p cfg pre)
      { s := s, left := cfg.budget, reserve := if cands.any (fun c => c.q.state == .prefill) then cfg.tipinMin else 0 }
    if x.entries.isEmpty then x.hits.foldl (fun t v => t.completeHit p v) x.s
    else x.s.modSpn p fun y => { y with next := some { entries := x.entries, hitVerbs := x.hits } }

/-! ## Tier misses (R88, R89, Table 3.8) -/

def State.policyOf (s : State) (p cls : Nat) : Nat := bits (s.reg .folClassPolicy p cls) 1 0
def State.recomputeNs (s : State) (p cls : Nat) : Nat := bits (s.reg .folClassPolicy p cls) 63 32
def State.minWindow (s : State) (p cls : Nat) : Nat := bits (s.reg .folClassPolicy p cls) 31 12
def State.marginNs (s : State) (p cls : Nat) : Nat := bits (s.reg .folClassPolicy p cls) 11 4 * 1000

/-- Number of a cause in FOL_MISS_CNT. -/
def missCode : MissKind → Nat
  | .late => 0
  | .failed => 1
  | .noSpace => 2

/-- A miss is counted for the class, the cause and the tier (no space: T1): 12 counters of each of the 64 classes. -/
def State.countMiss (s : State) (p cls : Nat) (k : MissKind) (tier : Nat) : State :=
  s.count .folMissCnt p 1 (cls * 16 + 4 * missCode k + ((if k = .noSpace then 1 else tier) - 1))

/-- The places of an entry's recompute work; none: it is no such entry. -/
def GEntry.redo (en : GEntry) (q : Seq) : List (Nat × Nat) :=
  if en.kind = 2 then redoPlaces q.spans (en.span.getD 0) en.off en.qLen else []

/-- The folios that an entry's recompute work replaces: it reads them not before it has written them (R89). -/
def GEntry.replaces (en : GEntry) (q : Seq) : List Nat :=
  (((en.redo q).map (·.1)).eraseDups.flatMap fun i => (q.spans.getD i {}).refs).filter en.missing.contains

/-- The spans that an entry reads: up to the span that it writes where later keys are masked, from its window on. -/
def readSpans (q : Seq) (en : GEntry) : List Span :=
  let l := match en.span with
    | some i => q.spans.take (((en.redo q).map (·.1)).foldl max i + 1)
    | none => q.spans
  match en.window with
  | some k => l.drop k
  | none => l

/-- Folios of some spans that stand outside T1. -/
def State.outside (s : State) (l : List Span) : List Nat :=
  ((l.flatMap Span.refs).filter fun i => match s.folio? i with | some f => f.tier != 1 | none => false).eraseDups

/-- The landing time of missing folios, in ns, and the tier that takes longest (R53 with the demand backlog).
DESIGN CHOICE, log entry 38. -/
def State.landing (s : State) (p : Nat) (miss : List Nat) : Nat × Nat :=
  let tierOf := fun i => match s.folio? i with | some f => f.tier | none => 1
  [3, 4].foldl (fun acc t =>
    let n := countp (fun i => tierOf i == t) miss
    if n = 0 then acc
    else
      let e := s.estNs p t (tgetD (s.folPart p).demandBacklog t 0 + n * Config.folioBytes)
      if e ≥ acc.1 then (e, t) else acc) (0, 4)

/-- The missing folios go on being promoted in class C. -/
def State.promoteC (s : State) (p : Nat) (miss : List Nat) : State :=
  miss.foldl (fun t i => if t.canPromote p then t.startPromotion i .c else t) s

/-- STALL: the sequence waits outside gatherings. -/
def State.stall (s : State) (d n : Nat) (room : Bool) : State :=
  s.modSeq d n fun q => { q with stalled := true, waitsRoom := room }

/-- The spans of a run of recompute work. -/
def PendRun.redoSpans (r : PendRun) (q : Seq) : List Nat :=
  if r.recompute then ((redoPlaces q.spans (r.span.getD 0) 0 (r.off + r.tokens.length)).map (·.1)).eraseDups else []

/-- The recompute work for the span `i` joins the work for the spans before it where its tokens follow theirs without a gap. -/
def joinRedo (q : Seq) (i : Nat) (miss : List Nat) (acc : List PendRun) : List PendRun :=
  let x := q.spans.getD i {}
  let before := q.spans.getD (i - 1) {}
  let lost := x.refs.filter miss.contains
  let toks := x.ledger.take x.valid
  match acc.getLast? with
  | some r =>
    if i != 0 && (r.redoSpans q).contains (i - 1) && before.pos + before.valid = x.pos && before.valid = before.ledger.length then
      acc.dropLast ++ [{ r with tokens := r.tokens ++ toks, missing := r.missing ++ lost }]
    else acc ++ [{ tokens := toks, span := some i, old := true, recompute := true, missing := lost }]
  | none => [{ tokens := toks, span := some i, old := true, recompute := true, missing := lost }]

/-- Runs of recompute work by their first spans. -/
def insertRedo (r : PendRun) : List PendRun → List PendRun
  | [] => [r]
  | x :: l => if r.span.getD 0 < x.span.getD 0 then r :: x :: l else x :: insertRedo r l

/-- Recompute work for every span with a missing folio, earliest first (policy 1); work under way goes on. DEDUCED, log entry 15. -/
def State.recompute (s : State) (d n : Nat) (miss : List Nat) : State :=
  s.modSeq d n fun q =>
    let work := q.pending.filter (·.recompute)
    let done := work.flatMap fun r => r.redoSpans q
    let new := (enum q.spans).foldl (fun acc e =>
      if e.2.refs.any miss.contains && !done.contains e.1 then joinRedo q e.1 miss acc else acc) []
    { q with pending := new.foldl (fun a r => insertRedo r a) work ++ q.pending.filter (fun r => !r.recompute) }

/-- The longest run of spans in T1 that ends at the newest token: its first span and its tokens. -/
def State.windowRun (s : State) (q : Seq) : Nat × Nat :=
  (enum q.spans).reverse.foldl (fun acc e =>
    if acc.1 = e.1 + 1 && (s.outside [e.2]).isEmpty then (e.1, acc.2 + e.2.ledger.length) else acc) (q.spans.length, 0)

/-- The truncated window of policy 3 stands in the entry, for a record to report once a step has run over it (R25); recompute work
has none, and an insertion stands inside it. DEDUCED, log entry 15. -/
def State.truncate (s : State) (p : Nat) (q : Seq) (en : GEntry) : Option GEntry :=
  let (k, toks) := s.windowRun q
  if en.kind = 2 || toks < max 1 (s.minWindow p q.cls) || (match en.span with | some i => decide (i < k) | none => false) then none
  else some { en with window := some k, asked := true, cheaper := 3, windowPos := (q.spans.getD k {}).pos, windowLen := toks }

/-- A tier miss of a selected sequence: the entry that stays in the gathering, if any does (Table 3.8). The missing folios go on being
promoted under every policy (R89). DESIGN CHOICE, log entry 38. -/
def State.miss (s : State) (p : Nat) (q : Seq) (k : MissKind) (tier est : Nat) (miss : List Nat) (en : GEntry) :
    State × Option GEntry :=
  let d := en.dir
  let n := en.seq
  let s := s.countMiss p q.cls k tier
  let s := (if k = .noSpace then s.forcePressure p else s).promoteC p miss
  let pol := s.policyOf p q.cls
  let wait := (s.stall d n (k == .noSpace), none)
  let tokens := ((q.spans.filter fun x => x.refs.any miss.contains).map (·.valid)).sum
  match pol, k with
  | 1, .late => if s.recomputeNs p q.cls * tokens < est && s.recomputeNs p q.cls != 0 then (s.recompute d n miss, none) else wait
  | 1, .failed => (s.recompute d n miss, none)
  | 3, _ =>
    (match s.truncate p q en with
     | some e => (s, some e)
     | none => wait)
  | _, .failed => (s.endWork p d n .tierFailed, none)
  | _, _ => wait

/-- A demand promotion in class B: it starts, or a promotion under way in another class becomes one (Table 3.6). -/
def State.demand (s : State) (p i : Nat) : State :=
  match s.folio? i with
  | none => s
  | some f =>
    if f.promoting then
      if f.moveCls == .b then s else ((s.setFolio i { f with moveCls := .b }).reclass (.folio i) .b).addDemand p f.tier Config.folioBytes
    else if f.pin ≥ maxPins then s
    else (s.startPromotion i .b).addDemand p f.tier Config.folioBytes

/-- The bindery is asked for an entry's folios: they stand in T1, or are promoted in class B, or a miss applies. A folio that
HBM has lost is recomputed first (Table 16.5). An entry that fails the check of R67 is reported, and its verb ends. -/
def State.ask (s : State) (p : Nat) (en : GEntry) : State × Option GEntry :=
  match s.seq? en.dir en.seq with
  | none => (s, none)
  | some q =>
    let own := en.replaces q
    let miss := (s.outside (readSpans q en)).filter fun i => !own.contains i
    let lost := ((readSpans q en).flatMap Span.refs).filter fun i =>
      !own.contains i && (match s.folio? i with | some f => f.lost | none => false)
    if s.badEntry p (readSpans q en) then ((s.pteFault p en.dir en.seq).endWork p en.dir en.seq .tierFailed, none)
    else if !lost.isEmpty then
      (if s.policyOf p q.cls = 1 then s.recompute en.dir en.seq lost else s.endWork p en.dir en.seq .tierFailed, none)
    else if miss.isEmpty then (s, some { en with asked := true })
    else
      let (est, tier) := s.landing p miss
      let late := match s.deadline p en.dir q with
        | some d => decide (s.now + est + s.marginNs p q.cls > d)
        | none => false
      let todo := miss.filter fun i => match s.folio? i with | some f => !f.promoting | none => false
      if late then s.miss p q .late tier est miss en
      else if !s.t1Room p todo.length then
        if s.objectMode p then (s.endWork p en.dir en.seq .noCapacity, none) else s.miss p q .noSpace 1 est miss en
      else
        (miss.foldl (fun t i => t.demand p i) s, some { en with asked := true })

/-- Every entry that has not been asked for is. -/
def State.askAll (s : State) (p : Nat) : List GEntry → State × List GEntry
  | [] => (s, [])
  | en :: r =>
    let (t, e) := if en.asked then (s, some en) else s.ask p en
    let (t, l) := t.askAll p r
    (t, (match e with | some e => [e] | none => []) ++ l)

/-! ## Slots, copies and allocations (R82, R132, R312) -/

/-- KV folios of one new span, one for each group of layers. -/
def State.allocKv (s : State) (p h layersPer : Nat) : Nat → List Pte → Option (List Pte × State)
  | 0, acc => some (acc, s)
  | k + 1, acc =>
    if !s.t1Room p 1 then none
    else
      match s.allocFolio p .kv (s.kvFmt p) (k * layersPer) h with
      | none => none
      | some (i, t) =>
        t.allocKv p h layersPer k
          ({ posBase := 0, valid := 0, layer := k * layersPer, refKind := 1,
             dgen := (match t.folio? i with | some f => f.gen | none => 0), ref := i } :: acc)

/-- Copies of the shared folios of a span; those that recompute work replaces are not copied: they are replaced for every sequence
that references them (R89). -/
def State.cowEntries (s : State) (p h : Nat) (replaced : List Nat) : List Pte → List Pte → Option (List Pte × State)
  | [], acc => some (acc.reverse, s)
  | e :: r, acc =>
    match s.folio? e.ref with
    | none => s.cowEntries p h replaced r (e :: acc)
    | some f =>
      if f.refcnt ≤ 1 || replaced.contains e.ref then s.cowEntries p h replaced r (e :: acc)
      else if !s.t1Room p 1 then none
      else
        match s.copyFolio e.ref h with
        | none => none
        | some (k, t) =>
          (t.dropRef e.ref).cowEntries p h replaced r
            ({ e with ref := k, dgen := (match t.folio? k with | some g => g.gen | none => 0) } :: acc)

/-- A recomputed folio replaces the missing one in place: it stands in T1 (R89). -/
def State.landRecomputed (s : State) (p i : Nat) : Option State :=
  match s.folio? i with
  | none => some s
  | some f =>
    if f.tier = 1 then some (s.setFolio i { f with lost := false })
    else if f.promoting then
      some ((((s.setFolio i { f with tier := 1, loc := 0, promoting := false }).freeTier p f.tier f.loc)).unpin i)
    else if !s.t1Room p 1 then none
    else
      some (((s.setFolio i { f with tier := 1, loc := 0 }).freeTier p f.tier f.loc).modFolPart p fun x =>
        { x with t1Use := x.t1Use + 1 })

def State.landAll (s : State) (p : Nat) : List Nat → Option State
  | [] => some s
  | i :: r => match s.landRecomputed p i with | some t => t.landAll p r | none => none

/-- One span that the step writes: new folios, copies of shared ones, and for those that recompute work replaces a place in T1. -/
def State.ensureSpan (s : State) (p d n : Nat) (replaced : List Nat) (i : Nat) : Option State :=
  match s.seq? d n, s.session? d with
  | some q, some x =>
    let sp := q.spans.getD i {}
    let put := fun (t : State) l => t.modSeq d n fun q => { q with spans := q.spans.set i { sp with entries := l } }
    if sp.entries.isEmpty then
      if !s.ptRoom p (s.foliosPerSpan p) then none
      else
        match s.allocKv p x.handle (s.layersPer p) (s.foliosPerSpan p) [] with
        | some (l, t) => some (put (t.addPt p l.length) l)
        | none => none
    else
      match s.landAll p (sp.refs.filter replaced.contains) with
      | none => none
      | some t => (match t.cowEntries p x.handle replaced sp.entries [] with | some (l, t) => some (put t l) | none => none)
  | _, _ => none

def State.ensureSpans (s : State) (p d n : Nat) (replaced : List Nat) : List Nat → Option State
  | [] => some s
  | i :: r => match s.ensureSpan p d n replaced i with | some t => t.ensureSpans p d n replaced r | none => none

/-- The span and slot of an entry's first token, and how many places it needs, its tree included. -/
def State.firstPlace (s : State) (p : Nat) (q : Seq) (en : GEntry) : Nat × Nat × Nat :=
  let k := usedSpans q.spans
  let last := (k - 1, (q.spans.getD (k - 1) {}).ledger.length - 1)
  match en.span with
  | some i =>
    if en.kind = 2 then let w := (en.redo q).headD (i, 0); (w.1, w.2, en.qLen) else (i, (q.spans.getD i {}).ledger.length, en.qLen)
  | none =>
    if en.kind = 0 then (if k = 0 then (0, 0, en.depth) else (last.1, last.2, 1 + en.depth))
    else if en.old then (last.1, last.2, en.qLen)
    else let e := endPlace (s.tokensPer p) q.spans; (e.1, e.2, en.qLen)

/-- New empty spans for places beyond the last: at the end of the context, or right after an insertion's span. -/
def widen (t i0 k0 cnt : Nat) (ins : Bool) (spans : List Span) : List Span × Nat :=
  let mk := fun (p : Nat) (pure : Bool) => ({ pos := p, pure := pure } : Span)
  let spans := if i0 < spans.length then spans else spans ++ [mk (nextPosOf spans) (spans.all fun x => x.pure)]
  let room := (t - k0) + (if ins then 0 else t * (spans.length - i0 - 1))
  let m := ceilDiv (cnt - room) t
  let base := (spans.getD i0 {}).pos
  let pure := !ins && spans.all fun x => x.pure
  let at_ := if ins then i0 + 1 else spans.length
  let new := (List.range m).map fun j => mk (base + t * (at_ + j - i0)) pure
  let all := spans.take at_ ++ new ++ spans.drop at_
  ((enum all).map fun e => if !ins && e.1 > i0 && e.2.ledger.isEmpty then { e.2 with pos := base + t * (e.1 - i0) } else e.2, m)

/-- Later insertions of the same SPLICE stand `m` spans further on. -/
def State.shiftRuns (s : State) (p d n i0 m : Nat) : State :=
  if m = 0 then s
  else
    let up := fun (x : Option Nat) => x.map fun k => if k > i0 then k + m else k
    match s.seq? d n with
    | none => s
    | some q =>
      let t := s.modSeq d n fun q => { q with pending := q.pending.map fun r => { r with span := up r.span } }
      match q.absorbing with
      | some vid => t.modVerb p vid fun v => { v with pieces := v.pieces.map fun x => { x with before := up x.before } }
      | none => t

/-- The tokens that an entry brings. A context without a token brings one that no rule names. -/
def State.entryTokens (s : State) (q : Seq) (en : GEntry) (size : Nat) : List Nat :=
  if en.kind = 0 then
    (match q.ledger.getLast? with
     | some t => t
     | none => (Config.freeByte s.free).toNat % max 1 size) :: en.tree.map (·.token)
  else (segment q.pending).take en.qLen

/-- R132 for one entry: its slots, copies and allocations; none: one of them cannot be made. -/
def State.prepWith (s : State) (p : Nat) (en : GEntry) : Option (State × GEntry) :=
  match s.seq? en.dir en.seq with
  | none => none
  | some q =>
    let t := s.tokensPer p
    let en := if en.kind = 0 then { en with old := q.root.isNone, qLen := 1 + en.tree.length } else en
    let (i0, k0, cnt) := s.firstPlace p q en
    let ins := en.kind == 1 && en.span.isSome
    let (spans, m) := if en.kind = 2 then (q.spans, 0) else widen t i0 k0 cnt ins q.spans
    match s.reservePt en.dir m with
    | none => none
    | some u =>
      let u := (u.modSeq en.dir en.seq fun q => { q with spans := spans }).shiftRuns p en.dir en.seq i0 m
      let from_ := if en.kind = 0 && en.old && usedSpans q.spans != 0 then k0 + 1 else k0
      let upto := k0 + cnt
      let touched := if en.kind = 2 then ((en.redo q).map (·.1)).eraseDups else if upto ≤ from_ then [] else
        (List.range ((upto - 1) / t + 1 - from_ / t)).map fun j => i0 + from_ / t + j
      match u.ensureSpans p en.dir en.seq (en.replaces q) touched with
      | none => none
      | some u =>
        match u.seq? en.dir en.seq with
        | none => none
        | some q' =>
          let kv := ((q'.spans.take i0).map (·.valid)).sum + k0
          let pre := match s.program? p with | some g => g.biPrefix | none => 0
          let refs := ((readSpans q' en).flatMap Span.refs ++ touched.flatMap fun i => (q'.spans.getD i {}).refs).eraseDups
          let free := if en.kind = 0 && q.ledger.isEmpty then 1 else 0
          some ({ u with free := u.free + free },
            { en with slot0 := (i0, k0), added := if ins then m else 0, kvLen := kv, pos := (q'.spans.getD i0 {}).pos + k0,
                      prefixLen := if kv = 0 && en.kind = 1 then min pre en.qLen else 0,
                      tokens := u.entryTokens q' en (s.vocab p).size, pins := refs, units := s.workUnits p en.qLen })

/-- R132 with the outcomes that it names: the entry stays, stays without its tree, waits, or leaves with NO_CAPACITY. -/
def State.prep (s : State) (p : Nat) (en : GEntry) : State × Option GEntry :=
  match s.prepWith p en with
  | some (t, e) => (t, some e)
  | none =>
    match s.seq? en.dir en.seq with
    | none => (s, none)
    | some q =>
      let bare := { en with tree := [], qLen := 1 }
      match if en.tree.isEmpty || s.objectMode p then none else s.prepWith p bare with
      | some (t, e) =>
        if s.policyOf p q.cls = 2 then
          (((t.countMiss p q.cls .noSpace 1).forcePressure p).modSeq en.dir en.seq fun q => { q with tree := [] },
           some { e with cheaper := max 2 e.cheaper })
        else
          let t := ((s.countMiss p q.cls .noSpace 1).forcePressure p).modSeq en.dir en.seq fun q =>
            { q with stalled := true, waitsRoom := true }
          (t, none)
      | none => (s.endWork p en.dir en.seq .noCapacity, none)

/-- The entries in length-table order. -/
def State.prepAll (s : State) (p : Nat) : List GEntry → State × List GEntry
  | [] => (s, [])
  | en :: r =>
    let (t, e) := s.prep p en
    let (t, l) := t.prepAll p r
    (t, (match e with | some e => [e] | none => []) ++ l)

/-- Places of the token array (R97). -/
def placeEntries : List GEntry → Nat → List GEntry
  | [], _ => []
  | e :: r, off => { e with qOffset := off } :: placeEntries r (off + e.qLen)

/-- An entry as the boundary leaves it: removed if its sequence goes on no longer, cut to what is pending, its tree the one
that the sequence's step proposed, or none (R98, R102). -/
def State.finalise (s : State) (en : GEntry) : Option GEntry :=
  match s.seq? en.dir en.seq with
  | none => none
  | some q =>
    if !q.hasWork || (en.kind == 0) == q.feeds then none
    else if en.kind = 0 then
      some (if q.tree.length + 1 = en.qLen then { en with tree := q.tree } else { en with tree := [], qLen := 1 })
    else
      let n := min en.qLen (segment q.pending).length
      if n = 0 then none else some (({ en with qLen := n } : GEntry).tipIn (q.pending.headD { tokens := [] }))

/-! ## Copy-before-write for a running checkpoint (R312) -/

/-- Staging places of a partition in folios. -/
def State.stagePlaces (s : State) (p : Nat) : Nat :=
  match (s.partImage p).links.group with
  | some g => g.stageMib * 16
  | none => 0

/-- Folios of the entries' written spans that the running checkpoint has not copied. -/
def State.uncopied (s : State) (p : Nat) (l : List GEntry) : List Nat :=
  if (s.ckpOf p).phase != 2 then []
  else
    (l.flatMap fun en => match s.seq? en.dir en.seq with
      | some q => ((s.placesOf p q en (en.slotCount + en.depth)).map (·.1)).eraseDups.flatMap fun i => (q.spans.getD i {}).refs
      | none => []).eraseDups.filter fun i => match s.folio? i with | some f => !f.copied | none => false

/-- The copies are staged and marked. -/
def State.stage (s : State) (p : Nat) (l : List Nat) : State :=
  let t := l.foldl (fun t i => (t.modFolio i fun f => { f with copied := true }).count .ckpCbwCopies p) s
  let ns := match (s.ckpOf p).stallSince with | some t0 => s.now - t0 | none => 0
  (t.modCkp p fun x => { x with staged := x.staged + l.length, stallSince := none }).count .ckpCbwStallNs p ns

/-! ## Release (R98, R144, R186, R216) -/

/-- Charges of the entries, each queue the sum of its lengths; a charge that stands from a rolled-back step is not made
again (R216, R336). -/
def State.chargeEntries (s : State) (p : Nat) (l : List GEntry) : State :=
  let due := l.filter fun e => !(s.spnOf p).paid.contains (e.dir, e.seq)
  let t := ((due.map (·.queue)).eraseDups).foldl (fun t q =>
    t.charge (.step p) q ((due.filter fun e => e.queue == q).map (·.units)).sum (t.stepWork p)) s
  (t.modSpn p fun x => { x with paid := x.paid.filter fun y => !l.any fun e => (e.dir, e.seq) == y }).dropIdle (.step p)
    ((List.range 8).filter fun k => (t.stepWork p).any fun q => t.privOf q == some k)

/-- Tokens on the path from the root to a node. -/
def pathTokens (tree : List TreeNode) : Nat → Nat → List Nat
  | 0, _ => []
  | k + 1, node =>
    if node = 0 then []
    else
      let x := tree.getD (node - 1) { token := 0, parent := 0, depth := 0 }
      pathTokens tree k x.parent ++ [x.token]

/-- State and stack of the grammar at a node; none: its path is rejected. -/
def State.nodeGrammar (s : State) (p : Nat) (en : GEntry) (node : Nat) : Option (GrammarImage × Nat × List Nat) :=
  match s.seq? en.dir en.seq with
  | none => none
  | some q =>
    match s.grammarOf p q.grammar with
    | none => none
    | some g =>
      match walkPath g (s.vocab p) (pathTokens en.tree 8 node) q.gState q.gStack with
      | some (a, b) => some (g, a, b)
      | none => none

/-- The positions of an entry that get a mask. -/
def State.maskNodes (s : State) (p : Nat) (en : GEntry) : List Nat :=
  if en.kind = 0 then (List.range en.qLen).filter fun k => (s.nodeGrammar p en k).isSome else []

/-- Every engine of the partition takes its stream of the program's set for its engine count (R144, Table 7.3). -/
def State.startEngines (s : State) (p : Nat) (g : Gather) : State :=
  let es := s.enginesOf p
  let set := match s.program? p with
    | some prog => (match prog.sets.find? (fun (x : CmdSet) => x.engines == es.length) with | some x => x.streams | none => [])
    | none => []
  (enum es).foldl (fun t e =>
    let t := t.modEng e.2 fun x =>
      let saved := match tget x.slots 0 with | some y => y.saved | none => []
      { x with slots := tput x.slots 0 { newCtx (some g) e.1 (set.getD e.1 {}) s.now with saved := saved } }
    let x := t.engOf e.2
    let idle := match tget x.slots x.running with | some y => !y.ready | none => true
    if x.running != 0 && x.switching.isNone && idle then t.choose p e.2 else t) s

/-- A member's consistency point is due: T_C has come, no step runs and no session is DRAINING for a hand-off (R309). -/
def State.pointDue (s : State) (p : Nat) : Bool :=
  let k := s.ckpOf p
  k.phase == 1 && s.now ≥ k.tc && (s.spnOf p).cur.isNone &&
  !(s.dir.sessions.any fun e => e.2.part == p && e.2.send.isSome && e.2.seqs.any fun q => q.2.state == .draining)

/-- GATHERING_RELEASE: an attempt; it releases once every folio that the gathering reads is in T1 and can be pinned (R79); the step's
working set is staged in T0 (Table 3.6). DEDUCED, log entry 16. -/
def doGatheringRelease (p : Nat) (s : State) : State :=
  match (s.spnOf p).next with
  | none => s
  | some g =>
    if !s.steps p || (s.vf p).tdi != .run || (s.spnOf p).cur.isSome || (s.ckpOf p).sectionsFrozen || s.pointDue p then s
    else
      let (t, l) := s.askAll p (g.entries.filterMap s.finalise)
      let keep := fun (t : State) l => t.modSpn p fun x => { x with next := some { g with entries := l } }
      let waits := l.any fun en => match t.seq? en.dir en.seq with
        | some q => (t.outside (readSpans q en)).any fun i => !(en.replaces q).contains i
        | none => false
      if waits then keep t l
      else
        let (u, l') := t.prepAll p l
        let cbw := u.uncopied p l'
        if !u.pinRoom (l'.flatMap (·.pins)) then keep t l
        else if (u.ckpOf p).staged + cbw.length > u.stagePlaces p && !cbw.isEmpty then
          keep (t.modCkp p fun x => { x with stallSince := some (x.stallSince.getD s.now) }) l
        else if l'.isEmpty then
          g.hitVerbs.foldl (fun t v => t.completeHit p v) (u.modSpn p fun x => { x with next := none })
        else
          let u := u.stage p cbw
          let l' := (placeEntries l' 0).map fun en => { en with maskWait := u.maskNodes p en }
          let cfg := u.reg .folHeatCfg p
          let u := l'.foldl (fun t en => (t.pins en.pins).stageIn en.pins) u
          let read := ((l'.flatMap (·.pins)).eraseDups).length * Config.folioBytes
          let u := if read = 0 then u else u.carry [(.buf, read)] .b (.step p)
          let u := ((l'.flatMap (·.pins)).eraseDups).foldl (fun t i => t.modFolio i fun f => heated cfg f s.now) u
          let u := u.chargeEntries p l'
          let g' : Gather := { entries := l', releasedAt := s.now, hitVerbs := g.hitVerbs }
          (u.modSpn p fun x => { x with cur := some g', next := none, treeKv := [] }).startEngines p g'

/-! ## Masks (R184, R186) -/

/-- MASK_READY: the mask of one position is written, and a sampling task that waits for it may go on. -/
def doMaskReady (p entry node : Nat) (s : State) : State :=
  match (s.spnOf p).cur with
  | none => s
  | some g =>
    match g.entries[entry]? with
    | none => s
    | some en =>
      if !s.live || !en.maskWait.contains node then s
      else
        match s.nodeGrammar p en node, s.seq? en.dir en.seq with
        | some (im, st, stk), some q =>
          let m := txtMask im (s.vocab p) st stk
          ((s.modEntry p 0 entry fun en =>
            { en with masks := en.masks ++ [(node, bitmapOf (s.vocab p).size m)], maskWait := en.maskWait.filter (· != node) }).count .txtMasks
              p).bitmapRead p q.grammar im st
        | _, _ => s.modEntry p 0 entry fun en => { en with maskWait := en.maskWait.filter (· != node) }

/-! ## The commands of this file -/

/-- SELECTION (R95). -/
def execSelection (p : Nat) (s : State) : Host.Outcome State Fault Refusal :=
  .next (doSelection p s)

/-- GATHERING_RELEASE (R98). -/
def execGatheringRelease (p : Nat) (s : State) : Host.Outcome State Fault Refusal :=
  .next (doGatheringRelease p s)

/-- MASK_READY (R186). -/
def execMaskReady (p entry node : Nat) (s : State) : Host.Outcome State Fault Refusal :=
  .next (doMaskReady p entry node s)

end Machine
end Sys2Proof
end

