-- ==== Sys2Proof/Machine/Requests.lean ====
section
/-!
DEFINITION. Sys2Proof/Machine/Requests.lean: request frames at their target (R250 to R252, R264, R265): grants, the
duplicate window, reads and writes of an HBM share, and compare-and-swap on ownership records (R275, R276).
-/
namespace Sys2Proof
namespace Machine

/-! ## Exchange regions (R265, R273) -/

/-- First bytes of a region: its record area. -/
def recordArea : Nat := 65536
/-- Size of a region. -/
def regionSize (r : XRegion) : Nat := recordArea + r.records * r.slotBytes
def recordAt (r : XRegion) (i : Nat) : Nat := r.base + 16 * i
def slotAt (r : XRegion) (i : Nat) : Nat := r.base + recordArea + i * r.slotBytes
/-- A region by its number. -/
def State.region? (s : State) (n : Nat) : Option XRegion := s.fabSec.regions.find? fun r => r.num == n
/-- The region of this device's partition p in which an offset lies. -/
def State.regionAt (s : State) (p off : Nat) : Option XRegion :=
  s.fabSec.regions.find? fun r => r.dev == s.fab.devId && r.part == p && r.base ≤ off && off < r.base + regionSize r

/-! ## The ownership record (Table 13.3) -/

/-- An ownership record. Owner and target are (device ID, partition). -/
structure ORec where
  state : Nat := 0
  epoch : Nat := 0
  owner : Nat × Nat := (0, 0)
  target : Nat × Nat := (0, 0)
  deadline : Nat := 0
  deriving DecidableEq, Repr, Inhabited

/-- Device ID in [15:4], partition in [3:0] of an OWNER or TARGET field. -/
def pairOf (n : Nat) : Nat × Nat := (n / 16 % 4096, n % 16)
def pairNat (x : Nat × Nat) : Nat := x.1 * 16 + x.2

/-- The record that 128 bits spell. -/
def orecOf (v : Nat) : ORec :=
  { state := v / 2 ^ 126 % 4, epoch := v / 2 ^ 96 % 2 ^ 24, owner := pairOf (v / 2 ^ 80 % 65536),
    target := pairOf (v / 2 ^ 64 % 65536), deadline := v % 2 ^ 64 }

/-- The 128 bits of a record. -/
def orecNat (r : ORec) : Nat :=
  r.state * 2 ^ 126 + r.epoch * 2 ^ 96 + pairNat r.owner * 2 ^ 80 + pairNat r.target * 2 ^ 64 + r.deadline

/-- The fields follow Table 13.3. -/
def orecOk (v : Nat) : Bool :=
  let r := orecOf v
  v < 2 ^ 128 && v / 2 ^ 120 % 64 = 0 && r.state != 3 &&
  (r.state = 2 || (r.target == (0, 0) && r.deadline = 0)) && (r.state != 0 || r.owner == (0, 0))

/-- The next epoch. -/
def nextEpoch (e : Nat) : Nat := (e + 1) % 2 ^ 24

/-- Table 13.4: the transition is one that `src` may make at the host's time `now`. -/
def recordMove (now : Nat) (src : Nat × Nat) (a b : Nat) : Bool :=
  let x := orecOf a
  let y := orecOf b
  orecOk a && orecOk b &&
  (match x.state, y.state with
   | 0, 1 => y.owner == src && y.epoch == nextEpoch x.epoch
   | 1, 2 => x.owner == src && y.owner == x.owner && y.epoch == nextEpoch x.epoch &&
             decide (y.deadline ≥ now + 10000) && decide (y.deadline ≤ now + 1000000000)
   | 2, 1 => (y.owner == x.target && y.epoch == x.epoch && src == x.target) ||
             (y.owner == x.owner && y.epoch == nextEpoch x.epoch && src == x.owner)
   | 1, 0 => x.owner == src && y.epoch == x.epoch
   | _, _ => false)

/-! ## Grants (R264) -/

/-- The right that a request type needs. -/
def grantGives (type : Nat) (g : Grant) : Bool :=
  if type = tyReadReq then g.r else if type = tyWriteReq then g.w else if type = tyCasReq then g.a else false

/-- One grant of the target partition covers the whole range with the right needed. -/
def State.granted (s : State) (f : Frame) (n : Nat) : Bool :=
  (s.partImage f.dst.2).links.grants.any fun g =>
    g.dev == f.src.1 && g.part == f.src.2 && g.base ≤ f.offset && f.offset + n ≤ g.base + g.size && grantGives f.type g

/-- What R265 lets a request reach in an exchange region: records by CAS, and by a read that starts at one of them and ends in the
record area, since LEN counts 64-byte units; nothing else of the record area. DESIGN CHOICE, log entry 19. -/
def State.regionOk (s : State) (f : Frame) (n : Nat) : Bool :=
  match s.regionAt f.dst.2 f.offset with
  | none => f.type != tyCasReq
  | some r =>
    let rel := f.offset - r.base
    if f.type = tyCasReq then rel % 16 = 0 && rel < 16 * r.records
    else if rel ≥ recordArea then rel + n ≤ regionSize r
    else f.type = tyReadReq && rel < 16 * r.records && rel + n ≤ recordArea

/-- Bytes of a request's range. -/
def rangeBytes (f : Frame) : Nat :=
  if f.type = tyReadReq then 64 * f.len else if f.type = tyCasReq then 16 else f.payload.length

/-- The range holds a line that HBM does not deliver (R72). -/
def State.poisoned (s : State) (f : Frame) : Bool :=
  (s.spnOf f.dst.2).poison.any fun o => o < f.offset + rangeBytes f && f.offset < o + 64

/-- The store of CAS results holds as many as it keeps and has no room for one more. -/
def State.casBusy (s : State) (f : Frame) : Bool :=
  f.type == tyCasReq && s.fab.casStore.length ≥ 4096 && Config.casFull f.src.1 f.e2eSeq

/-- What Table 12.6 says of a request that arrives now, duplicates apart. `exempt`: the reset fence lets it pass (R277). -/
def State.requestError (s : State) (f : Frame) (exempt : Bool) : FabErr :=
  if (s.partImage? f.dst.2).isNone then .access
  else if s.partFenced f.dst.2 && !exempt then .fenced
  else if s.granted f (rangeBytes f) && s.regionOk f (rangeBytes f) then .none
  else .access

/-- What Table 12.6 says of a request that is applied now: its line, for a request that reads, and the room for its result. -/
def State.applyError (s : State) (f : Frame) : FabErr :=
  if f.type != tyWriteReq && s.poisoned f then .poison else if s.casBusy f then .busy else .none

/-! ## The duplicate window (R252) -/

/-- Width of the window. -/
def windowSize : Nat := 8192
/-- Results of compare-and-swap that are kept. -/
def casKept : Nat := 4096

/-- Sequence number n is older than the window. -/
def DupWindow.stale (w : DupWindow) (n : Nat) : Bool :=
  w.started && !newer32 n w.high && (w.high + two32 - n % two32) % two32 ≥ windowSize
/-- n stands marked in the window. -/
def DupWindow.dup (w : DupWindow) (n : Nat) : Bool := w.marked.contains n
/-- n has arrived. -/
def DupWindow.see (w : DupWindow) (n : Nat) : DupWindow :=
  if !w.started || newer32 n w.high then
    { started := true, high := n, marked := w.marked.filter fun m => (n + two32 - m % two32) % two32 < windowSize }
  else w
/-- n has been applied. -/
def DupWindow.mark (w : DupWindow) (n : Nat) : DupWindow := { w with marked := w.marked ++ [n] }

def State.window (s : State) (dev : Nat) : DupWindow := tgetD s.fab.windows dev {}
def State.setWindow (s : State) (dev : Nat) (w : DupWindow) : State :=
  { s with fab := { s.fab with windows := tput s.fab.windows dev w } }

/-- What is to be done with a request frame. -/
inductive Judged where
  | apply
  | again
  | refuse (e : FabErr)
  deriving DecidableEq, Repr, Inhabited

/-- A request frame is judged as it arrives: window, fence, grants, and, where it is not a duplicate, what Table 12.6 says of its
application. One that is applied is marked. DESIGN CHOICE, log entry 19. -/
def State.judge (s : State) (f : Frame) (exempt : Bool) : Judged × State :=
  let w := s.window f.src.1
  if w.stale f.e2eSeq then (.refuse .stale, s)
  else
    let w' := w.see f.e2eSeq
    let t := if w.dup f.e2eSeq then (s.setWindow f.src.1 w').count .fabDup else s.setWindow f.src.1 w'
    match s.requestError f exempt with
    | .none =>
      if w.dup f.e2eSeq then (.again, t)
      else
        (match s.applyError f with
         | .none => (.apply, s.setWindow f.src.1 (w'.mark f.e2eSeq))
         | e => (.refuse e, t))
    | e => (.refuse e, t)

/-- The same frame, whenever it arrived. -/
def sameFrame (f g : Frame) : Bool := { g with arrived := f.arrived } == f

/-- The frame stands first of the compare-and-swaps that wait at its location (R251); any other frame has no such order. -/
def State.inTurn (s : State) (f : Frame) : Bool :=
  f.type != tyCasReq ||
    (match s.fab.inbox.find? fun g => g.type == tyCasReq && g.dst == f.dst && g.offset == f.offset with
     | some g => sameFrame f g
     | none => false)

/-- A frame that waits for this device is taken. -/
def State.takeInbox (s : State) (f : Frame) : Option State :=
  if s.live && s.fab.inbox.any (sameFrame f) && s.inTurn f then
    some { s with fab := { s.fab with inbox := eraseFirst (sameFrame f) s.fab.inbox } }
  else none

/-- The request is answered with ERROR_RSP. -/
def State.refuseFrame (s : State) (f : Frame) (e : FabErr) : State := s.respond f tyErrorRsp [] (fabErrCode e)

/-! ## READ_REQ, WRITE_REQ, CAS_REQ -/

/-- The target's bytes are read and sent. -/
def State.answerRead (s : State) (f : Frame) : State :=
  s.respond f tyReadRsp (mreads (s.spnOf f.dst.2).hbm f.offset (64 * f.len)) 0

/-- READ_REQ. One that is marked is read again (R252). -/
def doReadReq (f : Frame) (s : State) : State :=
  match s.takeInbox f with
  | none => s
  | some t =>
    if f.type != tyReadReq then s
    else
      match t.judge f false with
      | (.refuse e, t) => t.refuseFrame f e
      | (_, t) => if t.poisoned f then t.refuseFrame f .poison else t.answerRead f

/-- A write into a quire slot by anyone but the send that filled it: the slot no longer holds what was sealed there. -/
def State.touchSlots (s : State) (f : Frame) : State :=
  match s.regionAt f.dst.2 f.offset with
  | none => s
  | some r =>
    if f.offset - r.base < recordArea || r.slotBytes = 0 then s
    else
      let k := 4096 * r.num + (f.offset - r.base - recordArea) / r.slotBytes
      let own := f.src.1 = s.fab.devId && s.fab.requests.any fun x =>
        x.tag == f.tag && (match x.asker with | .send _ => true | _ => false)
      if own then s else { s with ho := { s.ho with slots := tdel s.ho.slots k } }

/-- WRITE_REQ: written once, then acknowledged (R250). -/
def doWriteReq (f : Frame) (s : State) : State :=
  match s.takeInbox f with
  | none => s
  | some t =>
    if f.type != tyWriteReq then s
    else
      match t.judge f false with
      | (.refuse e, t) => t.refuseFrame f e
      | (.again, t) => t.respond f tyWriteAck [] 0
      | (.apply, t) =>
        let t := t.touchSlots f
        (t.modSpn f.dst.2 fun x => { x with
          hbm := mwrites x.hbm f.offset f.payload,
          poison := rewritten f.offset f.payload.length x.poison }).respond f tyWriteAck [] 0

/-- The result of a compare-and-swap is kept; the oldest makes room. -/
def State.keepCas (s : State) (f : Frame) (found : Nat) (done : Bool) : State :=
  let l := s.fab.casStore ++ [(f.src.1, f.e2eSeq, found, done)]
  { s with fab := { s.fab with casStore := l.drop (l.length - casKept) } }

/-- The value found is answered; bit 0 of ERROR says that the swap took place. -/
def State.answerCas (s : State) (f : Frame) (found : Nat) (done : Bool) : State :=
  s.respond f tyCasRsp (natLe 16 found) done.toNat

/-- Compare and swap values of a CAS_REQ. -/
def casCompare (f : Frame) : Nat := leNat (sub f.payload 0 16)
def casSwap (f : Frame) : Nat := leNat (sub f.payload 16 16)

/-- The CAS is a reclaim by the region's own partition (R277). -/
def ownReclaim (s : State) (f : Frame) : Bool :=
  let x := orecOf (casCompare f)
  let y := orecOf (casSwap f)
  f.src == (s.fab.devId, f.dst.2) && x.state = 2 && y.state = 1 && y.owner == x.owner && y.epoch == nextEpoch x.epoch

/-- CAS_REQ: the transition is checked (R276), then the 16 bytes are compared and swapped in one operation (R251). -/
def doCasReq (f : Frame) (s : State) : State :=
  match s.takeInbox f with
  | none => s
  | some t =>
    if f.type != tyCasReq then s
    else
      match t.judge f (ownReclaim s f) with
      | (.refuse e, t) => t.refuseFrame f e
      | (.again, t) =>
        (match t.fab.casStore.find? (fun e => e.1 == f.src.1 && e.2.1 == f.e2eSeq) with
         | some (_, _, found, done) => t.answerCas f found done
         | none => t.refuseFrame f .stale)
      | (.apply, t) =>
        let p := f.dst.2
        let found := leNat (mreads (t.spnOf p).hbm f.offset 16)
        if !recordMove t.now f.src (casCompare f) (casSwap f) then
          ((t.countSat .folXchRefused p).keepCas f found false).answerCas f found false
        else if found = casCompare f then
          let t := t.modSpn p fun x => { x with hbm := mwrites x.hbm f.offset (natLe 16 (casSwap f)) }
          (t.keepCas f found true).answerCas f found true
        else (t.keepCas f found false).answerCas f found false

/-! ## The commands of this file -/

/-- READ_REQ (R250). -/
def execReadReq (f : Frame) (s : State) : Host.Outcome State Fault Refusal :=
  .next (doReadReq f s)

/-- WRITE_REQ (R250). -/
def execWriteReq (f : Frame) (s : State) : Host.Outcome State Fault Refusal :=
  .next (doWriteReq f s)

/-- CAS_REQ (R251). -/
def execCasReq (f : Frame) (s : State) : Host.Outcome State Fault Refusal :=
  .next (doCasReq f s)

end Machine
end Sys2Proof
end

