-- ==== Sys2Proof/Machine/Handoff.lean ====
section
/-!
DEFINITION. Sys2Proof/Machine/Handoff.lean: quire hand-off between partitions (chapter 13): slots, sending, polling and
reclaiming, claiming and landing. A hand-off is a machine of phases that goes on as its requests are answered.
-/
namespace Sys2Proof

namespace Config
/-- FREE VALUE. What a quire slot holds that another device sealed, as a function of the bytes of its header: the spec
gives the sealed form (R274), whose opening by AES is not computed here. DEDUCED, log entry 22. -/
opaque slotContent : Bytes → Option Machine.Slot
end Config

namespace Machine

/-! ## Registers and slots (R273, R274, R285) -/

/-- POLL_US in ns; below 10 it acts as 10. -/
def State.pollNs (s : State) (p : Nat) : Nat := max 10 (bits (s.reg .folHandoffCfg p) 47 32) * 1000
def State.claimDefault (s : State) (p : Nat) : Nat := bits (s.reg .folHandoffCfg p) 31 0

/-- Bytes of a slot header for `n` folios, padded to a multiple of 65,536. -/
def headerBytes (n : Nat) : Nat := ceilDiv (256 + 32 * n) 65536 * 65536
/-- Bytes of a quire in a slot. -/
def slotUse (n : Nat) : Nat := headerBytes n + n * Config.folioBytes

def unpackPair (n : Nat) : Nat × Nat := (n % 4096, n / 4096 % 16)

/-- Magic and layout version of a slot header. -/
def slotMagic : Nat := 0x544F4C53
/-- Where the reserved bytes after the header tag lie. -/
def slotRsvAt : Nat := 0x90

/-- The slot header of a quire (Table 13.2), in a region of host `host`: the data key is wrapped under the hand-off wrap key, and the
header tag covers bytes 0x000 to 0x07F and the seal table (R274, Table 17.4). -/
def slotHeader (plk : Bytes) (host : Nat × Nat) (x : Slot) : Bytes :=
  let n := x.folios.length
  let kek := handoffKey plk host x.region x.record x.epoch x.target
  let fixed :=
    natLe 4 slotMagic ++ natLe 4 1 ++ natLe 4 (x.region % 256 + x.record % 4096 * 256) ++ natLe 4 (x.epoch % 2 ^ 24) ++
    natLe 2 (packPair x.sender) ++ natLe 2 (packPair x.target) ++ natLe 4 n ++ natLe 4 x.program ++
    natLe 4 (x.tokensPer % 65536 + x.layersPer * 65536) ++ natLe 4 (kvFmtCode x.fmt + 16 * x.object.toNat) ++
    natLe 4 x.poolEpoch ++ keyWrap kek (dataKey ((x.folios.head?.map (·.key)).getD 0)) ++ zeros 48
  let seals := x.folios.flatMap Sealed.record
  fit (headerBytes n) (fixed ++ (gcm kek (zeros 12) (fixed ++ seals) []).2 ++ zeros 112 ++ seals)

/-- Number of a slot among the slots this device knows. -/
def slotKey (region record : Nat) : Nat := 4096 * region + record

/-! ## Requests of a hand-off -/

/-- One record read, in the class of hand-offs (R225). -/
def State.askRecord (s : State) (who : Asker) (p : Nat) (r : XRegion) (i : Nat) : Nat × State :=
  s.startRequest who tyReadReq p .c (r.dev, r.part) (recordAt r i) 0 16 []

/-- One compare-and-swap. -/
def State.askCas (s : State) (who : Asker) (p : Nat) (r : XRegion) (i a b : Nat) : Nat × State :=
  s.startRequest who tyCasReq p .c (r.dev, r.part) (recordAt r i) 0 32 (natLe 16 a ++ natLe 16 b)

/-- Bytes written to or read from a slot, in class C (R278, R281). -/
def State.askSlot (s : State) (who : Asker) (type p : Nat) (r : XRegion) (i off len : Nat) (data : Bytes) : Nat × State :=
  s.startRequest who type p .c (r.dev, r.part) (slotAt r i + off) off len data

/-- The value that a CAS_RSP found, and whether the swap took place. -/
def casFound (r : Request) : Nat := leNat ((r.data.find? (fun e => e.1 == 0)).map (·.2) |>.getD [])
def casDone (r : Request) : Bool := (r.data.find? (fun e => e.1 == 1)).isSome
/-- The bytes that a read brought. -/
def readBytes (r : Request) : Bytes := (r.data.foldl (fun m e => mwrites m (2048 * e.1) e.2) [] |> fun m => mreads m 0 r.total)

/-- Answers after which a record operation is tried again (R277). DEDUCED, log entry 22. -/
def retryable (e : FabErr) : Bool := e == .fenced || e == .noRoute || e == .busy

/-! ## Sending (R278 to R280) -/

def State.modSend (s : State) (d : Nat) (f : SendOp → SendOp) : State := s.modSession d fun x => { x with send := x.send.map f }

/-- This sender's records of the hand-off. -/
def State.ownedRec (s : State) (p e : Nat) : Nat := orecNat { state := 1, epoch := e, owner := (s.fab.devId, p) }
def State.handoffRec (s : State) (p : Nat) (o : SendOp) : Nat :=
  orecNat { state := 2, epoch := nextEpoch o.epoch, owner := (s.fab.devId, p), target := (o.tdev, o.tpart),
            deadline := o.deadline }
def freeRec (e : Nat) : Nat := orecNat { epoch := e }

/-- The request that the hand-off now waits for. -/
def State.waitSend (s : State) (d : Nat) (f : SendOp → SendOp) (x : Nat × State) : State :=
  (fun (_ : State) => x.2.modSend d fun o => { f o with tag := x.1, retry := none }) s

/-- The quire as it goes into a slot under record epoch e: a resident session's page-table entries are rewritten as PARK
writes them (R68), a parked one keeps its own; every folio is sealed anew, with the slot's EPOCH as PARK_ID (Table 14.5). -/
def State.slotForm (s : State) (x : Session) (e : Nat) : State × Session × List Sealed :=
  match x.quire with
  | some q =>
    let (t, l) := s.sealAll e x.wrappedSdk (q.folios.map fun f => (0, f))
    (t, { x with send := none }, l)
  | none =>
    let pts := s.ptNeed x 0
    let order := x.kvFolios
    let key := x.sdk.getD x.wrappedSdk
    let y := ({ x with wrappedSdk := key } : Session).written (parkSpan order (1 + pts))
    let (t, l) := s.sealAll e key ((s.quireFolios x y pts).map fun f => (0, f))
    (t, { x with send := none, flyleaf := none, ptFolios := [], wrappedSdk := key,
                 seqs := tmap (fun _ y => { y with spans := y.spans.map (parkSpan order (1 + pts)), spine := none }) x.seqs }, l)

/-- Folios of the session's quire. -/
def State.quireCount (s : State) (x : Session) : Nat :=
  match x.quire with
  | some q => q.folios.length
  | none => 1 + s.ptNeed x 0 + x.kvFolios.length

/-- Step 3: every live sequence enters DRAINING; candidates are discarded (R48). -/
def State.drainSession (s : State) (d : Nat) : State :=
  match s.session? d with
  | none => s
  | some x =>
    let parked := x.quire.isSome
    s.modSeqs d fun q =>
      if q.state == .closed then q
      else { q with prev := if parked || q.state == .draining then q.prev else q.state, state := .draining, tree := [] }

/-- Each sequence returns to its state before DRAINING. A session that returns to PARKED past its TTL instant expires at
once (R280). -/
def State.undrainSession (s : State) (d : Nat) : State :=
  match s.session? d with
  | none => s
  | some x =>
    let parked := x.quire.isSome
    let t := s.modSeqs d fun q => if q.state == .draining then { q with state := if parked then .parked else q.prev } else q
    let i := (t.recOf d).ttlInstant
    if parked && i != two64 - 1 && t.now ≥ i && !t.ttlHeld d then t.expire d else t

/-- The hand-off is over: the verb completes, unless it has. A CLOSE that waits for this then acts. -/
def State.finishSend (s : State) (d : Nat) (st : Status) : State :=
  match s.session? d with
  | none => s
  | some x =>
    match x.send with
    | none => s
    | some o =>
      let p := x.part
      let t := s.modSession d fun x => { x with send := none }
      if o.done then t
      else if o.closing.isSome then t.complete p o.verb .cancelled
      else (t.undrainSession d).complete p o.verb st

/-- Step 4: header and folios are written in class C; a folio that cannot be read fails the sending (R278). -/
def State.writeSlot (s : State) (d : Nat) : State :=
  match s.session? d with
  | none => s
  | some x =>
    match x.send with
    | none => s
    | some o =>
      match s.region? o.region with
      | none => s
      | some r =>
        let p := x.part
        let (t, form, folios) := s.slotForm x (nextEpoch o.epoch)
        let slot : Slot :=
          { region := o.region, record := o.record, epoch := nextEpoch o.epoch, sender := (s.fab.devId, p),
            target := (o.tdev, o.tpart), program := (s.partImage p).prog.id, tokensPer := s.tokensPer p,
            layersPer := s.layersPer p, fmt := s.kvFmt p, object := s.objectMode p, poolEpoch := s.poolEpoch p,
            poolKcv := kcvOf (s.keysOf p).plk, session := form, folios := folios }
        let first := t.fab.nextTag
        let t := { t with ho := { t.ho with slots := tput t.ho.slots (slotKey o.region o.record) slot } }
        let hdr := slotHeader ((s.keysOf p).plk.getD []) (r.dev, r.part) slot
        let t := (t.askSlot (.send d) tyWriteReq p r o.record 0 hdr.length hdr).2
        let t := (enum folios).foldl (fun t e =>
          (t.askSlot (.send d) tyWriteReq p r o.record (hdr.length + e.1 * Config.folioBytes) Config.folioBytes
            e.2.bytes).2) t
        let failing := if folios.all Sealed.intact then o.failing else some (o.failing.getD .tierFailed)
        t.modSend d fun o => { o with phase := .writing, acksLeft := 1 + folios.length, tag := first, retry := none, failing := failing }

/-- The request that a phase of a hand-off makes: the record read or CAS, the header's zeros. -/
def State.sendAct (s : State) (d : Nat) (ph : SendPhase) : State :=
  match s.session? d with
  | none => s
  | some x =>
    match x.send with
    | none => s
    | some o =>
      match s.region? o.region with
      | none => s
      | some r =>
        let p := x.part
        let prev := (o.epoch + 2 ^ 24 - 1) % 2 ^ 24
        match ph with
        | .readRecord => s.waitSend d (fun o => { o with phase := .readRecord }) (s.askRecord (.send d) p r o.record)
        | .acquire => s.waitSend d (fun o => { o with phase := .acquire })
            (s.askCas (.send d) p r o.record (freeRec prev) (s.ownedRec p o.epoch))
        | .writing => s.writeSlot d
        | .sendCas =>
          let o := if o.failing.isSome then o else { o with deadline := s.now + o.claimUs * 1000 }
          s.waitSend d (fun y => { y with phase := .sendCas, deadline := o.deadline })
            (s.askCas (.send d) p r o.record (s.ownedRec p o.epoch) (s.handoffRec p o))
        | .sent => s.waitSend d (fun o => { o with phase := .sent, lastPoll := s.now })
            (s.askRecord (.send d) p r o.record)
        | .reclaim => s.waitSend d (fun o => { o with phase := .reclaim })
            (s.askCas (.send d) p r o.record (s.handoffRec p o) (s.ownedRec p (nextEpoch (nextEpoch o.epoch))))
        | .zeroHeader =>
          let n := headerBytes (s.quireCount x)
          let t := { s with ho := { s.ho with slots := tdel s.ho.slots (slotKey o.region o.record) } }
          t.waitSend d (fun o => { o with phase := .zeroHeader })
            (t.askSlot (.send d) tyWriteReq p r o.record 0 n (zeros n))
        | .release => s.waitSend d (fun o => { o with phase := .release })
            (s.askCas (.send d) p r o.record (s.ownedRec p o.epoch) (freeRec o.epoch))

/-- The sending fails (R278): the header is zeroed, the record released. -/
def State.failSend (s : State) (d : Nat) (st : Status) : State :=
  (s.modSend d fun o => { o with failing := some (o.failing.getD st) }).sendAct d .zeroHeader

/-- The record has been claimed (R279): in one instant the session is erased and its record freed. -/
def State.claimedSend (s : State) (d : Nat) : State :=
  match s.session? d with
  | none => s
  | some x =>
    match x.send with
    | none => s
    | some _ => (s.count .folHoClaimed x.part).endSession d

/-- A reclaim has succeeded: the states return, the notice is posted, the slot is cleared. -/
def State.reclaimed (s : State) (d : Nat) : State :=
  match s.session? d with
  | none => s
  | some x =>
    match x.send with
    | none => s
    | some o =>
      let t := (s.count .folHoReturned x.part).modSend d fun o =>
        { o with epoch := nextEpoch (nextEpoch o.epoch), done := true, failing := none }
      let t := if o.closing.isSome then t else (t.undrainSession d).notice x.part d x.handle .ownerReturned
      t.sendAct d .zeroHeader

/-- A request is to be made again after POLL_US. -/
def State.retrySend (s : State) (d : Nat) : State := s.modSend d fun o => { o with retry := some s.now }

/-- An answered request of a hand-off that is being sent. -/
def State.sendReply (s : State) (d : Nat) (r : Request) : State :=
  match s.session? d with
  | none => s
  | some x =>
    match x.send with
    | none => s
    | some o =>
      let p := x.part
      let stale := if o.phase == .writing then r.tag < o.tag else r.tag != o.tag
      if stale then s
      else
        match o.phase with
        | .readRecord =>
          if retryable r.err then s.retrySend d
          else if r.err == .access then s.finishSend d .badArgument
          else if r.err != .none then s.finishSend d .tierFailed
          else
            let v := orecOf (leNat (readBytes r))
            if v.state = 0 then (s.modSend d fun o => { o with epoch := nextEpoch v.epoch }).sendAct d .acquire
            else s.finishSend d .noCapacity
        | .acquire =>
          if retryable r.err then s.retrySend d
          else if r.err == .access then s.finishSend d .badArgument
          else if r.err != .none then s.finishSend d .tierFailed
          else if !casDone r then s.finishSend d (o.failing.getD .noCapacity)
          else if o.failing.isSome then s.sendAct d .zeroHeader
          else (s.drainSession d).sendAct d .writing
        | .writing =>
          let again := r.err == .fenced || r.err == .busy
          let o' := { o with
            acksLeft := o.acksLeft - 1,
            retry := if again then some s.now else o.retry,
            failing := if !again && r.err != .none && o.failing.isNone then some .tierFailed else o.failing }
          let t := s.modSend d fun _ => o'
          if o'.acksLeft != 0 then t
          else if o'.failing.isSome then t.sendAct d .zeroHeader
          else if o'.retry.isSome then t
          else t.sendAct d .sendCas
        | .sendCas =>
          if casDone r || (o.failing.isSome && r.err == .none && casFound r = s.handoffRec p o) then
            if o.failing.isSome then s.sendAct d .reclaim
            else ((s.modSend d fun o => { o with phase := .sent, lastPoll := s.now }).count .folHoSent p).complete p o.verb .ok
          else if r.err == .fenced || r.err == .busy then
            (if o.failing.isSome then s.sendAct d .zeroHeader else s.retrySend d)
          else if o.failing.isSome && r.err == .none && (orecOf (casFound r)).epoch = nextEpoch o.epoch then s.claimedSend d
          else s.failSend d .tierFailed
        | .sent =>
          if r.err != .none || leNat (readBytes r) = s.handoffRec p o then s else s.claimedSend d
        | .reclaim =>
          if casDone r then s.reclaimed d
          else if r.err != .none then s.retrySend d
          else s.claimedSend d
        | .zeroHeader => if retryable r.err then s.retrySend d else s.sendAct d .release
        | .release => if retryable r.err then s.retrySend d else s.finishSend d (o.failing.getD .tierFailed)

/-- The region is granted with rights R, W and A to partition p. The grants of a region on another device stand in that
device's image: its answer shows them. -/
def State.regionGranted (s : State) (p : Nat) (r : XRegion) : Bool :=
  r.dev != s.fab.devId || (s.partImage r.part).links.grants.any fun g =>
    g.dev == s.fab.devId && g.part == p && g.base ≤ r.base && r.base + regionSize r ≤ g.base + g.size && g.r && g.w && g.a

/-- HANDOFF_SEND begins (step 1 of R278). It waits for the slot of a reclaimed hand-off of its session to be cleared.
DEDUCED, log entry 22. -/
def doHandoffSend (p vid : Nat) (s : State) : State :=
  match s.begun? p vid .handoffSend with
  | none => s
  | some v =>
    match s.session? v.dir with
    | none => s.complete p vid .badHandle
    | some x =>
      let target := unpackPair (v.f 0x24 2)
      let us := v.f 0x28 4
      if x.send.isSome then s
      else if x.parkOp.isSome || x.revive.isSome || (s.keysOf p).plk.isNone then s.complete p vid .badState
      else
        match s.region? (v.f 0x20 1) with
        | none => s.complete p vid .badArgument
        | some r =>
          if !s.regionGranted p r || v.f 0x22 2 ≥ r.records || !s.fabSec.peers.any (fun y => y.id == target.1) ||
             (us != 0 && (us < 10 || us > 1000000))
          then s.complete p vid .badArgument
          else if slotUse (s.quireCount x) > r.slotBytes then s.complete p vid .noCapacity
          else
            let o : SendOp := { verb := vid, region := r.num, record := v.f 0x22 2, tdev := target.1, tpart := target.2,
                                claimUs := if us = 0 then s.claimDefault p else us }
            ((s.runVerb p vid).modSession v.dir fun x => { x with send := some o }).sendAct v.dir .readRecord

/-- The hand-off of a session, in a phase. -/
def State.sendIn (s : State) (d : Nat) (ph : SendPhase) : Option (Session × SendOp) :=
  match s.session? d with
  | none => none
  | some x => (match x.send with | some o => if o.phase == ph && s.live then some (x, o) else none | none => none)

/-- HANDOFF_POLL: the sender reads the record every POLL_US (R279). -/
def doHandoffPoll (d : Nat) (s : State) : State :=
  match s.sendIn d .sent with
  | some (x, o) => if s.now ≥ o.lastPoll + s.pollNs x.part then s.sendAct d .sent else s
  | none => s

/-- HANDOFF_RECLAIM: DEADLINE has come while the record is still HANDOFF (R279). -/
def doHandoffReclaim (d : Nat) (s : State) : State :=
  match s.sendIn d .sent with
  | some (_, o) => if s.now ≥ o.deadline then s.sendAct d .reclaim else s
  | none => s

/-- A CLOSE or a reset fence meets a hand-off (Table 13.5): before acquisition it ends at once; while the record is OWNED
the sending is abandoned; while it is HANDOFF the sender reclaims at once. -/
def State.abandonSend (s : State) (d : Nat) (closing : Option Nat) (st : Status) : State :=
  match s.session? d with
  | none => s
  | some x =>
    match x.send with
    | none => s
    | some o =>
      let t := s.modSend d fun o => { o with closing := (match closing with | some c => some c | none => o.closing),
                                             failing := some (o.failing.getD st) }
      match o.phase with
      | .readRecord => t.finishSend d st
      | .writing => if o.acksLeft = 0 then t.sendAct d .zeroHeader else t
      | .sent => t.sendAct d .reclaim
      | _ => t

/-! ## Claiming (R281, R282) -/

def State.claim? (s : State) (p vid : Nat) : Option ClaimOp := s.ho.claims.find? fun o => o.part == p && o.verb == vid
def State.modClaim (s : State) (p vid : Nat) (f : ClaimOp → ClaimOp) : State :=
  { s with ho := { s.ho with claims := lmod (fun (o : ClaimOp) => o.part == p && o.verb == vid) f s.ho.claims } }
def State.dropClaim (s : State) (p vid : Nat) : State :=
  { s with ho := { s.ho with claims := s.ho.claims.filter fun o => !(o.part == p && o.verb == vid) } }

/-- What the claim reserved is released: places, descriptors, Spine entries, directory record. DESIGN CHOICE, log entry 37. -/
def State.unreserve (s : State) (o : ClaimOp) : State :=
  if o.landed.isNone then s
  else
    let t : State := s.abandonRevive o.dir
    let t : State := match s.session? o.dir with
      | some x => (match x.quire with | some q => q.folios.foldl (fun (t : State) f => t.freeTier o.part q.tier f.loc) t | none => t)
      | none => t
    let fl := t.dirFree o.part
    (t.dropSession o.dir).setDirFree o.part
      (if o.dir + 1 = fl.next then { fl with next := o.dir } else { fl with freed := o.dir :: fl.freed })

/-- A claim ends without landing: nothing of it is kept, and no record transition is made. -/
def State.failClaim (s : State) (p vid : Nat) (st : Status) : State :=
  match s.claim? p vid with
  | none => s
  | some o =>
    let t := (s.unreserve o).dropClaim p vid
    (if st == .ownerReturned then t.count .folHoLost p else t).complete p vid st

/-- The record that the claim read, and the record once claimed. -/
def State.claimFrom (s : State) (o : ClaimOp) : Nat :=
  orecNat { state := 2, epoch := o.epoch, owner := (o.sdev, o.spart), target := (s.fab.devId, o.part), deadline := o.deadline }
def State.claimTo (s : State) (o : ClaimOp) : Nat :=
  orecNat { state := 1, epoch := o.epoch, owner := (s.fab.devId, o.part) }

/-- The request that a phase of a claim makes. -/
def State.claimAct (s : State) (p vid ph : Nat) : State :=
  match s.claim? p vid with
  | none => s
  | some o =>
    match s.region? o.region with
    | none => s
    | some r =>
      let who : Asker := .claim p vid
      let set := fun (t : State) (left : Nat) => t.modClaim p vid fun o => { o with phase := ph, retry := none, left := left }
      match ph with
      | 0 => set (s.askRecord who p r o.record).2 1
      | 1 => set (s.askSlot who tyReadReq p r o.record 0 256 []).2 1
      | 2 =>
        let n := o.folios.length
        let hdr := headerBytes n
        set ((List.range n).foldl (fun t i =>
          (t.askSlot who tyReadReq p r o.record (hdr + i * Config.folioBytes) Config.folioBytes []).2) s) n
      | 3 => set (s.askCas who p r o.record (s.claimFrom o) (s.claimTo o)).2 1
      | 4 =>
        let n := headerBytes o.folios.length
        set (({ s with ho := { s.ho with slots := tdel s.ho.slots (slotKey o.region o.record) } } : State).askSlot who
          tyWriteReq p r o.record 0 n (zeros n)).2 1
      | 5 => set (s.askCas who p r o.record (s.claimTo o) (freeRec o.epoch)).2 1
      | _ => set (s.askRecord who p r o.record).2 1

/-- HANDOFF_CLAIM begins (step 1). -/
def doHandoffClaim (p vid : Nat) (s : State) : State :=
  match s.begun? p vid .handoffClaim with
  | none => s
  | some v =>
    let q := v.f 0x26 2
    match s.region? (v.f 0x20 1) with
    | none => s.complete p vid .badArgument
    | some r =>
      if !s.regionGranted p r || !s.queueIn p q || v.f 0x22 2 ≥ r.records then s.complete p vid .badArgument
      else
        let o : ClaimOp := { part := p, verb := vid, region := r.num, record := v.f 0x22 2, queue := q }
        ({ (s.runVerb p vid) with ho := { s.ho with claims := s.ho.claims ++ [o] } } : State).claimAct p vid 0

/-- The header agrees with the record and with the partition (step 3). -/
def State.headerAgrees (s : State) (o : ClaimOp) (b : Bytes) : Bool :=
  let p := o.part
  fld b 0 4 = slotMagic && fld b 4 4 = 1 && fld b 8 4 = o.region + o.record * 256 && fld b 0xC 4 = o.epoch &&
  unpackPair (fld b 0x10 2) == (o.sdev, o.spart) && unpackPair (fld b 0x12 2) == (s.fab.devId, p) &&
  fld b 0x18 4 = (s.partImage p).prog.id && fld b 0x1C 4 = s.tokensPer p + s.layersPer p * 65536 &&
  fld b 0x20 4 = kvFmtCode (s.kvFmt p) + 16 * (s.objectMode p).toNat

/-- What the slot holds: as this device wrote it, or as another device did. -/
def State.slotOf (s : State) (o : ClaimOp) (b : Bytes) : Option Slot :=
  match tget s.ho.slots (slotKey o.region o.record) with
  | some x => if x.epoch = o.epoch && x.sender == (o.sdev, o.spart) then some x else Config.slotContent b
  | none => Config.slotContent b

/-- The header tag checks and the data key unwraps: the slot is sealed under the current or the previous pool key (R360),
and its reserved bytes are zero (R274); every folio opens with the slot's EPOCH and its place (Table 14.5). -/
def State.slotOpens (s : State) (p : Nat) (x : Slot) (b : Bytes) : Bool :=
  let k := s.keysOf p
  let e := fld b 0x24 4
  x.intact && zeroFld b slotRsvAt 112 &&
  ((enum x.folios).all fun f =>
    f.2.intact && f.2.ordinal == f.1 && f.2.parkId == x.epoch && f.2.key == x.session.wrappedSdk) &&
  ((e = s.poolEpoch p && k.plk.isSome && x.poolKcv == kcvOf k.plk) ||
   (e = k.poolPrev && k.plkPrev.isSome && x.poolKcv == kcvOf k.plkPrev))

/-- Step 4: a directory record, and with it the places for the quire; none: something cannot be reserved. -/
def State.claimReserve (s : State) (o : ClaimOp) (x : Slot) : Option State :=
  let p := o.part
  match (s.dirFree p).take with
  | none => none
  | some (d, fl) =>
    let h := mkHandle p (s.recOf d).gen d
    let y : Session := { x.session with
      handle := h, part := p, objectMode := s.objectMode p, quire := none, revive := none, parkOp := none, send := none,
      flyleaf := none, ptFolios := [], sdk := none,
      seqs := tmap (fun _ q => { q with queue := o.queue, spine := none, csn := 0,
                                        state := if q.state == .closed then .closed else .reviving }) x.session.seqs }
    let t := (s.setDirFree p fl).setSession d y
    let mark := fun (t : State) => t.modClaim p o.verb fun o => { o with dir := d, landed := some y, folios := x.folios }
    let n := x.folios.length
    if s.roleOf p == .state then
      match t.allocQuireTier p n [4, 3] with
      | none => none
      | some (tier, locs, t) =>
        let q : Quire := { tier := tier, folios := (locs.zip x.folios).map fun e => { e.2 with loc := e.1 },
                           keyEpoch := s.prkEpoch p, program := x.program, tokensPer := x.tokensPer,
                           layersPer := x.layersPer, fmt := x.fmt, ptFolios := countp (fun f => f.kind == 2) x.folios }
        some (mark (t.modSession d fun y => { y with quire := some q }))
    else
      let need := (y.liveSeqs.map Seq.entryCount).sum
      if !s.ptRoom p need || !s.t1Room p n then none
      else
        match t.giveSpines p d (y.liveSeqs.map (·.num)) with
        | none => none
        | some t =>
          match t.allocQuire p h x.folios [] with
          | none => none
          | some (descs, t) =>
            let op : ReviveOp := { cause := none, began := s.now, tier := 0, bytes := 0, descs := descs }
            some (mark ((t.addPt p need).modSession d fun y => { y with revive := some op }))

/-- Step 6: the session lands under its new handle, its data key wrapped under the partition's key with a fresh salt.
DEDUCED, log entry 22. -/
def State.land (s : State) (o : ClaimOp) : State :=
  let p := o.part
  let d := o.dir
  match s.session? d with
  | none => s
  | some x =>
    let key := x.wrappedSdk
    let (salt, t) := s.draw 128
    let r : DirRec := { gen := (s.recOf d).gen, inUse := true, object := s.objectMode p, live := x.liveSeqs.length, salt := salt }
    let t : State :=
      match x.quire, x.revive with
      | some q, _ =>
        let (pid, t) := t.draw 64
        let (t, fs) := t.sealAll pid key (q.folios.map fun f => (f.loc, f))
        let t := t.writeQuire p q.tier fs
        let t := t.modSession d fun x =>
          { x with quire := some { q with folios := fs }, wrapEpoch := s.prkEpoch p, parkTime := s.now, wakeHint := 0,
                   seqs := tmap (fun _ y => if y.state == .reviving then { y with state := .parked } else y) x.seqs }
        t.setRec d { r with parked := true, tier := q.tier, parkId := pid, flyleafLoc := (q.folios.head?.map (·.loc)).getD 0,
                            ttlInstant := ttlInstantOf s.now x.ttl }
      | none, some v =>
        let t := (enum o.folios).foldl (fun t e =>
          t.modFolio (v.descs.getD e.1 0) fun f => { f with payload := e.2.payload, valid := e.2.valid }) t
        let refs := (x.seqs.flatMap fun e => e.2.spans.flatMap fun y => y.entries.map (·.ref)).map fun k => v.descs.getD k 0
        let t := v.descs.foldl (fun t i => t.unpin i) (v.descs.foldl (fun t i => t.modFolio i fun f =>
          { f with refcnt := if f.kind == .kv then refs.count i else 1 }) t)
        let t := t.modSession d fun x =>
          { x with revive := none, sdk := some key, wrapEpoch := s.prkEpoch p, flyleaf := v.descs.head?,
                   ptFolios := (v.descs.drop 1).take (countp (fun f => f.kind == 2) o.folios),
                   seqs := tmap (fun _ y => { y with state := if y.state == .reviving then y.prev else y.state,
                                                     spans := y.spans.map (reviveSpan t v.descs) }) x.seqs }
        t.setRec d { r with flyleafLoc := v.descs.headD 0 }
      | none, none => t
    let t := (t.count .folHoLanded p).complete p o.verb .ok 0 [] (some x.handle)
    t.claimAct p o.verb 4

/-- A claim is to be tried again after POLL_US. -/
def State.retryClaim (s : State) (p vid : Nat) : State := s.modClaim p vid fun o => { o with retry := some s.now }

/-- The slot header has been read: steps 3 to 5 as far as they need no more of the slot. -/
def State.headerRead (s : State) (o : ClaimOp) (b : Bytes) : State :=
  if !s.headerAgrees o b then s.failClaim o.part o.verb .badState
  else
    match s.slotOf o b with
    | none => s.failClaim o.part o.verb .tierFailed
    | some x =>
      match s.claimReserve o x with
      | none => s.failClaim o.part o.verb .noCapacity
      | some t =>
        if !t.slotOpens o.part x b then t.failClaim o.part o.verb .tierFailed
        else t.claimAct o.part o.verb 2

/-- An answered request of a claim. -/
def State.claimReply (s : State) (p vid : Nat) (r : Request) : State :=
  match s.claim? p vid with
  | none => s
  | some o =>
    let again := retryable r.err
    match o.phase with
    | 0 =>
      if again then s.retryClaim p vid
      else if r.err == .access then s.failClaim p vid .badArgument
      else if r.err != .none then s.failClaim p vid .tierFailed
      else
        let v := orecOf (leNat (readBytes r))
        if v.state = 2 && v.target == (s.fab.devId, p) then
          (s.modClaim p vid fun o => { o with epoch := v.epoch, sdev := v.owner.1, spart := v.owner.2, deadline := v.deadline }
            ).claimAct p vid 1
        else s.failClaim p vid .badState
    | 1 =>
      if again then s.retryClaim p vid
      else if r.err != .none then s.failClaim p vid .tierFailed
      else s.headerRead o (readBytes r)
    | 2 =>
      let t := s.modClaim p vid fun o => { o with left := o.left - 1, retry := if again then some s.now else o.retry }
      if r.err != .none && !again then t.failClaim p vid .tierFailed
      else if o.left ≤ 1 && !again && o.retry.isNone then t.claimAct p vid 3
      else t
    | 3 =>
      if casDone r || (r.err == .none && casFound r = s.claimTo o) then s.land o
      else if again then s.retryClaim p vid
      else if r.err == .stale then s.claimAct p vid 6
      else s.failClaim p vid .ownerReturned
    | 4 => if again then s.retryClaim p vid else s.claimAct p vid 5
    | 5 => if again then s.retryClaim p vid else s.dropClaim p vid
    | _ =>
      let v := leNat (readBytes r)
      if again then s.retryClaim p vid
      else if r.err == .none && (v = s.claimTo o || v = freeRec o.epoch) then s.land o
      else s.failClaim p vid .ownerReturned

/-- RECORD_RETRY: a record operation that was answered FENCED, NO_ROUTE or BUSY is made again after POLL_US (R277): that of
the session sent from directory record d, or of a claim that has reserved d or nothing yet. -/
def doRecordRetry (d : Nat) (s : State) : State :=
  if !s.live then s
  else
    let t := match s.session? d with
      | some x => (match x.send with
        | some o => (match o.retry with
          | some w => if s.now ≥ w + s.pollNs x.part && (o.phase != .writing || o.acksLeft = 0) then s.sendAct d o.phase else s
          | none => s)
        | none => s)
      | none => s
    s.ho.claims.foldl (fun t o => match o.retry with
      | some w =>
        if (o.dir = d || o.landed.isNone) && s.now ≥ w + s.pollNs o.part && (o.phase != 2 || o.left = 0)
        then t.claimAct o.part o.verb o.phase else t
      | none => t) t

/-! ## The commands of this file -/

/-- HANDOFF_SEND (R278). -/
def execHandoffSend (p vid : Nat) (s : State) : Host.Outcome State Fault Refusal :=
  .next (doHandoffSend p vid s)

/-- HANDOFF_CLAIM (R281). -/
def execHandoffClaim (p vid : Nat) (s : State) : Host.Outcome State Fault Refusal :=
  .next (doHandoffClaim p vid s)

/-- HANDOFF_POLL (R279). -/
def execHandoffPoll (dir : Nat) (s : State) : Host.Outcome State Fault Refusal :=
  .next (doHandoffPoll dir s)

/-- HANDOFF_RECLAIM (R279). -/
def execHandoffReclaim (dir : Nat) (s : State) : Host.Outcome State Fault Refusal :=
  .next (doHandoffReclaim dir s)

/-- RECORD_RETRY (R277). -/
def execRecordRetry (dir : Nat) (s : State) : Host.Outcome State Fault Refusal :=
  .next (doRecordRetry dir s)

end Machine
end Sys2Proof
end

