-- ==== Sys2Proof/Machine/Checkpoint.lean ====
section
/-!
DEFINITION. Sys2Proof/Machine/Checkpoint.lean: taking a checkpoint (chapter 15, R307 to R320): the request, the consistency
point, the capture, shards and their owners, striping with P and Q, the commit, and an end without a commit. The engine's
work in the background is done at ticks: one object copied and one message taken per tick.
-/
namespace Sys2Proof

namespace Config
/-- FREE VALUE. The bytes of a grammar image: the spec names what it holds (chapter 8, "Grammars") and lays out no bytes. -/
opaque grammarBytes : GrammarImage → Bytes
end Config

namespace Machine

/-! ## The group (R307) -/

def State.group? (s : State) (p : Nat) : Option CkptGroup := (s.partImage p).links.group

/-- Member number of partition p in a group. -/
def State.memberNo (s : State) (g : CkptGroup) (p : Nat) : Nat := g.members.idxOf (s.fab.devId, p)

/-- Members on this device, by partition. -/
def State.localMembers (s : State) (g : CkptGroup) : List Nat :=
  (g.members.filter fun m => m.1 == s.fab.devId).map (·.2)

/-- A member can be reached: it is on this device, or a route leads to its device. -/
def State.memberUp (s : State) (m : Nat × Nat) : Bool :=
  m.1 == s.fab.devId || (let r := tgetD s.fab.routes m.1 {}; r.validU || r.validD)

/-- Numbers of the members that cannot be reached. -/
def State.unreachable (s : State) (g : CkptGroup) : List Nat :=
  (List.range g.members.length).filter fun k => !s.memberUp (g.members.getD k (0, 0))

/-- A message of member p to member m, on lane 1 under PQ1; on one device it waits in the engine. -/
def State.tellMember (s : State) (p m : Nat) (msg : CkptMsg) : State :=
  match s.group? p with
  | none => s
  | some g =>
    match g.members[m]? with
    | none => s
    | some (dev, q) =>
      if dev = s.fab.devId then { s with ckp := { s.ckp with inbox := s.ckp.inbox ++ [(q, msg)] } }
      else s.emit (.ckpt m msg)

/-! ## What a shard holds (Table 15.1) -/

/-- Bytes of one shard. -/
def shardBytes : Nat := 65536

/-- Pieces of 64 KiB, the last padded with zeros. -/
def pieces (b : Bytes) : List Bytes :=
  (List.range (ceilDiv b.length shardBytes)).map fun k => fit shardBytes (sub b (k * shardBytes) shardBytes)

/-- The next free record after a free one in its list; 0 where it is the last. -/
def nextFree (f : FreeList) (d : Nat) : Nat :=
  if d ≥ f.next then (if d + 1 < f.base + f.count then d + 1 else f.freed.headD 0)
  else f.freed.getD (f.freed.idxOf d + 1) 0

/-- The 64 bytes of a captured directory record (Table 2.11). -/
def dirBytes (r : DirRec) (link : Nat) : Bytes :=
  let use := if r.retired then 2 else r.inUse.toNat
  natLe 4 (r.gen % 2 ^ 24 + at' use 24 + at' r.damaged.toNat 26 + at' r.expired.toNat 27 + at' r.parked.toNat 28 +
    at' r.object.toNat 29) ++
  fit 4 (r.held.map fun c => BitVec.ofNat 8 (statusCode c)) ++ natLe 1 r.tier ++ natLe 1 r.live ++ zeros 6 ++ natLe 8 r.flyleafLoc ++
  natLe 16 r.salt ++ natLe 8 r.parkId ++ natLe 8 r.ttlInstant ++ natLe 4 (if use = 0 then link else 0) ++ zeros 4

/-- The shards of one object of a capture. DESIGN CHOICE, log entry 9. -/
def State.shardsOf (s : State) (k : Capture) : CkptJob → List ShardContent
  | .sections =>
    let l := k.sessions.flatMap fun e => if e.2.quire.isNone then e.2.sections.map (·.2) else []
    (List.range (ceilDiv l.length 85)).map fun i =>
      { kind := 4, place := i, data := fit shardBytes ((l.drop (85 * i)).take 85).flatten }
  | .directory i =>
    let base := k.free.base + 1024 * i
    let n := min 1024 (k.free.base + k.free.count - base)
    [{ kind := 3, place := i,
       data := fit shardBytes ((List.range n).flatMap fun j =>
         dirBytes (tgetD k.dir (base + j) {}) (nextFree k.free (base + j))) }]
  | .folio i =>
    match tget k.folios i with
    | none => []
    | some f =>
      let owner := k.sessions.find? fun e => e.2.handle == f.handle
      let body := match f.kind, owner with
        | .flyleaf, some e => s.flyleafBytes e.2 e.2.ptFolios.length
        | .pageTable, some e => fit shardBytes (sub (s.pageList e.2) (shardBytes * e.2.ptFolios.idxOf i) shardBytes)
        | _, _ => mreads f.payload 0 shardBytes
      [{ kind := 5, place := f.layer + at' f.valid 32, data := body }]
  | .quire d =>
    match (match tget k.sessions d with | some x => x.quire | none => none) with
    | none => []
    | some q => (enum q.folios).flatMap fun e => (pieces (e.2.bytes ++ e.2.record)).map fun b =>
      { kind := 6, place := (tgetD k.sessions d default).handle % 2 ^ 32 + at' e.1 32, data := b }
  | .program =>
    match k.program with
    | none => []
    | some g => (enum (pieces g.bytes)).map fun e => { kind := 1, place := e.1, data := e.2 }
  | .grammar g =>
    match tget k.grammars g with
    | none => []
    | some x => (enum (pieces (fit x.image.len (Config.grammarBytes x.image)))).map fun e =>
      { kind := 2, place := e.1, data := e.2 }

/-! ## Sealing and striping (R315, R316) -/

/-- A stored shard: ciphertext and tag, under the key of R315 with a nonce of zeros. -/
def sealShard (ck digest data : Bytes) : Bytes × Bytes :=
  gcm (shardKey ck digest) (zeros 12) [] (fit shardBytes data)

/-- Multiplication by g = 0x02 in GF(2⁸) under 0x11D. -/
def gfDouble (a : Nat) : Nat := if a < 128 then 2 * a else (2 * a) ^^^ 0x11D

/-- Multiplication over the low `n` bits of b. -/
def gfMulN : Nat → Nat → Nat → Nat
  | 0, _, _ => 0
  | n + 1, a, b => (if b % 2 = 1 then a else 0) ^^^ gfMulN n (gfDouble a) (b / 2)

def gfMul (a b : Nat) : Nat := gfMulN 8 a b

/-- g^j. -/
def gfPow : Nat → Nat
  | 0 => 1
  | j + 1 => gfDouble (gfPow j)

/-- a^(2^(n+1) − 2), the inverse for n = 7. -/
def gfInvN : Nat → Nat → Nat
  | 0, _ => 1
  | n + 1, a => let b := gfMul a a; gfMul b (gfInvN n b)

def gfInv (a : Nat) : Nat := gfInvN 7 a

/-- Bytes multiplied by one factor, and added. -/
def gfScale (k : Nat) (b : Bytes) : Bytes := b.map fun x => BitVec.ofNat 8 (gfMul k x.toNat)
def gfAdd (a b : Bytes) : Bytes := (fit shardBytes a).zipWith (· ^^^ ·) (fit shardBytes b)

/-- Owner of a shard: D mod N (R314). -/
def ownerOf (digest : Bytes) (n : Nat) : Nat := fld digest 0 4 % n

/-- Holders of P and Q in row r, and the data index of member m there (none: it holds P or Q). -/
def pHolder (n r : Nat) : Nat := r % n
def qHolder (n r : Nat) : Nat := (r + 1) % n
def dataIndex (n r m : Nat) : Option Nat :=
  let j := (m + 2 * n - (r + 2) % n) % n
  if j < n - 2 then some j else none

/-- The two check coefficients of member m's unit in row r: Σ a·U = 0 and Σ b·U = 0 over the row. -/
def checkCoef (n r m : Nat) : Nat × Nat :=
  match dataIndex n r m with
  | some j => (1, gfPow j)
  | none => if m = pHolder n r then (1, 0) else (0, 1)

/-- The factor of survivor m in the rebuilding of `target`'s unit, when the units of `lost` are erased (R316, R322). -/
def rebuildCoef (n r target : Nat) (lost : List Nat) (m : Nat) : Nat :=
  let (a, b) := checkCoef n r m
  let (at_, bt) := checkCoef n r target
  match lost.filter (· != target) with
  | [] => if at_ = 1 then a else b
  | y :: _ =>
    let (ay, b2) := checkCoef n r y
    let det := gfMul at_ b2 ^^^ gfMul ay bt
    gfMul (gfMul b2 a ^^^ gfMul ay b) (gfInv det)

/-- A row in which a member may place a shard: it holds data there, and its unit is free. -/
def CkpPart.rowFree (k : CkpPart) (n m r : Nat) : Bool :=
  (dataIndex n r m).isSome && (match tget k.rows r with | some u => u.refs.isEmpty | none => true)

/-- The row that holds a digest which the checkpoint under way or the one before it references. -/
def CkpPart.rowOf (k : CkpPart) (digest : Bytes) : Option Nat :=
  (k.rows.find? fun e => e.2.digest == some digest && !e.2.refs.isEmpty).map (·.1)

/-- One more reference of the checkpoint under way to a unit. -/
def CkpPart.refer (k : CkpPart) (r : Nat) : CkpPart :=
  { k with rows := tmod k.rows r {} fun u => { u with refs := if u.refs.contains k.run then u.refs else u.refs ++ [k.run] } }

/-! ## An end without a commit (R318) -/

/-- Storage that waited for the checkpoint's copies is released (R313). -/
def State.releaseOwed (s : State) (p : Nat) : State :=
  let t := (s.ckpOf p).owed.foldl (fun t e => t.freeTier p e.1 e.2) s
  let t := t.modCkp p fun k => { k with owed := [] }
  ((t.fol.folios.filter fun e => e.2.zombie && e.2.part == p).map (·.1)).foldl (fun t i =>
    (t.modFolio i fun f => { f with zombie := false, copied := true }).reapFolio i) t

/-- A member leaves the checkpoint or restore under way: its part's units are freed; the coordinator's verb completes. -/
def State.endMember (s : State) (p : Nat) (st : Status) : State :=
  let k := s.ckpOf p
  if k.phase = 0 then s
  else
    let rows := if k.phase = 4 then k.rows
      else tmap (fun _ u => { u with refs := u.refs.filter (· != k.run) }) k.rows
    let t := s.setCkp p
      { k with phase := 0, lastStatus := st, verb := none, sectionsFrozen := false, capture := none, jobs := [],
               announced := [], staged := 0, stallSince := none, rows := rows, index := [], roots := [], reports := [],
               written := 0, found := 0, indexed := false, reported := false, chains := [] }
    let t := (t.releaseOwed p).releaseHeld p
    match k.verb with
    | some v => t.complete p v st
    | none => t

/-- A checkpoint or restore ends at every member: members on this device at once, the others by a message. -/
def State.endAll (s : State) (p : Nat) (st : Status) : State :=
  match s.group? p with
  | none => s.endMember p st
  | some g =>
    let t := (s.localMembers g).foldl (fun t q => t.endMember q st) s
    (enum g.members).foldl (fun t m => if m.2.1 = t.fab.devId then t else t.emit (.ckpt m.1 (.ended (t.memberNo g p) st))) t

/-- CKPT_ABORT: a member ends what is under way: the coordinator for all, another member by telling the coordinator. -/
def State.abortCkpt (s : State) (p : Nat) (st : Status) : State :=
  if (s.ckpOf p).phase = 0 then s
  else
    match s.group? p with
    | none => s.endMember p st
    | some g =>
      if (g.members.getD 0 (0, 0)).1 = s.fab.devId || s.memberNo g p = 0 then s.endAll p st
      else (s.endMember p st).tellMember p 0 (.ended (s.memberNo g p) st)

/-! ## CKPT_TAKE and CKPT_REQUEST (R308) -/

/-- The most that T_C may lie ahead. -/
def tcLimit : Nat := 10000000000

/-- A member receives the request, and waits for its point. -/
def State.takeRequest (s : State) (p seq tc : Nat) : State :=
  if (s.ckpOf p).phase != 0 then s
  else s.modCkp p fun k => { k with phase := 1, run := seq, tc := tc, written := 0, found := 0 }

/-- CKPT_TAKE. -/
def doCkptTake (p vid : Nat) (others : Bool) (s : State) : State :=
  match s.begun? p vid .ckptTake with
  | none => s
  | some v =>
    match s.group? p with
    | none => s.complete p vid .badState
    | some g =>
      let loc := s.localMembers g
      let tc := if v.f 0x20 8 = 0 then v.arrival else v.f 0x20 8
      if s.memberNo g p != 0 || !others || s.changing ||
         (loc.any fun q => (s.ckpOf q).phase != 0 || (s.keysOf q).ck.isNone) then s.complete p vid .badState
      else if tc > v.arrival + tcLimit then s.complete p vid .badArgument
      else
        let seq := (s.ckpOf p).seq + 1
        let t := (s.runVerb p vid).takeRequest p seq tc
        let t := t.modCkp p fun k => { k with verb := some vid, reports := [] }
        (List.range g.members.length).foldl (fun t m => if m = 0 then t else t.tellMember p m (.request seq tc)) t

/-- CKPT_REQUEST. -/
def doCkptRequest (p seq tc : Nat) (s : State) : State :=
  if s.live && (s.group? p).isSome then s.takeRequest p seq tc else s

/-! ## The consistency point (R309 to R311) -/

/-- A sequence as captured (Table 15.2): pending input that is not absorbed, candidates and the running STEP are left out. -/
def captureSeq (parked : Bool) (q : Seq) : Seq :=
  let st := if parked then .parked else
    match q.state with
    | .draining => (match q.prev with | .prefill => .wait | .decode => .wait | x => x)
    | .prefill => .wait
    | .decode => .wait
    | x => x
  { q with state := st, pending := q.pending.filter fun r => r.old, tree := [], run := none, absorbing := none,
           stalled := false, waitsRoom := false, suspect := false, stopping := false, spine := none, ttftDeadline := none,
           nextDeadline := none, csn := 0 }

/-- A session as captured: a REVIVING one is PARKED, a PARK under way leaves the state before it. -/
def captureSession (x : Session) : Session :=
  let parked := x.quire.isSome && x.liveSeqs.all fun q => q.state != .expired && q.state != .poisoned
  { x with parkOp := none, revive := none, send := none,
           seqs := (x.seqs.filter fun e => e.2.state != .closed).map fun e => (e.1, captureSeq parked e.2) }

/-- Descriptors that a revive or a claim under way has reserved: they hold nothing yet. -/
def State.reservedDescs (s : State) (p : Nat) : List Nat :=
  s.dir.sessions.flatMap fun e => if e.2.part == p then (match e.2.revive with | some o => o.descs | none => []) else []

/-- What a member captures. -/
def State.capture (s : State) (p : Nat) : Capture :=
  let res := s.reservedDescs p
  { point := s.now,
    dir := tmap (fun d r => { r with held := ((s.vf p).waiting.filter fun w => w.inDir && w.notice == some d).map (·.record.status) })
      (tfilter (fun d _ => s.dirIn p d) s.dir.recs),
    free := s.dirFree p,
    sessions := tmap (fun _ x => captureSession x) (tfilter (fun d x => x.part == p && (s.recOf d).inUse) s.dir.sessions),
    folios := tfilter (fun i f => f.part == p && f.kind != .free && !res.contains i) s.fol.folios,
    program := s.program? p,
    grammars := (s.txtPart p).grammars }

/-- Objects to copy: the sections first, then the directory, folios, parked quires, program and grammars. -/
def jobsOf (k : Capture) : List CkptJob :=
  [.sections] ++ (List.range (ceilDiv k.free.count 1024)).map CkptJob.directory ++ k.folios.map (fun e => .folio e.1) ++
  ((k.sessions.filter fun e => e.2.quire.isSome).map fun e => .quire e.1) ++ [.program] ++
  k.grammars.map fun e => .grammar e.1

/-- CONSISTENCY_POINT: in one instant the copied bits are cleared, every parked quire is marked uncopied, and directory
and sections are frozen. Hand-off verbs that were held go on. -/
def doConsistencyPoint (p : Nat) (s : State) : State :=
  if !s.live || !s.pointDue p then s
  else
    let k := s.capture p
    let t : State := { s with fol := { s.fol with folios := tmap (fun _ (f : Folio) => if f.part == p then { f with copied := false } else f) s.fol.folios } }
    let t := (s.reservedDescs p).foldl (fun t i => t.modFolio i fun f => { f with copied := true }) t
    let t := (t.dir.sessions.filter fun e => e.2.part == p).foldl (fun t e =>
      t.modSession e.1 fun x => { x with quire := x.quire.map fun q => { q with uncopied := true } }) t
    (t.modCkp p fun c => { c with phase := 2, capture := some k, jobs := jobsOf k, sectionsFrozen := true, announced := [],
                                  index := [], roots := [], indexed := false, reported := false }).releaseHeld p

/-! ## Copying (R312 to R314) -/

/-- The digest of a shard is announced to its owner. -/
def State.announce (s : State) (p : Nat) (x : ShardContent) (dg : Bytes) : State :=
  match s.group? p with
  | none => s
  | some g =>
    let t := s.modCkp p fun k => { k with announced := k.announced ++ [(dg, x, false)] }
    t.tellMember p (ownerOf dg g.members.length) (.digest (s.memberNo g p) dg x.kind x.place)

/-- An object has been copied: storage that waited for this is released. -/
def State.jobDone (s : State) (p : Nat) (j : CkptJob) : State :=
  match j with
  | .sections => s.modCkp p fun k => { k with sectionsFrozen := false }
  | .folio i =>
    match s.folio? i with
    | none => s
    | some f =>
      if f.kind != .free && f.part == p && !f.copied then
        (s.modFolio i fun f => { f with copied := true, zombie := false }).reapFolio i
      else s.modCkp p fun k => { k with staged := k.staged - 1 }
  | .quire d =>
    match (match (s.ckpOf p).capture with | some k => tget k.sessions d | none => none) with
    | none => s
    | some y =>
      let places := match y.quire with | some (q : Quire) => q.folios.map (fun (f : Sealed) => (q.tier, f.loc)) | none => []
      let t := s.modSession d fun x => { x with quire := x.quire.map fun q => { q with uncopied := false } }
      let due := places.filter fun e => (s.ckpOf p).owed.contains e
      (due.foldl (fun (t : State) e => t.freeTier p e.1 e.2) t).modCkp p fun k => { k with owed := k.owed.filter fun e => !due.contains e }
  | _ => s

/-- One entry of a shard index (Table 15.3): 96 bytes. -/
def indexBytes (e : ShardEntry) : Bytes :=
  fit 48 e.digest ++ fit 16 e.tag ++ natLe 1 e.kind ++ natLe 1 e.owner ++ natLe 6 e.row ++ natLe 8 e.place ++ zeros 16

/-- What a member reports (R317). -/
def State.reportOf (s : State) (p : Nat) : CommitReport :=
  let k := s.ckpOf p
  { units := k.written, found := k.found, shards := k.index.length + k.roots.length,
    rows := k.rows.foldl (fun a e => if e.2.refs.contains k.run then max a (e.1 + 1) else a) 0,
    root := sha384 k.roots.flatten, point := (k.capture.map (·.point)).getD 0,
    progDigest := (s.partImage p).prog.digest, shape := (s.tokensPer p, s.layersPer p, s.kvFmt p, s.objectMode p) }

/-- The report goes to the coordinator. -/
def State.sendReport (s : State) (p : Nat) : State :=
  match s.group? p with
  | none => s
  | some g => (s.modCkp p fun k => { k with reported := true }).tellMember p 0 (.commitReport (s.memberNo g p) (s.reportOf p))

/-- Once every object is stored the index is stored too, as kind-7 shards, and then the member reports. -/
def State.advanceCkpt (s : State) (p : Nat) : State :=
  let k := s.ckpOf p
  if k.phase != 2 || !k.jobs.isEmpty || !k.announced.isEmpty then s
  else if k.indexed then (if k.reported then s else s.sendReport p)
  else
    let t := s.modCkp p fun k => { k with indexed := true }
    let l := (enum (pieces (k.index.flatMap indexBytes))).map fun e => ({ kind := 7, place := e.1, data := e.2 } : ShardContent)
    let t := t.modCkp p fun k => { k with roots := l.map fun x => sha384 x.data }
    l.foldl (fun t x => t.announce p x (sha384 x.data)) t

/-- The digest that a folio's descriptor holds stands for its captured payload; for every other shard it is computed (R314). -/
def shardDigest (cap : Capture) (j : CkptJob) (x : ShardContent) : Bytes :=
  match j with
  | .folio i => ((tget cap.folios i).bind (·.digest)).getD (sha384 x.data)
  | _ => sha384 x.data

/-- The engine pins a folio while it reads it, so that a demotion under way is abandoned (R77, R79), and its descriptor holds the digest
of a payload that nothing has written since the capture (R314). -/
def State.readForCkpt (s : State) (p : Nat) (j : CkptJob) (l : List (ShardContent × Bytes)) : State :=
  match j with
  | .folio i =>
    (match s.folio? i with
     | some f =>
       if f.kind == .kv && f.part == p && !f.copied then
         (((s.setFolio i { f with digest := l.head?.map (·.2) }).pin i).unpins [i])
       else s
     | none => s)
  | _ => s

/-- A folio that nothing more can pin waits to be read (R79). -/
def CkptJob.canRead (j : CkptJob) (s : State) : Bool := match j with | .folio i => s.pinRoom [i] | _ => true

/-- One object is copied. -/
def State.copyOne (s : State) (p : Nat) : State :=
  let k := s.ckpOf p
  match k.phase, k.jobs, k.capture with
  | 2, j :: r, some cap =>
    if !j.canRead s then s else
    let t := s.modCkp p fun k => { k with jobs := r }
    let l := (s.shardsOf cap j).map fun x => (x, shardDigest cap j x)
    (l.foldl (fun t x => t.announce p x.1 x.2) (t.readForCkpt p j l)).jobDone p j
  | _, _, _ => s.advanceCkpt p

/-! ## Messages between members (R314 to R317, SHARD_TRANSFER) -/

/-- A unit of the reserve is written: CKP_BYTES_WR counts it, once for each checkpoint and place. -/
def State.writeUnit (s : State) (p r : Nat) (u : StripeUnit) : State :=
  let k := s.ckpOf p
  let fresh := !(tgetD k.rows r {}).refs.contains k.run
  let k := { k with rows := tput k.rows r u, written := if fresh then k.written + 1 else k.written }
  let t := (s.setCkp p (k.refer r)).count .ckpBytesWr p (if fresh then shardBytes else 0)
  if k.reported then t.sendReport p else t

/-- The owner's answer to a digest. -/
def State.answerDigest (s : State) (p src : Nat) (dg : Bytes) : State :=
  let k := s.ckpOf p
  match k.rowOf dg with
  | some r => (s.setCkp p (k.refer r)).tellMember p src (.answer dg (some r))
  | none => s.tellMember p src (.answer dg none)

/-- The owner stores a shard in its next data position, and sends what changes there to the holders of P and Q; a full
reserve ends the checkpoint (R316, R318). -/
def State.storeShard (s : State) (p src : Nat) (x : ShardContent) : State :=
  match s.group? p, (s.keysOf p).ck with
  | some g, some ck =>
    let k := s.ckpOf p
    let dg := sha384 x.data
    let n := g.members.length
    let me := s.memberNo g p
    match k.rowOf dg with
    | some _ => s.answerDigest p src dg
    | none =>
      match (List.range g.reserve).find? (fun r => k.rowFree n me r) with
      | none => s.abortCkpt p .noCapacity
      | some r =>
        let data := (sealShard ck dg x.data).1
        let delta := gfAdd data (tgetD k.rows r {}).data
        let t := s.writeUnit p r { digest := some dg, data := data }
        let j := (dataIndex n r me).getD 0
        let t := (t.tellMember p (pHolder n r) (.parity r j delta)).tellMember p (qHolder n r) (.parity r j delta)
        t.tellMember p src (.answer dg (some r))
  | _, _ => s

/-- A change of a data position reaches the holder of P or of Q. -/
def State.foldParity (s : State) (p r j : Nat) (delta : Bytes) : State :=
  match s.group? p with
  | none => s
  | some g =>
    let n := g.members.length
    let me := s.memberNo g p
    if me != pHolder n r && me != qHolder n r then s
    else
      let u := tgetD (s.ckpOf p).rows r {}
      let d := if me = pHolder n r then delta else gfScale (gfPow j) delta
      s.writeUnit p r { u with data := gfAdd u.data d }

/-- The owner's answer comes back: the shard is sent, once, or every place that has this digest is recorded in the member's
index; all but a shard that was sent are references. -/
def State.takeAnswer (s : State) (p : Nat) (dg : Bytes) (row : Option Nat) : State :=
  match s.group? p, (s.keysOf p).ck with
  | some g, some ck =>
    let k := s.ckpOf p
    let me := s.memberNo g p
    let owner := ownerOf dg g.members.length
    let mine := k.announced.filter fun e => e.1 == dg
    match row with
    | none =>
      match mine with
      | (_, x, false) :: _ =>
        (s.setCkp p { k with announced := lmod (fun e => e.1 == dg) (fun e => (e.1, e.2.1, true)) k.announced }).tellMember p
          owner (.shard me x)
      | _ => s
    | some r =>
      let entry := fun (x : ShardContent) => ({ digest := dg, tag := (sealShard ck dg x.data).2, kind := x.kind, owner := owner,
                                                row := r, place := x.place } : ShardEntry)
      let found := mine.length - (if mine.any fun e => e.2.2 then 1 else 0)
      let k := { k with announced := k.announced.filter fun e => e.1 != dg,
                        index := k.index ++ (mine.filter fun e => e.2.1.kind != 7).map fun e => entry e.2.1,
                        found := k.found + found }
      ((s.setCkp p k).count .ckpDedup p found).advanceCkpt p
  | _, _ => s

/-- The reports gather at the coordinator: with the last one it may write the colophon. -/
def State.takeReport (s : State) (p src : Nat) (r : CommitReport) : State :=
  match s.group? p with
  | none => s
  | some g =>
    let k := s.ckpOf p
    if k.phase != 2 && k.phase != 3 || k.verb.isNone then s
    else
      let l := tput k.reports src r
      s.setCkp p { k with reports := l, phase := if l.length = g.members.length then 3 else k.phase }

/-- A colophon is written into slot SEQ mod 2: the checkpoint is complete at this member, and units that neither it nor
the one before references are freed (R317, R319). -/
def State.takeColophon (s : State) (p : Nat) (c : Colophon) : State :=
  let k := s.ckpOf p
  if k.phase = 0 || k.phase = 4 then s
  else
    let keep := fun (n : Nat) => n == c.seq || n + 1 == c.seq
    let stored := match k.capture with | some x => tput k.stored c.seq x | none => k.stored
    let t := s.setCkp p
      { k with phase := 0, lastStatus := .ok, degraded := false, seq := c.seq, slots := tput k.slots (c.seq % 2) c,
               stored := tfilter (fun n _ => keep n) stored, capture := none, jobs := [], announced := [], staged := 0,
               sectionsFrozen := false, stallSince := none, index := [], roots := [], reports := [], written := 0, found := 0,
               indexed := false, reported := false, verb := none,
               rows := tmap (fun _ u => { u with refs := u.refs.filter keep }) k.rows }
    t.releaseOwed p

/-- The colophon of the reports (Table 15.5). -/
def State.colophonOf (s : State) (p : Nat) (g : CkptGroup) : Colophon :=
  let k := s.ckpOf p
  let r := k.reports.map (·.2)
  { group := g.group, n := g.members.length, seq := k.run, tc := k.tc, rows := (r.map (·.rows)).foldl max 0,
    shards := (r.map (·.shards)).sum, rootDigest := sha384 (r.flatMap (·.root)),
    members := (g.members.zip r).map fun e => (e.1.1, e.1.2, e.2.point, e.2.progDigest), shape := r.map (·.shape) }

/-- The 32 KiB of a colophon under CK (Table 15.5). -/
def colophonBytes (ck : Bytes) (c : Colophon) : Bytes :=
  let head := natLe 4 0x48504C43 ++ natLe 4 1 ++ natLe 4 c.group ++ natLe 4 c.n ++ natLe 8 c.seq ++ natLe 8 c.tc ++
    natLe 8 c.rows ++ natLe 8 c.shards ++ fit 48 c.rootDigest ++ zeros 32
  let mem := c.members.flatMap fun m => natLe 2 m.1 ++ natLe 1 m.2.1 ++ zeros 1 ++ natLe 8 m.2.2.1 ++ fit 48 m.2.2.2 ++ zeros 4
  let body := fit 0x7FD0 (head ++ mem)
  body ++ hmac384 ck body

/-- CKPT_COMMIT: the first colophon write commits (`ok`), or a flash write of the checkpoint has failed (R317, R318). -/
def doCkptCommit (p : Nat) (ok : Bool) (s : State) : State :=
  match s.group? p, (s.ckpOf p).verb with
  | some g, some v =>
    let k := s.ckpOf p
    if !s.live || k.phase = 4 then s
    else if !ok then s.endAll p .tierFailed
    else if k.phase != 3 then s
    else
      let c := s.colophonOf p g
      let r := k.reports.map (·.2)
      let lost := s.unreachable g
      let t := s.complete p v .ok 0
        [(0x20, 8, c.seq), (0x28, 8, c.tc), (0x30, 8, (r.map (·.units)).sum * shardBytes), (0x38, 8, (r.map (·.found)).sum),
         (0x40, 2, lost.length)]
      let t := t.takeColophon p c
      (List.range g.members.length).foldl (fun t m => if m = 0 || lost.contains m then t else t.tellMember p m (.colophon c)) t
  | _, _ => s

/-! ## Restore chains (R322) -/

/-- A partial of a chain: the survivor adds its own term and passes it on; the last one has the unit, which goes back to
its member where that can be reached. -/
def State.chainStep (s : State) (p r target : Nat) (lost remaining : List Nat) (data : Bytes) : State :=
  match s.group? p with
  | none => s
  | some g =>
    let n := g.members.length
    let me := s.memberNo g p
    if me = target then
      (s.modCkp p fun k => { k with rows := tput k.rows r { data := data, refs := [k.run] } }).countSat .ckpErasures p
    else
      let own := gfScale (rebuildCoef n r target lost me) (tgetD (s.ckpOf p).rows r {}).data
      let sum := gfAdd data own
      match remaining with
      | m :: rest => s.tellMember p m (.partialSum r target lost rest sum)
      | [] =>
        if s.memberUp (g.members.getD target (0, 0)) then s.tellMember p target (.partialSum r target lost [] sum)
        else s.countSat .ckpErasures p

/-- One more chain starts, at the first survivor. -/
def State.startChain (s : State) (p : Nat) : State :=
  match s.group? p with
  | none => s
  | some g =>
    let k := s.ckpOf p
    match k.chains with
    | [] => s
    | (r, target) :: rest =>
      let t := s.setCkp p { k with chains := rest }
      match (List.range g.members.length).filter fun m => !k.lost.contains m with
      | m :: l => t.tellMember p m (.partialSum r target k.lost l (zeros shardBytes))
      | [] => t

/-- SHARD_TRANSFER: a message of the checkpoint engine reaches member p. DESIGN CHOICE, log entry 9. -/
def State.takeMessage (s : State) (p : Nat) (m : CkptMsg) : State :=
  if !s.live || (s.group? p).isNone then s
  else
    let ph := (s.ckpOf p).phase
    let taking := ph = 1 || ph = 2 || ph = 3
    match m with
    | .request seq tc => s.takeRequest p seq tc
    | .digest src dg _ _ => if taking then s.answerDigest p src dg else s
    | .answer dg row => if ph = 2 then s.takeAnswer p dg row else s
    | .shard src x => if taking then s.storeShard p src x else s
    | .parity r j d => if taking then s.foldParity p r j d else s
    | .commitReport src r => s.takeReport p src r
    | .colophon c => s.takeColophon p c
    | .ended _ st =>
      (match s.group? p with
       | some g => if s.memberNo g p = 0 then s.endAll p st else s.endMember p st
       | none => s)
    | .restore seq => if ph = 0 then s.modCkp p fun k => { k with phase := 4, run := seq } else s
    | .partialSum r target lost rest d => if ph = 4 then s.chainStep p r target lost rest d else s

def doShardTransfer (p : Nat) (m : CkptMsg) (s : State) : State := s.takeMessage p m

/-! ## The engine's work at a tick -/

/-- One message between members of this device is taken, and every member goes on with one object or one chain. A
coordinator that has lost more than two members ends the checkpoint (R318). DESIGN CHOICE, log entry 9. -/
def State.ckptTick (s : State) : State :=
  let t : State := match s.ckp.inbox with
    | (q, m) :: r => State.takeMessage { s with ckp := { s.ckp with inbox := r } } q m
    | [] => s
  (t.ckp.parts.filter fun e => e.2.phase != 0).foldl (fun t e =>
    let p := e.1
    match t.group? p with
    | none => t
    | some g =>
      if (t.ckpOf p).phase = 4 then t.startChain p
      else if (t.ckpOf p).verb.isSome && (t.unreachable g).length > 2 then t.endAll p .tierFailed
      else t.copyOne p) t

/-! ## The commands of this file -/

/-- CKPT_TAKE (R308). -/
def execCkptTake (p vid : Nat) (others : Bool) (s : State) : Host.Outcome State Fault Refusal :=
  .next (doCkptTake p vid others s)

/-- CKPT_REQUEST (R308). -/
def execCkptRequest (p seq tc : Nat) (s : State) : Host.Outcome State Fault Refusal :=
  .next (doCkptRequest p seq tc s)

/-- CONSISTENCY_POINT (R311). -/
def execConsistencyPoint (p : Nat) (s : State) : Host.Outcome State Fault Refusal :=
  .next (doConsistencyPoint p s)

/-- CKPT_COMMIT (R317). -/
def execCkptCommit (p : Nat) (ok : Bool) (s : State) : Host.Outcome State Fault Refusal :=
  .next (doCkptCommit p ok s)

/-- SHARD_TRANSFER (R314). -/
def execShardTransfer (p : Nat) (m : CkptMsg) (s : State) : Host.Outcome State Fault Refusal :=
  .next (doShardTransfer p m s)

end Machine
end Sys2Proof
end

