-- ==== Sys2Proof/Machine/Boundary.lean ====
section
/-!
DEFINITION. Sys2Proof/Machine/Boundary.lean: the step boundary (R90, R94, R98, R163): absorption (R101), verification and
commits (R103), stops, output and records (R106, R177 to R180), targets (R104, R105), prefix entry (R80); and the failures
of T3 and T4 (R303, R304).
-/
namespace Sys2Proof
namespace Machine

/-! ## KV that has become part of the context -/

/-- A token at a place of the context: it joins the span's ledger unless it stands there, and its key is in KV. -/
def fillPlace (at_ : Nat × Nat) (tok : Nat) (spans : List Span) : List Span :=
  (enum spans).map fun e =>
    if e.1 != at_.1 then e.2
    else
      let x := if at_.2 < e.2.ledger.length then e.2 else { e.2 with ledger := e.2.ledger ++ [tok] }
      { x with valid := max x.valid (at_.2 + 1) }

/-- VALID of the folios of a sequence follows its entries (Table 3.1). -/
def State.settleSeq (s : State) (d n : Nat) : State :=
  let t := s.modSeq d n Seq.settle
  match t.seq? d n with
  | none => t
  | some q => (q.spans.flatMap (·.entries)).foldl (fun t e =>
      t.modFolio e.ref fun f => { f with valid := max f.valid e.valid }) t

/-- Spans that have become full enter the prefix index (R80): `was` are the tokens of each span before the step. -/
def State.enterFull (s : State) (p : Nat) (spans : List Span) (was : List Nat) : State :=
  let t := s.tokensPer p
  (enum spans).foldl (fun u e =>
    let before := spans.take e.1
    if e.2.valid = t && e.2.ledger.length = t && was.getD e.1 0 < t && e.2.pure &&
       before.all (fun x => x.pure && x.valid == t)
    then u.enterPrefix p (before.map (·.ledger)) e.2
    else u) s

/-- Spans at the end that hold no token are given back. -/
def State.trimSpans (s : State) (p d n : Nat) : State :=
  match s.seq? d n with
  | none => s
  | some q =>
    let out := q.spans.drop (usedSpans q.spans)
    if q.pending.any (fun r => r.span.isSome) then s
    else
      ((s.modSeq d n fun q => { q with spans := q.spans.take (usedSpans q.spans) }).dropRefs (out.flatMap Span.refs)).subPt p
        ((out.map fun x => x.entries.length).sum)

/-! ## Tip-ins and recompute work (R89, R101) -/

/-- What is left of an insertion goes on behind the span that its last token took. -/
def State.insertGoesOn (s : State) (p : Nat) (en : GEntry) (last : Nat) : State :=
  match en.span, s.seq? en.dir en.seq with
  | some i, some q =>
    let dest := fun (x : Option Nat) => if x == some i then some last else x
    let t := s.modSeq en.dir en.seq fun q => { q with pending := q.pending.map fun r => { r with span := dest r.span } }
    (match q.absorbing with
     | some vid => t.modVerb p vid fun v => { v with pieces := v.pieces.map fun x => { x with before := dest x.before } }
     | none => t)
  | _, _ => s

/-- The cheaper path of a step that has run stands for the records of the verbs behind it (R25, R107): a truncated window before a
skipped tree, that before recomputation. DESIGN CHOICE, log entry 15. -/
def Seq.ran (q : Seq) (en : GEntry) : Seq :=
  let path := if en.kind = 2 then max 1 en.cheaper else en.cheaper
  let window := en.cheaper == 3
  { q with tipWindow := if window && q.absorbing.isSome then some (en.windowPos, en.windowLen) else q.tipWindow,
           run := q.run.map fun r =>
             { r with cheaper := max r.cheaper path, truncated := r.truncated || window,
                      windowFirst := if window then en.windowPos else r.windowFirst,
                      windowLen := if window then en.windowLen else r.windowLen } }

/-- The step absorbs the entry's tokens; the verb completes at this boundary with its last one. -/
def State.absorbEntry (s : State) (p : Nat) (en : GEntry) : State :=
  match s.seq? en.dir en.seq with
  | none => s
  | some q =>
    let was := q.spans.map (·.valid)
    let places := s.placesOf p q en en.qLen
    let spans := if en.kind = 2 then q.spans else
      (places.zip en.tokens).foldl (fun l x => fillPlace x.1 x.2 l) q.spans
    let renum := match q.absorbing with
      | some v => (match s.verb? p v with | some w => w.op == .splice && w.flag flagRenumber | none => false)
      | none => false
    let spans := if renum && en.span.isSome then renumberFrom spans (en.slot0.1 + 1) else spans
    let t := (s.modSeq en.dir en.seq fun q =>
      ({ q with spans := spans, pending := dropRuns q.pending en.qLen } : Seq).ran en).settleSeq en.dir en.seq
    let t := if en.kind = 1 then t.insertGoesOn p en ((places.getLast?.map (·.1)).getD en.slot0.1) else t
    let t := t.trimSpans p en.dir en.seq
    let spans := match t.seq? en.dir en.seq with | some q => q.spans | none => []
    (t.enterFull p spans was).absorbed p en.dir en.seq

/-! ## Decoding (R103, R178, R180, R404) -/

/-- What the commits of one entry come to: tokens, nodes matched, and the ending, if the STEP ends. -/
structure Commit where
  s : State
  n : Nat := 0
  matched : Nat := 0
  node : Nat := 0
  ending : Option Status := none
  full : Bool := false
  deriving DecidableEq, Repr

/-- KV of a matched tree node moves from its tree slots to its folio slot (R103). -/
def State.keepNode (s : State) (p : Nat) (en : GEntry) (entryNo node : Nat) (at_ : Nat × Nat) : State :=
  match s.seq? en.dir en.seq with
  | none => s
  | some q =>
    ((s.spnOf p).treeKv.filter fun y => y.entry == entryNo && y.node == node).foldl (fun t y =>
      let heads := (((s.spnOf p).treeKv.map fun z => z.head + 1).foldl max 0)
      let prog := match s.program? p with | some g => max heads g.kvHeads | none => heads
      match spanEntry (s.layersPer p) y.layer (q.spans.getD at_.1 {}) with
      | none => t
      | some e =>
        let off := fun isV => kvOffset prog (s.tokensPer p) y.key.length (y.layer % s.layersPer p) isV y.head at_.2
        if !t.entryOk p e then
          (t.pteFault p en.dir en.seq).modSeq en.dir en.seq fun q => { q with run := q.run.map fun r =>
            { r with endWith := some (r.endWith.getD .tierFailed) } }
        else t.modFolio e.ref fun f => { f with t0 := some (mwrites (mwrites f.bytes (off 0) y.key) (off 1) y.value),
                                                dirty := true, digest := none }) s

/-- One drawn token is committed (R24): ledger, step counter, grammar, text, output. -/
def State.commitToken (s : State) (p : Nat) (en : GEntry) (tok : Nat) : State × Option Status × Bool :=
  match s.seq? en.dir en.seq with
  | none => (s, none, false)
  | some q =>
    match q.run with
    | none => (s, none, false)
    | some r =>
      let d := en.dir
      let n := en.seq
      let v := s.vocab p
      let place := endPlace (s.tokensPer p) q.spans
      let spans := if place.1 < q.spans.length then q.spans else
        q.spans ++ [{ pos := nextPosOf q.spans, pure := q.spans.all fun x => x.pure }]
      let spans := (enum spans).map fun e =>
        if e.1 = place.1 then { e.2 with ledger := e.2.ledger ++ [tok], pos := if e.2.ledger.isEmpty then nextPosOf q.spans else e.2.pos }
        else e.2
      let (gs, gk) := match s.grammarOf p q.grammar with
        | some g => walkCommit g v q.gState q.gStack tok
        | none => (q.gState, q.gStack)
      let (f, ending) := stopCheck v r q.tail tok
      let r := { r with emitted := r.emitted + 1, recTokens := r.recTokens + 1 }
      let t := s.modSeq d n fun q => ({ q with spans := spans, stepCounter := q.stepCounter + 1, gState := gs, gStack := gk,
                                               tail := f.tail, overhang := f.overhang, run := some r } : Seq).settle
      let t := (t.release p d n f.out).count .txtOvfLookups p (v.overflow [tok])
      match t.seq? d n with
      | none => (t, none, false)
      | some q' =>
        let full := match q'.run with | some r' => r'.full | none => false
        let ending := match ending with
          | some e => some e
          | none => if r.emitted ≥ r.maxNew || q'.ctxLen ≥ Config.maxContext || full then some .length else none
        (t, ending, full)

/-- The verification of an entry along the tokens that were drawn. -/
def State.verify (s : State) (p : Nat) (en : GEntry) (entryNo : Nat) (places : List (Nat × Nat)) :
    List (Nat × Nat) → Commit → Commit
  | [], x =>
    let dead := en.masks.any fun m => m.1 == x.node && m.2.all (· == 0)
    if x.ending.isNone && dead then
      if x.node = 0 then { x with ending := some .grammarDead }
      else
        let depth := (en.tree.getD (x.node - 1) { token := 0, parent := 0, depth := 0 }).depth
        let at_ := places.getD depth (0, 0)
        let t := (x.s.keepNode p en entryNo x.node at_).modSeq en.dir en.seq fun q =>
          { q with spans := fillPlace at_ 0 q.spans }
        { x with s := t, matched := x.matched + 1, ending := some .grammarDead }
    else x
  | (node, tok) :: rest, x =>
    if x.ending.isSome then x
    else
      let depth := if node = 0 then 0 else (en.tree.getD (node - 1) { token := 0, parent := 0, depth := 0 }).depth
      let t := if node = 0 then x.s else x.s.keepNode p en entryNo node (places.getD depth (0, 0))
      let t := if node = 0 && en.old then t else
        t.modSeq en.dir en.seq fun q => { q with spans := fillPlace (places.getD depth (0, 0)) tok q.spans }
      let (t, ending, full) := t.commitToken p en tok
      let x := { x with s := t, n := x.n + 1, matched := if node = 0 then x.matched else x.matched + 1, node := node,
                        ending := ending, full := full }
      let next := match rest with | (m, _) :: _ => m | [] => (childWith en.tree node tok).getD node
      s.verify p en entryNo places rest { x with node := next }

/-- Deadlines and measures of one commit (R104, R105). -/
def State.countSlo (s : State) (d n committed : Nat) : State :=
  match s.seq? d n with
  | none => s
  | some q =>
    match q.run with
    | none => s
    | some r =>
      if committed = 0 then s
      else
        let first := r.emitted = committed
        let next := if r.tbtUs = 0 then none else some (s.now + 1000 * r.tbtUs)
        let dl := if first then q.ttftDeadline else q.nextDeadline
        let late := match dl with | some x => decide (s.now > x) | none => false
        let t :=
          match dl with
          | none => s
          | some _ =>
            if first then s.count (if late then .spnSloMissTtft else .spnSloMetTtft) q.queue
            else s.count (if late then .spnSloMissTbt else .spnSloMetTbt) q.queue
        let tbt := s.now - q.lastEmit
        let r := if first then { r with ttftNs := s.now - q.arrival, ttftMiss := r.ttftMiss || late, tbtNs := 0 }
          else { r with tbtNs := tbt, maxTbt := max r.maxTbt tbt, tbtMiss := r.tbtMiss || late }
        t.modSeq d n fun q => { q with run := some r, lastEmit := s.now, nextDeadline := next }

/-- The nodes of a template, breadth-first: how many candidates of the next head each takes (R102). -/
def growTree (heads : List (Nat × List Nat)) : List Nat → List (Nat × Nat) → List TreeNode → List TreeNode
  | [], _, acc => acc
  | _, [], acc => acc
  | c :: counts, (node, depth) :: queue, acc =>
    let l := match heads.find? (fun h => h.1 == depth + 1) with | some h => h.2.take c | none => []
    let kids := l.map fun t => ({ token := t, parent := node, depth := depth + 1 } : TreeNode)
    growTree heads counts (queue ++ (List.range kids.length).map fun i => (acc.length + 1 + i, depth + 1)) (acc ++ kids)

/-- The tree that a step proposes, from the ranked candidates at its last committed position. -/
def State.propose (s : State) (p : Nat) (q : Seq) (en : GEntry) (node : Nat) : List TreeNode :=
  if !q.specOn then []
  else
    let heads := (en.heads.filter fun h => h.1 == node).map fun h => (h.2.1, h.2.2)
    match s.program? p with
    | none => []
    | some g =>
      match g.templates.find? (fun x => x.heads == q.specHeads && x.nodes == q.specNodes) with
      | some t => (growTree heads t.counts [(0, 0)] []).take 64
      | none => []

/-- A CLOSE has been read for the sequence (R108). -/
def State.closing (s : State) (p d n : Nat) : Bool :=
  (s.verbs p).any fun v => v.op == .close && v.phase == .begun && v.dir == d && (v.flag flagSession || v.seq == n)

/-- A decode entry at the boundary. -/
def State.decodeEntry (s : State) (p entryNo : Nat) (en : GEntry) : State :=
  let d := en.dir
  let n := en.seq
  match s.seq? d n with
  | none => s
  | some q =>
    if q.run.isNone || s.closing p d n then s
    else
      let was := q.spans.map (·.valid)
      let places := s.placesOf p q en (1 + en.depth)
      let x := s.verify p en entryNo places en.samples { s := s }
      let last := match en.samples[x.n - 1]? with | some y => if x.n = 0 then 0 else y.1 | none => 0
      let t := (x.s.settleSeq d n).countSlo d n x.n
      let t := t.modSeq d n fun q => q.ran en
      let t := t.modSeq d n fun q =>
        { q with specProposed := q.specProposed + en.tree.length, specAccepted := q.specAccepted + x.matched,
                 tree := [], run := q.run.map fun r =>
                   { r with recProposed := r.recProposed + en.tree.length, recAccepted := r.recAccepted + x.matched } }
      let t := t.modSeq d n fun q => { q with tree := t.propose p q en last }
      let spans := match t.seq? d n with | some q => q.spans | none => []
      let t := t.enterFull p spans was
      let asked : Option Status := match t.seq? d n with
        | some q => (match q.run with
          | some r => if !r.stopVerbs.isEmpty then some .cancelled else r.endWith
          | none => none)
        | none => none
      let t :=
        match (match x.ending with | some e => some e | none => asked) with
        | some .epochRetired => t
        | some st => (t.endStep p d n st x.full).modSeq d n fun q => { q with stopping := false }
        | none => if x.n > 0 && (match q.run with | some r => r.stream | none => false) then t.partialRecord p d n else t
      t.trimSpans p d n

/-! ## STEP_BOUNDARY (R90) -/

/-- Every engine of the partition has reached END of its part of the step. -/
def State.stepEnded (s : State) (p : Nat) : Bool :=
  (s.enginesOf p).all fun e => match s.ctx? e 0 with | some y => y.ended | none => false

/-- SPN_STEP_EST after a step (R94). -/
def nextEst (est dur : Nat) : Nat := ((est : Int) + Int.tdiv ((dur : Int) - est) 8).toNat

/-- The STEPs that a drain deadline has met end, in ring order (R239). -/
def State.endRetired (s : State) (p : Nat) : State :=
  (s.verbs p).foldl (fun (t : State) (v : Verb) =>
    match t.seq? v.dir v.seq with
    | none => t
    | some q =>
      match q.run with
      | some r =>
        if v.op == .step && r.verb == v.id && r.endWith == some .epochRetired && r.stopVerbs.isEmpty &&
           !t.closing p v.dir v.seq then
          ((t.endStep p v.dir v.seq .epochRetired).modSeq v.dir v.seq fun q => { q with stopping := false }).trimSpans p v.dir v.seq
        else t
      | none => t) s

/-- STEP_BOUNDARY. -/
def doStepBoundary (p : Nat) (s : State) : State :=
  match (s.spnOf p).cur with
  | none => s
  | some g =>
    if !s.live || s.partFenced p || !s.stepEnded p then s
    else
      let t := (enum g.entries).foldl (fun t e =>
        if e.2.kind = 0 then t.decodeEntry p e.1 e.2
        else if t.closing p e.2.dir e.2.seq then t
        else t.absorbEntry p e.2) s
      let t := g.entries.foldl (fun t e => t.unstage e.pins) t
      let t := g.entries.foldl (fun t e => t.unpins e.pins) t
      let t := (((s.spnOf p).owed ++ g.hitVerbs).foldl (fun t v => t.completeHit p v) t).endRetired p
      (t.modSpn p fun x => { x with cur := none, treeKv := [], owed := [], estNs := nextEst x.estNs (s.now - g.releasedAt) }).count
        .spnPartHeartbeat p

/-! ## Failed tiers (R303, R304, Table 14.6) -/

/-- The sequences of a partition that read a folio. -/
def State.readers (s : State) (p i : Nat) : List (Nat × Seq) :=
  (s.allSeqs p).filter fun e => e.2.spine.isSome && e.2.refs.contains i

/-- A promotion is abandoned: the folio stays where it is, and its place in T1 is given back. -/
def State.abandonPromotion (s : State) (i : Nat) : State :=
  match s.folio? i with
  | none => s
  | some f =>
    let t := if f.moveCls == .b then s.subDemand f.part f.tier Config.folioBytes else s
    ((t.setFolio i { f with promoting := false }).modFolPart f.part fun x => { x with t1Use := x.t1Use - 1 }).unpin i

/-- A PLACE that moves this folio completes with TIER_FAILED. -/
def State.failPlace (s : State) (p i : Nat) : State :=
  match (s.folPart p).places.find? (fun o => o.left.contains i) with
  | none => s
  | some o => (s.modFolPart p fun x => { x with places := x.places.filter fun w => w.verb != o.verb }).complete p o.verb .tierFailed

/-- The failed read of a selected sequence: R88's policy for a failed tier. -/
def State.failedRead (s : State) (p i tier : Nat) : State :=
  let sel := fun (e : Nat × Seq) => match (s.spnOf p).next with
    | some g => g.entries.find? fun (x : GEntry) => x.dir == e.1 && x.seq == e.2.num
    | none => none
  (s.readers p i).foldl (fun t e =>
    let en := (sel e).getD { dir := e.1, seq := e.2.num, spine := 0, kind := 0, qLen := 1 }
    if (sel e).isNone && !e.2.stalled then t
    else
      let (t, keep) := t.miss p e.2 .failed tier 0 [i] en
      t.modSpn p fun x => { x with next := x.next.map fun g =>
        { g with entries := g.entries.filterMap fun y => if y.dir = e.1 && y.seq = e.2.num then keep else some y } }) s

/-- The failure of one folio's move. -/
def State.folioFailed (s : State) (i : Nat) : State :=
  match s.folio? i with
  | none => s
  | some f =>
    let p := f.part
    if f.demoting then
      (((s.setFolio i { f with demoting := false }).freeTier p f.target f.targetLoc).failPlace p i).pressureStep p
    else if f.promoting then
      let t := s.abandonPromotion i
      if f.moveCls == .d then t.count .folPrefetchFail p
      else (t.failPlace p i).failedRead p i f.tier
    else s

/-- The failure of a quire's transfer: PARK, a revive, or a sent hand-off (R278). -/
def State.quireFailed (s : State) (d : Nat) : State :=
  match s.session? d with
  | none => s
  | some x =>
    match x.parkOp with
    | some o => (s.abandonPark d).complete x.part o.verb .tierFailed
    | none =>
      if x.revive.isSome then s.failRevive d .tierFailed
      else
        match x.send with
        | some o => if o.phase == .writing then
            s.modSession d fun x => { x with send := some { o with failing := some .tierFailed } } else s
        | none => s

/-- The partition and the tier of a failed transfer. -/
def State.failedAt (s : State) : TierTarget → Option (Nat × Nat)
  | .folio i => (match s.folio? i with
    | some f => if f.promoting then some (f.part, f.tier) else if f.demoting then some (f.part, f.target) else none
    | none => none)
  | .quire d => (match s.session? d with
    | some x => (match x.parkOp, x.quire with
      | some o, _ => some (x.part, o.tier)
      | none, some q => some (x.part, q.tier)
      | none, none => if x.send.isNone then none else
        (x.kvFolios.find? fun i => match s.folio? i with | some f => f.tier ≥ 3 | none => false).bind fun i =>
          (s.folio? i).map fun f => (x.part, f.tier))
    | none => none)
  | .query p id => if (s.queriesOf p).any fun q => q.verb == id && !q.localDone then some (p, 4) else none

/-- The operation ends as Table 14.6 gives. -/
def State.tierFail (s : State) (x : TierTarget) : State :=
  match x with
  | .folio i => s.folioFailed i
  | .quire d => s.quireFailed d
  | .query p id => s.setQueries p (lmod (fun (q : QueryOp) => q.verb == id) (fun q => { q with t4Failed := true }) (s.queriesOf p))

/-- A T3 failure is counted and reported (R303); a failed tag is counted besides. -/
def State.countT3 (s : State) (p tier : Nat) (tag : Bool) : State :=
  if tier != 3 then s
  else
    let t := s.countSat .hifT3Fail p
    let t := if tag then t.countSat .hifT3TagFail else t
    t.raise 0xA1 { part := some p }

/-- TIER_FAILURE: a read or a write of T3 or T4 fails, its tag among the reasons. -/
def doTierFailure (x : TierTarget) (tag : Bool) (s : State) : State :=
  match s.failedAt x with
  | none => s
  | some (p, tier) => if s.live then (s.countT3 p tier tag).tierFail x else s

/-- TIMEOUT_US of HIF_T3_CFG in ns; 0 acts as 1 (Table 14.9). -/
def State.t3TimeoutNs (s : State) : Nat := max 1 (bits (s.reg .hifT3Cfg) 49 32) * 1000

/-- Since when a transfer has run. -/
def State.transferSince (s : State) : TierTarget → Nat
  | .folio i => (match s.folio? i with | some f => f.moveSince | none => s.now)
  | .quire d => (match s.session? d with
    | some x => (match x.parkOp, x.revive with
      | some o, _ => o.began
      | none, some o => o.began
      | none, none => s.now)
    | none => s.now)
  | .query p id => (match (s.queriesOf p).find? (fun q => q.verb == id) with | some q => q.since | none => s.now)

/-- T3_TIMEOUT: a T3 transfer has gone unanswered for TIMEOUT_US (R303). DEDUCED, log entry 20. -/
def doT3Timeout (x : TierTarget) (s : State) : State :=
  match s.failedAt x with
  | some (p, 3) =>
    if s.live && s.now ≥ s.transferSince x + s.t3TimeoutNs then (s.countT3 p 3 false).tierFail x else s
  | _ => s

/-! ## The commands of this file -/

/-- STEP_BOUNDARY (R90). -/
def execStepBoundary (p : Nat) (s : State) : Host.Outcome State Fault Refusal :=
  .next (doStepBoundary p s)

/-- TIER_FAILURE (R304). -/
def execTierFailure (x : TierTarget) (tag : Bool) (s : State) : Host.Outcome State Fault Refusal :=
  .next (doTierFailure x tag s)

/-- T3_TIMEOUT (R303). -/
def execT3Timeout (x : TierTarget) (s : State) : Host.Outcome State Fault Refusal :=
  .next (doT3Timeout x s)

end Machine
end Sys2Proof
end

