-- ==== Sys2Proof/Machine/Close.lean ====
section
/-!
DEFINITION. Sys2Proof/Machine/Close.lean: CLOSE (R38, R44, R51, R108, Table 13.5).
-/
namespace Sys2Proof
namespace Machine

/-- The verbs that a CLOSE overtakes: those of its session, or of its sequence, that stand before it on the ring and have
not completed. -/
def State.overtaken (s : State) (p : Nat) (v : Verb) : List Verb :=
  (before v.id (s.verbs p)).filter fun w =>
    w.scope != .part && w.handle == v.handle && (v.flag flagSession || (w.scope == .sequence && w.seq == v.seq))

/-- One overtaken verb completes with CANCELLED; what it had under way is abandoned. -/
def State.cancelVerb (s : State) (p : Nat) (w : Verb) : State :=
  match s.verb? p w.id with
  | none => s
  | some v =>
    let d := v.dir
    let t :=
      if v.phase != .running then s
      else match v.op with
        | .step => s.endStep p d v.seq .cancelled false false
        | .append | .splice => s.endInput p d v.seq .cancelled
        | .park => s.abandonPark d
        | .revive => s.abandonRevive d
        | .place => s.modFolPart p fun x => { x with places := x.places.filter fun o => o.verb != v.id }
        | _ => s
    t.complete p v.id .cancelled

/-- A sequence closes: it leaves the gathering under construction, its references and its Spine entry are released. -/
def State.closeSeq (s : State) (p d n : Nat) : State :=
  let t := (s.leaveNext p d n).dropSeq d n
  let t := t.modSeq d n fun q => { q with state := .closed, stopping := false }
  t.setRec d { t.recOf d with live := (t.recOf d).live - 1 }

/-- A sequence or session is no suspect any more (R338). -/
def State.unsuspect (s : State) (p d : Nat) (n : Option Nat) : State :=
  let r := s.recPart p
  let keep := fun (e : Nat × Nat) => e.1 != d || (match n with | some k => e.2 != k | none => false)
  s.setRecPart p { r with suspects := r.suspects.filter keep, hits := r.hits.filter keep }

/-- The sequences that a CLOSE covers. -/
def closeCovers (v : Verb) (x : Session) : List Nat :=
  if v.flag flagSession then (x.seqs.map (·.1)) else [v.seq]

/-- A session-scope verb of the session runs; a hand-off is governed by Table 13.5. -/
def State.sessionVerbRuns (s : State) (p : Nat) (v : Verb) : Bool :=
  (s.verbs p).any fun w => w.id != v.id && w.scope == .session && w.handle == v.handle && w.op != .close &&
    w.op != .handoffSend && (w.phase == .running || w.phase == .begun)

/-- The CLOSE ends the session: it is of session scope, or names the last live sequence. -/
def closesSession (v : Verb) (x : Session) : Bool :=
  v.flag flagSession || (x.liveSeqs.all fun q => q.num == v.seq)

/-- What a CLOSE does once nothing holds it back: the verbs it overtakes, then the sequence or the session, then OK. -/
def State.closeNow (s : State) (p : Nat) (v : Verb) (x : Session) : State :=
  let d := v.dir
  let t := (s.overtaken p v).foldl (fun t w => t.cancelVerb p w) s
  let t := (closeCovers v x).foldl (fun t n => (t.endStep p d n .cancelled false false).endInput p d n .cancelled) t
  let t := t.unsuspect p d (if v.flag flagSession then none else some v.seq)
  let t :=
    if closesSession v x then ((closeCovers v x).foldl (fun t n => t.leaveNext p d n) t).endSession d
    else t.closeSeq p d v.seq
  t.complete p v.id .ok

/-- CLOSE. It acts as soon as it is read; for a step in flight that holds tokens of its sequences, at the boundary (R108);
after a running verb of session scope; and in a hand-off as Table 13.5 gives. -/
def doClose (p vid : Nat) (s : State) : State :=
  match s.begun? p vid .close with
  | none => s
  | some v =>
    match s.refuses p v with
    | some st => s.complete p vid st
    | none =>
      match s.session? v.dir with
      | none => s.complete p vid .badHandle
      | some x =>
        match x.send with
        | some o =>
          if o.closing.isSome || (o.failing.isSome && !o.done) then s
          else s.abandonSend v.dir (if closesSession v x then some vid else none) .cancelled
        | none =>
          if (closeCovers v x).any (fun n => s.inFlight p v.dir n) then s
          else if !v.flag flagSession && s.sessionVerbRuns p v then s
          else s.closeNow p v x

/-! ## The commands of this file -/

/-- CLOSE (R44). -/
def execClose (p vid : Nat) (s : State) : Host.Outcome State Fault Refusal :=
  .next (doClose p vid s)

end Machine
end Sys2Proof
end

