-- ==== Sys2Proof/Machine/Recall.lean ====
section
/-!
DEFINITION. Sys2Proof/Machine/Recall.lean: the recall unit (chapter 9): index images, generations and tombstones, the
sketch, the walk and the exact scores of a QUERY, and its shards.
-/
namespace Sys2Proof
namespace Machine

/-! ## Index images (Table 9.3, Table 9.4) -/

/-- Fields of an image's header. -/
def ixNodes (b : Bytes) : Nat := fld b 8 4
def ixDims (b : Bytes) : Nat := fld b 0xC 2
def ixBf16 (b : Bytes) : Bool := fld b 0xE 1 = 1
def ixL2 (b : Bytes) : Bool := fld b 0xF 1 = 1
def ixBits (b : Bytes) : Nat := fld b 0x10 2
def ixDegree (b : Bytes) : Nat := fld b 0x12 1
def ixEntries (b : Bytes) : List Nat := (List.range (fld b 0x13 1)).map fun i => fld b (0x14 + 4 * i) 4
/-- Offset of section k: projection, sketches, adjacency, metadata, vectors. -/
def ixAt (b : Bytes) (k : Nat) : Nat := fld b (0x54 + 8 * k) 8
/-- Bytes of section k. -/
def ixLen (b : Bytes) (k : Nat) : Nat :=
  match k with
  | 0 => ixBits b * ixDims b * 2
  | 1 => ixNodes b * (ixBits b / 8)
  | 2 => ixNodes b * ixDegree b * 4
  | 3 => ixNodes b * 16
  | _ => ixNodes b * ixDims b * 2

/-- An unused place of an adjacency list. -/
def noNode : Nat := 0xFFFFFFFF
/-- Neighbours of a node in stored order. -/
def ixAdj (b : Bytes) (n : Nat) : List Nat :=
  (List.range (ixDegree b)).map fun i => fld b (ixAt b 2 + 4 * (n * ixDegree b + i)) 4
/-- Sketch, tag bits, image tombstone and label of a node. -/
def ixSketch (b : Bytes) (n : Nat) : Nat := fld b (ixAt b 1 + n * (ixBits b / 8)) (ixBits b / 8)
def ixFilter (b : Bytes) (n : Nat) : Nat := fld b (ixAt b 3 + 16 * n) 4
def ixTomb (b : Bytes) (n : Nat) : Nat := fld b (ixAt b 3 + 16 * n + 4) 4
def ixLabel (b : Bytes) (n : Nat) : Nat := fld b (ixAt b 3 + 16 * n + 8) 8

/-- The header keeps to R190, for an image of `len` bytes. -/
def ixHeadOk (b : Bytes) (len : Nat) : Bool :=
  let n := ixNodes b
  let d := ixDims b
  let g := ixDegree b
  let k := fld b 0x13 1
  fld b 0 4 = 0x58434449 && fld b 4 4 = 1 && 1 ≤ n && n ≤ 2000000000 && 16 ≤ d && d ≤ 4096 && d % 16 = 0 &&
  fld b 0xE 1 ≤ 1 && fld b 0xF 1 ≤ 1 && (ixBits b = 256 || ixBits b = 512 || ixBits b = 1024) && 8 ≤ g && g ≤ 64 &&
  g % 8 = 0 && 1 ≤ k && k ≤ 16 && (ixEntries b).all (· < n) && zeroFld b (0x14 + 4 * k) (64 - 4 * k) &&
  zeroFld b 0x7C 3972 && (List.range 5).all fun j => ixAt b j ≥ 4096 && ixAt b j + ixLen b j ≤ len

/-- The image keeps to R190. -/
def ixOk (b : Bytes) (len : Nat) : Bool :=
  let n := ixNodes b
  ixHeadOk b len && (List.range n).all (fun i => (ixAdj b i).all fun m => m < n || m = noNode) &&
  (List.range n).all (fun i => ixTomb b i ≤ 1)

/-- Folios of T1 and of T4 that a generation takes: sketches, lists, metadata and projection; pages of vectors. -/
def ixT1 (b : Bytes) : Nat := ceilDiv (ixLen b 0 + ixLen b 1 + ixLen b 2 + ixLen b 3) Config.folioBytes
/-- Vectors on one 4 KiB page, and pages of one longer vector. -/
def perPage (b : Bytes) : Nat := max 1 (4096 / (2 * ixDims b))
def pagesEach (b : Bytes) : Nat := ceilDiv (2 * ixDims b) 4096
def ixPages (b : Bytes) : Nat := if 2 * ixDims b ≤ 4096 then ceilDiv (ixNodes b) (perPage b) else ixNodes b * pagesEach b
def ixT4 (b : Bytes) : Nat := ceilDiv (ixPages b * 4096) Config.folioBytes

/-! ## Generations (R193 to R196) -/

/-- The tombstone of a node: committed since the load, or the image's. -/
def IndexGen.tomb (g : IndexGen) (n : Nat) : Nat := tgetD g.tombs n (ixTomb g.image n)
/-- The node is deleted for a QUERY that took `epoch` (R196). -/
def IndexGen.deleted (g : IndexGen) (n epoch : Nat) : Bool := g.tomb n != 0 && g.tomb n ≤ epoch

def State.index? (s : State) (p i : Nat) : Option RIndex := tget (s.indexesOf p) i
def State.setIndex (s : State) (p i : Nat) (x : RIndex) : State := s.setIndexes p (tput (s.indexesOf p) i x)
/-- The current generation of an index that serves. -/
def State.current? (s : State) (p i : Nat) : Option IndexGen :=
  match s.index? p i with
  | some x => if x.dropping then none else x.gens.head?
  | none => none
def RIndex.genOf (x : RIndex) (g : Nat) : Option IndexGen := x.gens.find? fun y => y.gen == g

/-- Nodes of every generation that the device holds (R189). -/
def State.nodesHeld (s : State) : Nat :=
  (s.rcl.indexes.flatMap fun e => e.2.flatMap fun i => i.2.gens.map fun g => ixNodes g.image).sum +
    (s.rcl.loads.map (·.nodes)).sum

/-- Indexes of one partition. -/
def maxIndexes : Nat := 16
/-- Pending nodes of one generation. -/
def maxPending : Nat := 1048576

/-- Places in T4 for `n` folios. -/
def State.takeT4 (s : State) (p : Nat) : Nat → List Nat → Option (List Nat × State)
  | 0, acc => some (acc.reverse, s)
  | n + 1, acc =>
    match s.allocT4 p with
    | none => none
    | some (loc, t) => t.takeT4 p n (loc :: acc)

/-- A generation's space is released. -/
def State.freeGen (s : State) (p : Nat) (g : IndexGen) : State :=
  let t := g.locs.foldl (fun t l => t.freeT4 p l) s
  (t.modFolPart p fun x => { x with t1Use := x.t1Use - g.t1 }).pressureStep p

/-- Bytes of an image's header (Table 9.3). -/
def ixHeader : Nat := 4096

/-- The indexes that a partition holds or is loading for the first time. -/
def State.indexCount (s : State) (p : Nat) : Nat :=
  (s.indexesOf p).length +
    (((s.rcl.loads.filter fun o => o.part == p && (s.index? p o.index).isNone).map (·.index)).eraseDups).length

def State.load? (s : State) (p vid : Nat) : Option LoadOp := s.rcl.loads.find? fun o => o.part == p && o.verb == vid
def State.setLoads (s : State) (l : List LoadOp) : State := { s with rcl := { s.rcl with loads := l } }

/-- An INDEX_LOAD holds nothing any more: what it held is free unless `kept`, and its index is loading no longer. -/
def State.endLoad (s : State) (p vid : Nat) (kept : Bool) : State :=
  match s.load? p vid with
  | none => s
  | some o =>
    let t := s.setLoads (s.rcl.loads.filter fun x => !(x.part == p && x.verb == vid))
    let t := match t.index? p o.index with
      | some x => t.setIndex p o.index { x with loading := false }
      | none => t
    if kept then t
    else
      ((o.locs.foldl (fun t l => t.freeT4 p l) t).modFolPart p fun f => { f with t1Use := f.t1Use - o.t1 }).pressureStep p

/-- INDEX_LOAD begins: the identifier is checked, and the image's header is read from the host (`head`; none: the read failed). The
space of the new generation is held from now on, beside the current one's, while the image is read in class C (R193). -/
def doIndexLoad (p vid : Nat) (head : Option Bytes) (s : State) : State :=
  match s.begun? p vid .indexLoad with
  | none => s
  | some v =>
    let i := v.f 0x30 2
    match head with
    | none => s.complete p vid .badArgument
    | some b =>
      if i = 0 || !ixHeadOk b (v.f 0x28 8) then s.complete p vid .badArgument
      else if ((s.index? p i).isNone && s.indexCount p ≥ maxIndexes) || !s.t1Room p (ixT1 b) ||
          s.nodesHeld + ixNodes b > Config.recallNodes then s.complete p vid .noCapacity
      else
        match s.takeT4 p (ixT4 b) [] with
        | none => s.complete p vid .noCapacity
        | some (locs, t) =>
          let o : LoadOp := { part := p, verb := vid, index := i, header := b.take ixHeader, t1 := ixT1 b, locs := locs, nodes := ixNodes b }
          let t := ((t.modFolPart p fun f => { f with t1Use := f.t1Use + ixT1 b }).checkPressure p).setLoads (t.rcl.loads ++ [o])
          let t := match t.index? p i with | some x => t.setIndex p i { x with loading := true } | none => t
          (t.runVerb p vid).request .host { cls := .c, len := v.f 0x28 8, owner := some (.verb p vid) }

/-- The generation and epoch that a QUERY of the present instant takes: after a switch or a commit of this instant those from
before it (R194). -/
def State.taken (s : State) (x : RIndex) : Option (Nat × Nat) :=
  if x.changedAt == some s.now then x.before else x.gens.head?.map fun g => (g.gen, g.epoch)

/-- INDEX_SWITCH: the whole image has been read (`img`; none: the host read failed) and checked, and its vectors stand in T4
(`stored`; else the verb ends with TIER_FAILED): the index switches in one instant (R193). -/
def doIndexSwitch (p vid : Nat) (img : Option Bytes) (stored : Bool) (s : State) : State :=
  match s.running? p vid .indexLoad, s.load? p vid with
  | some v, some o =>
    let x := (s.index? p o.index).getD {}
    let stop := fun (st : Status) => (s.endLoad p vid false).complete p vid st
    match img with
    | none => stop .badArgument
    | some b =>
      if b.take ixHeader != o.header || !ixOk b (min b.length (v.f 0x28 8)) then stop .badArgument
      else if !stored then stop .tierFailed
      else
        let g := ((x.gens.head?.map (·.gen)).getD 0) + 1
        let new : IndexGen := { gen := g, image := b, t1 := o.t1, locs := o.locs }
        let old := x.gens.map fun y => { y with pending := [] }
        let y : RIndex := { x with gens := new :: old, changedAt := some s.now, before := s.taken x }
        ((s.setIndex p o.index y).endLoad p vid true).complete p vid .ok 0 [(0x28, 4, g)]
  | _, _ => s

/-- GENERATION_RELEASE: an earlier generation goes once no QUERY uses it; the last one of a dropped index takes the index
with it (R194). -/
def doGenerationRelease (p i gen : Nat) (s : State) : State :=
  match s.index? p i with
  | none => s
  | some x =>
    match x.genOf gen with
    | none => s
    | some g =>
      if !s.live || !g.users.isEmpty || (!x.dropping && ((x.gens.head?.map (·.gen)) == some gen ||
          (x.changedAt == some s.now && x.before.map (·.1) == some gen))) then s
      else
        let t := s.freeGen p g
        let rest := x.gens.filter fun y => y.gen != gen
        if rest.isEmpty then
          let t := t.setIndexes p (tdel (t.indexesOf p) i)
          t.completeAll p (((t.verbs p).filter fun v => v.op == .indexDrop && v.phase == .running && v.f 0x2A 2 == i).map (·.id)) .ok
        else t.setIndex p i { x with gens := rest }

/-- DELETE (R195). -/
def doDelete (p vid : Nat) (nodes : Option Bytes) (s : State) : State :=
  match s.begun? p vid .delete with
  | none => s
  | some v =>
    let i := v.f 0x2A 2
    let cnt := v.f 0x28 2
    if cnt > 4096 || i = 0 then s.complete p vid .badArgument
    else
      match s.index? p i, s.current? p i with
      | some x, some g =>
        if g.gen != v.f 0x2C 4 then s.complete p vid .badState
        else
          let b := if cnt = 0 then some [] else nodes
          (match b with
           | none => s.complete p vid .badArgument
           | some b =>
             let l := (List.range cnt).map fun k => fld b (4 * k) 4
             if l.any (fun n => n ≥ ixNodes g.image) then s.complete p vid .badArgument
             else
               let new := (l.eraseDups).filter fun n => g.tomb n = 0 && !g.pending.contains n
               let commit := v.flag flagCommit
               if g.pending.length + new.length > maxPending || (commit && g.epoch + 1 > 0xFFFFFFFF)
               then s.complete p vid .noCapacity
               else
                 let pend := g.pending ++ new
                 let g' := if commit then
                     { g with tombs := pend.foldl (fun m n => tput m n (g.epoch + 1)) g.tombs, pending := [],
                              epoch := g.epoch + 1 }
                   else { g with pending := pend }
                 let gens := x.gens.map fun y => if y.gen = g.gen then g' else y
                 let y := if commit then { x with gens := gens, changedAt := some s.now, before := s.taken x } else { x with gens := gens }
                 (s.setIndex p i y).complete p vid .ok)
      | _, _ => s.complete p vid .badState

/-- INDEX_DROP: the index serves no QUERY from now on, and is gone once no QUERY uses it. DEDUCED, log entry 23. -/
def doIndexDrop (p vid : Nat) (s : State) : State :=
  match s.begun? p vid .indexDrop with
  | none => s
  | some v =>
    let i := v.f 0x2A 2
    match s.index? p i with
    | none => s.complete p vid .badState
    | some x =>
      if x.gens.isEmpty || x.dropping then s.complete p vid .badState
      else if x.gens.all fun g => g.users.isEmpty then
        let t := x.gens.foldl (fun t g => t.freeGen p g) s
        (t.setIndexes p (tdel (t.indexesOf p) i)).complete p vid .ok
      else (s.setIndex p i { x with dropping := true }).runVerb p vid

/-! ## The search (R198 to R200) -/

/-- Parameters of a search (Table 9.7). -/
structure SearchPrm where
  count : Nat
  queueLen : Nat
  rerank : Nat
  visitMax : Nat
  mask : Nat
  value : Nat
  exact : Bool
  deriving DecidableEq, Repr, Inhabited

/-- Elements of a vector, BF16 or FP16, as FP32. -/
def vecOf (bf16 : Bool) (dims : Nat) (b : Bytes) : List Nat :=
  (List.range dims).map fun i =>
    let w := fld b (2 * i) 2
    encFv (if bf16 then decodeIeee 8 7 w else decodeIeee 5 10 w)

/-- FP32 sum of products over the tree of R122. -/
def dotSum (a b : List Nat) : Nat := sumTree ((a.zip b).map fun e => f32mul e.1 e.2)

/-- The sketch of a query (R198): bit b is set when the dot product with row b is +0 or greater. -/
def sketchOf (img : Bytes) (q : List Nat) : Nat :=
  let d := ixDims img
  (List.range (ixBits img)).foldl (fun acc b =>
    let row := vecOf true d (sub img (ixAt img 0 + 2 * d * b) (2 * d))
    let x := dotSum row q
    if !isNaN32 x && ordKey x ≥ 0 then acc + 2 ^ b else acc) 0

/-- Distance of two sketches. -/
def hamming (n a b : Nat) : Nat := popcount n (a ^^^ b)

/-- An entry of the candidate queue: distance, node, expanded. -/
abbrev WalkEntry := Nat × Nat × Bool

/-- Ascending order of (distance, node number). -/
def placeEntry (e : WalkEntry) : List WalkEntry → List WalkEntry
  | [] => [e]
  | x :: r => if e.1 < x.1 || (e.1 == x.1 && decide (e.2.1 < x.2.1)) then e :: x :: r else x :: placeEntry e r

/-- An insertion; the queue keeps `n` entries. -/
def insertEntry (n : Nat) (q : List WalkEntry) (e : WalkEntry) : List WalkEntry := (placeEntry e q).take n

/-- What a walk leaves. -/
structure Walk where
  queue : List WalkEntry := []
  seen : List Nat := []
  visits : Nat := 0
  budgetEnd : Bool := false
  visitFull : Bool := false
  deriving DecidableEq, Repr, Inhabited

/-- Most nodes that the visited set holds. -/
def seenMax : Nat := 14336

/-- The neighbours of one expanded node, in stored order. -/
def visitAll (img : Bytes) (qs len : Nat) : List Nat → Walk → Walk
  | [], w => w
  | n :: r, w =>
    if n = noNode || w.seen.contains n then visitAll img qs len r w
    else if w.seen.length = seenMax then { w with visitFull := true }
    else visitAll img qs len r { w with
      seen := n :: w.seen, queue := insertEntry len w.queue (hamming (ixBits img) qs (ixSketch img n), n, false) }

/-- The first entry that is not expanded is. -/
def expand : List WalkEntry → List WalkEntry
  | [] => []
  | e :: r => if e.2.2 then e :: expand r else (e.1, e.2.1, true) :: r

/-- The walk's loop; `fuel` is VISIT_MAX less the expansions made, plus one. -/
def walkLoop (img : Bytes) (qs : Nat) (prm : SearchPrm) : Nat → Walk → Walk
  | 0, w => w
  | fuel + 1, w =>
    match w.queue.find? (fun e => !e.2.2) with
    | none => w
    | some c =>
      if w.visits = prm.visitMax then { w with budgetEnd := true }
      else
        let w := { w with queue := expand w.queue, visits := w.visits + 1 }
        let w := visitAll img qs prm.queueLen (ixAdj img c.2.1) w
        if w.visitFull then w else walkLoop img qs prm fuel w

/-- The walk (R199). -/
def walkOf (img : Bytes) (qs : Nat) (prm : SearchPrm) : Walk :=
  let es := ixEntries img
  let q := es.foldl (fun q n => insertEntry prm.queueLen q (hamming (ixBits img) qs (ixSketch img n), n, false)) []
  walkLoop img qs prm (prm.visitMax + 1) { queue := q, seen := es.eraseDups }

/-- Survivors in queue order, and the entries passed over as deleted (R200). -/
def survivors (g : IndexGen) (epoch : Nat) (prm : SearchPrm) (limit : Nat) : List Nat → List Nat → Nat → List Nat × Nat
  | [], acc, skip => (acc.reverse, skip)
  | n :: r, acc, skip =>
    if acc.length = limit then (acc.reverse, skip)
    else if g.deleted n epoch then survivors g epoch prm limit r acc (skip + 1)
    else if ixFilter g.image n &&& prm.mask != prm.value then survivors g epoch prm limit r acc skip
    else survivors g epoch prm limit r (n :: acc) skip

/-- Score of a node's vector (R200); a NaN ranks as −∞. -/
def scoreOf (img : Bytes) (q : List Nat) (n : Nat) : Nat :=
  let d := ixDims img
  let v := vecOf (ixBf16 img) d (sub img (ixAt img 4 + 2 * d * n) (2 * d))
  let x := if ixL2 img then
      neg32 (sumTree ((v.zip q).map fun e => let t := f32sub e.1 e.2; f32mul t t))
    else dotSum v q
  if isNaN32 x then f32NegInf else x

/-- Result order: descending score, ascending shard ordinal, label, node. -/
def hitBefore (a b : HitRec) : Bool :=
  let ka := ordKey (zeroUp a.score.toNat)
  let kb := ordKey (zeroUp b.score.toNat)
  decide (kb < ka) || (ka == kb && (decide (a.shard < b.shard) || (a.shard == b.shard &&
    (decide (a.label < b.label) || (a.label == b.label && decide (a.node < b.node))))))

def insertHit (h : HitRec) : List HitRec → List HitRec
  | [] => [h]
  | x :: r => if hitBefore h x then h :: x :: r else x :: insertHit h r

def sortHits (l : List HitRec) : List HitRec := l.foldl (fun a h => insertHit h a) []

/-- The queue that survivors are taken from: every node under EXACT. -/
def queueNodes (img : Bytes) (prm : SearchPrm) (w : Walk) : List Nat :=
  if prm.exact then List.range (ixNodes img) else w.queue.map fun e => e.2.1

/-- T4 pages of a set of nodes. -/
def pagesOf (img : Bytes) (l : List Nat) : Nat :=
  if 2 * ixDims img ≤ 4096 then ((l.map fun n => n / perPage img).eraseDups).length else l.length * pagesEach img

/-- Exact re-ranking: the records, the pages read, the deleted entries passed over. -/
def finishSearch (g : IndexGen) (epoch : Nat) (prm : SearchPrm) (q : List Nat) (nodes : List Nat) (shard : Nat) :
    List HitRec × Nat × Nat :=
  let (sv, skip) := survivors g epoch prm (if prm.exact then ixNodes g.image else prm.rerank) nodes [] 0
  let hits := sv.map fun n =>
    ({ label := ixLabel g.image n, score := BitVec.ofNat 32 (scoreOf g.image q n), shard := shard, node := n } : HitRec)
  ((sortHits hits).take prm.count, pagesOf g.image sv, skip)

/-! ## QUERY (R188, R192, R194, R197, R201 to R203, R205) -/

/-- The parameters of a QUERY's body. -/
def queryPrm (v : Verb) : SearchPrm :=
  { count := v.f 0x3A 2, queueLen := v.f 0x3C 2, rerank := v.f 0x3E 2, visitMax := v.f 0x40 2, mask := v.f 0x44 4,
    value := v.f 0x48 4, exact := v.flag flagExact }

/-- Ranges of Table 9.7, and the filter. -/
def prmOk (x : SearchPrm) : Bool :=
  1 ≤ x.count && x.count ≤ 1024 && x.count ≤ x.queueLen && x.queueLen ≤ 1024 && x.count ≤ x.rerank &&
  x.rerank ≤ x.queueLen && 1 ≤ x.visitMax && x.visitMax ≤ 1024 && x.value &&& x.mask == x.value

/-- EXACT takes no index of more than 16,777,216 nodes. -/
def exactMax : Nat := 16777216

/-- The query suits a generation: no NaN, no infinity, EXACT within its bound. -/
def queryFits (img : Bytes) (prm : SearchPrm) (q : List Nat) : Bool :=
  q.all (fun w => !isNaN32 w && !isInf32 w) && !(prm.exact && ixNodes img > exactMax)

/-- Walk pipes, and the queries that each holds (Table 9.1). -/
def walkPipes : Nat := 8
def pipeSlots : Nat := 32

/-- Queries in flight in a walk pipe. -/
def State.pipeUse (s : State) (k : Nat) : Nat := (s.rcl.queries.map fun e => countp (fun (q : QueryOp) => q.pipe == k) e.2).sum

/-- Slots that are free in all pipes, and the lowest pipe that has one (R188). DESIGN CHOICE, log entry 23. -/
def State.freeSlots (s : State) : Nat := ((List.range walkPipes).map fun k => pipeSlots - s.pipeUse k).sum
def State.freePipe (s : State) : Nat := ((List.range walkPipes).find? fun k => s.pipeUse k < pipeSlots).getD 0

/-- The RECALL scheduler has a slot for this QUERY: its queue may be served, and fewer QUERYs wait that are taken before it than
slots are free (R216, R219, R221). -/
def State.slotFor (s : State) (p : Nat) (v : Verb) : Bool :=
  s.eligible v.queue && countp (fun x => s.takenBefore .recallU x (p, v)) s.slotWaiters < s.freeSlots

def State.modQuery (s : State) (p vid : Nat) (f : QueryOp → QueryOp) : State :=
  s.setQueries p (lmod (fun (q : QueryOp) => q.verb == vid) f (s.queriesOf p))
def State.query? (s : State) (p vid : Nat) : Option QueryOp := (s.queriesOf p).find? fun q => q.verb == vid

/-- A generation gains or loses a user. -/
def State.useGen (s : State) (p i gen vid : Nat) (on : Bool) : State :=
  match s.index? p i with
  | none => s
  | some x => s.setIndex p i { x with gens := x.gens.map fun g =>
      if g.gen = gen then { g with users := if on then g.users ++ [vid] else g.users.filter (· != vid) } else g }

/-- The shard table of an index. -/
def State.shardTable (s : State) (p i : Nat) : List (Nat × Nat) := tgetD (s.partImage p).links.shards i []

/-- The 64-byte block of parameters that a SHARD_REQ carries. DEDUCED, log entry 23. -/
def shardBlock (i : Nat) (prm : SearchPrm) (vecLen : Nat) : Bytes :=
  fit 64 (natLe 2 i ++ natLe 2 prm.count ++ natLe 2 prm.queueLen ++ natLe 2 prm.rerank ++ natLe 2 prm.visitMax ++
    natLe 2 prm.exact.toNat ++ natLe 4 prm.mask ++ natLe 4 prm.value ++ natLe 4 vecLen)

/-- The parameters that a block spells. -/
def blockPrm (b : Bytes) : SearchPrm :=
  { count := fld b 2 2, queueLen := fld b 4 2, rerank := fld b 6 2, visitMax := fld b 8 2, exact := fld b 10 2 != 0,
    mask := fld b 12 4, value := fld b 16 4 }

/-- The query goes to every shard but the coordinator's own, in class B. -/
def State.askShards (s : State) (p vid : Nat) (i : Nat) (prm : SearchPrm) (vec : Bytes) : List (Nat × Nat × Nat) → State
  | [] => s
  | (k, dst) :: r =>
    let body := shardBlock i prm vec.length ++ vec
    ((s.startRequest (.shard p vid k) tyShardReq p .b dst 0 0 body.length body).2).askShards p vid i prm vec r

/-- A search begins on a generation and an epoch: the walk is made at once; its order of work is timing. -/
def State.startWalk (s : State) (p vid : Nat) (prm : SearchPrm) (g : IndexGen) (epoch : Nat) (vec : Bytes) (base : QueryOp) : State :=
  let q := vecOf (ixBf16 g.image) (ixDims g.image) vec
  let w := if prm.exact then {} else walkOf g.image (sketchOf g.image q) prm
  let op := { base with gen := g.gen, epoch := epoch, vec := vec, queue := (queueNodes g.image prm w).map (fun n => (0, n)),
                        visits := w.visits, budgetEnd := w.budgetEnd, visitFull := w.visitFull }
  (s.setQueries p (s.queriesOf p ++ [op])).useGen p base.index g.gen vid true

/-- One result record (R202). -/
def hitBytes (h : HitRec) : Bytes := natLe 4 (h.shard * 2 ^ 24) ++ natLe 4 h.score.toNat ++ natLe 8 h.label

/-- The QUERY completes once its own search is done and every shard has been merged or given up. -/
def State.endQuery (s : State) (p vid : Nat) : State :=
  match s.query? p vid, s.verb? p vid with
  | some q, some v =>
    if !q.localDone || !q.waitShards.isEmpty then s
    else
      let hits := (sortHits q.hits).take (v.f 0x3A 2)
      let miss := q.missing.foldl (fun a k => a ||| 2 ^ k) 0
      let st := if miss != 0 then Status.tierFailed else if hits.length < v.f 0x3A 2 then .short else .ok
      let flags := q.budgetEnd.toNat + 2 * q.visitFull.toNat + 4 * (v.flag flagExact).toNat
      let t := (s.count .rclQueries p).count .rclShardMiss p (if q.sharded then q.missing.length else 0)
      let t := t.count .rclExpansions p q.visits
      let t := if st == .short then t.count .rclShort p else t
      let t := if q.budgetEnd || q.visitFull then t.count .rclBudgetEnd p else t
      let t := t.useGen p q.index q.gen vid false
      let t := t.setQueries p ((t.queriesOf p).filter fun x => x.verb != vid)
      let t := if hits.isEmpty then t else t.emit (.hostWrite (v.f 0x28 8) (hits.flatMap hitBytes))
      let t := t.endPipe .recallU v.queue (t.now - q.since) (t.slotWaiters.map fun x => x.2.queue)
      t.complete p vid st flags
        [(0x20, 2, hits.length), (0x24, 4, q.visits), (0x28, 4, q.gen), (0x2C, 4, q.epoch), (0x30, 8, miss)]
  | _, _ => s

/-- A QUERY completes before its search begins; it is counted as a QUERY verb that completed (R207). -/
def State.endEarly (s : State) (p vid : Nat) (st : Status) : State := (s.count .rclQueries p).complete p vid st

/-- The generation and epoch that a search which begins now uses: none where the index does not serve. -/
def State.serving (s : State) (p i : Nat) : Option (IndexGen × Nat) :=
  match s.index? p i with
  | none => none
  | some x =>
    if x.dropping then none
    else
      match s.taken x with
      | none => none
      | some (n, epoch) => (x.genOf n).map fun g => (g, epoch)

/-- QUERY begins. DEDUCED, log entry 23. -/
def doQuery (p vid : Nat) (vec : Option Bytes) (s : State) : State :=
  match s.begun? p vid .query with
  | none => s
  | some v =>
    let i := v.f 0x38 2
    let prm := queryPrm v
    let sharded := v.flag flagSharded
    let table := s.shardTable p i
    if i = 0 || !prmOk prm then s.endEarly p vid .badArgument
    else if !s.slotFor p v then s
    else
      match vec with
      | none => if !sharded && (s.serving p i).isNone then s.endEarly p vid .badState else s.endEarly p vid .badArgument
      | some b =>
        let base : QueryOp := { verb := vid, index := i, gen := 0, epoch := 0, vec := b, sharded := sharded,
                                deadline := v.f 0x30 8, pipe := s.freePipe, since := s.now }
        if sharded then
          if table.isEmpty then s.endEarly p vid .badState
          else
            let own := table.findIdx? fun e => e == (s.fab.devId, p)
            let others := (enum table).filter fun e => some e.1 != own
            let cur := match own with | some _ => s.serving p i | none => none
            let bad := match cur with
              | some (g, _) => !queryFits g.image prm (vecOf (ixBf16 g.image) (ixDims g.image) b)
              | none => false
            if bad then s.endEarly p vid .badArgument
            else
              let base := { base with waitShards := others.map (·.1),
                                      missing := (match own, cur with | some k, none => [k] | _, _ => []),
                                      localDone := cur.isNone }
              let t := s.runVerb p vid
              let t := match cur with
                | some (g, epoch) => t.startWalk p vid prm g epoch b base
                | none => t.setQueries p (t.queriesOf p ++ [base])
              (t.askShards p vid i prm b others).endQuery p vid
        else
          match s.serving p i with
          | none => s.endEarly p vid .badState
          | some (g, epoch) =>
            if queryFits g.image prm (vecOf (ixBf16 g.image) (ixDims g.image) b)
            then (s.runVerb p vid).startWalk p vid prm g epoch b base
            else s.endEarly p vid .badArgument

/-- Ordinal of the partition's own shard; 0 where the QUERY is not sharded. -/
def State.ownOrdinal (s : State) (p : Nat) (q : QueryOp) : Nat :=
  if q.sharded then ((s.shardTable p q.index).findIdx? fun e => e == (s.fab.devId, p)).getD 0 else 0

/-- Result records in one SHARD_RSP frame: 20 bytes each in at most 2,048. -/
def hitsPerFrame : Nat := 102

/-- The records of one frame, then a node number for each. -/
def shardPayload (l : List HitRec) : Bytes := l.flatMap hitBytes ++ l.flatMap fun h => natLe 4 h.node

/-- A search for another device's coordinator is over: its slot is free, its pipe time is charged to the first queue of the
partition, and the coordinator gets the records, or an error where a read of a full vector failed. DESIGN CHOICE, log entry 23. -/
def State.endRemote (s : State) (p : Nat) (q : QueryOp) (f : Frame) (ok : Bool) (hits : List HitRec) : State :=
  let t := s.useGen p q.index q.gen q.verb false
  let t := t.setQueries p ((t.queriesOf p).filter fun x => x.verb != q.verb)
  let t := t.count .rclExpansions p q.visits
  let t := if q.budgetEnd || q.visitFull then t.count .rclBudgetEnd p else t
  let t := t.endPipe .recallU (t.qbase p) (t.now - q.since) (t.slotWaiters.map fun x => x.2.queue)
  if !ok then t.refuseFrame f .poison
  else
    (List.range (hits.length / hitsPerFrame + 1)).foldl (fun t k =>
      t.respond { f with index := k } tyShardRsp (shardPayload ((hits.drop (k * hitsPerFrame)).take hitsPerFrame)) 0) t

/-- The searches of a partition for other coordinators are given up: each is answered with FENCED. -/
def State.dropRemote (s : State) (p : Nat) : State :=
  (s.queriesOf p).foldl (fun (t : State) (q : QueryOp) =>
    match q.remote with
    | some f =>
      let t := (t.useGen p q.index q.gen q.verb false).setQueries p ((t.queriesOf p).filter fun x => x.verb != q.verb)
      t.refuseFrame f .fenced
    | none => t) s

/-- The parameters of a search: its verb's body, or the block that the coordinator sent. -/
def State.searchPrm? (s : State) (p : Nat) (q : QueryOp) : Option SearchPrm :=
  match q.remote with
  | some f => some (blockPrm f.payload)
  | none => (s.running? p q.verb .query).map queryPrm

/-- QUERY_DONE: on the walk pipe that holds the search the reads of full vectors have landed (`t4Ok`) or one has failed (R188,
R203). -/
def doQueryDone (p vid : Nat) (t4Ok : Bool) (pipe : Nat) (s : State) : State :=
  match s.query? p vid with
  | none => s
  | some q =>
    match s.searchPrm? p q, (s.index? p q.index).bind fun x => x.genOf q.gen with
    | some prm, some g =>
      if !s.live || q.localDone || q.pipe != pipe then s
      else
        let ok := t4Ok && !q.t4Failed
        let k := s.ownOrdinal p q
        let (hits, pages, skip) :=
          finishSearch g q.epoch prm (vecOf (ixBf16 g.image) (ixDims g.image) q.vec) (q.queue.map (·.2)) k
        let t := (s.count .rclPageReads p pages).count .rclTombSkip p skip
        match q.remote with
        | some f => t.endRemote p q f ok hits
        | none =>
          let t := t.modQuery p vid fun q =>
            { q with localDone := true, hits := if ok then q.hits ++ hits else q.hits,
                     missing := if ok then q.missing else q.missing ++ [k] }
          t.endQuery p vid
    | _, _ => s

/-- MERGE_DEADLINE_EXPIRE: shards that have not answered are not merged (R205). -/
def doMergeDeadlineExpire (p vid : Nat) (s : State) : State :=
  match s.query? p vid with
  | none => s
  | some q =>
    if s.live && q.sharded && q.deadline != 0 && s.now ≥ q.deadline then
      let own := if q.localDone then [] else [s.ownOrdinal p q]
      (s.modQuery p vid fun q => { q with missing := q.missing ++ q.waitShards ++ own, waitShards := [], localDone := true }
        ).endQuery p vid
    else s

/-! ## Shards (R205) -/

/-- The records that a frame brings, under the ordinal that the coordinator knows. -/
def parseHits (k : Nat) (b : Bytes) : List HitRec :=
  let n := b.length / 20
  (List.range n).map fun i =>
    { label := fld b (16 * i + 8) 8, score := BitVec.ofNat 32 (fld b (16 * i + 4) 4), shard := k, node := fld b (16 * n + 4 * i) 4 }

/-- The frames of one shard request that wait for this device, by INDEX. -/
def State.shardFrames (s : State) (f : Frame) : List Frame :=
  s.fab.inbox.filter fun g => g.type == tyShardReq && g.src == f.src && g.tag == f.tag

/-- The frames are all there: as many bytes as the block of the first one says. -/
def shardWhole (l : List Frame) : Option Bytes :=
  let at_ := fun i => l.find? fun (g : Frame) => g.index == i
  match at_ 0 with
  | none => none
  | some f0 =>
    let n := ceilDiv (64 + fld f0.payload 20 4) 2048
    if (List.range n).all fun i => (at_ i).isSome then
      some ((List.range n).flatMap fun i => ((at_ i).map (·.payload)).getD [])
    else none

/-- A frame of the inbox is judged: absent and fenced partitions refuse, the window tells duplicates (R252, Table 12.6). -/
def State.judgeShard (s : State) (f : Frame) : Judged × State :=
  let w := s.window f.src.1
  if w.stale f.e2eSeq then (.refuse .stale, s)
  else
    let w' := w.see f.e2eSeq
    let t := if w.dup f.e2eSeq then (s.setWindow f.src.1 w').count .fabDup else s.setWindow f.src.1 w'
    if (s.partImage? f.dst.2).isNone then (.refuse .access, t)
    else if s.partFenced f.dst.2 then (.refuse .fenced, t)
    else if w.dup f.e2eSeq then (.again, t)
    else (.apply, s.setWindow f.src.1 (w'.mark f.e2eSeq))

/-- Number of a search that another coordinator asked for: outside the numbers of verbs. -/
def remoteId (n : Nat) : Nat := two64 + n

/-- The shard's own search begins in a walk-pipe slot, on its current generation and epoch. `f`: the request's first frame. -/
def State.shardSearch (s : State) (f : Frame) (b : Bytes) : State :=
  let p := f.dst.2
  let prm := blockPrm b
  match s.serving p (fld b 0 2) with
  | none => s.refuseFrame f .access
  | some (g, epoch) =>
    if !prmOk prm || !queryFits g.image prm (vecOf (ixBf16 g.image) (ixDims g.image) (b.drop 64)) then s.refuseFrame f .access
    else
      let id := remoteId s.rcl.nextRemote
      let base : QueryOp := { verb := id, index := fld b 0 2, gen := 0, epoch := 0, vec := [], pipe := s.freePipe, since := s.now,
                              remote := some f }
      ({ s with rcl := { s.rcl with nextRemote := s.rcl.nextRemote + 1 } }).startWalk p id prm g epoch (b.drop 64) base

/-- What is to be done with a request, from its frames: an error of any stops it; it is applied once some frame of it had not been
applied before (a frame and its resent copy may both wait, R252). -/
def State.judgeAll (s : State) (l : List Frame) : Judged × State :=
  l.foldl (fun (a : Judged × State) g =>
    let (k, t) := a.2.judgeShard g
    (match a.1, k with
     | .refuse e, _ => .refuse e
     | _, .refuse e => .refuse e
     | .again, .again => .again
     | _, _ => .apply, t)) (Judged.again, s)

/-- SHARD_REQ: once every frame of the request has arrived and a slot is free, the shard's search begins. -/
def doShardReq (f : Frame) (s : State) : State :=
  if !s.live || f.type != tyShardReq || !s.fab.inbox.any (sameFrame f) then s
  else
    let l := s.shardFrames f
    match shardWhole l, l.find? (fun g => g.index == 0) with
    | some b, some first =>
      if s.freeSlots = 0 then s
      else
        let t := { s with fab := { s.fab with inbox := s.fab.inbox.filter fun g => !l.contains g } }
        (match t.judgeAll l with
         | (.refuse e, t) => t.refuseFrame first e
         | (.again, t) => t
         | (.apply, t) => t.shardSearch first b)
    | _, _ => s

/-- The records of a shard that has answered are merged; one that has failed is not. -/
def State.shardReply (s : State) (p vid k : Nat) (r : Request) : State :=
  match s.query? p vid with
  | none => s
  | some q =>
    if !q.waitShards.contains k then s
    else
      let ok := r.err == .none && (q.deadline = 0 || s.now ≤ q.deadline)
      (s.modQuery p vid fun q =>
        { q with waitShards := q.waitShards.filter (· != k),
                 missing := if ok then q.missing else q.missing ++ [k],
                 hits := if ok then q.hits ++ r.data.flatMap (fun e => parseHits k e.2) else q.hits }).endQuery p vid

/-! ## The commands of this file -/

/-- INDEX_LOAD (R193). -/
def execIndexLoad (p : Nat) (l : IndexHead) (s : State) : Host.Outcome State Fault Refusal :=
  .next (doIndexLoad p l.vid l.head s)

/-- INDEX_SWITCH (R193). -/
def execIndexSwitch (p vid : Nat) (img : IndexRead) (s : State) : Host.Outcome State Fault Refusal :=
  .next (doIndexSwitch p vid img.image img.stored s)

/-- QUERY (R197). -/
def execQuery (p vid : Nat) (vec : Option Bytes) (s : State) : Host.Outcome State Fault Refusal :=
  .next (doQuery p vid vec s)

/-- QUERY_DONE (R200). -/
def execQueryDone (p vid : Nat) (t4Ok : Bool) (pipe : Nat) (s : State) : Host.Outcome State Fault Refusal :=
  .next (doQueryDone p vid t4Ok pipe s)

/-- MERGE_DEADLINE_EXPIRE (R205). -/
def execMergeDeadlineExpire (p vid : Nat) (s : State) : Host.Outcome State Fault Refusal :=
  .next (doMergeDeadlineExpire p vid s)

/-- GENERATION_RELEASE (R194). -/
def execGenerationRelease (p idx gen : Nat) (s : State) : Host.Outcome State Fault Refusal :=
  .next (doGenerationRelease p idx gen s)

/-- DELETE (R195). -/
def execDelete (p vid : Nat) (nodes : Option Bytes) (s : State) : Host.Outcome State Fault Refusal :=
  .next (doDelete p vid nodes s)

/-- INDEX_DROP (R192). -/
def execIndexDrop (p vid : Nat) (s : State) : Host.Outcome State Fault Refusal :=
  .next (doIndexDrop p vid s)

/-- SHARD_REQ (R205). -/
def execShardReq (f : Frame) (s : State) : Host.Outcome State Fault Refusal :=
  .next (doShardReq f s)

end Machine
end Sys2Proof
end

