-- ==== Sys2Proof/Machine/Flash.lean ====
section
/-!
DEFINITION. Sys2Proof/Machine/Flash.lean: the translation layer of the NAND channels (R291 to R297) and the registers of the
host-tier window (R302, R305). The controller's reads, programs and erases end as commands; a block of the model holds
unitsPerBlock units.
-/
namespace Sys2Proof
namespace Machine

/-! ## Parameters (Table 14.7) -/

def State.spareMin (s : State) : Nat := bits (s.reg .nvfFtlCfg) 55 48
def State.refreshBits (s : State) : Nat := bits (s.reg .nvfFtlCfg) 47 40
/-- PATROL_DAYS in ns; 0 acts as 1. -/
def State.patrolNs (s : State) : Nat := max 1 (bits (s.reg .nvfFtlCfg) 39 32) * 86400000000000
def State.wearGap (s : State) : Nat := bits (s.reg .nvfFtlCfg) 31 16
def State.readLimit (s : State) : Nat := bits (s.reg .nvfFtlCfg) 15 0 * 1000

/-- The channel takes part: trained, neither absent nor failed. -/
def State.chanUp (s : State) (c : Nat) : Bool :=
  s.live && (match (s.chanOf c).state with | .active => true | .limited => true | .readOnly => true | _ => false)

def Chan.block (x : Chan) (k : Nat) : Block := tgetD x.blocks k {}
def Chan.setBlock (x : Chan) (k : Nat) (b : Block) : Chan := { x with blocks := tput x.blocks k b }

/-- Erased blocks that are not retired. -/
def Chan.freeBlocks (x : Chan) : List Nat :=
  (List.range x.nblocks).filter fun k => !(x.block k).programmed && !(x.block k).retired

/-- The free block with the fewest erases, the lowest on a tie (R293). -/
def Chan.leastWorn (x : Chan) : Option Nat :=
  x.freeBlocks.foldl (fun a k => match a with
    | none => some k
    | some j => if (x.block k).erases < (x.block j).erases then some k else some j) none

/-- Mean erase count of the channel's blocks, rounded down. -/
def Chan.meanErases (x : Chan) : Nat := ((List.range x.nblocks).map fun k => (x.block k).erases).sum / max 1 x.nblocks

/-- Spare blocks of a channel under an over-provisioning: the blocks of the remainder, less those retired (R289, R296). -/
def Chan.respare (op : Nat) (x : Chan) : Chan :=
  { x with spare := x.nblocks * op / 100 - countp (fun k => (x.block k).retired) (List.range x.nblocks) }

/-- The state that spare and erased blocks give a trained channel (Table 14.4). -/
def chanStateOf (spareMin : Nat) (x : Chan) : ChanState :=
  if x.freeBlocks.isEmpty then .readOnly
  else if x.spare * 1000 < spareMin * x.nblocks then .limited
  else .active

/-- A trained channel's state follows its spare and erased blocks. -/
def State.settleChan (s : State) (c : Nat) : State :=
  if s.chanUp c then s.modChan c fun x => { x with state := chanStateOf s.spareMin x } else s

/-! ## Relocation (R292) -/

/-- Bytes of a logical unit. A relocation reads one and writes one. -/
def unitBytes : Nat := 4096

/-- The committed units of a block start to move, in a class; units on their way in class D go on in class C where that is asked. -/
def State.relocate (s : State) (c k : Nat) (cls : ArbClass) : State :=
  let x := s.chanOf c
  match x.leastWorn with
  | none => s
  | some d =>
    let units := (x.block k).units.filter fun u => tget x.map u == some k && !x.relocs.any fun r => r.unit == u
    let moving := if cls == .c then lmod (fun (r : Reloc) => r.src == k) (fun r => { r with cls := .c }) x.relocs else x.relocs
    let t := s.setChan c { x with relocs := moving ++ units.map fun u => { unit := u, src := k, dst := d, cls := cls } }
    units.foldl (fun (t : State) u => t.request (.nand c) { cls := cls, len := 2 * unitBytes, owner := some (.unit c u) }) t

/-- A block is retired: it takes one spare block, and its committed units move in class C (R296). -/
def State.retireBlock (s : State) (c k : Nat) : State :=
  let x := s.chanOf c
  if (x.block k).retired then s
  else
    let t := s.setChan c { (x.setBlock k { x.block k with retired := true }) with spare := x.spare - 1 }
    (t.relocate c k .c).settleChan c

/-- Detail of a NAND source: channel [127:120], logical unit [119:88], cause [87:80] (Table 16.3). -/
def nandDetail (s : State) (c unit cause : Nat) : FaultDetail :=
  { part := s.ownerOfNand c, raw := at' c 120 + at' (unit % two32) 88 + at' cause 80 }

/-- Causes of a NAND event in DETAIL. -/
def causeUnreadable : Nat := 0
def causeProgram : Nat := 1
def causeErase : Nat := 2

/-- The pages of full vectors that a search has still to read: the places of its survivors' vectors within their generation's
folios in T4 (R200). DESIGN CHOICE, log entry 23. -/
def State.vectorPages (s : State) (p : Nat) (q : QueryOp) : List Nat :=
  match s.searchPrm? p q, (s.index? p q.index).bind fun x => x.genOf q.gen with
  | some prm, some g =>
    let img := g.image
    let limit := if prm.exact then ixNodes img else prm.rerank
    let sv := (survivors g q.epoch prm limit (q.queue.map (·.2)) [] 0).1
    if 2 * ixDims img ≤ 4096 then (sv.map fun n => n / perPage img).eraseDups
    else sv.flatMap fun n => (List.range (pagesEach img)).map fun j => n * pagesEach img + j
  | _, _ => []

/-- The unit of channel c that holds page k of a folio at a place in T4: its sixteen 4 KiB pages are dealt out over the place's w
channels in order (R290). DESIGN CHOICE, log entry 23. -/
def pageIn (c unit k loc : Nat) : Bool :=
  let cs := locChans loc
  let us := locUnits loc
  let each := 16 / max 1 cs.length
  cs.getD (k / max 1 each) Config.nandChannels == c && us.contains unit && us.getD (k % max 1 each) 0 == unit

/-- A search of a partition reads a unit. -/
def State.searchReads (s : State) (p : Nat) (q : QueryOp) (c unit : Nat) : Bool :=
  match (s.index? p q.index).bind fun x => x.genOf q.gen with
  | some g => !q.localDone && (s.vectorPages p q).any fun k => pageIn c unit (k % 16) (g.locs.getD (k / 16) 0)
  | none => false

/-- The operations that read a unit: promotions of a folio there, revives of a quire there, parks and hand-offs of a folio or a quire
there, searches with a vector there. -/
def State.unitReaders (s : State) (c unit : Nat) : List TierTarget :=
  let at_ := fun (loc : Nat) => (locChans loc).contains c && (locUnits loc).contains unit
  let fs := (s.fol.folios.filter fun e => e.2.promoting && e.2.tier = 4 && at_ e.2.loc).map fun e => TierTarget.folio e.1
  let sent := fun (x : Session) => match x.send with | some o => o.phase == .writing | none => false
  let qs := (s.dir.sessions.filter fun e =>
      ((e.2.revive.isSome || sent e.2) &&
        (match e.2.quire with | some q => q.tier = 4 && q.folios.any (fun f => at_ f.loc) | none => false)) ||
      ((e.2.parkOp.isSome || sent e.2) && e.2.kvFolios.any fun i =>
        match s.folio? i with | some f => f.tier = 4 && at_ f.loc | none => false)).map fun e => TierTarget.quire e.1
  let ss := s.rcl.queries.flatMap fun e =>
    (e.2.filter fun (q : QueryOp) => s.searchReads e.1 q c unit).map fun q => TierTarget.query e.1 q.verb
  fs ++ qs ++ ss

/-- A block has reached its read limit, or a unit of it needed many corrections (R294). -/
def refreshClass (limit bits : Nat) (b : Block) (worst : Nat) : Option ArbClass :=
  if b.reads ≥ 2 * limit then some .c
  else if b.reads ≥ limit || worst > bits then some (b.refreshAt.getD .d)
  else b.refreshAt

/-- The old place of a unit from which a read under way is served (R292). DEDUCED, log entry 11. -/
def State.oldPlace (s : State) (c unit : Nat) : Option OldPlace :=
  let now := s.unitReaders c unit
  (s.chanOf c).olds.find? fun o => o.unit == unit && o.readers.any now.contains

/-- Reads against an old place of this block are under way. -/
def State.oldReads (s : State) (c block : Nat) : Bool :=
  (s.chanOf c).olds.any fun o => o.block == block && o.readers.any (s.unitReaders c o.unit).contains

/-- NAND_READ_DONE: `retries` reads were made again with shifted levels; `worst` bits were corrected, or the unit is
unreadable, after 8 of them (R294, R295). A unit that is not mapped is not read; a read issued before a commit is served from the old
place (R292). -/
def doNandReadDone (c unit worst retries : Nat) (ok : Bool) (s : State) : State :=
  let x := s.chanOf c
  match tget x.map unit with
  | none => s
  | some k =>
    if !s.chanUp c then s
    else
      let old := s.oldPlace c unit
      let k := (old.map (·.block)).getD k
      let retries := if ok then retries else 8
      let b := { x.block k with reads := (x.block k).reads + 1 }
      let b := { b with refreshAt := refreshClass s.readLimit s.refreshBits b worst }
      let t := (s.setChan c (x.setBlock k b)).count .nvfUnitsRd c
      let t := if retries = 0 then t else t.countSat .nvfReadRetry c (min 8 retries)
      if ok then t
      else
        let t := (t.countSat .nvfUncorr c).raise (0x60 + c) (nandDetail t c unit causeUnreadable)
        let here := fun (r : Reloc) => r.unit == unit && old.isNone
        let t := t.modChan c fun x => { x with relocs := x.relocs.filter fun r => !here r }
        let t := t.relocate c k .c
        let t := t.modChan c fun x => { x with relocs := x.relocs.filter fun r => !here r }
        (t.unitReaders c unit).foldl (fun t e => t.tierFail e) t

/-- New data go to a block in use, or to a free block of the fewest erases (R293). DEDUCED, log entry 11. -/
def Chan.mayProgram (x : Chan) (k : Nat) : Bool :=
  (x.block k).programmed || x.freeBlocks.all fun j => (x.block k).erases ≤ (x.block j).erases

/-- NAND_PROGRAM_DONE: the write commits by its map update, or the block fails and is retired; the data go on from the
write buffer to another block, whose program ends later (R291, R296). -/
def doNandProgramDone (c unit block : Nat) (ok : Bool) (s : State) : State :=
  let x := s.chanOf c
  if !s.chanUp c || x.state == .readOnly || block ≥ x.nblocks || (x.block block).retired || !x.alloc.contains unit ||
     !x.mayProgram block then s
  else if ok then
    let old := tget x.map unit
    let x := match old with
      | some k => x.setBlock k { x.block k with units := (x.block k).units.filter (· != unit) }
      | none => x
    let b := x.block block
    let b := { b with units := b.units ++ [unit], programmed := true, patrolled := if b.programmed then b.patrolled else s.now }
    let x := { (x.setBlock block b) with map := tput x.map unit block, seqs := tput x.seqs unit (x.wseq + 1),
                                          wseq := x.wseq + 1, journal := x.journal + 1 }
    ((s.setChan c x).count .nvfUnitsWr c).settleChan c
  else
    let t := s.setChan c (x.setBlock block { x.block block with programmed := true })
    ((t.countSat .nvfProgFail c).raise (0x60 + c) (nandDetail t c unit causeProgram)).retireBlock c block

/-- NAND_ERASE_DONE: a block that holds no unit, and from which no read is under way (R292), is free again, or fails and is retired (R296). -/
def doNandEraseDone (c block : Nat) (ok : Bool) (s : State) : State :=
  let x := s.chanOf c
  let b := x.block block
  if !s.chanUp c || block ≥ x.nblocks || !b.programmed || b.retired || !b.units.isEmpty ||
     x.relocs.any (fun r => r.src == block) || s.oldReads c block then s
  else if ok then
    ((s.setChan c { (x.setBlock block { erases := b.erases + 1 }) with olds := x.olds.filter fun o => o.block != block }).count .nvfErases c).settleChan c
  else ((s.countSat .nvfEraseFail c).raise (0x60 + c) (nandDetail s c 0 causeErase)).retireBlock c block

/-- RELOCATION_COMMIT: one map update makes the new place the unit's, and reads issued before it go on from the old one; a unit that was
freed meanwhile is not copied, and its new place is released (R292). -/
def doRelocationCommit (c unit : Nat) (s : State) : State :=
  let x := s.chanOf c
  match x.relocs.find? (fun r => r.unit == unit) with
  | none => s
  | some r =>
    if !s.chanUp c then s
    else
      let left := eraseFirst (fun (y : Reloc) => y.unit == unit) x.relocs
      let out := { x.block r.src with units := (x.block r.src).units.filter (· != unit) }
      let x := { (x.setBlock r.src out) with relocs := left, gc := if left.isEmpty then none else x.gc }
      if r.freed then (s.setChan c x).settleChan c
      else
        let d := x.block r.dst
        let d := { d with units := d.units ++ [unit], programmed := true,
                          patrolled := if d.programmed then d.patrolled else s.now }
        let readers := s.unitReaders c unit
        let x := { (x.setBlock r.dst d) with
          map := tput x.map unit r.dst, seqs := tput x.seqs unit (x.wseq + 1), wseq := x.wseq + 1, journal := x.journal + 1,
          olds := if readers.isEmpty then x.olds else x.olds ++ [{ unit := unit, block := r.src, readers := readers }] }
        ((s.setChan c x).count .nvfRelocated c).settleChan c

/-- The programmed block that holds the fewest units. DEDUCED, log entry 11. -/
def Chan.victim (x : Chan) : Option Nat :=
  ((List.range x.nblocks).filter fun k => (x.block k).programmed && !(x.block k).retired).foldl (fun a k => match a with
    | none => some k
    | some j => if (x.block k).units.length < (x.block j).units.length then some k else some j) none

/-- GC_START: in class D, and in class C once the free blocks have fallen below 2 % (R292). -/
def doGcStart (c : Nat) (s : State) : State :=
  let x := s.chanOf c
  match x.victim with
  | none => s
  | some k =>
    if !s.chanUp c || x.gc.isSome then s
    else
      let cls : ArbClass := if x.freeBlocks.length * 100 < 2 * x.nblocks then .c else .d
      let t := s.relocate c k cls
      t.modChan c fun x => { x with gc := if x.relocs.isEmpty then none else some cls }

/-- STATIC_LEVEL: a block whose erases lag the mean by more than WEAR_GAP moves in class D (R293). -/
def doStaticLevel (c block : Nat) (s : State) : State :=
  let x := s.chanOf c
  let b := x.block block
  if s.chanUp c && block < x.nblocks && b.programmed && !b.retired && x.meanErases > b.erases + s.wearGap then
    s.relocate c block .d
  else s

/-- READ_REFRESH: a block that has reached its limit moves in class D, or C once its count has doubled (R294). -/
def doReadRefresh (c block : Nat) (s : State) : State :=
  let x := s.chanOf c
  match (x.block block).refreshAt with
  | none => s
  | some cls =>
    if !s.chanUp c then s
    else (s.setChan c (x.setBlock block { x.block block with refreshAt := none })).relocate c block cls

/-- PATROL_READ: a programmed block is checked once every PATROL_DAYS (R294). -/
def doPatrolRead (c block worst : Nat) (s : State) : State :=
  let x := s.chanOf c
  let b := x.block block
  if s.chanUp c && b.programmed && !b.retired && s.now ≥ b.patrolled + s.patrolNs then
    s.setChan c (x.setBlock block
      { b with patrolled := s.now, refreshAt := refreshClass s.readLimit s.refreshBits b worst })
  else s

/-! ## What a unit holds (R288, R298, Table 14.3) -/

/-- The sealed folios that lie in T4: demoted ones, and those of parked quires, each with whether its seal record stands beside it
(R300). -/
def State.t4Sealed (s : State) : List (Sealed × Bool) :=
  ((s.fol.folios.filter fun e => e.2.kind == .kv && e.2.tier == 4).map fun e => ({ s.demoted e.2 e.2.nonce with loc := e.2.loc }, false)) ++
  s.dir.sessions.flatMap fun e => match e.2.quire with
    | some q => if q.tier = 4 then q.folios.map fun f => (f, true) else []
    | none => []

/-- The 4,096 bytes of a folio that a unit of channel c holds, and its seal record: in the first unit of a parked folio.
DEDUCED, log entry 39. -/
def State.unitData (s : State) (c unit : Nat) : Option (Bytes × Bytes) :=
  (s.t4Sealed.find? fun e => (locChans e.1.loc).contains c && (locUnits e.1.loc).contains unit).bind fun e =>
    ((List.range 16).find? fun k => pageIn c unit k e.1.loc).map fun k =>
      (sub e.1.bytes (unitBytes * k) unitBytes, if e.2 && k = 0 then e.1.record else zeros 32)

/-- The 512 spare bytes of a unit: parity, seal record, logical unit address, write sequence number. -/
def Chan.spareBytes (x : Chan) (unit : Nat) (data record : Bytes) : Bytes :=
  let rest := record ++ natLe 4 unit ++ natLe 8 (tgetD x.seqs unit 0) ++ zeros 12
  fit 456 (Config.ldpcParity (data ++ rest)) ++ rest

/-- Tweak of a unit's encryption: logical unit address, then channel. DEDUCED, log entry 39. -/
def unitTweak (c unit : Nat) : Nat := unit + c * 2 ^ 32

/-- A unit on the flash: 4,096 bytes under the owner's flash key, then the spare bytes; none: it is not mapped or holds no folio. -/
def State.unitStored (s : State) (c unit : Nat) : Option Bytes :=
  match tget (s.chanOf c).map unit, s.ownerOfNand c, s.unitData c unit with
  | some _, some p, some (d, r) =>
    let e := xts (s.flashKey p) (unitTweak c unit) d
    some (e ++ (s.chanOf c).spareBytes unit e r)
  | _, _, _ => none

/-! ## The host-tier window (R302, R305) -/

/-- The three registers of the window. -/
def t3Reg : Nat → RegName
  | 0 => .hifT3Base
  | 1 => .hifT3SealBase
  | _ => .hifT3Cfg

/-- A write to a register of the window: it takes effect only while no frame is in use, and otherwise sets LOCKED. -/
def State.t3Write (s : State) (r : RegName) (v : W64) : State :=
  if !s.t3Used.isEmpty then ({ s with hif := { s.hif with t3Locked := true } } : State).stampSet (regAddr .hifT3Status 0 0) (2 ^ 63)
  else
    let mask := match (regRow r).kind with | .rw m => w64 m | _ => 0
    s.setReg r 0 0 ((s.reg r &&& ~~~mask) ||| (v &&& mask))

/-- HIF_T3_WRITE. -/
def doHifT3Write (which : Nat) (v : W64) (s : State) : State :=
  if !s.live || s.hif.pfD3hot || !s.hif.linkUp then s
  else s.pfWrite (regAddr (t3Reg which) 0 0) v fun t => t.t3Write (t3Reg which) v

/-! ## The commands of this file -/

/-- NAND_READ_DONE (R295). -/
def execNandReadDone (c unit worst retries : Nat) (ok : Bool) (s : State) : Host.Outcome State Fault Refusal :=
  .next (doNandReadDone c unit worst retries ok s)

/-- NAND_PROGRAM_DONE (R296). -/
def execNandProgramDone (c unit block : Nat) (ok : Bool) (s : State) : Host.Outcome State Fault Refusal :=
  .next (doNandProgramDone c unit block ok s)

/-- NAND_ERASE_DONE (R296). -/
def execNandEraseDone (c block : Nat) (ok : Bool) (s : State) : Host.Outcome State Fault Refusal :=
  .next (doNandEraseDone c block ok s)

/-- RELOCATION_COMMIT (R292). -/
def execRelocationCommit (c unit : Nat) (s : State) : Host.Outcome State Fault Refusal :=
  .next (doRelocationCommit c unit s)

/-- GC_START (R292). -/
def execGcStart (c : Nat) (s : State) : Host.Outcome State Fault Refusal :=
  .next (doGcStart c s)

/-- STATIC_LEVEL (R293). -/
def execStaticLevel (c block : Nat) (s : State) : Host.Outcome State Fault Refusal :=
  .next (doStaticLevel c block s)

/-- READ_REFRESH (R294). -/
def execReadRefresh (c block : Nat) (s : State) : Host.Outcome State Fault Refusal :=
  .next (doReadRefresh c block s)

/-- PATROL_READ (R294). -/
def execPatrolRead (c block worst : Nat) (s : State) : Host.Outcome State Fault Refusal :=
  .next (doPatrolRead c block worst s)

/-- HIF_T3_WRITE (R302). -/
def execHifT3Write (which : Nat) (v : W64) (s : State) : Host.Outcome State Fault Refusal :=
  .next (doHifT3Write which v s)

end Machine
end Sys2Proof
end

