-- ==== Sys2Proof/Machine/Recover.lean ====
section
/-!
DEFINITION. Sys2Proof/Machine/Recover.lean: rollback (R336), damaged sessions and lost folios (R337, Table 16.5), the
guilty-party search and its replays (R338 to R341), the fence and the reset of a partition (R342 to R344).
-/
namespace Sys2Proof
namespace Machine

/-! ## Rollback (R336) -/

/-- The requests of a slot's contexts are abandoned; frames that waited behind them may go out. -/
def State.dropRequests (s : State) (p slot : Nat) : State :=
  let mine := fun (r : Request) => match r.asker with
    | .engine e k _ => k == slot && (s.enginesOf p).contains e
    | _ => false
  let devs := ((s.fab.requests.filter mine).map (·.dst.1)).eraseDups
  let t := { s with fab := { s.fab with requests := s.fab.requests.filter fun r => !mine r } }
  devs.foldl (fun t d => t.pump d 4096) t

/-- Reply-buffer bytes that a context has reserved. -/
def Ctx.reserved (y : Ctx) : Nat := (y.resv.map (·.2)).sum

/-- The STEP contexts of a partition stop for good; their reservations are given back. -/
def State.stopSteps (s : State) (p : Nat) : State :=
  (s.enginesOf p).foldl (fun t e =>
    match t.ctx? e 0 with
    | none => t
    | some y =>
      let y' : Ctx := { y with ended := true, faulted := false, waiting := 0, waitTag := 0, tags := [], resv := [],
                               replies := [], dests := [], errs := [] }
      (t.modSpn p fun x => { x with replyUse := x.replyUse - y.reserved }).modEng e fun x =>
        { x with slots := tput x.slots 0 y', overrunSince := none,
                 stopped := if y.faulted then false else x.stopped }) (s.dropRequests p 0)

/-- The REPLAY contexts of a partition are unloaded. -/
def State.stopReplay (s : State) (p : Nat) : State :=
  let aside := ((s.recPart p).streams.map fun e => e.2.reserved).sum
  let t := (s.enginesOf p).foldl (fun (t : State) e =>
    match t.ctx? e 1 with
    | none => t
    | some y =>
      ((t.modSpn p fun x => { x with replyUse := x.replyUse - (y.reserved + aside) }).modEng e fun x =>
        { x with slots := tdel x.slots 1, switching := if x.switching == some 1 then none else x.switching,
                 stopped := if y.faulted then false else x.stopped }).rechoose p e) (s.dropRequests p 1)
  t.setRecPart p { t.recPart p with streams := [], ended := none, gather := none, buf := [], hbm := [], folios := [],
                                    treeKv := [] }

/-- Empty spans that an entry put behind an insertion's span go again. -/
def State.undoInsert (s : State) (p : Nat) (en : GEntry) : State :=
  match s.seq? en.dir en.seq with
  | none => s
  | some q =>
    let i := en.slot0.1
    let m := en.added
    if m = 0 then s
    else
      let out := (q.spans.drop (i + 1)).take m
      let down := fun (x : Option Nat) => x.map fun k => if k > i then k - m else k
      let t := s.modSeq en.dir en.seq fun q =>
        { q with spans := q.spans.take (i + 1) ++ q.spans.drop (i + 1 + m),
                 pending := q.pending.map fun r => { r with span := down r.span } }
      let t : State := match q.absorbing with
        | some vid => t.modVerb p vid fun v => { v with pieces := v.pieces.map fun (x : Piece) => { x with before := down x.before } }
        | none => t
      (t.dropRefs (out.flatMap Span.refs)).subPt p ((out.map fun (x : Span) => x.entries.length).sum)

/-- An entry re-enters selection. -/
def State.requeue (s : State) (p : Nat) (en : GEntry) : State :=
  ((s.modSeq en.dir en.seq fun q => { q with suspect := false }).undoInsert p en).trimSpans p en.dir en.seq

/-- ROLLBACK: the step in flight commits nothing. Its charges stand, and a verb whose last token a prefix hit absorbed waits for the
next step's boundary (R101); the entries of `held` are suspects and keep their places. DEDUCED, log entry 25. -/
def State.rollback (s : State) (p : Nat) (held : List (Nat × Nat)) : State :=
  match (s.spnOf p).cur with
  | none => s
  | some g =>
    let t : State := g.entries.foldl (fun (t : State) (e : GEntry) => t.dropStage e.pins) (s.stopSteps p)
    let t : State := g.entries.foldl (fun (t : State) (e : GEntry) => t.unpins e.pins) t
    let paid := g.entries.map fun (e : GEntry) => (e.dir, e.seq)
    let t := t.modSpn p fun x =>
      { x with cur := none, treeKv := [], paid := x.paid ++ paid, owed := x.owed ++ g.hitVerbs }
    (g.entries.filter fun (e : GEntry) => !held.contains (e.dir, e.seq)).foldl (fun (t : State) (e : GEntry) => t.requeue p e) t

/-! ## Verbs that are abandoned (Table 11.6, Table 16.7) -/

/-- A running PARK, REVIVE, PLACE, INDEX_LOAD, GRAMMAR_LOAD or PROGRAM_LOAD is abandoned: the source stays, the partial
target is freed, the state is as before the verb. -/
def State.abandonVerb (s : State) (p : Nat) (v : Verb) (st : Status) : State :=
  let d := v.dir
  let t : State := match v.op with
    | .park => s.abandonPark d
    | .revive => (s.abandonRevive d).modSeqs d fun (q : Seq) => if q.state == .reviving then { q with state := .parked } else q
    | .place => s.modFolPart p fun x => { x with places := x.places.filter fun o => o.verb != v.id }
    | .indexLoad => s.endLoad p v.id false
    | _ => s
  t.complete p v.id st

/-- The verbs that Table 11.6 abandons. DEDUCED, log entry 25. -/
def abandons (op : VerbOp) : Bool :=
  op == .park || op == .revive || op == .place || op == .indexLoad || op == .grammarLoad || op == .programLoad

/-! ## Damaged sessions and lost folios (R337, Table 16.5) -/

/-- A running verb of a session that is damaged ends with TIER_FAILED. -/
def State.failVerb (s : State) (p : Nat) (v : Verb) : State :=
  match s.verb? p v.id with
  | none => s
  | some v =>
    if v.phase != .running then s
    else
      match v.op with
      | .step => s.endStep p v.dir v.seq .tierFailed
      | .append | .splice => s.endInput p v.dir v.seq .tierFailed
      | .handoffSend => s.abandonSend v.dir none .tierFailed
      | op => if abandons op then s.abandonVerb p v .tierFailed else s

/-- The session is marked damaged, its running verbs end, and one notice is posted. -/
def State.damage (s : State) (d : Nat) : State :=
  match s.session? d with
  | none => s
  | some x =>
    let r := s.recOf d
    if r.damaged || !r.inUse then s
    else
      let p := x.part
      let t := s.setRec d { r with damaged := true }
      let t := if x.revive.isSome then t.failRevive d .tierFailed else t
      let t := ((t.verbs p).filter fun v => v.scope != .part && v.handle == x.handle).foldl (fun t v => t.failVerb p v) t
      t.notice p d x.handle .tierFailed

/-- A folio in HBM is lost (Table 16.5): a KV folio damages every session that references it under a policy other than 1, and
is recomputed for the others when a step next reads it, and a park or a hand-off that reads it fails (R278, R304); a flyleaf or page-table folio damages its session. -/
def State.loseFolio (s : State) (i stack : Nat) : State :=
  match s.folio? i with
  | none => s
  | some f =>
    if f.kind == .free then s
    else if f.kind != .kv then s.damage (hIndex f.handle)
    else
      let p := f.part
      let hit := (s.dir.sessions.filter fun e => e.2.part == p && e.2.seqs.any fun q =>
        q.2.spine.isSome && q.2.refs.contains i && s.policyOf p q.2.cls != 1).map (·.1)
      let t := if f.demoting then s.freeTier p f.target f.targetLoc else s
      let t := t.setFolio i { f with lost := true, lostStack := stack, payload := [], t0 := none, demoting := false }
      let t := if f.inPrefix then t.leavePrefix p i else t
      let t := t.modSpn p fun x => { x with next := x.next.map fun g =>
        { g with entries := g.entries.map fun e => { e with asked := false } } }
      let t := hit.foldl (fun t d => t.damage d) t
      (s.sessionsOf p fun x => (x.parkOp.isSome || x.send.isSome) && x.kvFolios.contains i).foldl State.quireFailed t

/-! ## The guilty-party search (R338 to R341) -/

/-- The suspects of an engine's fault, in length-table order (R338). -/
def State.suspectsOf (s : State) (p : Nat) (d : FaultDetail) : List (Nat × Nat) :=
  match (s.spnOf p).cur, d.engine with
  | some g, some e =>
    (match s.ctx? e 0 with
     | none => []
     | some y =>
       let m := y.cmds.getD d.cmd { opcode := 0 }
       let ord := if y.index = d.cmd then y.inst else 0
       let k := (instances (some g) y m).getD ord 0
       let covered : List GEntry := match m.rep with
         | 1 => ((enum g.entries).filter fun x => x.1 == k).map (·.2)
         | 2 => g.entries.filter fun x => x.qOffset < 128 * (k + 1) && x.qOffset + x.qLen > 128 * k
         | _ => g.entries
       covered.map fun x => (x.dir, x.seq))
  | _, _ => []

/-- SUSPECT_MAX: 0 acts as 1, values above 8,192 as 8,192 (Table 16.14). -/
def State.suspectMax (s : State) (p : Nat) : Nat := min 8192 (max 1 (bits (s.reg .sysRecoverCfg p) 45 32))

/-- The quarantine engine: the lowest of the partition's engines other than the faulting one (R339). -/
def State.quarantineOf (s : State) (p : Nat) (d : FaultDetail) : Nat :=
  ((s.enginesOf p).filter fun e => some e != d.engine).foldl (fun a e => min a e) Config.engines

/-- A suspect's verb ends. -/
def State.endSuspect (s : State) (p : Nat) (base : Option Gather) (e : Nat × Nat) (st : Status) : State :=
  let t : State := match base with
    | some g => (g.entries.filter fun (x : GEntry) => x.dir == e.1 && x.seq == e.2).foldl (fun (t : State) (x : GEntry) => t.requeue p x) s
    | none => s
  (t.modSeq e.1 e.2 fun q => { q with suspect := false }).endWork p e.1 e.2 st

/-- The context of one stream of a replay. The suspect stands alone at place 0 of its gathering; under REPEAT 1 the head map
goes by the place that it had at the release. -/
def replayCtx (g : Gather) (place k : Nat) (st : Stream) (now : Nat) : Ctx :=
  newCtx (some g) k { st with pick := if place % max 1 st.every == st.pick then 0 else 1 } now

/-- The replay of the first suspect is loaded into the REPLAY slot of the quarantine engine. DESIGN CHOICE, log entry 18. -/
def State.startReplay (s : State) (p : Nat) : State :=
  let r := s.recPart p
  match r.suspects, r.base with
  | e :: _, some g =>
    (match (enum g.entries).find? (fun x => x.2.dir == e.1 && x.2.seq == e.2) with
     | none => s
     | some (place, en) =>
       let q := r.quarantine
       let en := { en with qOffset := 0, samples := [], heads := [], maskWait := [],
                           masks := (s.maskNodes p en).filterMap fun k => match s.nodeGrammar p en k with
                             | some (im, st, stk) => some (k, bitmapOf (s.vocab p).size (txtMask im (s.vocab p) st stk))
                             | none => none }
       let one : Gather := { g with entries := [en], hitVerbs := [] }
       let n := (s.enginesOf p).length
       let set := match s.program? p with
         | some prog => (match prog.sets.find? (fun (x : CmdSet) => x.engines == n) with | some x => x.streams | none => [])
         | none => []
       let ctxs := (List.range n).map fun k => (k, replayCtx one place k (set.getD k {}) s.now)
       let first := (ctxs.headD (0, {})).2
       let spn := s.spnOf p
       let t := s.setRecPart p { r with gather := some one, buf := spn.buf, hbm := spn.hbm, folios := [], treeKv := [],
                                        streams := ctxs.drop 1, ended := none }
       (t.modEng q fun x =>
         { x with slots := tput x.slots 1 first,
                  store := if x.running = 1 && x.switching.isNone then [] else x.store }).rechoose p q)
  | _, _ => s

/-- The search is over: its suspects are forgotten. -/
def State.endSearch (s : State) (p : Nat) : State :=
  let t := s.stopReplay p
  let r := t.recPart p
  (t.setRecPart p { r with suspects := [], hits := [], nSuspects := 0, fault := none, base := none, quarantine := 0 }).setPartMode
    p .normal

/-- The search begins (R340), after the rollback of `g`; with more suspects than SUSPECT_MAX none is replayed. -/
def State.startSearch (s : State) (p : Nat) (d : FaultDetail) (g : Option Gather) (sus : List (Nat × Nat)) : State :=
  if sus.isEmpty then s
  else if sus.length > s.suspectMax p then sus.foldl (fun t e => t.endSuspect p g e .replayAbandoned) s
  else
    let r := s.recPart p
    let t := s.setRecPart p { r with suspects := sus, hits := [], nSuspects := sus.length,
                                     quarantine := s.quarantineOf p d, fault := some d, base := g }
    let t := sus.foldl (fun t e => t.modSeq e.1 e.2 fun q => { q with suspect := true }) t
    (t.setPartMode p .recovering).startReplay p

/-- A sequence is found guilty: POISONED (Table 2.3). -/
def State.poison (s : State) (p : Nat) (e : Nat × Nat) : State :=
  match s.seq? e.1 e.2 with
  | none => s
  | some _ => ((s.modSeq e.1 e.2 fun q => { q with state := .poisoned })).count .sysPartPoisoned p

/-- The verdict of R340 over the suspects that reproduced the fault. DEDUCED, log entry 25. -/
def State.verdict (s : State) (p : Nat) : State :=
  let r := s.recPart p
  let all := r.hits.length ≥ 2 && r.hits.length == r.nSuspects
  let t := r.hits.foldl (fun t e =>
    if all then t.endSuspect p r.base e .replayAbandoned
    else (t.endSuspect p r.base e .poisoned).poison p e) s
  t.endSearch p

/-- REPLAY_END: the replay under way has ended, at the end of its streams or at its first fault, and `hit` says whether it
reproduced the fault. A suspect that did not is cleared at once. -/
def doReplayEnd (p : Nat) (hit : Bool) (s : State) : State :=
  let r := s.recPart p
  match r.gather with
  | none => s
  | some one =>
    if !s.live || r.ended != some hit then s
    else
      let t := s.stopReplay p
      let e := match one.entries with | en :: _ => (en.dir, en.seq) | [] => (0, 0)
      let still := r.suspects.contains e
      let r' := t.recPart p
      let t := t.setRecPart p { r' with suspects := r.suspects.filter (· != e),
                                        hits := if hit && still then r.hits ++ [e] else r.hits }
      let t : State := if hit then t else
        match r.base with
        | some g => (g.entries.filter fun (x : GEntry) => x.dir == e.1 && x.seq == e.2).foldl (fun (t : State) (x : GEntry) => t.requeue p x) t
        | none => t
      if (t.recPart p).suspects.isEmpty then t.verdict p else t.startReplay p

/-! ## The fence of a partition (R342, Table 16.7) -/

/-- What the fence does to one verb, in ring order. -/
def State.fenceVerb (s : State) (p : Nat) (sus : List (Nat × Nat)) (w : Verb) : State :=
  match s.verb? p w.id with
  | none => s
  | some v =>
    let st := if sus.contains (v.dir, v.seq) then Status.replayAbandoned else .fenced
    if v.phase != .running then (if v.acts then s else s.complete p v.id .fenced)
    else
      match v.op with
      | .step => s.endStep p v.dir v.seq st
      | .append | .splice => s.endInput p v.dir v.seq st
      | .handoffSend => s.abandonSend v.dir none .fenced
      | .handoffClaim =>
        (match s.claim? p v.id with
         | some o => if o.phase ≤ 2 then s.failClaim p v.id .fenced else s
         | none => s)
      | op => if abandons op then s.abandonVerb p v .fenced else s

/-- Sequences enter DRAINING; those of a parked session keep their state before PARK. -/
def Session.drain (x : Session) : Session :=
  { x with seqs := tmap (fun _ (q : Seq) =>
      if q.state == .parked then { q with state := .draining }
      else if q.state == .new || q.state == .prefill || q.state == .decode || q.state == .wait then
        { q with prev := q.state, state := .draining }
      else q) x.seqs }

/-- The sessions of a partition with `f` applied. -/
def State.modPart (s : State) (p : Nat) (f : Session → Session) : State :=
  { s with dir := { s.dir with sessions := tmap (fun _ (x : Session) => if x.part == p then f x else x) s.dir.sessions } }

/-- A revive or claim has reserved this record. -/
def State.claiming (s : State) (d : Nat) : Bool := s.ho.claims.any fun o => o.landed.isSome && o.dir == d

/-- Stage 3 of a PART event: the partition is fenced. -/
def State.fencePart (s : State) (p : Nat) : State :=
  if s.partFenced p then s
  else
    let r := s.recPart p
    let sus := r.suspects ++ r.hits
    let t := (s.setPartMode p .fenced).count .sysPartResets p
    let t := (t.abortCkpt p .fenced).stopReplay p
    let t := t.rollback p []
    let t : State := match r.base with
      | some g => (g.entries.filter fun (x : GEntry) => sus.contains (x.dir, x.seq)).foldl (fun (t : State) (x : GEntry) => t.requeue p x) t
      | none => t
    let t := t.setRecPart p { t.recPart p with suspects := [], hits := [], nSuspects := 0, fault := none, base := none,
                                               quarantine := 0 }
    let t := (t.verbs p).foldl (fun t v => t.fenceVerb p sus v) t
    let t := t.modSpn p fun x => { x with next := none, owed := [] }
    let t := (t.sessionsOf p fun x => match x.send with | some o => o.phase == .sent | none => false).foldl
      (fun t d => t.abandonSend d none .ownerReturned) t
    let t := (t.sessionsOf p fun x => x.revive.isSome).foldl (fun t d =>
      if t.claiming d then t
      else (t.abandonRevive d).modSeqs d fun q => if q.state == .reviving then { q with state := .parked } else q) t
    (t.expireDue p).modPart p Session.drain

/-! ## The reset (R343, R344) -/

/-- R111: an engine's store, slots, save areas and ENG_NUMERIC are zeroed. -/
def State.zeroEngine (s : State) (e : Nat) : State :=
  ((((s.setEng e {}).setReg .engNumeric e 0 0).setReg .engAttWaves e 0 0).setReg .engAttKeys e 0 0).setReg .engAttLines e 0 0
    |>.setReg .engAttSkip e 0 0

/-- The drain has ended: no verb or search of the partition is left, and no hand-off or claim of it is under way. -/
def State.drainOver (s : State) (p : Nat) : Bool :=
  (s.verbs p).isEmpty && (s.queriesOf p).isEmpty && (s.sessionsOf p fun x => x.inHandoff).isEmpty && !(s.ho.claims.any fun o => o.part == p)

/-- PARTITION_DRAIN_END: the reset stages start; the reset-domain controller loads each engine's self-test (R151). A composition change counts the partition's drain as ended (R243). -/
def doPartitionDrainEnd (p : Nat) (s : State) : State :=
  if !s.live || (s.recPart p).mode != .fenced || !s.drainOver p then s
  else
    let t := s.setPartMode p .resetting
    let t := (t.dropRequests p 0).dropRequests p 1
    let t := (t.enginesOf p).foldl (fun t e => (t.zeroEngine e).loadTest p e Config.selfTest) t
    let t := t.modSpn p fun x => { x with replyUse := 0, treeKv := [] }
    let t := ((t.partImage p).part.nand).foldl (fun t c => t.modChan c fun x =>
      match x.state with
      | .active | .limited | .readOnly => { x with state := .training }
      | _ => x) t
    if t.fencedByChange p && !t.bind.drained.contains p then
      { t with bind := { t.bind with drained := t.bind.drained ++ [p] } }
    else t

/-- The state that Table 16.9 gives for a state at the fence. -/
def afterReset : SeqState → SeqState
  | .prefill => .wait
  | .decode => .wait
  | x => x

/-- Sequences leave DRAINING as Table 16.9 gives; where a composition change has drained the partition they stay, and go on at
the switch. -/
def Session.normalise (held : Bool) (x : Session) : Session :=
  { x with seqs := tmap (fun _ (q : Seq) =>
      if q.state != .draining then q
      else if held then { q with prev := afterReset q.prev }
      else if x.quire.isSome then { q with state := .parked }
      else { q with state := afterReset q.prev }) x.seqs }

/-- PART_RESET_DONE: the self-tests are over, and the engines are zeroed before any other task runs (R111); the reset stages have completed, or one has failed (`ok` false). DEDUCED, log entry 25. -/
def doPartResetDone (p : Nat) (ok : Bool) (s : State) : State :=
  if !s.live || (s.recPart p).mode != .resetting then s
  else if !ok then s.raise 0xF1 { part := some p }
  else
    let held := s.fencedByChange p && s.bind.drained.contains p
    let t := ((s.partImage p).part.nand).foldl (fun t c => t.modChan c fun x =>
      if x.state == .training then { x with state := chanStateOf t.spareMin x } else x) s
    let t := (t.enginesOf p).foldl State.zeroEngine t
    let t := (t.modPart p (Session.normalise held)).modSpn p fun x => { x with estNs := 0 }
    (t.expireDue p).setPartMode p .normal

/-! ## The commands of this file -/

/-- REPLAY_END (R339). -/
def execReplayEnd (p : Nat) (hit : Bool) (s : State) : Host.Outcome State Fault Refusal :=
  .next (doReplayEnd p hit s)

/-- PARTITION_DRAIN_END (R342). -/
def execPartitionDrainEnd (p : Nat) (s : State) : Host.Outcome State Fault Refusal :=
  .next (doPartitionDrainEnd p s)

/-- PART_RESET_DONE (R344). -/
def execPartResetDone (p : Nat) (ok : Bool) (s : State) : Host.Outcome State Fault Refusal :=
  .next (doPartResetDone p ok s)

end Machine
end Sys2Proof
end

