-- ==== Sys2Proof/Machine/Faults.lean ====
section
/-!
DEFINITION. Sys2Proof/Machine/Faults.lean: the fault collector (R325 to R335): counting, classification, the event log, the
reactions, overlapping faults (R348), and the entry to the safe state (R345). Also the events that reach the collector through a
command or a register: PART_RESET, SYS_HANG_REPORT, FAULT_CFG and patrol scrub.
-/
namespace Sys2Proof
namespace Machine

/-! ## Sources (Table 16.1) -/

/-- A row of Table 16.1. Where the table gives no escalated severity it stands as the base, with a threshold of 0. -/
structure FaultRow where
  base : Severity
  esc : Severity
  n : Nat := 0
  w : Nat := 0
  step : Bool := false
  deriving DecidableEq, Repr, Inhabited

def corrRow : FaultRow := { base := .corr, esc := .corr }
def contRow : FaultRow := { base := .cont, esc := .cont }
def devRowF : FaultRow := { base := .dev, esc := .dev }

/-- Table 16.1 by source number; none: the source is reserved. DEDUCED, log entry 26. -/
def faultRow (k : Nat) : Option FaultRow :=
  if k < 0x20 then some { base := .cont, esc := .part, n := 3, w := 3600, step := true }
  else if k < 0x40 then some { base := .cont, esc := .part, n := 16, w := 60, step := true }
  else if k < 0x48 then some corrRow
  else if k < 0x50 then some { base := .cont, esc := .part, n := 8, w := 3600 }
  else if k < 0x58 then some { base := .part, esc := .dev, n := 2, w := 3600 }
  else if k = 0x58 then some devRowF
  else if k < 0x5C then some { base := .cont, esc := .part, n := 4, w := 3600, step := true }
  else if k < 0x60 then none
  else if k < 0x80 then some contRow
  else if k < 0x84 then some { base := .part, esc := .dev, n := 2, w := 3600 }
  else if k = 0x84 then some devRowF
  else if k < 0x9D then some contRow
  else if k = 0x9D then some corrRow
  else if k = 0x9E then some { base := .cont, esc := .part, n := 32, w := 60, step := true }
  else if k = 0x9F then none
  else if k = 0xA0 then some devRowF
  else if k = 0xA1 then some contRow
  else if k = 0xA2 then some devRowF
  else if k < 0xA6 then some { base := .cont, esc := .dev, n := 2, w := 3600 }
  else if k = 0xA6 then some devRowF
  else if k < 0xA9 then some corrRow
  else if k = 0xA9 then some devRowF
  else if k < 0xE0 then none
  else if k < 0xF0 then some { base := .part, esc := .dev, n := 3, w := 3600 }
  else if k < 0xF5 then some devRowF
  else none

/-- Sources whose "partitions affected" is All. -/
def affectsAll (k : Nat) : Bool :=
  k == 0x58 || k == 0x84 || k == 0xA0 || k == 0xA2 || k == 0xA6 || k == 0xA9 || (0xF0 ≤ k && k < 0xF5)

/-- The partitions of the composition in force. -/
def State.present (s : State) : List Nat := (List.range Config.partitions).filter fun p => (s.partImage? p).isSome

/-- The partitions that an event affects, lowest first (Table 16.1). -/
def State.affected (s : State) (k : Nat) (d : FaultDetail) : List Nat :=
  if affectsAll k then s.present
  else if k < 0x40 then (s.ownerOfEngine (k % 32)).toList
  else if k < 0x48 then []
  else if 0x50 ≤ k && k < 0x58 then s.present.filter fun p => (s.partImage p).part.hbm.any fun c => c / 32 == k - 0x50
  else if 0x60 ≤ k && k < 0x80 then (s.ownerOfNand (k - 0x60)).toList
  else if 0x80 ≤ k && k < 0x84 then s.present.filter fun p => (s.partImage p).part.nand.any fun c => c / 8 == k - 0x80
  else if 0x85 ≤ k && k < 0x9E then []
  else if k = 0xA5 then
    (match d.part with
     | some p => (match s.group? p with | some g => s.localMembers g | none => [p])
     | none => [])
  else if k = 0xA7 || k = 0xA8 then []
  else if 0xE0 ≤ k && k < 0xF0 then s.present.filter fun p => p == k - 0xE0
  else d.part.toList

/-- The engine of an event. -/
def engineOf (k : Nat) (d : FaultDetail) : Option Nat := if k < 0x40 then some (k % 32) else d.engine

/-- DETAIL of the log entry (Table 16.3). -/
def detailWord (k : Nat) (d : FaultDetail) : Nat :=
  if k < 0x40 then at' (d.slot % 4) 126 + at' (d.cmd % 2 ^ 30) 96 + at' (d.stream % 32) 91 + at' (d.unit % 4) 89 + at' (d.cause % 8) 86
  else if 0x59 ≤ k && k < 0x5C then at' (d.dir.getD 0 % 2 ^ 24) 104 + at' (d.seq % 256) 96 + at' (d.raw % 2 ^ 14) 82
  else if k < 0x9F then d.raw % 2 ^ 128
  else 0

/-! ## The event log (R331) -/

/-- A source's configuration and bucket. -/
def State.faultSrc (s : State) (k : Nat) : FaultSrc :=
  let r := (faultRow k).getD corrRow
  tgetD s.flt.srcs k { threshold := r.n, windowS := r.w }

/-- Entries in the log. -/
def FltState.held (f : FltState) : Nat := (f.head + 2048 - f.tail % 2048) % 2048
def logPlaces : Nat := 1024

/-- One entry is logged, or dropped while the log is full. -/
def State.logOne (s : State) (e : LogEntry) : State :=
  let f := s.flt
  let e := { e with time := s.now, seq := f.logSeq }
  let next := (f.logSeq + 1) % two32
  if f.held ≥ logPlaces then
    (({ s with flt := { f with logSeq := next } } : State).setReg .sysFaultDropped 0 0 (satAdd (s.reg .sysFaultDropped) 1)).stampAdd
      (regAddr .sysFaultDropped 0 0) 1
  else
    let g := { f with log := tput f.log (f.head % logPlaces) e, head := (f.head + 1) % 2048, logSeq := next }
    let t : State := { s with flt := g }
    let t := if g.held ≥ 512 then t.cause causeLogHalf else t
    if e.source = srcSat then t.cause causeSat else t

/-- A source's status bit is set (R326). -/
def State.setFaultBit (s : State) (k : Nat) : State :=
  (s.setReg .sysFaultStatus (k / 64) 0 (setBit (s.reg .sysFaultStatus (k / 64)) (k % 64) true)).stampSet
    (regAddr .sysFaultStatus (k / 64) 0) (2 ^ (k % 64))

/-- One of the collector's own counters has saturated: a log entry for 0xA7, counted against no source (R330).
DEDUCED, log entry 26. -/
def State.ownSat (s : State) : State :=
  ((s.setFaultBit srcSat).logOne
    { time := 0, seq := 0, source := srcSat, severity := .corr, escalated := false, queued := false, part := none, engine := none,
      detail := 0 }).cause causeCorr

/-- An event is logged; where SYS_FAULT_DROPPED saturates by it, that is logged next. -/
def State.logFault (s : State) (e : LogEntry) : State :=
  let hit := s.flt.held ≥ logPlaces && satHits (s.reg .sysFaultDropped) 1
  let t := s.logOne e
  if hit then t.ownSat else t

/-! ## Classification (R328) -/

/-- Two to the sixteenth: the bucket's fraction. -/
def bucketUnit : Nat := 65536

/-- The bucket after one more event at `now`. -/
def FaultSrc.fill (b : FaultSrc) (now : Nat) : FaultSrc :=
  let leak := (now - b.time) * b.threshold * bucketUnit / (max 1 b.windowS * 1000000000)
  { b with level := min (b.threshold * bucketUnit) (b.level - leak + bucketUnit), time := now }

/-- `classify`: the severity, whether it is the escalated one, and the state with the bucket filled. -/
def State.classify (s : State) (k : Nat) (r : FaultRow) : Severity × Bool × State :=
  let b := s.faultSrc k
  if b.threshold = 0 then (r.base, false, s)
  else
    let b := b.fill s.now
    let t : State := { s with flt := { s.flt with srcs := tput s.flt.srcs k b } }
    if b.level ≥ b.threshold * bucketUnit then (r.esc, true, t) else (r.base, false, t)

/-! ## The safe state (R345, R423) -/

/-- The grammar and index drops that waited for their users do not go on. -/
def State.clearDrops (s : State) (p : Nat) : State :=
  let x := s.txtPart p
  let t := s.setTxtPart p { x with grammars := tmap (fun _ (g : Grammar) => { g with dropping := false }) x.grammars }
  t.setIndexes p (tmap (fun _ (i : RIndex) => { i with dropping := false, loading := false }) (t.indexesOf p))

/-- A hand-off that was being sent: its outstanding request is lost, and it is taken up again after the restart. -/
def SendOp.toSafe (o : SendOp) (now : Nat) : SendOp :=
  let o := { o with failing := if o.phase == SendPhase.sent || o.done then o.failing else some (o.failing.getD .fenced), acksLeft := 0 }
  match o.phase with
  | .sent => o
  | .readRecord => { o with phase := .release, retry := some now }
  | .acquire => { o with phase := .zeroHeader, retry := some now }
  | .writing => { o with phase := .zeroHeader, retry := some now }
  | _ => { o with retry := some now }

/-- What entry to the safe state does to one verb: R423. -/
def State.safeVerb (s : State) (p : Nat) (w : Verb) : State :=
  match s.verb? p w.id with
  | none => s
  | some v =>
    if v.phase != .running then s.complete p v.id .fenced
    else
      match v.op with
      | .step => (s.modSeq v.dir v.seq fun q => { q with run := q.run.map fun r => { r with stopVerbs := [] } }).endStep
          p v.dir v.seq .fenced false false
      | .append | .splice => s.endInput p v.dir v.seq .fenced
      | .query =>
        let t := match s.query? p v.id with
          | some q => s.useGen p q.index q.gen v.id false
          | none => s
        (t.setQueries p ((t.queriesOf p).filter fun x => x.verb != v.id)).complete p v.id .fenced
      | .handoffClaim =>
        (match s.claim? p v.id with
         | some o => if o.phase ≤ 2 then s.failClaim p v.id .fenced else s.complete p v.id .fenced
         | none => s.complete p v.id .fenced)
      | op => if abandons op then s.abandonVerb p v .fenced else s.complete p v.id .fenced

/-- The rings of a function are as after its reset, but for the completion sequence numbers; records not written are owed. -/
def State.safeRings (s : State) (p : Nat) : State :=
  let v := s.vf p
  let t := s.setVf p
    { enabled := v.enabled, d3hot := v.d3hot, tdi := v.tdi, tdiStream := v.tdiStream, csnNext := v.csnNext }
  if v.waiting.isEmpty then t
  else { t with pwr := { t.pwr with owed := tput t.pwr.owed p (tgetD t.pwr.owed p [] ++ v.waiting) } }

/-- Sequences of a partition as the safe state leaves them: no data key, no step, no revive; what a composition change drained
is drained no longer. -/
def State.safeSession (s : State) (p : Nat) (x : Session) : Session :=
  let held := s.fencedByChange p
  { x with
    wrappedSdk := x.sdk.getD x.wrappedSdk,
    wrapEpoch := if x.sdk.isSome then s.prkEpoch p else x.wrapEpoch,
    sdk := none,
    send := x.send.map fun o => o.toSafe s.now,
    seqs := tmap (fun _ (q : Seq) =>
      let q := { q with tree := [], suspect := false, stopping := false, stalled := false, waitsRoom := false }
      match q.state with
      | .prefill => { q with state := .wait }
      | .decode => { q with state := .wait }
      | .draining =>
        if x.send.isSome then q
        else if x.quire.isSome then { q with state := .parked }
        else if held || s.partFenced p then { q with state := afterReset q.prev }
        else q
      | _ => q) x.seqs }

/-- One partition enters the safe state. -/
def State.safePart (s : State) (p : Nat) : State :=
  let t := s.endMember p .fenced
  let t := (t.stopReplay p).rollback p []
  let t := t.setRecPart p { mode := (t.recPart p).mode }
  let t := (t.verbs p).foldl (fun t v => t.safeVerb p v) t
  let t := ((t.clearDrops p).setQueries p []).grantText
  let t := (t.sessionsOf p fun x => x.revive.isSome).foldl (fun t d =>
    if t.claiming d then t
    else (t.abandonRevive d).modSeqs d fun q => if q.state == .reviving then { q with state := .parked } else q) t
  let old := t
  let t := t.modPart p (old.safeSession p)
  let t := t.modSpn p fun x => { x with cur := none, next := none, treeKv := [], replyUse := 0, paid := [], owed := [] }
  let t := t.modFolPart p fun x => { x with places := [], reviveBacklog := [], demandBacklog := [], pressure := false }
  (t.safeRings p).setPartMode p .safe

/-- A move of the bindery is abandoned: the folio stays where it is. -/
def State.dropMove (s : State) (i : Nat) (f : Folio) : State :=
  if f.demoting then (s.modFolio i fun g => { g with demoting := false }).freeTier f.part f.target f.targetLoc
  else if f.promoting then s.abandonPromotion i
  else s

/-- A claim in the safe state: its requests are lost; one whose claim CAS has been sent reads the record after the restart. -/
def ClaimOp.toSafe (o : ClaimOp) (now : Nat) : ClaimOp :=
  if o.phase ≥ 4 && o.phase ≤ 5 then { o with retry := some now } else { o with phase := 6, retry := some now }

/-- A link whose transmitter is turned off. -/
def safeLink (x : Link) : Link := { state := if x.state == .parked then .parked else .off }

/-- Entry to the safe state on a DEV event of source k (R345). -/
def State.enterSafe (s : State) (k : Nat) : State :=
  let t : State := { s with flt := { s.flt with safe := true } }
  let b := t.sec.battery
  let last := (b.lastSixteen ++ [(t.now, k)]).reverse.take 16 |>.reverse
  let b := { b with safeEntries := b.safeEntries + 1, lastSource := k, lastTime := t.now, lastSixteen := last }
  let t : State := { t with sec := { t.sec with battery := b } }
  let t := t.audit auditDevice 4 0 k 0
  let t : State := { t with hif := { t.hif with aerInternal := true } }
  let t := if t.hif.linkUp then t.emit (.aerInternal t.hif.aerFatal) else t
  let t := ({ t with pwr := { t.pwr with safePin := true } } : State).emit (.pin "SAFE#" true)
  let t := t.fol.folios.foldl (fun (t : State) (e : Nat × Folio) => t.dropMove e.1 e.2) t
  let t := (List.range Config.partitions).foldl State.safePart t
  let change := t.changing
  let prior := match t.bind.image with | some im => some im | none => t.pwr.priorImage
  let t : State := { t with
    fab := { t.fab with links := tmap (fun _ => safeLink) t.fab.links, unacked := [], inbox := [], requests := [],
                        routes := [], oldRoutes := none, switchAt := none, lsas := [] },
    ho := { t.ho with claims := t.ho.claims.map fun o => o.toSafe t.now },
    eng := [],
    shp := { t.shp with ports := [] },
    nvf := { chans := tmap (fun _ (c : Chan) => { c with relocs := [], gc := none }) t.nvf.chans },
    ckp := { t.ckp with inbox := [] },
    sec := { t.sec with keys := [], storageKey := false },
    hif := { t.hif with ideStreams := [] },
    pwr := { t.pwr with priorImage := prior } }
  if change then
    ({ t with bind := { t.bind with pendingImage := none, kinds := [], drained := [] } } : State).setPhase .inForce
  else t

/-! ## Reactions (R332, Table 16.4, Table 16.5, Table 16.11) -/

/-- The search of a partition is on. -/
def RecPart.searching (r : RecPart) : Bool := !r.suspects.isEmpty || !r.hits.isEmpty || r.gather.isSome

/-- A replay under way has faulted as its search looks for (R339): the same cause in the same command of the same stream. -/
def State.reproduces (s : State) (p k : Nat) (d : FaultDetail) : Bool :=
  let r := s.recPart p
  k < 0x40 && d.slot == 1 && r.gather.isSome &&
    (match r.fault with
     | some f => f.cause == d.cause && f.stream == d.stream && f.cmd == d.cmd
     | none => false)

/-- A source whose fault touches the step that a partition has in flight. -/
def stepSource (k : Nat) (d : FaultDetail) : Bool :=
  (match faultRow k with | some r => r.step | none => false) || (0x48 ≤ k && k < 0x50 && d.stepRead)

/-- A fault in a TEST context (R338). -/
def inTest (k : Nat) (d : FaultDetail) : Bool := (k < 0x40 || k == 0x9E) && d.slot == 2

/-- What a lost line of HBM takes with it (Table 16.5). -/
def State.loseLine (s : State) (k : Nat) (d : FaultDetail) : State :=
  let t := match d.folio with | some i => s.loseFolio i (k - 0x48) | none => s
  let t := match d.part, d.shareLine with
    | some p, some o => t.modSpn p fun x => { x with poison := if x.poison.contains (o / 64 * 64) then x.poison else x.poison ++ [o / 64 * 64] }
    | _, _ => t
  match d.dir with | some x => t.damage x | none => t

/-- The release stage of a recovery: verbs that wait for a step's boundary complete where no step is under way or selected (R101). -/
def State.completeOwed (s : State) (p : Nat) : State :=
  let x := s.spnOf p
  if x.cur.isSome || x.next.isSome then s
  else x.owed.foldl (fun t v => t.completeHit p v) (s.modSpn p fun x => { x with owed := [] })

/-- The step in flight is rolled back; for an engine's fault the search follows. -/
def State.contStep (s : State) (p k : Nat) (d : FaultDetail) : State :=
  let t := (s.setPartMode p .recovering).setRecPart p
    { (s.setPartMode p .recovering).recPart p with contAt := some s.now }
  let t : State :=
    if k < 0x40 then
      let d := { d with engine := some (k % 32) }
      let sus := t.suspectsOf p d
      let base := (t.spnOf p).cur
      (t.rollback p sus).startSearch p d base sus
    else
      let t := t.rollback p []
      if k = 0x59 || k = 0x5B then (match d.dir with | some x => t.damage x | none => t)
      else if 0x48 ≤ k && k < 0x50 then t.loseLine k d
      else t
  let t := t.completeOwed p
  if (t.recPart p).searching then t else t.setPartMode p .normal

/-- The recall unit's error: the QUERY completes with its own bit in MISSING. -/
def State.contQuery (s : State) (p vid : Nat) : State :=
  match s.query? p vid with
  | none => s
  | some q =>
    let own := if q.localDone then [] else [s.ownOrdinal p q]
    match q.remote with
    | some f => s.endRemote p q f false []
    | none => (s.modQuery p vid fun q => { q with missing := q.missing ++ own, localDone := true }).endQuery p vid

/-- The reaction to a CONT event in partition p. -/
def State.contReact (s : State) (p k : Nat) (d : FaultDetail) : State :=
  if s.reproduces p k d then s.setRecPart p { s.recPart p with ended := some true }
  else if k < 0x40 then (if d.slot = 0 then s.contStep p k d else s)
  else if stepSource k d then s.contStep p k d
  else if 0x48 ≤ k && k < 0x50 then s.loseLine k d
  else if k = 0xA4 then (match d.verb with | some vid => s.contQuery p vid | none => s)
  else s

/-- A second step source while a partition recovers from a CONT event raises it to PART (R341, R348); so does a lost line of the
model program or of a context save area (Table 16.5). -/
def State.raised (s : State) (k : Nat) (d : FaultDetail) (ps : List Nat) : Bool :=
  (0x48 ≤ k && k < 0x50 && (d.program || d.saveArea)) ||
  (stepSource k d && ps.any fun p =>
    !s.reproduces p k d && ((s.recPart p).mode == .recovering || (s.recPart p).contAt == some s.now))

/-- The TEST context is unloaded, and its fault reported to the management port. -/
def State.endTest (s : State) (e : Nat) : State :=
  let t := s.modEng e fun x => { x with
    slots := tdel x.slots 2, switching := if x.switching == some 2 then none else x.switching,
    stopped := if x.running = 2 then false else x.stopped }
  (match s.ownerOfEngine e with | some p => t.rechoose p e | none => t).emit (.testReport e)

/-- Stages 3 to 7 of an event of severity `sev` that affects the partitions `ps`. -/
def State.react (s : State) (k : Nat) (d : FaultDetail) (ps : List Nat) (sev : Severity) : State :=
  let free := ps.filter fun p => !s.partFenced p
  match sev with
  | .corr => if inTest k d then s.endTest ((engineOf k d).getD 0) else s
  | .cont =>
    let t := if k = 0xA5 then (match free with | p :: _ => s.abortCkpt p .tierFailed | [] => s)
             else free.foldl (fun t p => t.contReact p k d) s
    if 0x48 ≤ k && k < 0x50 && free.isEmpty then t.loseLine k d else t
  | .part =>
    let t := free.foldl State.fencePart s
    let t := if 0x48 ≤ k && k < 0x50 then t.loseLine k d else t
    if d.program && 0x48 ≤ k && k < 0x50 then ps.foldl (fun t p => t.modSpn p fun x => { x with program := none }) t else t
  | .dev => if !affectsAll k && !ps.isEmpty && free.isEmpty then s else s.enterSafe k

/-- The event log's view of an event, and its causes at PF0. -/
def State.record (s : State) (k : Nat) (d : FaultDetail) (ps : List Nat) (sev : Severity) (esc : Bool) : State :=
  let queued := sev != .corr && s.flt.handledAt = s.now && s.flt.handling > 0
  let t := s.logFault
    { time := 0, seq := 0, source := k, severity := sev, escalated := esc, queued := queued, part := ps.head?,
      engine := engineOf k d, detail := detailWord k d }
  let t := match sev with
    | .corr => t.cause causeCorr
    | .cont => t.cause causeCont
    | .part => t.cause causePart
    | .dev => t
  if sev == .corr then t
  else { t with flt := { t.flt with handledAt := t.now, handling := if s.flt.handledAt = t.now then t.flt.handling + 1 else 1 } }

/-- The status bit and the counter of a source; whether the counter has saturated by this. -/
def State.countFault (s : State) (k : Nat) : Bool × State :=
  let w := s.reg .sysFaultCnt k
  (satHits w 1, ((s.setFaultBit k).setReg .sysFaultCnt k 0 (satAdd w 1)).stampAdd (regAddr .sysFaultCnt k 0) 1)

/-- Some recovery is in progress. -/
def State.recoveryOn (s : State) : Bool :=
  (List.range Config.partitions).any fun p =>
    let r := s.recPart p
    r.mode == .recovering || r.mode == .fenced || r.mode == .resetting || r.contAt == some s.now

/-- One event of the collector, from its status bit to its reaction. `force`: a severity that stands whatever the bucket holds,
which the event leaves alone (R330). DEDUCED, log entry 26. -/
def State.oneEvent (s : State) (k : Nat) (d : FaultDetail) (force : Option Severity) : State :=
  match faultRow k with
  | none => s
  | some r =>
    let ps := s.affected k d
    let (hit, t) := s.countFault k
    let (sev, esc, t) := match force with
      | some v => (v, false, t)
      | none => t.classify k r
    let up := sev == .cont && s.raised k d ps
    let sev := if inTest k d then .corr else if up then .part else sev
    let esc := if inTest k d then false else esc || up
    let t := t.record k d ps sev esc
    let t := if hit then t.ownSat else t
    if s.flt.safe then t else t.react k d ps sev

/-- An event, and the 0xF4 that a fault in the recovery machinery adds while a recovery is in progress (R348). -/
def State.event (s : State) (k : Nat) (d : FaultDetail) (force : Option Severity := none) : State :=
  let on := s.recoveryOn && !s.flt.safe && (k == 0xF1 || k == 0xA6 || d.machinery)
  let t := s.oneEvent k d force
  if on then t.oneEvent 0xF4 {} none else t

/-- The line of this event is among those driven: it is taken. HBM lines are known by their address.
DESIGN CHOICE, log entry 4. -/
def takeLine (k : Nat) (d : FaultDetail) (l : List (Nat × FaultDetail)) : List (Nat × FaultDetail) :=
  if l.contains (k, d) then l.erase (k, d)
  else eraseFirst (fun e => e.1 == k && 0x40 ≤ k && k < 0x58 && e.2.raw == d.raw) l

/-- The host link is down: configuration space is as after a reset, so that no virtual function is enabled, and no IDE stream is
keyed. What PF0's registers hold stands. DESIGN CHOICE, log entry 31. -/
def State.hostReset (s : State) : State :=
  let vfs := tmap (fun _ (v : Vf) => { v with enabled := false, d3hot := false, tdi := .unlocked, tdiStream := 0, msix := [],
                                              sqEnable := false, cqEnable := false }) s.hif.vfs
  { s with hif := { s.hif with linkUp := false, cfgReady := false, vfs := vfs, pfMsix := [], pfD3hot := false, ideStreams := [] } }

/-- FAULT_EVENT: the collector takes one event: an error line that a block drives, or one that this model's blocks do not show.
Once the collector has failed its self-check it classifies nothing (R327). -/
def doFaultEvent (k : Nat) (d : FaultDetail) (s : State) : State :=
  if !s.pwr.pwrok || (s.flt.safe && s.sec.battery.lastSource = 0xF0) then s
  else
    let t : State := { s with flt := { s.flt with lines := takeLine k d s.flt.lines } }
    let t : State := if k = 0xA0 then t.hostReset else t
    if k = 0xF0 then
      let t := t.setFaultBit k
      if t.flt.safe then { t with sec := { t.sec with battery := { t.sec.battery with lastSource := 0xF0 } } } else t.enterSafe k
    else t.event k d

/-! ## PART_RESET, SYS_HANG_REPORT, FAULT_CFG, patrol scrub -/

/-- PART_RESET (R330): an event of source 0xE0 + p, classified PART whatever the bucket holds. -/
def doPartReset (p : Nat) (s : State) : State :=
  s.mgmtCommand 0x07 p [] fun s =>
    if p ≥ Config.partitions || (s.partImage? p).isNone then (.badArgument, s)
    else (.ok, s.event (0xE0 + p) {} (some .part))

/-- SYS_HANG_REPORT (R350): each write is one event of source 0xE0 + PARTITION, and is recorded. -/
def doSysHangReport (v : W64) (s : State) : State :=
  if !s.live || s.hif.pfD3hot || !s.hif.linkUp then s
  else s.pfWrite (regAddr .sysHangReport 0 0) v fun s =>
    s.event (0xE0 + bits v 3 0) { engine := if bit v 4 then some (bits v 9 5) else none }

/-- FAULT_CFG (R329): THRESHOLD and WINDOW_S of a source. -/
def doFaultCfg (k threshold windowS : Nat) (s : State) : State :=
  s.mgmtCommand 0x06 (threshold % 65536 * 65536 + windowS % 65536) [] fun s =>
    match faultRow k with
    | none => (.badArgument, s)
    | some _ =>
      if threshold ≥ 65536 || windowS ≥ 65536 then (.badArgument, s)
      else
        let b := { s.faultSrc k with threshold := threshold, windowS := windowS }
        (.ok, { s with flt := { s.flt with srcs := tput s.flt.srcs k b } })

/-- Lines of 64 bytes in a channel; line addresses go through the channels in order. -/
def channelLines : Nat := Config.channelBytes / 64

/-- SCRUB_READ (R72, R73): a corrected line is written back and reported as CORR; an uncorrectable one is reported, as source
0x48 + n in a partition's channel and as source 0x58 elsewhere: a channel of no partition is device-reserved. -/
def doScrubRead (line : Nat) (corrected uncorrectable : Bool) (s : State) : State :=
  let c := line / channelLines
  if !s.live || s.pwr.stage < 3 || c ≥ Config.hbmChannels then s
  else
    let d : FaultDetail := { raw := at' line 80 + at' (c % 256) 72 }
    if uncorrectable then
      match (List.range Config.partitions).find? fun p => (s.partImage p).part.hbm.contains c with
      | some p => s.raise (0x48 + c / 32) { d with part := some p }
      | none => s.raise 0x58 d
    else if corrected then (s.emit (.hbmLine line)).raise (0x40 + c / 32) d
    else s

/-! ## The commands of this file -/

/-- SCRUB_READ (R73). -/
def execScrubRead (line : Nat) (corrected uncorrectable : Bool) (s : State) : Host.Outcome State Fault Refusal :=
  .next (doScrubRead line corrected uncorrectable s)

/-- FAULT_CFG (R329). -/
def execFaultCfg (source threshold windowS : Nat) (s : State) : Host.Outcome State Fault Refusal :=
  .next (doFaultCfg source threshold windowS s)

/-- PART_RESET (R330). -/
def execPartReset (p : Nat) (s : State) : Host.Outcome State Fault Refusal :=
  .next (doPartReset p s)

/-- SYS_HANG_REPORT (R350). -/
def execSysHangReport (v : W64) (s : State) : Host.Outcome State Fault Refusal :=
  .next (doSysHangReport v s)

/-- FAULT_EVENT (R328). -/
def execFaultEvent (src : Nat) (detail : FaultDetail) (s : State) : Host.Outcome State Fault Refusal :=
  .next (doFaultEvent src detail s)

end Machine
end Sys2Proof
end

