-- ==== Sys2Proof/Machine/Bind.lean ====
section
/-!
DEFINITION. Sys2Proof/Machine/Bind.lean: the binding image (chapter 11): its layout and checks (R228 to R232), change kinds
(R237), loading at bring-up and at a switch (R226, R234, R241), drains (R238 to R240), measurement (R233), the enrolled key and
floors, and the load of model programs (R144, R235).
-/
namespace Sys2Proof
namespace Machine

/-! ## Layout (R228 to R230) -/

/-- A directory entry: section type, partition, reserved byte, length, offset. -/
structure DirEnt where
  type : Nat
  part : Nat
  rsv : Nat
  len : Nat
  off : Nat
  deriving DecidableEq, Repr, Inhabited

/-- Entry k of the section directory. -/
def dirEnt (b : Bytes) (k : Nat) : DirEnt :=
  let o := 0x100 + 16 * k
  { type := fld b o 2, part := fld b (o + 2) 1, rsv := fld b (o + 3) 1, len := fld b (o + 4) 4, off := fld b (o + 8) 8 }

/-- Entries of the directory that are used. -/
def dirEnts (b : Bytes) : List DirEnt :=
  ((List.range 128).filter fun k => !zeroFld b (0x100 + 16 * k) 16).map (dirEnt b)

def imgEpoch (b : Bytes) : Nat := fld b 0x008 4
def imgSvn (b : Bytes) : Nat := fld b 0x00C 4
def imgUid (b : Bytes) : Nat := fld b 0x018 8
def imgPrev (b : Bytes) : Bytes := sub b 0x020 48
def imgKeyHash (b : Bytes) : Bytes := sub b 0x050 48
/-- Declared change kind of partition p. -/
def imgKind (b : Bytes) (p : Nat) : Nat := fld b 0x080 4 / 4 ^ p % 4
def sigAt (b : Bytes) : Nat := b.length - 256

/-- The six per-partition section types, in type order, and the two device types. -/
def partTypes : List Nat := [1, 2, 3, 4, 5, 6]
def devTypes : List Nat := [0x40, 0x41]

/-- The bytes of a partition's sections in type order. -/
def partBytes (b : Bytes) (p : Nat) : List Bytes :=
  partTypes.filterMap fun t => ((dirEnts b).find? fun e => e.type == t && e.part == p).map fun e => sub b e.off e.len

/-- The bytes of the device sections. -/
def devBytes (b : Bytes) : List Bytes :=
  devTypes.filterMap fun t => ((dirEnts b).find? fun e => e.type == t).map fun e => sub b e.off e.len

/-- The layout of R228, R229 and R230: six sections for each partition that is not ABSENT. -/
def layoutOk (b : Bytes) (present : List Nat) : Bool :=
  let es := dirEnts b
  fld b 0 4 == 0x444E4942 && fld b 4 2 == 1 && fld b 6 1 == Config.generation && fld b 7 1 == es.length && 1 ≤ es.length &&
  1 ≤ imgEpoch b && fld b 0x10 8 == b.length && b.length % 64 == 0 && b.length ≤ 16777216 && 0xA00 ≤ b.length &&
  zeroFld b 0x084 124 && zeroFld b (sigAt b + 97) 31 && zeroFld b (sigAt b + 224) 32 &&
  es.all (fun e => e.rsv == 0 && 0x900 ≤ e.off && e.off % 64 == 0 && e.off + e.len ≤ sigAt b &&
    ((partTypes.contains e.type && e.part < 16) || (devTypes.contains e.type && e.part == 0xFF))) &&
  (es.map fun e => (e.type, e.part)).Nodup &&
  devTypes.all (fun t => es.any fun e => e.type == t) &&
  (List.range Config.partitions).all fun p =>
    (present.contains p || imgKind b p == 3) &&
    (countp (fun (e : DirEnt) => partTypes.contains e.type && e.part == p) es) == (if present.contains p then 6 else 0)

/-- KEYHASH is that of the key in the signature block, and the signature verifies with it (R230). -/
def signatureOk (b : Bytes) : Bool :=
  let k := sub b (sigAt b) 97
  256 ≤ b.length && imgKeyHash b == sha384 k && fld k 0 1 == 4 &&
  ecdsaOk (beNat (sub k 1 48)) (beNat (sub k 49 48)) (beNat (sub b (sigAt b + 128) 48)) (beNat (sub b (sigAt b + 176) 48))
    (sha384 (b.take (sigAt b + 128)))

/-! ## The composition rules (R231, BAD_FORMAT) -/

/-- Ranges (base, count) that do not overlap and end at `lim`. -/
def rangesOk (lim : Nat) (l : List (Nat × Nat)) : Bool :=
  l.all (fun a => a.1 + a.2 ≤ lim) && decide (l.Pairwise fun a b => a.2 = 0 ∨ b.2 = 0 ∨ a.1 + a.2 ≤ b.1 ∨ b.1 + b.2 ≤ a.1)

/-- No reserved value in a queue's registers (Table 10.9): POL_MODE 3; PRIV 1 or 2. -/
def queueOk (x : QueueSec) : Bool := bits x.cfg 44 43 != 3 && bits x.cfg 36 34 != 1 && bits x.cfg 36 34 != 2

/-- First queue and count of a SHAPER section. -/
def qRange (x : ShaperSec) : Nat × Nat := (bits x.partCfg 50 39, bits x.partCfg 63 51)

/-- R60: the folio geometry. -/
def geometryOk (x : FolioSec) : Bool :=
  1 ≤ x.tokens && x.tokens ≤ 1024 && 1 ≤ x.layersPer && x.layersPer ≤ 16 && 1 ≤ x.progLayers &&
  x.progLayers % x.layersPer == 0 && x.tokens * x.layersPer * x.kvBytes ≤ 65536 &&
  x.tokens * (x.progLayers * x.kvBytes + 4 * x.layersPer) ≤ x.progLayers * 65536

/-- Bytes of a partition's HBM share. -/
def hbmBytes (x : PartSec) : Nat := x.hbm.length * Config.channelBytes

/-- A grant (R264): multiples of 64 KiB within the share, A only on an exchange region. -/
def grantOk (p dev : Nat) (x : PartSec) (regions : List XRegion) (g : Grant) : Bool :=
  g.base % 65536 == 0 && g.size % 65536 == 0 && g.base + g.size ≤ hbmBytes x &&
  (!g.a || regions.any fun r => r.dev == dev && r.part == p && r.base ≤ g.base && g.base + g.size ≤ r.base + regionSize r)

/-- Usable units of a NAND channel under an over-provisioning in percent (R289). -/
def State.unitsAt (s : State) (op c : Nat) : Nat := (s.chanOf c).nblocks * unitsPerBlock * (100 - op) / 100

/-- The device ID that an image gives this device (R257). -/
def State.idIn (s : State) (im : Image) : Option Nat := (im.fab.peers.find? fun x => x.uid == s.sec.uid).map (·.id)

/-- The slot that a partition's vocabulary takes (TXT_PART_CFG). -/
def vocabSlot (x : TextSec) : Nat := bits x.cfg 31 28

/-- Two vocabularies are the same, however many entries of them stand on the chip. -/
def Vocab.same (a b : Vocab) : Bool := decide ({ a with onchip := b.onchip } = b)

/-- Each distinct vocabulary has one slot (R167). -/
def slotsOk (ps : List TextSec) : Bool :=
  ps.all fun x => ps.all fun y => Vocab.same x.vocab y.vocab == (vocabSlot x == vocabSlot y)

/-- The members of a group on this device all name it, with the same list; so do all partitions that name it (R307). -/
def groupsOk (dev : Nat) (ps : Tab PartImage) : Bool :=
  ps.all fun e =>
    match e.2.links.group with
    | none => true
    | some g =>
      let same := fun (x : PartImage) => match x.links.group with
        | some h => h.group == g.group && h.members == g.members
        | none => false
      g.members.all (fun m => m.1 != dev || (match tget ps m.2 with | some x => same x | none => false)) &&
      ps.all fun y => match y.2.links.group with | some h => h.group != g.group || h.members == g.members | none => true

/-- Bytes of the state buffer (Table 1.2). -/
def stateBufBytes : Nat := 96 * 1048576

/-- The rules on one partition's sections. -/
def State.partOk (s : State) (im : Image) (dev p : Nat) (x : PartImage) : Bool :=
  let a := x.part
  let op := bits im.dev.ftlCfg 63 56
  let chanBad := fun c => match (s.chanOf c).state with | .absent => true | .failed => true | _ => false
  let reserve := match x.links.group with | some g => g.reserve | none => 0
  !a.pairs.isEmpty && decide a.pairs.Nodup && a.pairs.all (fun k => k < 16) &&
  a.pairs.all (fun k => !s.pwr.engFail.contains (2 * k) && !s.pwr.engFail.contains (2 * k + 1)) &&
  decide a.hbm.Nodup && a.hbm.all (fun c => c < Config.hbmChannels && !s.pwr.hbmFail.contains c) &&
  16 * a.pairs.length ≤ a.hbm.length &&
  decide a.nand.Nodup && a.nand.all (fun c => c < Config.nandChannels && !chanBad c) &&
  1 ≤ a.maxSeq && a.maxSeq ≤ 8192 && 1 ≤ a.budget && a.budget ≤ 65536 && a.descShare ≤ Config.maxDescriptors &&
  a.replyBuf ≤ a.stateBuf && geometryOk x.folio && bits x.folio.heatCfg 35 34 != 3 && x.folio.t1Low ≤ x.folio.t1High &&
  x.folio.t1High ≤ x.folio.t1Share && x.folio.t1Share * Config.folioBytes ≤ hbmBytes a &&
  x.shaper.queues.all queueOk && decide (x.shaper.queues.map (·.queue)).Nodup && x.shaper.queues.length == (qRange x.shaper).2 &&
  x.shaper.queues.all (fun q => (qRange x.shaper).1 ≤ q.queue && q.queue < (qRange x.shaper).1 + (qRange x.shaper).2) &&
  x.prog.source ≤ 1 && x.prog.digest.length == 48 && x.prog.counts.contains (2 * a.pairs.length) &&
  bits x.text.cfg 46 32 ≤ 16384 && bits x.text.cfg 27 15 ≤ 4096 && x.text.vocab.ok &&
  tget im.dev.vocabSlots (vocabSlot x.text) == some x.text.vocab.onchip &&
  x.links.grants.length ≤ 64 && x.links.grants.all (grantOk p dev a im.fab.regions) &&
  x.links.credits.all (fun e => e.1 < Config.links && 33 ≤ e.2.1 && 33 ≤ e.2.2) &&
  (match x.links.group with
   | none => true
   | some g => 4 ≤ g.members.length && g.members.length ≤ 256 && decide g.members.Nodup && g.members.contains (dev, p)) &&
  (x.folio.t4Share + reserve) * 16 ≤ (a.nand.map (s.unitsAt op)).sum

/-- The rules on the FABRIC section (R257, R273). -/
def State.fabOk (s : State) (im : Image) : Bool :=
  let f := im.fab
  f.peers.length ≤ 4096 && decide (f.peers.map (·.uid)).Nodup && decide (f.peers.map (·.id)).Nodup &&
  f.peers.all (fun x => x.id < 4096) && (s.idIn im).isSome && f.parkedQuads < 2 ^ 24 &&
  1000 ≤ f.switchDelayUs && f.switchDelayUs ≤ 100000 &&
  decide (f.regions.map (·.num)).Nodup &&
  f.regions.all fun r => r.num < 64 && 1 ≤ r.records && r.records ≤ 4096 && 0 < r.slotBytes && r.slotBytes % 65536 == 0 &&
    r.part < 16 && r.base % 65536 == 0

/-- The bytes that the on-chip tables of a vocabulary take (R167). -/
def vocabBytes (v : Vocab) : Nat := ((v.entries.take v.onchip).map fun e => 32 + ceilDiv e.bytes.length 8 * 8).sum

/-- BAD_FORMAT does not apply: the layout and every composition rule (R16, R17, R33, R58, R60, R70, R84, R91, R153, R155, R167, R209,
R253, R257, R264, R265, R273, R286, R289, R302, R307, R383, R422), and no reserved value of a field. -/
def State.formatOk (s : State) (im : Image) : Bool :=
  let ps := im.parts
  let dev := (s.idIn im).getD 0
  let vocabs := (ps.map fun e => (vocabSlot e.2.text, e.2.text.vocab)).eraseDups
  tkeysRise ps && ps.all (fun e => e.1 < Config.partitions) && layoutOk im.bytes (ps.map (·.1)) &&
  ps.all (fun e => s.partOk im dev e.1 e.2) && s.fabOk im &&
  decide (ps.flatMap fun e => e.2.part.pairs).Nodup && decide (ps.flatMap fun e => e.2.part.hbm).Nodup &&
  decide (ps.flatMap fun e => e.2.part.nand).Nodup &&
  rangesOk Config.dirRecords (ps.map fun e => (e.2.part.dirBase, e.2.part.dirCount)) &&
  rangesOk Config.spineEntries (ps.map fun e => (e.2.part.spineFirst, e.2.part.spineCount)) &&
  rangesOk Config.serviceQueues (ps.map fun e => qRange e.2.shaper) &&
  (ps.map fun e => e.2.part.maxSeq).sum ≤ 8192 &&
  (ps.map fun e => e.2.folio.t3Share).sum ≤ bits (s.reg .hifT3Cfg) 28 0 &&
  (ps.map fun e => e.2.part.descShare).sum ≤ im.dev.descTable && im.dev.descTable ≤ Config.maxDescriptors &&
  8 ≤ bits im.dev.ftlCfg 63 56 && bits im.dev.ftlCfg 63 56 ≤ 40 &&
  slotsOk (ps.map fun e => e.2.text) && groupsOk dev ps && (ps.map fun e => e.2.part.stateBuf).sum ≤ stateBufBytes &&
  im.fab.regions.all (fun r => r.dev != dev || (match tget ps r.part with
    | some x => decide (r.base + regionSize r ≤ hbmBytes x.part)
    | none => false)) &&
  (vocabs.map fun e => vocabBytes e.2).sum + (ps.map fun e => bits e.2.text.cfg 46 32 * 1024).sum ≤ 16777216 &&
  (List.range Config.links).all fun l =>
    (ps.map fun e => match tget e.2.links.credits l with | some (a, b) => a + b | none => 0).sum ≤ 1305

/-! ## Change kinds (R236, R237, Table 11.5) -/

/-- A share that shrinks, or a Spine run that moves. -/
def shrinks (x y : PartImage) : Bool :=
  decide (y.part.spineCount < x.part.spineCount) || x.part.spineFirst != y.part.spineFirst ||
  decide (y.part.ptShare < x.part.ptShare) || decide (y.part.descShare < x.part.descShare) ||
  decide (y.part.stateBuf < x.part.stateBuf) || decide (y.part.replyBuf < x.part.replyBuf) ||
  decide (y.folio.t1Share < x.folio.t1Share) || decide (y.folio.t3Share < x.folio.t3Share) ||
  decide (y.folio.t4Share < x.folio.t4Share) || decide (bits y.text.cfg 14 0 < bits x.text.cfg 14 0) ||
  decide (bits y.text.cfg 46 32 < bits x.text.cfg 46 32)

/-- A list of units names the same set. -/
def sameSet (a b : List Nat) : Bool := a.all b.contains && b.all a.contains

/-- The rows of Table 11.5 that say REFORM. -/
def reforms (x y : PartImage) : Bool :=
  shrinks x y || !sameSet x.part.hbm y.part.hbm || !sameSet x.part.nand y.part.nand ||
  (x.part.dirBase, x.part.dirCount) != (y.part.dirBase, y.part.dirCount) || qRange x.shaper != qRange y.shaper ||
  x.prog.id != y.prog.id || x.prog.digest != y.prog.digest ||
  (x.folio.tokens, x.folio.layersPer, x.folio.progLayers, x.folio.kvBytes) !=
    (y.folio.tokens, y.folio.layersPer, y.folio.progLayers, y.folio.kvBytes) ||
  x.folio.kvFmt != y.folio.kvFmt || bit x.folio.heatCfg 32 != bit y.folio.heatCfg 32 || !Vocab.same x.text.vocab y.text.vocab ||
  (!sameSet x.part.pairs y.part.pairs && !x.prog.counts.contains (2 * y.part.pairs.length) &&
    !y.prog.counts.contains (2 * y.part.pairs.length))

/-- The change kind of partition p from the two images. A device section that differs binds every partition.
DEDUCED, log entry 27. -/
def kindBetween (old new : Image) (p : Nat) : ChangeKind :=
  match tget old.parts p, tget new.parts p with
  | none, none => .keep
  | some _, none => .absent
  | none, some _ => .reform
  | some x, some y =>
    if reforms x y then .reform
    else if partBytes old.bytes p == partBytes new.bytes p && x == y && devBytes old.bytes == devBytes new.bytes &&
            old.dev == new.dev && old.fab == new.fab then .keep
    else .adjust

/-- Codes of the change kinds (Table 11.1). -/
def kindCode : ChangeKind → Nat
  | .keep => 0
  | .adjust => 1
  | .reform => 2
  | .absent => 3

/-- The declared kinds are those that R237 gives; a partition in neither image may be declared KEEP or ABSENT. -/
def kindsOk (old new : Image) : Bool :=
  (List.range Config.partitions).all fun p =>
    let d := imgKind new.bytes p
    d == kindCode (kindBetween old new p) ||
    (d == 3 && (tget old.parts p).isNone && (tget new.parts p).isNone)

/-! ## The checks (Table 11.3) -/

/-- A commit is under way: a composition change (R242), or a bring-up image that is not yet in force. -/
def State.committing (s : State) : Bool := s.changing || s.bind.pendingImage.isSome

/-- The response to BIND_COMMIT: the code of the first check that fails, in the order of the table. DEDUCED, log entry 27. -/
def State.checkImage (s : State) (im : Image) : MgmtCode :=
  let b := im.bytes
  let bat := s.sec.battery
  if !signatureOk b then .badSignature
  else if bat.keyHash != some (imgKeyHash b) then .badKey
  else if bat.bindFloor = 0 || imgSvn b < bat.bindFloor then .rollback
  else if imgUid b != 0 && imgUid b != s.sec.uid then .wrongDevice
  else if imgEpoch b < bat.bindEpoch || (s.bind.image.isSome && imgEpoch b == bat.bindEpoch) then .staleEpoch
  else if !s.formatOk im then .badFormat
  else
    match s.bind.image with
    | none => if s.committing || s.pwr.stage != 5 then .busy else .ok
    | some old =>
      if imgPrev b != s.bind.digest then .badPredecessor
      else if !kindsOk old im then .badChange
      else if s.committing then .busy else .ok

/-! ## Loading registers (R226, R227, R234, R241) -/

/-- A section's registers are loaded when there is no image before, or the section differs from the one in force. -/
def differs {α : Type} [DecidableEq α] (old : Option α) (new : α) : Bool :=
  match old with
  | some x => decide (x ≠ new)
  | none => true

/-- One queue's registers, with full buckets. -/
def State.loadQueue (s : State) (x : QueueSec) : State :=
  ((((s.setReg .shpQueueCfg x.queue 0 x.cfg).setReg .shpPolRate x.queue 0 x.polRate).setReg .shpPolBurst x.queue 0 x.polBurst).setReg
    .shpRateCfg x.queue 0 x.rateCfg).fullBuckets x.queue

/-- CKP_GROUP_CFG of a member (Table 15.7). -/
def groupWord (dev p : Nat) (g : Option CkptGroup) : W64 :=
  match g with
  | none => 0
  | some g => w64 (at' 1 63 + at' (g.members.idxOf (dev, p) % 256) 55 + at' (g.members.length % 512) 46 +
      at' (g.stageMib % 2 ^ 14) 32 + g.group % two32)

/-- The estimates that the tier seeds give (R54). -/
def seedEst (l : Tab (Nat × Nat)) : Tab (Nat × Nat) := tmap (fun _ (e : Nat × Nat) => (e.1 * 65536, e.2 * 65536)) l

/-- The registers that the sections of partition p load. -/
def State.loadPart (s : State) (p : Nat) (old : Option PartImage) (x : PartImage) : State :=
  let t := if !differs (old.map (·.part)) x.part then s else
    let t := s.setReg .spnPartLimits p 0 (w64 (at' (x.part.maxSeq % 2 ^ 14) 32 + x.part.budget % 2 ^ 17))
    (t.setField .folHandoffCfg p 49 48 (roleCode x.part.role)).setField .folHandoffCfg p 31 0 x.part.claimUs
  let t := if !differs (old.map (·.folio)) x.folio then t else
    let t := t.setReg .folHeatCfg p 0 x.folio.heatCfg
    (List.range 64).foldl (fun (t : State) k => t.setReg .folClassPolicy p k (tgetD x.folio.policies k (regReset .folClassPolicy p))) t
  let t := if !differs (old.map (·.folio.seeds)) x.folio.seeds then t else
    t.modFolPart p fun y => { y with est := seedEst x.folio.seeds }
  let t := if !differs (old.map (·.shaper)) x.shaper then t else
    x.shaper.queues.foldl State.loadQueue ((t.setReg .shpPartCfg p 0 x.shaper.partCfg).setReg .shpPartCost p 0 x.shaper.partCost)
  let t := if !differs (old.map (·.text)) x.text then t else t.setReg .txtPartCfg p 0 x.text.cfg
  if !differs (old.map (·.links)) x.links then t else
    let t := t.setReg .ckpGroupCfg p 0 (groupWord t.fab.devId p x.links.group)
    (x.links.credits.map (·.1)).foldl (fun (t : State) l =>
      if (t.linkOf l).state != .up then t
      else
        let (a, b) := tgetD x.links.credits l (0, 0)
        let (c, e) := match old with | some o => tgetD o.links.credits l (0, 0) | none => (0, 0)
        let more := fun (m : Tab Nat) (k n o : Nat) => tput m k (tgetD m k 0 + n - o)
        t.modLink l fun y => { y with credits := more (more y.credits (3 + 2 * p) a c) (4 + 2 * p) b e }) t

/-- The registers of a partition that is in no image stand at their reset values. DEDUCED, log entry 27. -/
def State.clearPart (s : State) (p : Nat) : State :=
  let t := ([.spnPartLimits, .folHeatCfg, .folHandoffCfg, .shpPartCfg, .shpPartCost, .txtPartCfg, .ckpGroupCfg] : List RegName).foldl
    (fun (t : State) r => t.setReg r p 0 (regReset r p)) s
  (List.range 64).foldl (fun (t : State) k => t.setReg .folClassPolicy p k (regReset .folClassPolicy p)) t

/-- Roles of the links under the FABRIC section in force (R30, Table 12.8): a link that is no longer active or is parked leaves,
one that is active again trains. -/
def State.loadLinks (s : State) : State :=
  (List.range Config.links).foldl (fun (t : State) l =>
    let st := (t.linkOf l).state
    if t.linkActive l then
      (if st == .off || st == .parked then t.setLink l { state := .training, downSince := t.now } else t)
    else
      let dest := if t.quadParked (l / 4) then LinkState.parked else .off
      if st == dest then t
      else if st == .up || st == .authenticating || st == .mismatch then t.leaveLink l dest
      else t.setLink l { state := dest }) s

/-- The device sections' registers: SHP_DRR_CFG and NVF_FTL_CFG. -/
def State.loadDev (s : State) (old : Option DeviceSec) (x : DeviceSec) : State :=
  if !differs old x then s
  else
    let s : State := { s with nvf := { chans := tmap (fun _ (c : Chan) => c.respare (bits x.ftlCfg 63 56)) s.nvf.chans } }
    (enum x.drr).foldl (fun (t : State) e => if e.1 < 8 then t.setReg .shpDrrCfg e.1 0 e.2 else t) (s.setReg .nvfFtlCfg 0 0 x.ftlCfg)

/-- The vocabulary slots of an image: those that its partitions use; the others are empty (R167). -/
def vocabsOf (im : Image) : Tab Vocab :=
  im.parts.foldl (fun m e => tput m (vocabSlot e.2.text) e.2.text.vocab) []

/-- Every register that an image sets, and SYS_BIND_EPOCH. -/
def State.loadImage (s : State) (old : Option Image) (im : Image) : State :=
  let t : State := { s with fab := { s.fab with devId := (s.idIn im).getD s.fab.devId } }
  let t := t.loadDev (old.map (·.dev)) im.dev
  let t : State := { t with txt := { t.txt with vocabs := vocabsOf im } }
  let t := (List.range Config.partitions).foldl (fun (t : State) p =>
    match tget im.parts p with
    | some x => t.loadPart p (match old with | some o => tget o.parts p | none => none) x
    | none => t.clearPart p) t
  { t with sec := { t.sec with battery := { t.sec.battery with bindEpoch := imgEpoch im.bytes } } }

/-- The measurement blocks of an image that takes effect (Table 11.4). -/
def State.measure (s : State) (im : Image) : State :=
  let b := im.bytes
  let key := s.sec.battery.keyHash.getD (zeros 48)
  let base := tput (tput s.sec.blocks 0x10 (sha384 b)) 0x11 (natLe 4 (imgEpoch b) ++ natLe 4 (imgSvn b) ++ key)
  let blocks := (List.range Config.partitions).foldl (fun (m : Tab Bytes) p =>
    let x := match tget im.parts p with
      | some _ => sha384 (partBytes b p).flatten
      | none => zeros 48
    let y := match s.program? p, tget im.parts p with
      | some g, some _ => sha384 g.bytes
      | _, _ => zeros 48
    tput (tput m (0x20 + p) x) (0x30 + p) y) base
  { s with sec := { s.sec with blocks := blocks } }

/-- An image comes into force. -/
def State.enforce (s : State) (im : Image) : State :=
  let t : State := { s with bind := { s.bind with
    image := some im, digest := sha384 im.bytes, pendingImage := none, kinds := [], drained := [], deadlineDone := false } }
  (t.measure im).setPhase .inForce

/-! ## A partition that is REFORM or ABSENT (R241) -/

/-- A free list over a range whose records may have been used before. -/
def State.rangeList (s : State) (base count : Nat) : FreeList :=
  if s.dir.recs.all fun e => e.1 < base || base + count ≤ e.1 || !e.2.retired then FreeList.fresh base count
  else { base := base, count := count, next := base + count,
         freed := ((List.range count).map (· + base)).filter fun d => !(s.recOf d).retired }

/-- Every session of the partition is erased and its record freed, to the list in force where the directory range stays (R34); keys, program, grammars, indexes, folios and HBM are gone. -/
def State.reformPart (s : State) (p : Nat) (im : Image) : State :=
  let t := (s.sessionsOf p fun _ => true).foldl State.endSession (s.dropRemote p)
  let t := (((t.indexesOf p).flatMap fun e => e.2.gens)).foldl (fun (t : State) g => t.freeGen p g) t
  let t := ((t.setIndexes p []).setQueries p []).setLoads (t.rcl.loads.filter fun o => o.part != p)
  let t := (t.setTxtPart p {}).grantText
  let t := t.setSpn p {}
  let t := { t with fol := { folios := tfilter (fun _ (f : Folio) => f.part != p) t.fol.folios,
                             parts := tput t.fol.parts p {} } }
  let t := t.setRecPart p { mode := (t.recPart p).mode }
  let t : State := { t with
    sec := { t.sec with keys := tdel t.sec.keys p },
    pwr := { t.pwr with owed := tdel t.pwr.owed p, awaitKey := t.pwr.awaitKey.filter (· != p) },
    ckp := { t.ckp with parts := tdel t.ckp.parts p } }
  let t := t.setVf p { t.vf p with csnNext := 1 }
  match tget im.parts p with
  | none => { t with dir := { t.dir with free := tdel t.dir.free p } }
  | some x =>
    let fl := t.dirFree p
    let keep := fl.base == x.part.dirBase && fl.count == x.part.dirCount
    (if keep then t else t.setDirFree p (t.rangeList x.part.dirBase x.part.dirCount)).modFolPart p fun y =>
      { y with desc := FreeList.fresh (p * Config.maxDescriptors) x.part.descShare, est := seedEst x.folio.seeds }

/-- The descriptor share of a partition that keeps its sessions takes its new size. -/
def State.resizePart (s : State) (p : Nat) (im : Image) : State :=
  match tget im.parts p with
  | none => s
  | some x => s.modFolPart p fun y => { y with desc := { y.desc with count := x.part.descShare } }

/-! ## BIND_COMMIT (R234, R238) -/

/-- At bring-up (stages 6 and 7): the registers are loaded and the links begin discovery. -/
def State.commitBringUp (s : State) (im : Image) : State :=
  let t : State := { s with bind := { s.bind with pendingImage := some im, accepted := s.now } }
  let t : State := { t with pwr := { t.pwr with stage := 7 } }
  let t := (t.loadImage none im).loadLinks
  (List.range Config.links).foldl (fun (t : State) l => if (t.linkOf l).state == .training then t.discover l else t) t

/-- At a composition change: the fence F. -/
def State.commitChange (s : State) (old im : Image) (deadline : Nat) : State :=
  let kinds := (List.range Config.partitions).filterMap fun p =>
    match kindBetween old im p with
    | .keep => none
    | k => some (p, k)
  ({ s with bind := { s.bind with
    pendingImage := some im, kinds := kinds, fence := s.now, deadline := deadline, deadlineDone := false, drained := [] } } : State).setPhase
    .draining

/-- BIND_COMMIT. -/
def doBindCommit (im : Image) (deadline : Nat) (s : State) : State :=
  s.mgmtCommand 0x01 0 (sha384 im.bytes) fun s =>
    let r := s.checkImage im
    let t : State := { s with bind := { s.bind with lastResult := r } }
    if r != .ok then (r, t)
    else match s.bind.image with
      | none => (r, t.commitBringUp im)
      | some old => (r, t.commitChange old im deadline)

/-! ## Drains (R239, R240, Table 11.6) -/

/-- Verbs that run to completion whatever the deadline (Table 11.6; hand-offs and checkpoints end as their chapters give). -/
def runsOn (op : VerbOp) : Bool :=
  op == .fork || op == .close || op == .delete || op == .grammarDrop || op == .query || op == .indexDrop || op == .handoffSend ||
  op == .handoffClaim || op == .ckptTake || op == .ckptRestore

/-- A verb that has begun waits for its session's revive (R36). -/
def State.awaitsRevive (s : State) (p : Nat) (v : Verb) : Bool :=
  v.phase == .begun && (match s.session? v.dir with | some x => x.revive.isSome | none => false) &&
  (s.reviveWaiters p v.dir).any fun w => w.id == v.id

/-- A revive that no verb waits for any more, and that no wake-ahead started, is abandoned: the session is PARKED again. -/
def State.dropRevive (s : State) (p d : Nat) : State :=
  match s.session? d with
  | none => s
  | some x =>
    match x.revive with
    | some o =>
      if o.wake || s.claiming d || !(s.reviveWaiters p d).isEmpty then s
      else (s.abandonRevive d).modSeqs d fun q => if q.state == .reviving then { q with state := .parked } else q
    | none => s

/-- The deadline meets one verb, in ring order. A verb that revives its session has begun: a STEP is retired and its revive given up,
the others go on as if they ran. DESIGN CHOICE, log entry 27. -/
def State.retireVerb (s : State) (p : Nat) (w : Verb) : State :=
  match s.verb? p w.id with
  | none => s
  | some v =>
    if v.epoch != s.epoch || v.acts then s
    else if s.awaitsRevive p v then
      if v.op == .step then (s.complete p v.id .epochRetired).dropRevive p v.dir else s
    else if v.phase != .running then s.complete p v.id .epochRetired
    else
      match v.op with
      | .step =>
        if s.inFlight p v.dir v.seq then
          s.modSeq v.dir v.seq fun q => { q with run := q.run.map fun r => { r with endWith := some .epochRetired } }
        else s.endStep p v.dir v.seq .epochRetired
      | op => if abandons op then s.abandonVerb p v .epochRetired else s

/-- The gathering under construction is given up: its entries stay candidates. -/
def State.dropNext (s : State) (p : Nat) : State :=
  s.modSpn p fun x => { x with next := match x.next with
    | some g => if g.hitVerbs.isEmpty then none else some { entries := [], hitVerbs := g.hitVerbs }
    | none => none }

/-- What a drain waits for is gone: no verb of epoch e is left; past D those that Table 11.6 leaves do not count. -/
def State.drained (s : State) (p : Nat) : Bool :=
  (s.spnOf p).cur.isNone &&
  (s.verbs p).all fun v =>
    v.epoch != s.epoch || (s.bind.deadlineDone &&
      (v.acts || ((v.phase == .running || s.awaitsRevive p v) && (runsOn v.op || v.op == .append || v.op == .splice))))

/-- Drains that have ended: the sequences enter DRAINING; once all have, the switch is near. -/
def State.settleDrains (s : State) : State :=
  if s.bind.phase != .draining then s
  else
    let ended := (s.bind.kinds.map (·.1)).filter fun p =>
      !s.bind.drained.contains p && !s.partFenced p && s.drained p
    let t := ended.foldl (fun (t : State) p => t.modPart p Session.drain) s
    let t : State := { t with bind := { t.bind with drained := t.bind.drained ++ ended } }
    if t.bind.kinds.all fun e => t.bind.drained.contains e.1 then t.setPhase .switching else t

/-- A step boundary or a hand-off claim of the present instant comes before D and before the switch (R242). -/
def State.boundaryDue (s : State) (p : Nat) : Bool := (s.spnOf p).cur.isSome && s.stepEnded p && !s.partFenced p
def State.claimDue (s : State) : Bool := s.fab.inbox.any fun f => f.type == tyCasReq || f.type == tyCasRsp

/-- DRAIN_DEADLINE: D has come, and the boundaries of that instant are over (R242). A parked session that only a verb ended now held off expiry expires at once (R39). -/
def doDrainDeadline (s : State) : State :=
  if !s.live || s.bind.phase != .draining || s.bind.deadlineDone || s.now < s.bind.deadline ||
     (s.now = s.bind.deadline && s.bind.kinds.any fun e => s.boundaryDue e.1) then s
  else
    let ps := s.bind.kinds.map (·.1)
    let t := ps.foldl (fun (t : State) p => (((t.verbs p).foldl (fun (t : State) v => t.retireVerb p v) t).dropNext p).expireDue p) s
    ({ t with bind := { t.bind with deadlineDone := true } } : State).settleDrains

/-! ## The switch (R240, R241) -/

/-- Every engine of the partition is idle. -/
def State.idleEngines (s : State) (p : Nat) : Bool :=
  (s.enginesOf p).all fun e =>
    let x := s.engOf e
    x.switching.isNone && x.slots.all fun c => c.2.ended

/-- Every record of a region is FREE (R277). -/
def State.allFree (s : State) (r : XRegion) : Bool :=
  (List.range r.records).all fun i => (orecOf (leNat (mreads (s.spnOf r.part).hbm (recordAt r i) 16))).state == 0

/-- The regions that this device hosts and the change removes, moves or declares anew are free. -/
def State.regionsFree (s : State) (old im : Image) : Bool :=
  (old.fab.regions.filter fun r => r.dev == s.fab.devId && !im.fab.regions.contains r).all s.allFree

/-- What a REFORM partition waits for besides: its hand-offs are resolved, and its verbs that run to completion are over. -/
def State.reformReady (s : State) (p : Nat) : Bool :=
  (s.sessionsOf p fun x => x.send.isSome).isEmpty && !(s.ho.claims.any fun o => o.part == p) &&
  (s.verbs p).all fun v => v.op == .append || v.op == .splice

/-- The switch may take place. DEDUCED, log entry 27. -/
def State.canSwitch (s : State) (old im : Image) : Bool :=
  s.bind.phase == .switching && !s.claimDue && s.regionsFree old im &&
  s.bind.kinds.all fun e =>
    (s.spnOf e.1).cur.isNone && s.idleEngines e.1 && !s.partFenced e.1 && (e.2 == .adjust || s.reformReady e.1)

/-- Sequences of an ADJUST partition return to their state before DRAINING. -/
def Session.undrain (x : Session) : Session :=
  if x.inHandoff then x
  else { x with seqs := tmap (fun _ (q : Seq) =>
    if q.state != .draining then q
    else { q with state := if x.quire.isSome then .parked else q.prev }) x.seqs }

/-- The verbs that a REFORM partition still runs at the switch end with EPOCH_RETIRED (Table 11.6). -/
def State.retireInput (s : State) (p : Nat) : State :=
  (s.verbs p).foldl (fun (t : State) (v : Verb) =>
    if v.phase == .running then t.endInput p v.dir v.seq .epochRetired else t.complete p v.id .epochRetired) s

/-- The record areas of the exchange regions that this device hosts and that the old image did not declare so are zero: every record is
FREE at epoch 0 (R265, R275). -/
def State.createRegions (s : State) (old im : Image) : State :=
  (im.fab.regions.filter fun r => r.dev == s.fab.devId && !old.fab.regions.contains r).foldl (fun (t : State) r =>
    t.modSpn r.part fun x => { x with hbm := x.hbm.filter fun e => e.1 < r.base || r.base + recordArea ≤ e.1 }) s

/-- The new image takes effect, in one instant; R111 applies to every engine that changes partition, and to those of every partition that
is reset. -/
def State.switchTo (s : State) (old im : Image) : State :=
  let kinds := s.bind.kinds
  let lost := (kinds.filter fun e => e.2 != .adjust).map (·.1)
  let owner := fun (t : State) => (List.range Config.engines).map t.ownerOfEngine
  let was := owner s
  let t := (kinds.map (·.1)).foldl (fun (t : State) p => t.abortCkpt p .epochRetired) s
  let t := lost.foldl State.retireInput t
  let t := t.loadImage (some old) im
  let t := lost.foldl (fun (t : State) p => t.reformPart p im) t
  let t := ((kinds.filter fun e => e.2 == .adjust).map (·.1)).foldl (fun (t : State) p => t.resizePart p im) t
  let t := t.enforce im
  let now := owner t
  let moved := (List.range Config.engines).filter fun e =>
    was.getD e none != now.getD e none || (match now.getD e none with | some p => lost.contains p | none => false)
  let t := moved.foldl State.zeroEngine t
  let t := (if old.fab == im.fab then t else t.loadLinks).createRegions old im
  let t := (List.range Config.partitions).foldl (fun (t : State) p => t.modSpn p fun x => { x with fetchFailed := false }) t
  ((kinds.filter fun e => e.2 == .adjust).map (·.1)).foldl (fun (t : State) p =>
    ((t.modPart p Session.undrain).expireDue p).releaseHeld p) t

/-- COMPOSITION_SWITCH. -/
def doCompositionSwitch (s : State) : State :=
  if !s.live then s
  else
    let t := s.settleDrains
    match t.bind.image, t.bind.pendingImage with
    | some old, some im => if t.canSwitch old im then t.switchTo old im else t
    | _, _ => t

/-! ## The enrolled key and the floors (R232, R355) -/

/-- PHASE while no image is in force: 4 until a key is enrolled and the floor set (R373). -/
def State.settlePhase (s : State) : State :=
  if s.bind.image.isSome then s
  else s.setPhase (if s.pwr.stage ≥ 5 && (s.sec.battery.keyHash.isNone || s.sec.battery.bindFloor = 0) then .waiting else .none)

/-- KEY_ENROLL. DEDUCED, log entry 27. -/
def doKeyEnroll (hash : Bytes) (newFloor : Option Nat) (s : State) : State :=
  s.mgmtCommand 0x02 (newFloor.getD 0) hash fun s =>
    let b := s.sec.battery
    let low := match newFloor with | some f => f < b.bindFloor || f = 0 || f ≥ two32 | none => false
    let above := match newFloor with | some f => decide (b.bindFloor < f) | none => false
    if hash.length != 48 || low then (.badArgument, s)
    else if s.bind.image.isSome && !above then (.inUse, s)
    else
      let b := { b with formatted := true, keyHash := some hash, bindFloor := newFloor.getD b.bindFloor }
      (.ok, ({ s with sec := { s.sec with battery := b } } : State).settlePhase)

/-- FLOOR_SET: a nonzero floor is never lowered. It clears the battery-lost flag (Table 17.7). -/
def doFloorSet (v : Nat) (s : State) : State :=
  s.mgmtCommand 0x03 v [] fun s =>
    let b := s.sec.battery
    if v < b.bindFloor || v ≥ two32 then (.badArgument, s)
    else
      let b := { b with formatted := true, bindFloor := v }
      (.ok, ({ s with sec := { s.sec with battery := b, batteryLost := false } } : State).settlePhase)

/-- FW_FLOOR_SET: FW_SVN_FLOOR is raised, never lowered. -/
def doFwFloorSet (v : Nat) (s : State) : State :=
  s.mgmtCommand 0x04 v [] fun s =>
    let b := s.sec.battery
    if v < b.fwFloor || v ≥ two32 then (.badArgument, s)
    else (.ok, { s with sec := { s.sec with battery := { b with formatted := true, fwFloor := v } } })

/-- A directory record of the partition is in use (R358). -/
def State.recordInUse (s : State) (p : Nat) : Bool :=
  (s.dir.recs.any fun e => s.dirIn p e.1 && e.2.inUse) || s.dir.sessions.any fun e => e.2.part == p

/-- KEY_AUTH_SET (R358): IN_USE while the partition holds a PRK or has a directory record in use. -/
def doKeyAuthSet (p : Nat) (hash : Bytes) (mctpOk : Bool) (s : State) : State :=
  s.mgmtCommand 0x05 p hash fun s =>
    if p ≥ Config.partitions || hash.length != 48 then (.badArgument, s)
    else if s.hasPrk p || s.recordInUse p then (.inUse, s)
    else
      let b := s.sec.battery
      (.ok, { s with sec := { s.sec with battery :=
        { b with formatted := true, keyAuth := tput b.keyAuth p (hash, mctpOk) } } })

/-! ## Model programs (R144, R235) -/

/-- Digest and length are those of the PROGRAM section. -/
def progOk (x : ProgSec) (g : Program) : Bool := g.bytes.length == x.length && sha384 g.bytes == x.digest

/-- The program is loaded into the partition's HBM share, at its start, and measured. DESIGN CHOICE, log entry 13. -/
def State.loadProgram (s : State) (p : Nat) (g : Program) : State :=
  let t := s.modSpn p fun x => { x with
    program := some g, fetchFailed := false, hbm := mwrites x.hbm 0 g.bytes, poison := rewritten 0 g.bytes.length x.poison }
  { t with sec := { t.sec with blocks := tput t.sec.blocks (0x30 + p) (sha384 g.bytes) } }

/-- PROGRAM_LOAD begins: the host buffer is read. -/
def doProgramLoad (p vid : Nat) (s : State) : State :=
  match s.begun? p vid .programLoad with
  | none => s
  | some v =>
    if (s.partImage p).prog.source = 0 || (s.program? p).isSome then s.complete p vid .badState
    else (s.runVerb p vid).request .host { cls := .d, len := v.f 0x28 8, owner := some (.verb p vid) }

/-- PROGRAM_LOAD_DONE: the read has finished (none: it failed). -/
def doProgramLoadDone (p vid : Nat) (prog : Option Program) (s : State) : State :=
  match s.running? p vid .programLoad with
  | none => s
  | some v =>
    match prog with
    | none => s.complete p vid .badArgument
    | some g =>
      if v.f 0x28 8 = g.bytes.length && progOk (s.partImage p).prog g then (s.loadProgram p g).complete p vid .ok
      else s.complete p vid .badArgument

/-- PROGRAM_FETCH: with source 0, once the partition holds its key; a refused load is reported by a notice with HANDLE 0, and
tried again at the next switch. -/
def doProgramFetch (p : Nat) (prog : Option Program) (s : State) : State :=
  let x := (s.partImage p).prog
  if !s.live || (s.partImage? p).isNone || x.source != 0 || !s.hasPrk p || (s.program? p).isSome || (s.spnOf p).fetchFailed ||
     !s.hif.linkUp || s.hif.pfD3hot || s.partFenced p then s
  else
    let refuse := (s.modSpn p fun y => { y with fetchFailed := true }).post p { status := .badArgument }
    match prog with
    | none => refuse
    | some g => if progOk x g then s.loadProgram p g else refuse

/-! ## The commands of this file -/

/-- PROGRAM_LOAD (R235). -/
def execProgramLoad (p vid : Nat) (s : State) : Host.Outcome State Fault Refusal :=
  .next (doProgramLoad p vid s)

/-- PROGRAM_FETCH (R144). -/
def execProgramFetch (p : Nat) (prog : Option Program) (s : State) : Host.Outcome State Fault Refusal :=
  .next (doProgramFetch p prog s)

/-- BIND_COMMIT (R231). -/
def execBindCommit (img : Image) (deadline : Nat) (s : State) : Host.Outcome State Fault Refusal :=
  .next (doBindCommit img deadline s)

/-- DRAIN_DEADLINE (R239). -/
def execDrainDeadline (s : State) : Host.Outcome State Fault Refusal :=
  .next (doDrainDeadline s)

/-- COMPOSITION_SWITCH (R241). -/
def execCompositionSwitch (s : State) : Host.Outcome State Fault Refusal :=
  .next (doCompositionSwitch s)

/-- KEY_ENROLL (R232). -/
def execKeyEnroll (hash : Bytes) (newFloor : Option Nat) (s : State) : Host.Outcome State Fault Refusal :=
  .next (doKeyEnroll hash newFloor s)

/-- FLOOR_SET (R232). -/
def execFloorSet (v : Nat) (s : State) : Host.Outcome State Fault Refusal :=
  .next (doFloorSet v s)

/-- FW_FLOOR_SET (R355). -/
def execFwFloorSet (v : Nat) (s : State) : Host.Outcome State Fault Refusal :=
  .next (doFwFloorSet v s)

/-- KEY_AUTH_SET (R358). -/
def execKeyAuthSet (p : Nat) (hash : Bytes) (mctpOk : Bool) (s : State) : Host.Outcome State Fault Refusal :=
  .next (doKeyAuthSet p hash mctpOk s)

/-- PROGRAM_LOAD_DONE (R235). -/
def execProgramLoadDone (p vid : Nat) (prog : Option Program) (s : State) : Host.Outcome State Fault Refusal :=
  .next (doProgramLoadDone p vid prog s)

end Machine
end Sys2Proof
end

