-- ==== Sys2Proof/Machine/Security.lean ====
section
/-!
DEFINITION. Sys2Proof/Machine/Security.lean: key messages (R359 to R361, R375), attestation (R364, R365), TDISP and IDE
(R366, R367), the reading and the acknowledging of the audit log (R370), the debug lock and JTAG (R374).
-/
namespace Sys2Proof
namespace Machine

/-! ## Key messages (R359, R375, Table 17.5) -/

/-- Codes of Table 17.10. -/
def kmPkey : Nat := 1
def kmPool : Nat := 2
def kmCk : Nat := 3
def kmStatus : Nat := 4

def kmCode (m : KeyMsg) : Nat := fld m.payload 0 1
def kmPart (m : KeyMsg) : Nat := fld m.payload 1 1
def kmEpoch (m : KeyMsg) : Nat := fld m.payload 4 4
def kmKey (m : KeyMsg) : Bytes := sub m.payload 8 32

/-- The payload breaks Table 17.10, or names another partition than the mailbox's. -/
def kmMalformed (code : Nat) (m : KeyMsg) : Bool :=
  m.payload.length != 40 || kmCode m != code || kmPart m ≥ Config.partitions || !zeroFld m.payload 2 2 ||
  ((code = kmCk || code = kmStatus) && kmEpoch m != 0) || (code = kmStatus && !zeroFld m.payload 8 32) ||
  (!m.mgmt && kmPart m != m.doePart)

/-- KEY_AUTH and MCTP_OK of a partition. -/
def State.keyAuth (s : State) (p : Nat) : Bytes × Bool := tgetD s.sec.battery.keyAuth p (zeros 48, false)

/-- The requester is the partition's key authority (R359); a KEY_AUTH of zero accepts no key (R358). -/
def State.kmAuth (s : State) (m : KeyMsg) : Bool :=
  let (h, mctp) := s.keyAuth (kmPart m)
  m.mutualAuth && !h.all (· == 0) && h == m.requester && (!m.mgmt || mctp)

/-- PRK epoch, pool epoch and stored KCV of a partition (Table 17.9). -/
def State.epochs (s : State) (p : Nat) : Nat × Nat × Bytes := tgetD s.sec.battery.keyEpochs p (0, 0, zeros 8)
def State.setEpochs (s : State) (p : Nat) (v : Nat × Nat × Bytes) : State :=
  { s with sec := { s.sec with battery := { s.sec.battery with formatted := true, keyEpochs := tput s.sec.battery.keyEpochs p v } } }

/-- The answer to a key message: code and result, or the KEY_STATUS response. -/
def kmReply (code : Nat) (r : KeyResult) (rest : Bytes) : Bytes := natLe 1 code ++ natLe 1 (keyResultCode r) ++ zeros 2 ++ rest

/-- A key message: the refusals that every message shares, then `eff`. On the management port it is recorded (R368), and ignored
while the log is full (R370). DEDUCED, log entry 29. -/
def State.keyMessage (s : State) (code : Nat) (m : KeyMsg) (eff : Nat → State → KeyResult × Bytes × State) : State :=
  if !s.mgmtUp || (!m.mgmt && !s.hif.linkUp) then s
  else if m.mgmt && s.auditFull then s
  else
    let (r, rest, t) :=
      if s.flt.safe then (KeyResult.safe, [], s)
      else if s.sec.battery.debugUnlocked then (KeyResult.debug, [], s)
      else if kmMalformed code m then (KeyResult.badArgument, [], s)
      else if !s.kmAuth m then (KeyResult.noAuth, [], s)
      else eff (kmPart m) s
    let t := if m.mgmt then t.audit auditMgmt 6 (keyResultCode r) (kmCode m) (kmPart m) else t
    t.emit (.keyReply r (kmReply (kmCode m) r rest))

/-- The sessions of a partition that waited for its key return (R347): a data key that does not unwrap damages its session;
records owed since the safe state are written first (R423). -/
def State.returnSessions (s : State) (p : Nat) : State :=
  if !s.pwr.awaitKey.contains p then s
  else
    let t : State := { s with pwr := { s.pwr with awaitKey := s.pwr.awaitKey.filter (· != p), owed := tdel s.pwr.owed p } }
    let v := t.vf p
    let t := t.setVf p { v with waiting := tgetD s.pwr.owed p [] ++ v.waiting }
    let t := (t.sessionsOf p fun x => x.quire.isNone).foldl (fun (t : State) d =>
      match t.session? d with
      | some x =>
        if x.wrapEpoch = t.prkEpoch p then t.setSession d { x with sdk := some x.wrappedSdk } else t.damage d
      | none => t) t
    t.expireDue p

/-- What PKEY_SET answers. DEDUCED, log entry 29. -/
def State.pkeyResult (s : State) (p epoch : Nat) (key : Bytes) : KeyResult :=
  let (e, _, k) := s.epochs p
  if s.hasPrk p then .keyPresent
  else if epoch < e then .stale
  else if epoch = e then (if k.all (· == 0) || k == kcv key then .ok else .mismatch)
  else if s.recordInUse p || (s.folPart p).t3Use > 0 || (s.folPart p).t4Use > 0 then .inUse
  else .ok

/-- PKEY_SET. -/
def doPkeySet (m : KeyMsg) (s : State) : State :=
  s.keyMessage kmPkey m fun p s =>
    let r := s.pkeyResult p (kmEpoch m) (kmKey m)
    if r != .ok then (r, [], s)
    else
      let t := s.setKeys p { s.keysOf p with prk := some (kmKey m) }
      let t := t.setEpochs p (kmEpoch m, (s.epochs p).2.1, kcv (kmKey m))
      (.ok, [], t.returnSessions p)

/-- POOL_KEY_SET. -/
def doPoolKeySet (m : KeyMsg) (s : State) : State :=
  s.keyMessage kmPool m fun p s =>
    let (e, pool, k) := s.epochs p
    if kmEpoch m ≤ pool then (.stale, [], s)
    else
      let x := s.keysOf p
      let t := s.setKeys p { x with plkPrev := x.plk, poolPrev := pool, plk := some (kmKey m) }
      (.ok, [], t.setEpochs p (e, kmEpoch m, k))

/-- CK_SET: only while CKP_STATUS.PHASE is 0. -/
def doCkSet (m : KeyMsg) (s : State) : State :=
  s.keyMessage kmCk m fun p s =>
    if (s.ckpOf p).phase != 0 then (.busy, [], s)
    else (.ok, [], s.setKeys p { s.keysOf p with ck := some (kmKey m) })

/-- KEY_STATUS: epochs and check values; the check value of a key that is not held is zero. -/
def doKeyStatus (m : KeyMsg) (s : State) : State :=
  s.keyMessage kmStatus m fun p s =>
    let (e, pool, _) := s.epochs p
    let x := s.keysOf p
    let flags := x.prk.isSome.toNat + 2 * x.ck.isSome.toNat
    (.ok, natLe 4 e ++ natLe 4 pool ++ natLe 4 flags ++ kcvOf x.prk ++ kcvOf x.plk ++ kcvOf x.plkPrev ++ kcvOf x.ck, s)

/-! ## Attestation (R364, R365) -/

/-- SYS_BOOT_STATUS.FW_SVN and the floor, and the other blocks of Table 17.7 and Table 11.4. The spec names what a block holds;
its bytes follow that order, integers little-endian. DEDUCED, log entry 29. -/
def State.measurement (s : State) (k : Nat) : Bytes :=
  let b := s.sec.battery
  if k = 0x01 then Config.romDigest
  else if k = 0x02 then s.sec.fwDigest
  else if k = 0x03 then natLe 4 s.pwr.fwSvn ++ natLe 4 b.fwFloor
  else if k = 0x04 then natLe 8 s.sec.uid ++ natLe 8 (s.reg .sysCapId).toNat
  else if k = 0x05 then natLe 4 b.bindFloor ++ natLe 1 s.sec.batteryLost.toNat
  else if k = 0x06 then natLe 1 b.debugUnlocked.toNat
  else if k = 0x07 then natLe 8 b.auditSeq ++ fit 48 b.auditHash
  else if k = 0x08 then natLe 4 b.safeEntries ++ natLe 1 b.lastSource
  else if 0x40 ≤ k && k < 0x50 then
    let p := k - 0x40
    let (h, mctp) := s.keyAuth p
    let (e, pool, v) := s.epochs p
    let x := s.keysOf p
    h ++ natLe 1 mctp.toNat ++ natLe 1 x.prk.isSome.toNat ++ natLe 4 e ++ v ++ natLe 4 pool ++ natLe 1 x.ck.isSome.toNat
  else tgetD s.sec.blocks k (zeros 48)

/-- SPDM_REQUEST: answered on every port, in every state from the firmware on; the response carries the blocks asked for and is
signed with the alias key. -/
def doSpdmRequest (m : Bytes) (blocks : List Nat) (s : State) : State :=
  if !s.firmwareUp then s
  else
    let body := blocks.flatMap s.measurement ++ Config.spdmBody m s.free
    ({ s with free := s.free + 1 } : State).emit (.spdm body (s.pwr.stage != 15))

/-! ## TDISP and IDE (R366, R367) -/

/-- The state that a TDISP message leads to; none: the message is not accepted in this state. -/
def tdiNext (streams : List Nat) (v : Vf) (m : TdispMsg) (stream : Nat) : Option Vf :=
  match m, v.tdi with
  | .lockInterface, .unlocked => if streams.contains stream then some { v with tdi := .locked, tdiStream := stream } else none
  | .startInterface, .locked => some { v with tdi := .run }
  | .stopInterface, _ => some { v with tdi := .unlocked, tdiStream := 0 }
  | .getReport, _ => some v
  | _, _ => none

/-- The interface report of a TDI: its window of 16 MiB, the partition, the indices of its measurement blocks (R366). -/
def tdiReport (p : Nat) : Out := .tdiReport (16 * 1048576) p [0x20 + p, 0x30 + p, 0x40 + p]

/-- TDISP_REQUEST: the host's TSM moves the TDI of partition p's function; the answer reports the state reached, or the interface. -/
def doTdispRequest (p : Nat) (m : TdispMsg) (stream : Nat) (s : State) : State :=
  if !s.live || !s.hif.linkUp || p ≥ Config.partitions then s
  else
    match tdiNext s.hif.ideStreams (s.vf p) m stream with
    | none => s.emit (.tdisp (s.vf p).tdi)
    | some v =>
      let t := (s.setVf p v).emit (.tdisp v.tdi)
      if m == .getReport then t.emit (tdiReport p) else t

/-- IDE_KM: a selective stream is keyed, or its keys are removed; there are 4 streams. -/
def doIdeKm (stream : Nat) (on : Bool) (s : State) : State :=
  if !s.live || !s.hif.linkUp || stream ≥ 4 then s
  else
    let l := s.hif.ideStreams.filter (· != stream)
    ({ s with hif := { s.hif with ideStreams := if on then l ++ [stream] else l } } : State).emit (.ideReply stream)

/-! ## The audit log (R355, R370) -/

/-- SEQ of a record. -/
def auditSeqOf (r : Bytes) : Nat := fld r 0 8

/-- AUDIT_READ: records from SEQ `seq` on, at most `count`; not recorded. Served in the safe state, and when the start failed. -/
def doAuditRead (seq count : Nat) (s : State) : State :=
  if !s.firmwareUp then s
  else (s.emit (.mgmt .ok)).emit (.auditRecords ((s.sec.audit.filter fun r => seq ≤ auditSeqOf r).take count))

/-- AUDIT_ACK: records up to SEQ `seq` are freed. -/
def doAuditAck (seq : Nat) (s : State) : State :=
  s.mgmtCommand 0x11 seq [] fun s =>
    if s.sec.battery.auditSeq < seq then (.badArgument, s)
    else
      let l := s.sec.audit.filter fun r => seq < auditSeqOf r
      (.ok, { s with sec := { s.sec with
        audit := l, auditWaiting := min s.sec.auditWaiting l.length, auditFirst := max s.sec.auditFirst (seq + 1) } })

/-- AUDIT_FLUSH: the records that wait in HBM are in the audit area. -/
def doAuditFlush (s : State) : State :=
  if !s.pwr.pwrok || s.pwr.stage < 3 || s.pwr.stage = 15 || s.sec.auditWaiting = 0 then s
  else { s with sec := { s.sec with
    auditWaiting := 0, battery := { s.sec.battery with flashSeq := s.sec.battery.auditSeq } } }

/-! ## Debug lock (R374) -/

/-- Every key is zeroized (Table 17.6: cold start, DEBUG_UNLOCK); the storage key is derived again. -/
def State.zeroizeAll (s : State) : State :=
  let up := s.upLinks
  let t : State := { s with
    sec := { s.sec with keys := [], storageKey := true },
    dir := { s.dir with sessions := tmap (fun _ (x : Session) =>
      { x with wrappedSdk := x.sdk.getD x.wrappedSdk, wrapEpoch := if x.sdk.isSome then s.prkEpoch x.part else x.wrapEpoch,
               sdk := none }) s.dir.sessions },
    hif := { s.hif with ideStreams := [] } }
  up.foldl (fun (t : State) l => (t.leaveLink l .authenticating).discover l) t

/-- DEBUG_UNLOCK: the token must be Caszar's, for this UID and the nonce of the previous request, while no partition holds a PRK.
Every request is issued a new nonce. -/
def doDebugUnlock (token : DebugToken) (s : State) : State :=
  s.mgmtCommand 0x0A 0 [] fun s =>
    let ok := token.signed && token.uid == s.sec.uid && s.sec.debugNonce == some token.nonce &&
      !(List.range Config.partitions).any s.hasPrk
    let n := (Config.drbg s.free).toNat
    let t : State := { s with free := s.free + 1, sec := { s.sec with debugNonce := some n } }
    let t := t.emit (.nonce n)
    if !ok then (.denied, t)
    else
      let t := t.zeroizeAll
      (.ok, { t with sec := { t.sec with battery := { t.sec.battery with formatted := true, debugUnlocked := true } } })

/-- DEBUG_LOCK. -/
def doDebugLock (s : State) : State :=
  s.mgmtCommand 0x0B 0 [] fun s => (.ok, { s with sec := { s.sec with battery := { s.sec.battery with debugUnlocked := false } } })

/-- The answer of JTAG while debug is locked: boundary scan only while PERST# and the device reset are both asserted.
DEDUCED, log entry 29. -/
def State.jtagAnswer (s : State) (i : JtagInstr) : JtagInstr :=
  match i with
  | .idcode => .idcode
  | .bypass => .bypass
  | .boundaryScan => if s.hif.perst && !s.pwr.pwrok then .boundaryScan else .bypass
  | .other _ => .bypass

/-- JTAG_INSTRUCTION: what each instruction does while the device is unlocked is stated only for those that it answers while locked.
DESIGN CHOICE, log entry 2. -/
def execJtagInstruction (i : JtagInstr) (s : State) : Host.Outcome State Fault Refusal :=
  if !s.sec.battery.debugUnlocked then .next (s.emit (.jtag (s.jtagAnswer i)))
  else match i with
    | .other k => .refused (.scanUnspecified k)
    | j => .next (s.emit (.jtag j))

/-! ## The commands of this file -/

/-- DEBUG_UNLOCK (R374). -/
def execDebugUnlock (token : DebugToken) (s : State) : Host.Outcome State Fault Refusal :=
  .next (doDebugUnlock token s)

/-- DEBUG_LOCK (R374). -/
def execDebugLock (s : State) : Host.Outcome State Fault Refusal :=
  .next (doDebugLock s)

/-- AUDIT_READ (R355). -/
def execAuditRead (seq count : Nat) (s : State) : Host.Outcome State Fault Refusal :=
  .next (doAuditRead seq count s)

/-- AUDIT_ACK (R370). -/
def execAuditAck (seq : Nat) (s : State) : Host.Outcome State Fault Refusal :=
  .next (doAuditAck seq s)

/-- AUDIT_FLUSH (R370). -/
def execAuditFlush (s : State) : Host.Outcome State Fault Refusal :=
  .next (doAuditFlush s)

/-- PKEY_SET (R359). -/
def execPkeySet (m : KeyMsg) (s : State) : Host.Outcome State Fault Refusal :=
  .next (doPkeySet m s)

/-- POOL_KEY_SET (R359). -/
def execPoolKeySet (m : KeyMsg) (s : State) : Host.Outcome State Fault Refusal :=
  .next (doPoolKeySet m s)

/-- CK_SET (R359). -/
def execCkSet (m : KeyMsg) (s : State) : Host.Outcome State Fault Refusal :=
  .next (doCkSet m s)

/-- KEY_STATUS (R375). -/
def execKeyStatus (m : KeyMsg) (s : State) : Host.Outcome State Fault Refusal :=
  .next (doKeyStatus m s)

/-- SPDM_REQUEST (R364). -/
def execSpdmRequest (m : Bytes) (blocks : List Nat) (s : State) : Host.Outcome State Fault Refusal :=
  .next (doSpdmRequest m blocks s)

/-- TDISP_REQUEST (R366). -/
def execTdispRequest (p : Nat) (m : TdispMsg) (stream : Nat) (s : State) : Host.Outcome State Fault Refusal :=
  .next (doTdispRequest p m stream s)

/-- IDE_KM (R367). -/
def execIdeKm (stream : Nat) (on : Bool) (s : State) : Host.Outcome State Fault Refusal :=
  .next (doIdeKm stream on s)

end Machine
end Sys2Proof
end

