-- ==== Sys2Proof/Machine/Power.lean ====
section
/-!
DEFINITION. Sys2Proof/Machine/Power.lean: starts and their stages (R347, R371, R373, R377 to R386), clocks (R380, R381), the pacer
and thermal actions (R387, R389), the reset pins and the battery (R384, R419, R420).
-/
namespace Sys2Proof
namespace Machine

/-! ## Cold start -/

/-- What a checkpoint member keeps on flash: its stripe units, its colophons and the captures that they stand for. -/
def CkpPart.cold (k : CkpPart) : CkpPart :=
  let stands := k.phase = 0 || k.phase = 4 || k.slots.any fun e => e.2.seq == k.run
  { degraded := k.degraded, seq := k.seq, stored := k.stored, slots := k.slots,
    rows := if stands then k.rows else tmap (fun _ (u : StripeUnit) => { u with refs := u.refs.filter (· != k.run) }) k.rows }

/-- The timebase in ns of a real-time counter in 1/32,768 s (R381). -/
def rtcNs (units : Nat) : Nat := units * 1000000000 / 32768

/-- What a loss of power leaves: the battery-backed file and the real-time counter, the fuses, the flash. -/
def State.powerLost (s : State) : State :=
  { free := s.free, pending := s.pending, out := s.out,
    hif := { perst := s.hif.perst },
    ckp := { parts := tmap (fun _ => CkpPart.cold) s.ckp.parts },
    sec := { battery := s.sec.battery, uid := s.sec.uid, fusedSvn := s.sec.fusedSvn, audit := s.sec.audit,
             auditWaiting := s.sec.auditWaiting, auditFirst := s.sec.auditFirst },
    pwr := { rtc := s.pwr.rtc, rtcFrac := s.pwr.rtcFrac },
    nvf := { chans := tmap (fun _ (x : Chan) => { x with state := .training, relocs := [], gc := none }) s.nvf.chans } }

/-- Audit records that wait in HBM are lost with it. -/
def State.dropWaiting (s : State) : State :=
  { s with sec := { s.sec with audit := s.sec.audit.take (s.sec.audit.length - s.sec.auditWaiting), auditWaiting := 0 } }

/-- A cold start begins at a stage: every volatile state is as at reset, and the timebase takes its seed.
DEDUCED, log entry 30. -/
def State.coldStart (s : State) (stage : Nat) : State :=
  let seed := if s.sec.battery.formatted then rtcNs s.pwr.rtc % two64 else 0
  let t := s.powerLost
  { t with now := seed, pwr := { t.pwr with pwrok := true, aon := true, stage := stage, startedAt := seed,
                                            thermtrip := s.pwr.thermtrip, safePin := s.pwr.safePin,
                                            nandHigh := s.pwr.nandHigh } }

/-- SAFE# changes. -/
def State.setSafePin (s : State) (on : Bool) : State :=
  if s.pwr.safePin == on then s else ({ s with pwr := { s.pwr with safePin := on } } : State).emit (.pin "SAFE#" on)

/-- The start stops: STAGE 15 with a code, and SAFE# asserted. -/
def State.failStart (s : State) (code : Nat) : State :=
  ({ s with pwr := { s.pwr with stage := 15, failCode := code } } : State).setSafePin true

/-- A start stands at this stage and goes on. -/
def State.starting (s : State) (stage : Nat) : Bool := s.pwr.pwrok && !s.flt.safe && s.pwr.stage = stage

/-- NANDc_CE# and NANDc_WP# of every channel are driven high while `on` (R417). DEDUCED, log entry 30. -/
def State.setNandPins (s : State) (on : Bool) : State :=
  if s.pwr.nandHigh == on then s
  else
    let t : State := { s with pwr := { s.pwr with nandHigh := on } }
    if on then (t.emit (.pin "NANDc_CE#" false)).emit (.pin "NANDc_WP#" false) else t

/-- PWROK_ASSERT: every rail is valid, and the ROM begins a cold start. DEDUCED, log entry 30. -/
def doPwrokAssert (s : State) : State := if s.pwr.pwrok then s else (s.coldStart 0).setNandPins true

/-- POWER_DOWN: only VBAT is left; what waited in HBM is lost. -/
def doPowerDown (s : State) : State :=
  if !s.pwr.pwrok && !s.pwr.aon then s
  else
    let t := if s.pwr.thermtrip then s.emit (.pin "THERMTRIP#" false) else s
    (t.setSafePin false).powerLost.dropWaiting

/-- The slot that the ROM starts: the higher SVN of the acceptable ones, slot A on a tie (R382). -/
def bootSlot (least : Nat) (slots : List FwSlot) : Option (Nat × FwSlot) :=
  ((enum (slots.take 2)).filter fun e => e.2.sigOk && least ≤ e.2.svn).foldl (fun a e => match a with
    | none => some e
    | some b => if b.2.svn < e.2.svn then some e else some b) none

/-- Start training loads the self-test into the TEST slot of every engine (R151, R383). -/
def State.testEngines (s : State) : State :=
  { s with eng := (List.range Config.engines).map fun e =>
      (e, ({ running := 2, slots := [(2, newCtx none 2 { cmds := Config.selfTest } s.now)] } : Engine)) }

/-- FIRMWARE_BOOT: stages 0 and 1. The device keys are derived; a restart leaves the safe state. DEDUCED, log entry 30. -/
def doFirmwareBoot (slots : List FwSlot) (s : State) : State :=
  if !s.pwr.pwrok || s.pwr.stage > 1 then s
  else
    match bootSlot (max s.sec.fusedSvn s.sec.battery.fwFloor) slots with
    | none => s.failStart 1
    | some (k, f) =>
      let t : State := { s with
        sec := { s.sec with fwDigest := f.digest, storageKey := true },
        pwr := { s.pwr with fwSlot := k, fwSvn := f.svn, stage := 2, failCode := 0 },
        flt := { s.flt with safe := false } }
      (t.testEngines).setSafePin false

/-- Bytes of the device-reserved regions: the directory, the largest descriptor table (R58) and 4 bytes of flash map for each
usable unit (R291). DEDUCED, log entry 30. -/
def State.reservedBytes (s : State) : Nat :=
  Config.dirRecords * 64 + Config.maxDescriptors * 256 +
    4 * ((List.range Config.nandChannels).map fun c => s.unitsAt s.opPct c).sum

/-- What training found on a NAND channel. -/
def Chan.trained (x : Chan) (op spareMin : Nat) (r : NandReport) : Chan :=
  if r.targets = 0 || !r.meets then { x with state := .absent, targets := r.targets, dies := r.dies }
  else
    let y := Chan.respare op { x with targets := r.targets, dies := r.dies, rated := r.rated, nblocks := r.blocks }
    { y with state := if r.busFault then .failed else chanStateOf spareMin y }

/-- TRAINING_DONE (Table 18.4): failed units are reported; the self-tests leave the engines zeroed (R111). -/
def doTrainingDone (r : TrainReport) (s : State) : State :=
  if !s.starting 2 then s
  else
    let t : State := { s with pwr := { s.pwr with hbmFail := r.hbmFail, engFail := r.engFail }, eng := [] }
    let t := t.setNandPins false
    let t := (List.range Config.nandChannels).foldl (fun (t : State) c =>
      t.modChan c fun x => x.trained t.opPct t.spareMin (tgetD r.nand c {})) t
    let t := (List.range Config.links).foldl (fun (t : State) l =>
      t.setLink l { state := if r.linkFail.contains l then .down else .training, downSince := t.now }) t
    let up := r.hostUp && !t.hif.perst
    let t : State := { t with hif := { t.hif with
      linkUp := up, linkSpeed := if up then r.hostSpeed else 0, linkWidth := if up then r.hostWidth else 0,
      cxlMem := up && r.cxlMem } }
    let good := Config.hbmChannels - r.hbmFail.eraseDups.length
    if !r.keyEngineOk then t.failStart 2
    else if good * Config.channelBytes < t.reservedBytes then t.failStart 3
    else { t with pwr := { t.pwr with stage := 3 } }

/-- The battery file found blank, or its MAC failing, at a cold start (R373): it is zeroed, and the timebase began at 0. -/
def State.blankBattery (s : State) : State :=
  { s with now := s.now - s.pwr.startedAt,
           sec := { s.sec with battery := {}, batteryLost := true },
           pwr := { s.pwr with startedAt := 0 } }

/-- MEMORY_INIT_DONE. At a cold start every line of HBM is zeroed and the battery file is checked; at a restart the
device-reserved regions are verify-scrubbed, and if they are not intact the start becomes a cold start (R347).
DEDUCED, log entry 30. -/
def doMemoryInitDone (macOk : Bool) (s : State) : State :=
  if !s.starting 3 then s
  else if s.pwr.kind = 1 then
    (if macOk then { s with pwr := { s.pwr with stage := 4 } }
     else
       let t := s.powerLost
       { t with now := s.now, regs := s.regs, flt := { s.flt with srcs := [], parts := [] },
                hif := { s.hif with verbs := [], vfs := tmap (fun _ (v : Vf) => { v with csnNext := 1, waiting := [] }) s.hif.vfs },
                fab := s.fab, nvf := s.nvf,
                sec := { t.sec with storageKey := true, fwDigest := s.sec.fwDigest, batteryLost := s.sec.batteryLost },
                pwr := { s.pwr with kind := 0, priorImage := none, awaitKey := [], owed := [] } })
  else
    let t := s.dropWaiting
    let t := if t.sec.battery.formatted && macOk then t else t.blankBattery
    { t with pwr := { t.pwr with stage := 4 } }

/-- The audit head is recovered (R371): a gap record, or the battery-blank record; then the cold start is recorded (R368).
DEDUCED, log entry 30. -/
def State.recoverHead (s : State) : State :=
  let b := s.sec.battery
  let last := s.sec.audit.getLast?
  let lastSeq := max ((last.map auditSeqOf).getD 0) b.flashSeq
  let t : State :=
    if !b.formatted then
      let b := { b with formatted := true, auditSeq := lastSeq, auditHash := (last.map sha384).getD [], flashSeq := lastSeq }
      ({ s with sec := { s.sec with battery := b } } : State).audit auditDevice 3 0 0 0
    else if lastSeq < b.auditSeq then s.audit auditDevice 5 0 0 (b.auditSeq - lastSeq)
    else s
  t.audit auditDevice 2 0 0 0

/-- The map of a channel at a cold start: every unit that no checkpoint store holds is unmapped (R291). -/
def Chan.unmapped (x : Chan) : Chan :=
  { x with map := [], seqs := [], olds := [], alloc := [], blocks := tmap (fun _ (b : Block) => { b with units := [] }) x.blocks }

/-- FLASH_MAP_REBUILT: `bad` are the channels whose map cannot be rebuilt. -/
def doFlashMapRebuilt (bad : List Nat) (s : State) : State :=
  if !s.starting 4 then s
  else if !bad.isEmpty then s.failStart 4
  else
    let t := if s.pwr.kind = 1 then s
      else ({ s with nvf := { chans := tmap (fun _ => Chan.unmapped) s.nvf.chans } } : State).recoverHead
    ({ t with pwr := { t.pwr with stage := 5 } } : State).settlePhase

/-! ## The end of bring-up (R386) -/

/-- What stage 7 waits for. -/
def State.fabricSettled (s : State) : Bool :=
  ((List.range Config.links).all fun l =>
    !s.linkActive l || (match (s.linkOf l).state with | .up => true | .mismatch => true | .down => true | _ => false)) &&
  (s.fab.firstSync || !s.fab.hasParent)

/-- A partition of the first image after a cold start: its free lists and its estimates. -/
def State.setupPart (s : State) (im : Image) (p : Nat) : State :=
  match tget im.parts p with
  | none => s
  | some x =>
    (s.setDirFree p (s.rangeList x.part.dirBase x.part.dirCount)).modFolPart p fun y =>
      { y with desc := FreeList.fresh (p * Config.maxDescriptors) x.part.descShare, est := seedEst x.folio.seeds }

/-- A partition after SAFE_RESTART (R347): as R241 where Table 11.5 makes it REFORM, or it is new or absent; else its sessions wait
for its key. -/
def State.returnPart (s : State) (old im : Image) (p : Nat) : State :=
  let fresh := (tget old.parts p).isNone || (tget im.parts p).isNone
  let k := kindBetween old im p
  if fresh || k == .reform || k == .absent then s.reformPart p im
  else
    let t := s.resizePart p im
    let t : State := { t with pwr := { t.pwr with awaitKey := t.pwr.awaitKey ++ [p] } }
    if t.hasPrk p then t.returnSessions p else t

/-- BRINGUP_FABRIC_END: the image comes into force. -/
def doBringupFabricEnd (s : State) : State :=
  match s.bind.pendingImage with
  | none => s
  | some im =>
    if !s.starting 7 || !(s.fabricSettled || s.now ≥ s.bind.accepted + 20000000000) then s
    else
      let parts := List.range Config.partitions
      let t := match s.pwr.priorImage with
        | some old => parts.foldl (fun (t : State) p => t.returnPart old im p) s
        | none => parts.foldl (fun (t : State) p => t.setupPart im p) s
      let t : State := { t with pwr := { t.pwr with stage := 8, priorImage := none } }
      let was := (List.range Config.engines).map fun e => match s.pwr.priorImage with
        | some old => parts.find? fun p => ((tget old.parts p).getD {}).part.pairs.contains (e / 2)
        | none => none
      let t := t.enforce im
      let t := ((List.range Config.engines).filter fun e => was.getD e none != t.ownerOfEngine e).foldl State.zeroEngine t
      parts.foldl (fun (t : State) p => if (t.recPart p).mode == .safe then t.setPartMode p .normal else t) t

/-! ## SAFE_RESTART and DEVICE_RESET (R347, R385) -/

/-- SAFE_RESTART: the ROM boots while HBM keeps its contents. A device whose reserved regions were never initialised starts cold.
DEDUCED, log entry 30. -/
def doSafeRestart (s : State) : State :=
  s.mgmtCommand 0x08 0 [] fun s =>
    if !s.flt.safe then (.denied, s)
    else
      let kind := if s.pwr.kind = 0 && s.pwr.stage < 5 then 0 else 1
      let t : State := { s with
        pwr := { s.pwr with stage := 0, kind := kind, startedAt := s.now, failCode := 0 },
        bind := { phase := s.bind.phase, lastResult := s.bind.lastResult } }
      (.ok, t.setPhase .none)

/-- DEVICE_RESET: a cold start from stage 1, at which SAFE# is released. -/
def doDeviceReset (s : State) : State :=
  s.mgmtCommand 0x09 0 [] fun s => (.ok, (s.coldStart 1).setSafePin false)

/-! ## Clocks (R380, R381) -/

/-- CLOCK_LOSS: domains 0 to 7 are the HBM PHYs, 8 to 31 the fabric quads, 32 to 35 the NAND groups, 36 PCIe/CXL, 37 management and
timebase, 38 the battery domain, 39 test. DESIGN CHOICE, log entry 31. -/
def doClockLoss (dom : Nat) (s : State) : State :=
  if !s.pwr.pwrok || dom ≥ 40 || s.pwr.clockLost.contains dom then s
  else
    let t : State := { s with pwr := { s.pwr with clockLost := s.pwr.clockLost ++ [dom] } }
    if dom < 8 then t.raise (0x50 + dom)
    else if dom < 32 then
      (List.range 4).foldl (fun (t : State) i =>
        let l := 4 * (dom - 8) + i
        match (t.linkOf l).state with
        | .training => t.downLink l
        | .authenticating => t.downLink l
        | .mismatch => t.downLink l
        | .up => t.downLink l
        | _ => t) t
    else if dom < 36 then t.raise (0x80 + (dom - 32))
    else if dom = 36 then t.raise 0xA0
    else if dom = 37 then t.setSync 2
    else t

/-- CLOCK_RELOCK: the timebase domain is on its reference again; a device with a parent waits for its next SYNC_RSP. -/
def doClockRelock (dom : Nat) (s : State) : State :=
  if !s.pwr.pwrok || !s.pwr.clockLost.contains dom then s
  else
    let t : State := { s with pwr := { s.pwr with clockLost := s.pwr.clockLost.filter (· != dom) } }
    if dom = 37 && t.fab.hasParent then t.setSync 0 else t

/-- RTC_UPDATE: firmware writes the timebase into the counter. -/
def doRtcUpdate (s : State) : State :=
  if !s.firmwareUp then s
  else { s with pwr := { s.pwr with rtc := s.now * 32768 / 1000000000, rtcFrac := s.now * 32768 % 1000000000 } }

/-- VBAT_LOSS: while VDD_AON is absent the battery file and the counter are lost, and with them the unlocked state of debug. -/
def doVbatLoss (s : State) : State :=
  if s.pwr.aon then s
  else { s with sec := { s.sec with battery := {} }, pwr := { s.pwr with rtc := 0, rtcFrac := 0 } }

/-! ## Power and temperature (R387, R389) -/

/-- CAP_W as it acts (Table 18.11). -/
def State.capW (s : State) : Nat := min 1400 (max 800 (bits (s.reg .sysPwrCfg) 10 0))

/-- One decision of the pacer on the 1 ms average and Tj. How far a decision goes is a free value. DESIGN CHOICE, log entry 31. -/
def paced (w : PwrState) (cap watts tj : Nat) : PwrState :=
  let power := 100 * watts > 97 * cap
  let heat := tj > 105
  let n := (Config.paceStep w.decisions).toNat
  let w := { w with decisions := w.decisions + 1 }
  if power || heat then
    { w with pacing := true, pace := n % max 1 w.pace, causePower := w.causePower || power, causeThermal := w.causeThermal || heat }
  else if w.pacing && 100 * watts < 95 * cap && tj < 102 then
    let up := w.pace + 1 + n % max 1 (1000 - w.pace)
    if up ≥ 1000 then { w with pacing := false, pace := 1000, causePower := false, causeThermal := false }
    else { w with pace := up }
  else w

/-- PACER_TICK: the averages are measured and the pacer decides. PACING becoming 1 is a cause at PF0 (Table 19.11). -/
def doPacerTick (watts tj hbmMax : Nat) (s : State) : State :=
  if !s.firmwareUp then s
  else
    let w := { s.pwr with powerW := min watts 2047, peakNew := max s.pwr.peakNew (min watts 2047), tj := tj, thbm := hbmMax }
    let t : State := { s with pwr := paced w s.capW watts tj }
    if t.pwr.pacing && !s.pwr.pacing then t.cause causeThermal else t

/-- A stack's number joins or leaves a list at its entry and release temperatures. -/
def hysteresis (l : List Nat) (k celsius enter release : Nat) : List Nat :=
  if celsius > enter then (if l.contains k then l else l ++ [k])
  else if celsius ≤ release then l.filter (· != k)
  else l

/-- A temperature above the shutdown limits for 1 ms is source 0xF2. -/
def State.checkHot (s : State) : State :=
  let ended := s.pwr.hotSince.filter fun e => s.now ≥ e.2 + 1000000
  if ended.isEmpty then s
  else ({ s with pwr := { s.pwr with hotSince := s.pwr.hotSince.filter fun e => !ended.contains e } } : State).raise 0xF2

/-- A place is above its shutdown limit, or no longer. -/
def markHot (l : Tab Nat) (k now : Nat) (hot : Bool) : Tab Nat :=
  if hot then (if (tget l k).isSome then l else tput l k now) else tdel l k

/-- TEMP_THRESHOLD: the junction (no stack named) or a stack has reached a temperature. -/
def doTempThreshold (stack : Option Nat) (celsius : Nat) (s : State) : State :=
  if !s.firmwareUp then s
  else
    match stack with
    | none =>
      let w := { s.pwr with tj := celsius, hotSince := markHot s.pwr.hotSince 8 s.now (decide (celsius > 115)) }
      let w := if celsius > 105 then { w with pacing := true, causeThermal := true } else w
      let t := ({ s with pwr := w } : State).checkHot
      if t.pwr.pacing && !s.pwr.pacing then t.cause causeThermal else t
    | some k =>
      if k ≥ 8 then s
      else
        let temps := tput s.pwr.stackC k celsius
        let w := { s.pwr with
          stackC := temps, thbm := (temps.map (·.2)).foldl max 0,
          hotSince := markHot s.pwr.hotSince k s.now (decide (celsius > 105)),
          refreshDouble := hysteresis s.pwr.refreshDouble k celsius 85 82,
          hbmHold := hysteresis s.pwr.hbmHold k celsius 95 92 }
        ({ s with pwr := w } : State).checkHot

/-- THERMTRIP: the always-on comparator asserts the pin. -/
def doThermtrip (s : State) : State :=
  if !s.pwr.aon || s.pwr.thermtrip then s
  else ({ s with pwr := { s.pwr with thermtrip := true } } : State).emit (.pin "THERMTRIP#" true)

/-! ## PERST# (R384) -/

/-- PERST_ASSERT: the host link goes down, source 0xA0, and the device enters its safe state. -/
def doPerstAssert (s : State) : State :=
  if s.hif.perst then s
  else
    let t : State := { s with hif := { s.hif with perst := true } }
    if !t.pwr.pwrok then t else t.hostReset.event 0xA0 {}

/-- PERST_DEASSERT: the link trains; configuration space is ready within 1.0 s. DESIGN CHOICE, log entry 31. -/
def doPerstDeassert (s : State) : State :=
  if !s.hif.perst then s
  else { s with hif := { s.hif with perst := false, perstAt := s.now, cfgReady := false, linkUp := s.pwr.pwrok,
                                    linkSpeed := if s.pwr.pwrok then 6 else 0, linkWidth := if s.pwr.pwrok then 16 else 0 } }

/-- Configuration space is ready once 1.0 s has passed since PERST# was deasserted. DESIGN CHOICE, log entry 31. -/
def State.settleConfig (s : State) : State :=
  if s.pwr.pwrok && !s.hif.perst && s.hif.linkUp && !s.hif.cfgReady && s.now ≥ s.hif.perstAt + 1000000000
  then { s with hif := { s.hif with cfgReady := true } } else s

/-! ## The commands of this file -/

/-- SAFE_RESTART (R347). -/
def execSafeRestart (s : State) : Host.Outcome State Fault Refusal :=
  .next (doSafeRestart s)

/-- DEVICE_RESET (R385). -/
def execDeviceReset (s : State) : Host.Outcome State Fault Refusal :=
  .next (doDeviceReset s)

/-- PERST_ASSERT (R384). -/
def execPerstAssert (s : State) : Host.Outcome State Fault Refusal :=
  .next (doPerstAssert s)

/-- PERST_DEASSERT (R384). -/
def execPerstDeassert (s : State) : Host.Outcome State Fault Refusal :=
  .next (doPerstDeassert s)

/-- PWROK_ASSERT (R377). -/
def execPwrokAssert (s : State) : Host.Outcome State Fault Refusal :=
  .next (doPwrokAssert s)

/-- POWER_DOWN (R378). -/
def execPowerDown (s : State) : Host.Outcome State Fault Refusal :=
  .next (doPowerDown s)

/-- FIRMWARE_BOOT (R382). -/
def execFirmwareBoot (slots : List FwSlot) (s : State) : Host.Outcome State Fault Refusal :=
  .next (doFirmwareBoot slots s)

/-- TRAINING_DONE (R383). -/
def execTrainingDone (r : TrainReport) (s : State) : Host.Outcome State Fault Refusal :=
  .next (doTrainingDone r s)

/-- BRINGUP_FABRIC_END (R386). -/
def execBringupFabricEnd (s : State) : Host.Outcome State Fault Refusal :=
  .next (doBringupFabricEnd s)

/-- PACER_TICK (R387). -/
def execPacerTick (watts tj hbmMax : Nat) (s : State) : Host.Outcome State Fault Refusal :=
  .next (doPacerTick watts tj hbmMax s)

/-- TEMP_THRESHOLD (R389). -/
def execTempThreshold (stack : Option Nat) (celsius : Nat) (s : State) : Host.Outcome State Fault Refusal :=
  .next (doTempThreshold stack celsius s)

/-- THERMTRIP (R419). -/
def execThermtrip (s : State) : Host.Outcome State Fault Refusal :=
  .next (doThermtrip s)

/-- CLOCK_LOSS (R380). -/
def execClockLoss (domain : Nat) (s : State) : Host.Outcome State Fault Refusal :=
  .next (doClockLoss domain s)

/-- RTC_UPDATE (R381). -/
def execRtcUpdate (s : State) : Host.Outcome State Fault Refusal :=
  .next (doRtcUpdate s)

/-- VBAT_LOSS (R420). -/
def execVbatLoss (s : State) : Host.Outcome State Fault Refusal :=
  .next (doVbatLoss s)

/-- MEMORY_INIT_DONE (R385). -/
def execMemoryInitDone (macOk : Bool) (s : State) : Host.Outcome State Fault Refusal :=
  .next (doMemoryInitDone macOk s)

/-- FLASH_MAP_REBUILT (R291). -/
def execFlashMapRebuilt (bad : List Nat) (s : State) : Host.Outcome State Fault Refusal :=
  .next (doFlashMapRebuilt bad s)

/-- CLOCK_RELOCK (R380). -/
def execClockRelock (domain : Nat) (s : State) : Host.Outcome State Fault Refusal :=
  .next (doClockRelock domain s)

end Machine
end Sys2Proof
end

