-- ==== Sys2Proof/Machine/Status.lean ====
section
/-!
DEFINITION. Sys2Proof/Machine/Status.lean: the registers that are computed from state when they are read: the status registers of
every chapter's field tables, and those that the spec lists by name and purpose only.
-/
namespace Sys2Proof
namespace Machine

/-- A bit list as a word. -/
def maskOf (n : Nat) (f : Nat → Bool) : Nat := ((List.range n).map fun i => (f i).toNat * 2 ^ i).sum

/-- A signed value in n bits, saturating. -/
def signedSat (n : Nat) (v : Int) : Nat :=
  let m : Int := 2 ^ (n - 1)
  ((max (-m) (min (m - 1) v)) % (2 ^ n)).toNat

/-- ACTIVITY of an engine (Table 7.6). -/
def Engine.activity (x : Engine) : Nat :=
  if x.stopped then 6
  else if x.switching.isSome then 5
  else match tget x.slots x.running with
    | none => 0
    | some y => if y.ended then 0 else if y.faulted then 6 else if y.waiting != 0 then y.waiting else 1

/-- ENG_CTX_STATUS (Table 7.6). -/
def Engine.statusWord (x : Engine) : Nat :=
  let a := x.activity
  let tag := match tget x.slots x.running with
    | some y => if a = 2 || a = 3 then y.waitTag % 1024 else 0
    | none => 0
  at' tag 32 + at' (maskOf 4 fun n => (tget x.slots n).isSome) 16 +
    at' (maskOf 4 fun n => match tget x.slots n with | some y => y.ready | none => false) 12 + at' (x.running % 4) 4 + a

/-- ENG_WAIT_SINCE (R164). -/
def Engine.waitSinceWord (x : Engine) : Nat :=
  let a := x.activity
  if 2 ≤ a && a ≤ 4 then (match tget x.slots x.running with | some y => y.waitSince | none => 0) else 0

/-- ENG_CMD_INDEX: the running command index of each slot, 16 bits a slot. DEDUCED, log entry 32. -/
def Engine.indexWord (x : Engine) : Nat :=
  ((List.range 4).map fun n => at' ((match tget x.slots n with | some y => y.index | none => 0) % 65536) (16 * n)).sum

/-- SPN_SEQ_STATE of a Spine entry: the sequence's state code and its queue. DEDUCED, log entry 32. -/
def State.seqStateWord (s : State) (i : Nat) : Nat :=
  match tget s.dir.spine i with
  | none => 0
  | some (d, n) => match s.seq? d n with
    | some q => at' (q.queue % 4096) 8 + seqStateCode q.state
    | none => 0

/-- FOL_HO_INFLIGHT: sessions in hand-off and the earliest of their claim deadlines, in µs modulo 2⁴⁰. DEDUCED, log entry 32. -/
def State.hoInflightWord (s : State) (p : Nat) : Nat :=
  let l := (s.sessionsOf p fun x => x.send.isSome).filterMap fun d => (s.session? d).bind fun x => x.send.map (·.deadline)
  let first := match l with | [] => 0 | a :: r => r.foldl min a
  at' (l.length % 2 ^ 24) 40 + first / 1000 % 2 ^ 40

/-- NVF_CHAN_STATUS and NVF_CHAN_WEAR (Table 14.8). -/
def State.chanStatusWord (s : State) (c : Nat) : Nat :=
  let x := s.chanOf c
  let o := s.ownerOfNand c
  at' (chanStateCode x.state) 60 + at' o.isSome.toNat 59 + at' (o.getD 0) 55 + at' (min 15 x.targets) 40 + at' (min 255 x.dies) 32 +
    x.spare % two32

def State.chanWearWord (s : State) (c : Nat) : Nat :=
  let x := s.chanOf c
  let most := (x.blocks.map fun e => e.2.erases).foldl max 0
  let life := if x.rated = 0 then 0 else min 0xFFFF (x.meanErases * 1000 / x.rated)
  at' (x.rated % 65536) 48 + at' (min 0xFFFF most) 32 + at' (min 0xFFFF x.meanErases) 16 + life

/-- HIF_T3_STATUS (Table 14.9). -/
def State.t3LinkUp (s : State) : Bool :=
  let mode := bits (s.reg .hifT3Cfg) 63 62
  s.hif.linkUp && ((mode = 1 && s.hif.ideStreams.contains 0) || (mode = 2 && s.hif.cxlMem))

def State.t3StatusWord (s : State) : Nat :=
  at' s.hif.t3Locked.toNat 63 + at' s.t3LinkUp.toNat 62 + s.t3Used.length % 2 ^ 29

/-- HIF_LINK_STATUS (Table 19.13). -/
def State.hostLinkWord (s : State) : Nat :=
  at' s.hif.linkUp.toNat 63 + at' (s.hif.linkSpeed % 8) 60 + at' (s.hif.linkWidth % 32) 55 + at' s.hif.cxlMem.toNat 54 +
    at' (min 4 s.hif.ideStreams.length) 51

/-- FAB_LINK_STATUS (Table 12.11). -/
def State.linkWord (s : State) (l : Nat) : Nat :=
  let x := s.linkOf l
  at' (x.peerLink % 128) 57 + at' (x.peerId % 4096) 45 + at' (x.rtt % 4096) 33 + at' (x.delay % 4096) 21 +
    at' (s.trunkOf l % 128) 14 + linkStateCode x.state

/-- FAB_SYNC_STATUS (Table 12.12). -/
def State.syncWord (s : State) : Nat :=
  at' (s.fab.master % 4096) 52 + at' (s.fab.parent % 4096) 40 + at' (min 15 s.fab.depth) 36 + at' (s.fab.sync % 16) 32 +
    at' (signedSat 16 s.fab.offset) 16 + signedSat 16 s.fab.rateAdj

/-- TXT_VOCAB_INFO (Table 8.2). -/
def vocabWord (v : Vocab) : Nat := at' (v.entries.length % 2 ^ 20) 40 + at' (v.onchip % 2 ^ 20) 20 + v.lattice.toNat

/-- RCL_INDEX_INFO of slot k: the partition's indexes in ascending identifier (Table 9.10). -/
def State.indexWord (s : State) (p k : Nat) : Nat :=
  match (s.indexesOf p)[k]? with
  | none => 0
  | some (id, x) =>
    let (gen, nodes) := match x.gens with | g :: _ => (g.gen, ixNodes g.image) | [] => (0, 0)
    let st := if x.dropping then 3 else if x.loading then 2 else 1
    at' (id % 65536) 48 + at' st 46 + at' (gen % 2 ^ 14) 32 + nodes % 2 ^ 31

/-- CKP_STATUS (Table 15.8). -/
def ckpWord (k : CkpPart) : Nat :=
  at' (k.phase % 16) 60 + at' k.degraded.toNat 59 + at' (statusCode k.lastStatus) 48 + k.seq % 2 ^ 48

/-- SYS_BIND_STATUS (Table 11.7). -/
def State.bindWord (s : State) : Nat :=
  at' (s.epoch % two32) 32 + at' (bindPhaseCode s.bind.phase) 28 + at' (mgmtCode s.bind.lastResult % 256) 16 +
    maskOf 16 s.fencedByChange

/-- SYS_BOOT_STATUS (Table 18.10). -/
def State.bootWord (s : State) : Nat :=
  at' s.pwr.stage 60 + at' s.pwr.kind 58 + at' (s.pwr.fwSlot % 2) 57 + at' (s.pwr.failCode % 256) 48 + at' (s.pwr.fwSvn % two32) 16 +
    min 0xFFFF ((s.now - s.pwr.startedAt) / 100000000)

/-- SYS_PWR_STATUS (Table 18.12). -/
def State.powerWord (s : State) : Nat :=
  let w := s.pwr
  at' w.pacing.toNat 63 + at' w.causePower.toNat 62 + at' w.causeThermal.toNat 61 + at' (!w.hbmHold.isEmpty).toNat 60 +
    at' (min 255 w.tj) 40 + at' (min 255 w.thbm) 32 + at' w.powerW 21 + at' w.peakW 10 + min 1000 w.pace

/-- SYS_FAULT_SRC_CFG of a source (Table 16.12). -/
def State.srcCfgWord (s : State) (k : Nat) : Nat :=
  match faultRow k with
  | none => 0
  | some r =>
    let b := s.faultSrc k
    at' b.windowS 32 + at' b.threshold 16 + at' (severityCode r.esc) 4 + severityCode r.base

/-- An event log entry as a number of 256 bits (Table 16.2). -/
def logWord (e : LogEntry) : Nat :=
  at' (e.time % two64) 192 + at' (e.seq % two32) 160 + at' e.source 152 + at' (severityCode e.severity) 150 + at' e.escalated.toNat 149 +
    at' e.queued.toNat 148 + at' e.part.isSome.toNat 147 + at' (e.part.getD 0) 143 + at' (e.engine.getD 0) 138 +
    at' e.engine.isSome.toNat 137 + e.detail % 2 ^ 128

/-- Word w of SYS_FAULT_LOG: entry k takes 32 bytes. -/
def State.faultLogWord (s : State) (w : Nat) : Nat :=
  match tget s.flt.log (w / 4) with
  | some e => logWord e / 2 ^ (64 * (w % 4)) % two64
  | none => 0

/-- SYS_PART_STATUS (Table 16.14). -/
def State.partWord (s : State) (p : Nat) : Nat :=
  let r := s.recPart p
  at' (partModeCode r.mode) 60 + at' (min 4095 r.suspects.length) 48 + at' (r.quarantine % 32) 43

/-- A register that is computed when it is read. -/
def State.calcReg (s : State) (r : RegName) (i j : Nat) : Nat :=
  match r with
  | .engCtxStatus => (s.engOf i).statusWord
  | .engWaitSince => (s.engOf i).waitSinceWord
  | .engCmdIndex => (s.engOf i).indexWord
  | .engBudgetLog => let b := (s.engOf i).budgetLog; at' (b.1 % 4) 62 + at' (b.2.1 % 2 ^ 30) 32 + b.2.2 % 4
  | .spnStepEst => (s.spnOf i).estNs
  | .spnReplyUse => at' ((s.spnOf i).replyHigh % two32) 32 + (s.spnOf i).replyUse % two32
  | .spnSeqState => s.seqStateWord i
  | .folHoInflight => s.hoInflightWord i
  | .folReviveEst => let e := s.est i (j + 1); at' (min 0xFFFFFFFF (e.2 / 65536)) 32 + min 0xFFFFFFFF (e.1 / 65536)
  | .hbmChanFail => maskOf 64 fun n => s.pwr.hbmFail.contains (64 * i + n)
  | .hbmTrainLog => (Config.trainLog i s.pwr.startedAt).toNat
  | .nvfChanStatus => s.chanStatusWord i
  | .nvfChanWear => s.chanWearWord i
  | .hifT3Status => s.t3StatusWord
  | .hifLinkStatus => s.hostLinkWord
  | .fabSyncStatus => s.syncWord
  | .fabRoute => (routeWord (tgetD s.fab.routes i {})).toNat
  | .fabLinkStatus => s.linkWord i
  | .txtVocabInfo => (match tget s.txt.vocabs i with | some v => vocabWord v | none => 0)
  | .rclCap => at' Config.recallNodes 32 + s.nodesHeld % two32
  | .rclIndexInfo => s.indexWord i j
  | .ckpStatus => ckpWord (s.ckpOf i)
  | .sysDeviceUid => s.sec.uid
  | .sysTimebase => s.now
  | .sysBindStatus => s.bindWord
  | .sysBindFloor => s.sec.battery.bindFloor % two32
  | .sysBindEpoch => s.sec.battery.bindEpoch % two32
  | .sysBootStatus => s.bootWord
  | .sysPwrStatus => s.powerWord
  | .sysEngFail => maskOf 32 fun n => s.pwr.engFail.contains n
  | .sysFaultLogPtr => at' (s.flt.head % 2048) 32 + s.flt.tail % 2048
  | .sysFaultSrcCfg => s.srcCfgWord i
  | .sysFaultLog => s.faultLogWord i
  | .sysPartStatus => s.partWord i
  | _ => (s.reg r i j).toNat

end Machine
end Sys2Proof
end

