-- ==== Sys2Proof/Machine/Diagnostics.lean ====
section
/-!
DEFINITION. Sys2Proof/Machine/Diagnostics.lean: the diagnostic registers that the spec lists by name and purpose only and that Table 19.4
does not place: the values that each holds. R400 gives the areas in which they lie; where in them, and how a register packs its values,
is open. DESIGN CHOICE, log entry 36.
-/
namespace Sys2Proof
namespace Machine

/-- The diagnostic registers without a place in Table 19.4, by chapter. -/
inductive DiagReg where
  | folDescPeek
  | txtPipeBusy | txtGcacheUse | txtGrammars
  | rclTombState | rclPipeBusy
  | shpVtime | shpTag | shpDeficit | shpWheel | shpArbHold
  | sysBindDigest | sysBindDeadline | sysBindHeld
  | fabTrunk | fabLaneCredits | fabLsaDb | fabCasStore
  | nvfGcState | nvfMapJournal | nvfParam
  | ckpReserve | ckpPoint
  | sysFaultBucket | sysFaultDetail | sysFaultHist | sysReplayState
  | sysRailMon | sysTempMap | fabTrainLog
  | hifRingDebug | hifCqBuffer | hifIdeState | hifTdiState | hifCxlState
  deriving DecidableEq, Repr, Inhabited

/-- FREE VALUE. Which diagnostic register, entry of it and word of that entry stand at an offset of a block, where one does (R400).
DESIGN CHOICE, log entry 36. -/
opaque Config.diagAt : Nat → Nat → Option (DiagReg × Nat × Nat)
/-- FREE VALUE. How word j of a diagnostic register packs the values that it holds. DESIGN CHOICE, log entry 36. -/
opaque Config.diagPack : DiagReg → Nat → List Nat → W64
/-- FREE VALUE. What a rail's monitor, a junction sensor or a link's training reports: register, entry, instant. -/
opaque Config.reading : DiagReg → Nat → Nat → List Nat

/-- Schedulers in one row: STEP of the partitions, TEXT, RECALL, FABRIC of the links (Table 10.3). -/
def schedAt (k : Nat) : SchedId :=
  if k < Config.partitions then .step k
  else if k = Config.partitions then .text
  else if k = Config.partitions + 1 then .recallU
  else .fabric (k - Config.partitions - 2)

/-- Shared ports in one row, in the order of Table 10.6. -/
def portAt (k : Nat) : PortId :=
  let h := Config.hbmChannels
  if k < h then .hbm k
  else if k = h then .buf
  else if k < h + 1 + Config.links then .link (k - h - 1)
  else if k < h + 1 + Config.links + Config.nandChannels then .nand (k - h - 1 - Config.links)
  else .host

/-- Ports in all. -/
def portCount : Nat := Config.hbmChannels + Config.links + Config.nandChannels + 2

/-- Requests of each class that a port's regulator has held back (SHP_ARB_HOLD). -/
def State.portHolds (s : State) (k : Nat) : List Nat := (List.range 4).map fun c => tgetD (s.port (portAt k)).holds c 0

/-- FOL_DESC_PEEK: a descriptor's 256 bytes with its heat as R74 computes it now. -/
def State.peek (s : State) (i : Nat) : Bytes :=
  match s.folio? i with
  | none => zeros 256
  | some f =>
    let (h, t) := heatNow (s.reg .folHeatCfg f.part) f s.now
    ({ f with heat := h, heatTime := t } : Folio).descBytes

/-- Links that are UP towards a device. -/
def State.trunkMask (s : State) (d : Nat) : Nat :=
  maskOf Config.links fun l => (s.linkOf l).state == .up && (s.linkOf l).peerId == d

/-- The values that entry i of a diagnostic register holds. -/
def State.diag (s : State) (r : DiagReg) (i : Nat) : List Nat :=
  match r with
  | .folDescPeek => (s.peek i).map (·.toNat)
  | .txtPipeBusy => (match tget s.txt.pipes i with | some j => [1, j.part] | none => [0, 0])
  | .txtGcacheUse => [(s.txtPart i).cache.length, (s.txtPart i).cacheHigh]
  | .txtGrammars => [(s.txtPart i).grammars.length, s.grammarUse i]
  | .rclTombState => (s.indexesOf i).flatMap fun x => match x.2.gens with
      | g :: _ => [x.1, g.epoch, g.pending.length]
      | [] => []
  | .rclPipeBusy => [s.pipeUse i, maskOf Config.partitions fun p => (s.queriesOf p).any fun q => q.pipe == i]
  | .shpVtime => [(s.sched (schedAt i)).vtime]
  | .shpTag => (s.sched (schedAt i)).tags.flatMap fun e => [e.1, e.2]
  | .shpDeficit => (List.range 8).map fun k => (((s.sched (schedAt i)).deficit k) % (two64 : Int)).toNat
  | .shpWheel => [s.shp.wheelPos, s.shp.overflow.length]
  | .shpArbHold => s.portHolds i
  | .sysBindDigest => [leNat (sub s.bind.digest (8 * i) 8)]
  | .sysBindDeadline => if s.changing then [s.bind.deadline, s.bind.fence] else [0, 0]
  | .sysBindHeld => [countp (fun (v : Verb) => v.phase == .held) (s.verbs i)]
  | .fabTrunk => [i, s.trunkMask i]
  | .fabLaneCredits => (List.range 35).map fun k => tgetD (s.linkOf i).credits k 0
  | .fabLsaDb => (match tget s.fab.lsas i with | some m => [m.seq] | none => [])
  | .fabCasStore => [s.fab.casStore.length]
  | .nvfGcState => [(s.chanOf i).freeBlocks.length, (match (s.chanOf i).gc with | some k => classRank k + 1 | none => 0)]
  | .nvfMapJournal => [(s.chanOf i).journal, (s.chanOf i).wseq]
  | .nvfParam => [(s.chanOf i).targets, (s.chanOf i).dies, (s.chanOf i).rated, (s.chanOf i).nblocks]
  | .ckpReserve =>
    let rows := (s.ckpOf i).rows.filter fun e => !e.2.refs.isEmpty
    [(match (s.partImage i).links.group with | some g => g.reserve | none => 0), rows.length,
      (rows.map fun e => e.1 + 1).foldl max 0]
  | .ckpPoint => (match (s.ckpOf i).capture with | some c => [c.point] | none => [])
  | .sysFaultBucket => [(s.faultSrc i).level]
  | .sysFaultDetail => (match (s.flt.log.filter fun e => e.2.source == i).map (·.2) with
      | [] => []
      | a :: l => [(l.foldl (fun a b => if a.time ≤ b.time then b else a) a).detail])
  | .sysFaultHist =>
    let b := s.sec.battery
    [b.safeEntries, b.lastSource, b.lastTime] ++ b.lastSixteen.flatMap fun e => [e.1, e.2]
  | .sysReplayState => (match (s.recPart i).gather with
      | some g => (g.entries.flatMap fun e => [e.dir, e.seq]) ++
          (match s.ctx? (s.recPart i).quarantine 1 with | some y => [y.stream] | none => [])
      | none => [])
  | .sysRailMon | .sysTempMap | .fabTrainLog => Config.reading r i s.now
  | .hifRingDebug => [(s.vf i).sqRead, countp (fun (v : Verb) => v.phase == .held || v.phase == .deferred) (s.verbs i)]
  | .hifCqBuffer =>
    let w := (s.vf i).waiting
    [min Config.recordBuffer (countp (fun x => !x.inDir) w), countp (fun (x : Waiting) => x.inDir) w]
  | .hifIdeState => [(s.hif.ideStreams.contains i).toNat]
  | .hifTdiState => [(match (s.vf i).tdi with | .unlocked => 0 | .locked => 1 | .run => 2 | .error => 3)]
  | .hifCxlState => [s.hif.cxlMem.toNat]

/-- The areas of R400: offsets 0x4000 to 0x7FFF of a device page, and the arrays from 0x80_0000 on. -/
def inDiagArea (rel : Nat) : Bool := (0x4000 ≤ rel && rel < 0x8000) || 0x800000 ≤ rel

/-- The diagnostic register at an offset of BAR0 that Table 19.4 gives no register. -/
def diagOf (off : Nat) : Option (DiagReg × Nat × Nat) :=
  if inDiagArea (off % 0x1000000) then Config.diagAt (off / 0x1000000) (off % 0x1000000 / 8 * 8) else none

/-- What PF0 reads at such an offset; where no register stands, zero (R396). -/
def State.diagRead (s : State) (off : Nat) : W64 :=
  match diagOf off with
  | some (r, i, j) => Config.diagPack r j (s.diag r i)
  | none => 0

/-- The counts that SHP_ARB_HOLD holds, as a snapshot of the shaper keeps them (R13): beside the counters that have an offset, above
all of these. -/
def State.holdCounts (s : State) : Tab W64 :=
  (List.range portCount).flatMap fun k =>
    ((enum (s.portHolds k)).filter fun e => e.2 != 0).map fun e => (two32 + 4 * k + e.1, w64 e.2)

end Machine
end Sys2Proof
end

