-- ==== Sys2Proof/Machine/HostRegs.lean ====
section
/-!
DEFINITION. Sys2Proof/Machine/HostRegs.lean: register accesses of the PCIe functions (R6 to R9, R12, R13, R353, R397, R398, R401),
function resets, D3hot and configuration requests (R384, R391, R394, R395, R366).
-/
namespace Sys2Proof
namespace Machine

/-! ## Where an offset leads (R396, R398) -/

/-- BAR0 offset that an offset of partition p's window stands for; none: the ring page or reserved. -/
def windowOffset (p off : Nat) : Option Nat :=
  if off < 0x100000 || 0xD00000 ≤ off then none
  else
    let b := blockBase ((off - 0x100000) / 0x100000)
    let rel := off % 0x100000
    if rel < 0x10000 then some (b + rel)
    else if rel < 0x20000 then some (b + 0x100000 + p * 0x10000 + (rel - 0x10000))
    else some (b + rel + 0x1E0000)

/-- The register that a function's access names, with its places; none: the offset behaves as RSV. -/
def resolve (fn : Fn) (off : Nat) : Option (RegName × Nat × Nat) :=
  match fn with
  | .pf => regAt off
  | .vf p => (windowOffset p off).bind regAt

/-- The function may read this place of this register (Table 17.1, R210, R398). SHP_DRR_CFG of a privileged queue is in the window of the
partition whose service queue it designates (R226). -/
def State.sees (s : State) (fn : Fn) (r : RegName) (i : Nat) : Bool :=
  let w := regRow r
  match fn with
  | .pf => w.vis != .vf
  | .vf p =>
    w.vis != .pf &&
    (match w.unit with
     | .device => r != .shpDrrCfg || (s.pqOn i && 3 ≤ i && s.queueIn p (bits (s.reg .shpDrrCfg i) 59 48))
     | .all => true
     | .part => i == p
     | .engine => s.ownerOfEngine i == some p
     | .queue => s.queueIn p i
     | .nand => s.ownerOfNand i == some p
     | .spine => false)

/-- Aligned 32-bit accesses are permitted: every field of the register is RO or RW (R8). -/
def halfOk (r : RegName) : Bool :=
  r == .sysFaultLogPtr || r == .shpHistDepth || r == .shpHistDelay ||
  (match (regRow r).kind with
   | .cfg => true
   | .rw _ => true
   | .ctr => true
   | .calc => r != .sysPwrStatus
   | _ => false)

/-- The RO and RW registers of the ring page (Table 19.5): its doorbells are WO, its other offsets no register. -/
def ringHalfOk (off : Nat) : Bool := [0x00, 0x08, 0x10, 0x20, 0x28, 0x30].contains (off / 8 * 8)

/-- The access is permitted by its width and alignment (R8): an offset at which no register stands is RSV (R396), so a half access
of it is not one to an RO or RW register. DEDUCED, log entry 32. -/
def accessOk (fn : Fn) (off width : Nat) : Bool :=
  if width = 8 then off % 8 == 0
  else width = 4 && off % 4 == 0 &&
    (match fn, resolve fn (off / 8 * 8) with
     | _, some (r, _, _) => halfOk r
     | .pf, none => (diagOf off).isSome
     | .vf _, none => ringHalfOk off)

/-- The function answers memory requests: the link is up, and it is neither in D3hot nor, for a virtual function, disabled. -/
def State.answers (s : State) (fn : Fn) : Bool :=
  s.pwr.pwrok && s.hif.linkUp &&
  (match fn with
   | .pf => !s.hif.pfD3hot
   | .vf p => p < Config.partitions && (s.vf p).enabled && !(s.vf p).d3hot)

/-- A request to a function that does not answer ends as an unsupported request while the link is up. -/
def State.noAnswer (s : State) : State := if s.pwr.pwrok && s.hif.linkUp then s.emit .unsupported else s

/-! ## Counters and snapshots (R12, R13, R397) -/

/-- The register counts, or holds SAT bits: a snapshot copies it. -/
def isCounter (r : RegName) : Bool :=
  r == .engNumeric || r == .shpHistSat || r == .shpHistDepth || r == .shpHistDelay || r == .sysAccessErr ||
  (match (regRow r).kind with | .ctr => true | .sat => true | _ => false)

/-- A function's own SYS_ACCESS_ERR. -/
def State.accessErrWord (s : State) (fn : Fn) : W64 :=
  let (c, sat) := tgetD s.hif.accessErr (fnNum fn) (0, false)
  w64 (at' sat.toNat 63 + c)

/-- Place of a function's bank of a block. -/
def bankOf (fn : Fn) (block : Nat) : Nat := 12 * fnNum fn + block

/-- The counters of a block that a function can read, with their values. -/
def State.snapshot (s : State) (fn : Fn) (block : Nat) : Tab W64 :=
  let t := tfilter (fun k _ => match regAt k with
    | some (r, i, _) => (regRow r).block == block && isCounter r && s.sees fn r i
    | none => false) s.regs
  if block = 11 then tput t (regAddr .sysAccessErr 0 0) (s.accessErrWord fn)
  else if block = 9 && fn == .pf then t ++ s.holdCounts
  else t

/-- TAKE: the bank is filled in one instant and SEQ is incremented modulo 2³². -/
def State.take (s : State) (fn : Fn) (block : Nat) : State :=
  let k := bankOf fn block
  { s with hif := { s.hif with
    banks := tput s.hif.banks k (s.snapshot fn block), snapSeq := tput s.hif.snapSeq k ((tgetD s.hif.snapSeq k 0 + 1) % two32) } }

/-- A write to BLOCK_SNAP: the snapshot first, then VIEW. A change of VIEW by PF0 is recorded; TAKE is not (R368). -/
def State.snapWrite (s : State) (fn : Fn) (block : Nat) (v : W64) : State :=
  let k := bankOf fn block
  let view := bit v 62
  let eff := fun (t : State) =>
    let t := if bit v 63 then t.take fn block else t
    { t with hif := { t.hif with snapView := tput t.hif.snapView k view } }
  if fn == .pf && view != tgetD s.hif.snapView k false then s.pfWrite (regAddr .blockSnap block 0) v eff else eff s

/-- BLOCK_SNAP as a function reads it (Table 19.13). -/
def State.snapWord (s : State) (fn : Fn) (block : Nat) : W64 :=
  let k := bankOf fn block
  w64 (at' (tgetD s.hif.snapView k false).toNat 62 + tgetD s.hif.snapSeq k 0)

/-- A saturating counter whose SAT bit is written 1: bit and counter are cleared, and increments of this instant are counted (R12). -/
def State.clearSat (s : State) (r : RegName) (i : Nat) : State :=
  s.setReg r i 0 (satAdd 0 (tgetD s.stamps (regAddr r i 0) 0))

/-- One counter of ENG_NUMERIC: `k` 0 CLIP, 1 NAN, 2 DEGEN. -/
def State.clearNumeric (s : State) (e k : Nat) : State :=
  let w := setBit (s.reg .engNumeric e) (61 + k) false
  s.setReg .engNumeric e 0 (setBits w (16 * k + 15) (16 * k) (min 0xFFFF (tgetD s.stamps (regAddr .engNumeric e 0 + k) 0)))

/-- One bin of a histogram: `k` below 16 is a depth bin, the others delay bins. -/
def State.clearBin (s : State) (q k : Nat) : State :=
  let r := if k < 16 then RegName.shpHistDepth else .shpHistDelay
  let b := k % 16
  let lo := 32 * (b % 2)
  let n := min satMax (tgetD s.stamps (regAddr r q (b / 2) + b % 2) 0)
  (s.setReg .shpHistSat q 0 (setBit (s.reg .shpHistSat q) k false)).setReg r q (b / 2) (setBits (s.reg r q (b / 2)) (lo + 31) lo n)

/-- SAT bits of a register that a write of `v` clears. -/
def State.satWrite (s : State) (fn : Fn) (r : RegName) (i : Nat) (v : W64) : State :=
  match r with
  | .engNumeric => (List.range 3).foldl (fun (t : State) k => if bit v (61 + k) then t.clearNumeric i k else t) s
  | .shpHistSat => (List.range 32).foldl (fun (t : State) k => if bit v k then t.clearBin i k else t) s
  | .sysAccessErr =>
    if bit v 63 then
      { s with hif := { s.hif with accessErr := tput s.hif.accessErr (fnNum fn) (min satMax (tgetD s.stamps (errStamp fn) 0), false) } }
    else s
  | _ => if bit v 63 then s.clearSat r i else s

/-- The register has SAT bits. -/
def hasSat (r : RegName) : Bool :=
  r == .engNumeric || r == .shpHistSat || r == .sysAccessErr || (match (regRow r).kind with | .sat => true | _ => false)

/-! ## W1C registers (R9) -/

/-- A W1C register after a write of `v`: bits that hardware has set in this instant stay. -/
def State.w1cWord (s : State) (r : RegName) (i : Nat) (v : W64) : W64 :=
  let keep := tgetD s.stamps (regAddr r i 0) 0
  s.reg r i &&& ~~~(v &&& ~~~(w64 keep))

/-- HIF_EVENT_CAUSE: a bit that stays set through the write sends one new message (R408). -/
def State.causeWrite (s : State) (v : W64) : State :=
  let kept := (List.range 8).filter fun n =>
    bit v n && (tgetD s.stamps (regAddr .hifEventCause 0 0) 0).testBit n && !bit (s.reg .hifEventMask) n
  let t := s.setReg .hifEventCause 0 0 (s.w1cWord .hifEventCause 0 v)
  kept.foldl (fun (t : State) n => ({ t with hif := { t.hif with pfMsix := t.hif.pfMsix ++ [n] } } : State).emit (.msix .pf n)) t

/-- SYS_FAULT_LOG_PTR.TAIL: a write that would pass HEAD acts as a write of HEAD (Table 16.13). -/
def State.tailWrite (s : State) (n : Nat) : State :=
  let ahead := (n + 2048 - s.flt.tail % 2048) % 2048
  { s with flt := { s.flt with tail := if ahead ≤ s.flt.held then n else s.flt.head } }

/-! ## Writes of PF0 and of the virtual functions -/

/-- The bits of an RW register that a write may set; ROUND_US is RSV outside PQ0 (Table 10.11). -/
def rwMask (r : RegName) (i : Nat) : Nat :=
  match (regRow r).kind with
  | .rw m => if r == .shpDrrCfg && i != 0 then 0xFFFFFFFF else m
  | _ => 0

/-- The value of an RW register after a write of `v` under the byte lanes `lanes`. -/
def State.rwWord (s : State) (r : RegName) (i : Nat) (v lanes : W64) : W64 :=
  let m := w64 (rwMask r i) &&& lanes
  (s.reg r i &&& ~~~m) ||| (v &&& m)

/-- What a permitted write of PF0 does to register `r` at place `i`. -/
def State.pfEffect (s : State) (r : RegName) (i : Nat) (v lanes : W64) : State :=
  let off := regAddr r i 0
  match r with
  | .blockSnap => s.snapWrite .pf i v
  | .hifT3Base => s.pfWrite off v fun t => t.t3Write r (t.rwWord r i v lanes)
  | .hifT3SealBase => s.pfWrite off v fun t => t.t3Write r (t.rwWord r i v lanes)
  | .hifT3Cfg => s.pfWrite off v fun t => t.t3Write r (t.rwWord r i v lanes)
  | .hifT3Status =>
    s.pfWrite off v fun t =>
      if bit v 63 && !(tgetD t.stamps off 0).testBit 63 then { t with hif := { t.hif with t3Locked := false } } else t
  | .hifEventCause => s.pfWrite off v fun t => t.causeWrite v
  | .sysFaultStatus => s.pfWrite off v fun t => t.setReg r i 0 (t.w1cWord r i v)
  | .sysFaultLogPtr =>
    if bit lanes 0 then s.pfWrite off v fun t => t.tailWrite (bits v 10 0) else s
  | .sysHangReport => doSysHangReport v s
  | .shpQueueCfg => s.pfWrite off v fun t => t.policerWrite i r (t.rwWord r i v lanes)
  | .shpPolRate => s.pfWrite off v fun t => t.policerWrite i r (t.rwWord r i v lanes)
  | .shpPolBurst => s.pfWrite off v fun t => t.policerWrite i r (t.rwWord r i v lanes)
  | _ =>
    if hasSat r then s.pfWrite off v fun t => t.satWrite .pf r i v
    else if w64 (rwMask r i) &&& lanes = 0 then s
    else s.pfWrite off v fun t => t.setReg r i 0 (t.rwWord r i v lanes)

/-- A write of a virtual function in a view: BLOCK_SNAP and the SAT bits of counters that it reads; anything else is outside its
authority (R353, R398). DEDUCED, log entry 32. -/
def State.vfEffect (s : State) (p : Nat) (r : RegName) (i : Nat) (v : W64) : State :=
  if !s.sees (.vf p) r i then s.accessErr (.vf p)
  else if r == .blockSnap then s.snapWrite (.vf p) i v
  else if hasSat r then s.satWrite (.vf p) r i v
  else s.accessErr (.vf p)

/-- A ring's BASE or SIZE may change only while it is disabled; a changed value is counted once (R401). -/
def State.ringCount (s : State) (p : Nat) (changed : Bool) : State := if changed then s.accessErr (.vf p) else s

/-- A write to the ring page (Table 19.5): `v` merged over what the register held. -/
def State.ringWrite (s : State) (p off : Nat) (v lanes : W64) : State :=
  let x := s.vf p
  let merge := fun (old : Nat) => (((w64 old) &&& ~~~lanes) ||| (v &&& lanes))
  if off = 0x00 then
    let b := bits (merge x.sqBase) 63 12 * 4096
    if x.sqEnable then s.ringCount p (b != x.sqBase) else s.setVf p { x with sqBase := b }
  else if off = 0x08 then
    let w := merge (at' x.sqEnable.toNat 63 + x.sqSize)
    let size := bits w 4 0
    let t := if x.sqEnable then s.ringCount p (size != x.sqSize) else s.setVf p { x with sqSize := size }
    if bit w 63 && !x.sqEnable then doSqEnable p x.sqBase size t
    else if !bit w 63 && x.sqEnable then doSqDisable p t
    else t
  else if off = 0x20 then
    let b := bits (merge x.cqBase) 63 12 * 4096
    if x.cqEnable then s.ringCount p (b != x.cqBase) else s.setVf p { x with cqBase := b }
  else if off = 0x28 then
    let w := merge (at' x.cqEnable.toNat 63 + at' x.coalCount 48 + at' x.coalUs 32 + x.cqSize)
    let size := bits w 4 0
    let x := { x with coalCount := bits w 55 48, coalUs := bits w 47 32 }
    let t := if x.cqEnable then (s.setVf p x).ringCount p (size != x.cqSize) else s.setVf p { x with cqSize := size }
    if bit w 63 && !x.cqEnable then doCqEnable p x.cqBase size t
    else if !bit w 63 && x.cqEnable then doCqDisable p t
    else t
  else if off = 0x1000 then doSqDoorbell p (bits v 15 0) s
  else if off = 0x1008 then doCqDoorbell p (bits v 15 0) s
  else s

/-- The byte lanes that an access covers, and its value moved into them. -/
def lanesOf (off width : Nat) : W64 :=
  if width = 8 then 0xFFFFFFFFFFFFFFFF else if off % 8 = 0 then 0x00000000FFFFFFFF else 0xFFFFFFFF00000000
def laneValue (off width : Nat) (v : W64) : W64 := if width = 8 || off % 8 = 0 then v else v <<< 32

/-- A register write of a function. In the safe state every write is ignored (R346). -/
def State.regWrite (s : State) (fn : Fn) (off width : Nat) (v : W64) : State :=
  if !s.answers fn then s.noAnswer
  else if !accessOk fn off width then s.accessErr fn
  else if s.flt.safe then s
  else
    let lanes := lanesOf off width
    let v := laneValue off width v
    let at0 := off / 8 * 8
    match fn, resolve fn at0 with
    | .pf, some (r, i, j) => if (regRow r).n2 = 1 || j = 0 then s.pfEffect r i v lanes else s
    | .pf, none => s
    | .vf p, some (r, i, _) => s.vfEffect p r i v
    | .vf p, none => if at0 < 0x100000 then s.ringWrite p at0 v lanes else s

/-- REGISTER_WRITE. -/
def doRegisterWrite (fn : Fn) (off width : Nat) (v : W64) (s : State) : State := s.regWrite fn off width v

/-- Device-page offset of a register as a function reaches it. -/
def reachAt (fn : Fn) (a : Nat) : Nat :=
  match fn with
  | .pf => a
  | .vf _ => 0x100000 + a / 0x1000000 * 0x100000 + a % 0x1000000

/-- SNAP_TAKE: TAKE is written 1, and VIEW as it stands. -/
def doSnapTake (fn : Fn) (block : BlockNum) (s : State) : State :=
  if block ≥ 12 then s
  else
    let view := tgetD s.hif.snapView (bankOf fn block) false
    s.regWrite fn (reachAt fn (regAddr .blockSnap block 0)) 8 (w64 (at' 1 63 + at' view.toNat 62))

/-- SAT_CLEAR: ones are written to SAT bits. -/
def doSatClear (fn : Fn) (off : Nat) (bits : W64) (s : State) : State :=
  match resolve fn off with
  | some (r, _, _) => if hasSat r then s.regWrite fn off 8 bits else s
  | none => s

/-- POLICER_WRITE: PF0 writes SHP_POL_RATE, SHP_POL_BURST or SHP_QUEUE_CFG of queue q. -/
def doPolicerWrite (q which : Nat) (v : W64) (s : State) : State :=
  let r := match which with
    | 0 => RegName.shpPolRate
    | 1 => .shpPolBurst
    | _ => .shpQueueCfg
  if q < Config.serviceQueues then s.regWrite .pf (regAddr r q 0) 8 v else s

/-! ## Reads (R6, R9) -/

/-- A register as a function reads it: its bank where VIEW is 1 (R397); what the function may not read is zero. -/
def State.readReg (s : State) (fn : Fn) (r : RegName) (i j : Nat) : W64 :=
  let w := regRow r
  if r == .blockSnap then s.snapWord fn i
  else if !s.sees fn r i then 0
  else if isCounter r && tgetD s.hif.snapView (bankOf fn w.block) false then
    tgetD (tgetD s.hif.banks (bankOf fn w.block) []) (regAddr r i j) 0
  else if r == .sysAccessErr then s.accessErrWord fn
  else if r == .sysHangReport then 0
  else w64 (s.calcReg r i j)

/-- A register of the ring page. -/
def Vf.ringWord (x : Vf) (off : Nat) : W64 :=
  w64 (if off = 0x00 then x.sqBase
    else if off = 0x08 then at' x.sqEnable.toNat 63 + x.sqSize
    else if off = 0x10 then x.sqHead
    else if off = 0x20 then x.cqBase
    else if off = 0x28 then at' x.cqEnable.toNat 63 + at' x.coalCount 48 + at' x.coalUs 32 + x.cqSize
    else if off = 0x30 then x.csnNext
    else 0)

/-- What a permitted 64-bit read returns. In the safe state only the SYS block of PF0 can be read (R346). -/
def State.readAt (s : State) (fn : Fn) (off : Nat) : W64 :=
  match fn, resolve fn off with
  | .pf, some (r, i, j) => if s.flt.safe && (regRow r).block != 11 then 0 else s.readReg .pf r i j
  | .pf, none => if s.flt.safe && off / 0x1000000 != 11 then 0 else s.diagRead off
  | .vf p, some (r, i, j) => if s.flt.safe then 0 else s.readReg (.vf p) r i j
  | .vf p, none => if s.flt.safe || off ≥ 0x100000 then 0 else (s.vf p).ringWord off

/-- What an access of `width` bytes takes of a register's value: all of it, or the half that it names. -/
def halfWord (off width : Nat) (w : W64) : W64 :=
  if width = 8 then w else if off % 8 = 0 then w &&& 0xFFFFFFFF else w >>> 32

/-- RC_READ: a read of `width` bytes; what R8 does not permit returns zero and is counted. PF0's read of SYS_PWR_STATUS clears PEAK_W,
its RC field, and an event of the same instant is the first thing counted after; in a view the register is RO (R392, R398). -/
def doRcRead (fn : Fn) (off width : Nat) (s : State) : State :=
  if !s.answers fn then s.noAnswer
  else if !accessOk fn off width then (s.accessErr fn).emit (.regRead fn 0)
  else
    let t := s.emit (.regRead fn (halfWord off width (s.readAt fn (off / 8 * 8))))
    match fn, resolve fn off with
    | .pf, some (.sysPwrStatus, _, _) => { t with pwr := { t.pwr with peakW := 0 } }
    | _, _ => t

/-! ## Function resets and D3hot (R391, R395) -/

/-- A function's banked registers are cleared (R397). -/
def State.clearBanks (s : State) (fn : Fn) : State :=
  let mine := fun (k : Nat) => k / 12 == fnNum fn
  { s with hif := { s.hif with
    banks := tfilter (fun k _ => !mine k) s.hif.banks, snapSeq := tfilter (fun k _ => !mine k) s.hif.snapSeq,
    snapView := tfilter (fun k _ => !mine k) s.hif.snapView, accessErr := tdel s.hif.accessErr (fnNum fn) } }

/-- VF_FLR: both rings are disabled, MSI-X state and banks cleared, the TDI unlocked; sessions, keys and verbs stand. -/
def doVfFlr (p : Nat) (s : State) : State :=
  if !s.pwr.pwrok || !s.hif.linkUp || p ≥ Config.partitions || !(s.vf p).enabled then s
  else
    let v := s.vf p
    let t := s.setVf p { v with
      sqEnable := false, cqEnable := false, sqHead := if v.sqEnable then v.sqRead else v.sqHead,
      sqSlots := if v.sqEnable then [] else v.sqSlots, msix := [], unsignalled := 0, d3hot := false, tdi := .unlocked, tdiStream := 0 }
    let t := if v.sqEnable then t.setVerbs p ((t.verbs p).map fun x => { x with slot := none }) else t
    t.clearBanks (.vf p)

/-- PF_FLR: MSI-X state, HIF_EVENT_MASK and PF0's banks; no partition is affected. -/
def doPfFlr (s : State) : State :=
  if !s.pwr.pwrok || !s.hif.linkUp then s
  else
    let t : State := { s with hif := { s.hif with pfMsix := [], pfD3hot := false } }
    (t.setReg .hifEventMask 0 0 (regReset .hifEventMask 0)).clearBanks .pf

/-- D3HOT_ENTRY: the device's ring reads and DMA for the function stop. -/
def doD3hotEntry (fn : Fn) (s : State) : State :=
  if !s.pwr.pwrok || !s.hif.linkUp then s
  else match fn with
    | .pf => { s with hif := { s.hif with pfD3hot := true } }
    | .vf p => if p < Config.partitions && (s.vf p).enabled then s.setVf p { s.vf p with d3hot := true } else s

/-! ## Configuration requests (R366, R384, R391, R394) -/

/-- VF Enable of the SR-IOV capability: every virtual function, or none. Functions that go are as after their reset. -/
def State.setVfs (s : State) (on : Bool) : State :=
  (List.range Config.partitions).foldl (fun (t : State) p =>
    if on then t.setVf p { t.vf p with enabled := true }
    else if (t.vf p).enabled then
      let u := doVfFlr p t
      u.setVf p { u.vf p with enabled := false }
    else t) s

/-- What configuration space holds (Table 19.1, R393, R394). -/
def cfgValue : CfgField → Nat
  | .vendorId => Config.vendorId.toNat
  | .deviceId .pf => 0x9600
  | .deviceId (.vf _) => 0x9601
  | .classCode => 0x120000
  | .bar0Bytes .pf => 256 * 1048576
  | .bar0Bytes (.vf _) => 16 * 1048576
  | .bar2Bytes => 65536
  | .msixVectors => 8
  | .msixTable => 0
  | .msixPba => 0x8000
  | .totalVfs => 16
  | .initialVfs => 16
  | .firstVfOffset => 1
  | .vfStride => 1
  | .systemPage => 4096

/-- What a configuration request does once configuration space is ready. -/
def State.configure (s : State) (r : CfgReq) : State :=
  match r with
  | .read => s
  | .field f => s.emit (.cfgValue (cfgValue f))
  | .vfEnable on => s.setVfs on
  | .returnD0 .pf => { s with hif := { s.hif with pfD3hot := false } }
  | .returnD0 (.vf p) => if p < Config.partitions then s.setVf p { s.vf p with d3hot := false } else s
  | .vfConfigChange p =>
    let v := s.vf p
    if p < Config.partitions && (v.tdi == .locked || v.tdi == .run) then s.setVf p { v with tdi := .error } else s
  | .aerSeverity fatal => { s with hif := { s.hif with aerFatal := fatal } }

/-- CONFIGURATION_REQUEST: Request Retry Status until configuration space is ready, then success. -/
def doConfigurationRequest (r : CfgReq) (s : State) : State :=
  if !s.pwr.pwrok || s.hif.perst || !s.hif.linkUp then s
  else
    let t := s.settleConfig
    if !t.hif.cfgReady then t.emit .cfgRetry else (t.configure r).emit .cfgDone

/-! ## The commands of this file -/

/-- POLICER_WRITE (R215). -/
def execPolicerWrite (q which : Nat) (v : W64) (s : State) : Host.Outcome State Fault Refusal :=
  .next (doPolicerWrite q which v s)

/-- SNAP_TAKE (R13). -/
def execSnapTake (fn : Fn) (block : BlockNum) (s : State) : Host.Outcome State Fault Refusal :=
  .next (doSnapTake fn block s)

/-- SAT_CLEAR (R12). -/
def execSatClear (fn : Fn) (off : Nat) (bits : W64) (s : State) : Host.Outcome State Fault Refusal :=
  .next (doSatClear fn off bits s)

/-- RC_READ (R6). -/
def execRcRead (fn : Fn) (r : RegRead) (s : State) : Host.Outcome State Fault Refusal :=
  .next (doRcRead fn r.off r.width s)

/-- REGISTER_WRITE (R6). -/
def execRegisterWrite (fn : Fn) (off width : Nat) (v : W64) (s : State) : Host.Outcome State Fault Refusal :=
  .next (doRegisterWrite fn off width v s)

/-- VF_FLR (R395). -/
def execVfFlr (p : Nat) (s : State) : Host.Outcome State Fault Refusal :=
  .next (doVfFlr p s)

/-- PF_FLR (R395). -/
def execPfFlr (s : State) : Host.Outcome State Fault Refusal :=
  .next (doPfFlr s)

/-- D3HOT_ENTRY (R391). -/
def execD3hotEntry (fn : Fn) (s : State) : Host.Outcome State Fault Refusal :=
  .next (doD3hotEntry fn s)

/-- CONFIGURATION_REQUEST (R384). -/
def execConfigurationRequest (r : CfgReq) (s : State) : Host.Outcome State Fault Refusal :=
  .next (doConfigurationRequest r s)

end Machine
end Sys2Proof
end

