-- ==== Sys2Proof/Machine/Replies.lean ====
section
/-!
DEFINITION. Sys2Proof/Machine/Replies.lean: response frames at their initiator (R157, R250, R252): the frame is matched
with its request, and once every frame of the request has been answered, whoever asked goes on.
-/
namespace Sys2Proof
namespace Machine

/-- The error that a code of Table 12.6 names; a code outside the table counts as ACCESS. -/
def fabErrOf (n : Nat) : FabErr :=
  match n with
  | 0 => .none
  | 2 => .noRoute
  | 3 => .fenced
  | 4 => .poison
  | 5 => .busy
  | 6 => .stale
  | 7 => .hopLimit
  | _ => .access

/-- The request of this device that a response is for, while the frame it answers has not been answered. -/
def State.requestOf (s : State) (f : Frame) : Option Request :=
  s.fab.requests.find? fun r => r.tag == f.tag && r.dst == f.src &&
    (if f.type == tyShardRsp then !r.data.any fun e => e.1 == f.index else r.frames.any fun g => g.index == f.index)

/-- Every shard record has come: the frames stand from 0 on, and the last one is not full. -/
def shardAnswered (r : Request) : Bool :=
  let len := fun i => (r.data.find? fun e => e.1 == i).map fun e => e.2.length / 20
  match (List.range r.data.length).find? fun i => (match len i with | some n => n < hitsPerFrame | none => true) with
  | some i => (List.range (i + 1)).all fun k => (len k).isSome
  | none => false

/-- Whoever asked goes on. -/
def State.dispatchReply (s : State) (r : Request) : State :=
  match r.asker with
  | .engine e slot tag => s.engineReply r e slot tag
  | .send d => s.sendReply d r
  | .claim p v => s.claimReply p v r
  | .shard p v k => s.shardReply p v k r

/-- A request with one frame answered: the frame leaves it, and the data or the first error is kept. -/
def answered (r : Request) (f : Frame) (data : List (Nat × Bytes)) : Request :=
  { r with frames := if f.type = tyShardRsp then r.frames else r.frames.filter (fun g => g.index != f.index),
           data := r.data ++ (if f.type = tyReadRsp then data.map fun e => (e.1, e.2.take (r.total - 2048 * e.1)) else data),
           err := if f.type = tyErrorRsp && r.err == .none then fabErrOf f.error else r.err }

/-- The request is over: every frame answered; a sharded one by its last records or by an error. -/
def Request.ended (r : Request) : Bool :=
  match r.asker with
  | .shard _ _ _ => shardAnswered r || r.err != .none
  | _ => r.frames.isEmpty && r.unsent.isEmpty

/-- A response is taken. `types` are those of the requests that it can answer. -/
def State.takeResponse (s : State) (f : Frame) (type : Nat) (data : List (Nat × Bytes)) : State :=
  match s.takeInbox f with
  | none => s
  | some t =>
    if f.type != type then s
    else
      let t := if f.type = tyErrorRsp then t.countSat .fabPartErr f.dst.2 else t
      match t.requestOf f with
      | none => t
      | some r =>
        let r := answered r f data
        if r.ended then
          let t := { t with fab := { t.fab with requests := t.fab.requests.filter fun x => x.tag != r.tag } }
          (t.pump r.dst.1 4096).dispatchReply r
        else
          { t with fab := { t.fab with requests := lmod (fun (x : Request) => x.tag == r.tag) (fun _ => r) t.fab.requests }
            }.pump r.dst.1 4096

/-- READ_RSP: the bytes land once every frame has come. -/
def doReadRsp (f : Frame) (s : State) : State := s.takeResponse f tyReadRsp [(f.index, f.payload)]

/-- WRITE_ACK. -/
def doWriteAck (f : Frame) (s : State) : State := s.takeResponse f tyWriteAck []

/-- CAS_RSP: the value found; bit 0 of ERROR says that the swap took place. -/
def doCasRsp (f : Frame) (s : State) : State :=
  s.takeResponse f tyCasRsp ((0, f.payload) :: if f.error % 2 = 1 then [(1, [])] else [])

/-- SHARD_RSP. -/
def doShardRsp (f : Frame) (s : State) : State := s.takeResponse f tyShardRsp [(f.index, f.payload)]

/-- ERROR_RSP. -/
def doErrorRsp (f : Frame) (s : State) : State := s.takeResponse f tyErrorRsp []

/-! ## The commands of this file -/

/-- READ_RSP (R156). -/
def execReadRsp (f : Frame) (s : State) : Host.Outcome State Fault Refusal :=
  .next (doReadRsp f s)

/-- WRITE_ACK (R250). -/
def execWriteAck (f : Frame) (s : State) : Host.Outcome State Fault Refusal :=
  .next (doWriteAck f s)

/-- CAS_RSP (R251). -/
def execCasRsp (f : Frame) (s : State) : Host.Outcome State Fault Refusal :=
  .next (doCasRsp f s)

/-- SHARD_RSP (R205). -/
def execShardRsp (f : Frame) (s : State) : Host.Outcome State Fault Refusal :=
  .next (doShardRsp f s)

/-- ERROR_RSP (R157). -/
def execErrorRsp (f : Frame) (s : State) : Host.Outcome State Fault Refusal :=
  .next (doErrorRsp f s)

end Machine
end Sys2Proof
end

