-- ==== Sys2Proof/Machine/Restore.lean ====
section
/-!
DEFINITION. Sys2Proof/Machine/Restore.lean: restoring a checkpoint (R321 to R323).
-/
namespace Sys2Proof

namespace Config
/-- FREE VALUE. What a member that did not make the checkpoint itself finds in its restored shards, as a function of SEQ and of
the bytes of its rows: the shards are sealed under CK, whose opening by AES is not computed here (R315, R322).
DEDUCED, log entry 28. -/
opaque restored : Nat → List Bytes → Machine.Capture
end Config

namespace Machine

/-! ## The colophon and the members (R321) -/

/-- Colophons with a valid tag that a member of the group on this device holds, and those that others sent, with the member. -/
def State.colophons (s : State) (g : CkptGroup) (seen : List (Nat × Colophon)) : List (Nat × Colophon) :=
  let own := (s.localMembers g).flatMap fun p => (s.ckpOf p).slots.map fun e => (s.memberNo g p, e.2)
  (own ++ seen).filter fun e => e.2.valid && e.2.group == g.group

/-- The colophon asked for, or the one with the highest SEQ (0 asks for that). -/
def pickColophon (seq : Nat) (l : List (Nat × Colophon)) : Option Colophon :=
  l.foldl (fun a e =>
    if seq != 0 && e.2.seq != seq then a
    else match a with
      | none => some e.2
      | some c => if c.seq < e.2.seq then some e.2 else a) none

/-- Members that cannot supply their units: not reachable, or without the colophon. -/
def State.lostMembers (s : State) (g : CkptGroup) (l : List (Nat × Colophon)) (c : Colophon) : List Nat :=
  let gone := s.unreachable g
  (List.range g.members.length).filter fun m => gone.contains m || !l.any fun e => e.1 == m && e.2.seq == c.seq

/-- The group's shape as this device sees it: N, the members, and of those on this device program digest, folio geometry, KV
format and object mode. -/
def State.shapeOk (s : State) (g : CkptGroup) (c : Colophon) : Bool :=
  c.n == g.members.length && c.members.map (fun m => (m.1, m.2.1)) == g.members &&
  (s.localMembers g).all fun p =>
    let m := s.memberNo g p
    (match c.members[m]? with | some x => x.2.2.2 == (s.partImage p).prog.digest | none => false) &&
    c.shape[m]? == some (s.tokensPer p, s.layersPer p, s.kvFmt p, s.objectMode p)

/-- A member on this device is empty, idle and keyed. -/
def State.memberReady (s : State) (p : Nat) : Bool :=
  !s.recordInUse p && (s.ckpOf p).phase == 0 && (s.keysOf p).ck.isSome

/-- CKPT_RESTORE. DEDUCED, log entry 28. -/
def doCkptRestore (p vid : Nat) (others : Bool) (seen : List (Nat × Colophon)) (s : State) : State :=
  match s.begun? p vid .ckptRestore with
  | none => s
  | some v =>
    match s.group? p with
    | none => s.complete p vid .badState
    | some g =>
      let l := s.colophons g seen
      if s.memberNo g p != 0 || !others || !(s.localMembers g).all s.memberReady then s.complete p vid .badState
      else
        match pickColophon (v.f 0x20 8) l with
        | none => s.complete p vid .tierFailed
        | some c =>
          let lost := s.lostMembers g l c
          if !s.shapeOk g c then s.complete p vid .badState
          else if lost.length > 2 then s.complete p vid .tierFailed
          else
            let chains := (List.range c.rows).flatMap fun r => lost.map fun m => (r, m)
            let t := (s.runVerb p vid).modCkp p fun k =>
              { k with phase := 4, run := c.seq, tc := c.tc, verb := some vid, lost := lost, chains := chains }
            (List.range g.members.length).foldl (fun (t : State) m => if m = 0 then t else t.tellMember p m (.restore c.seq)) t

/-! ## Installing the captured state (R323) -/

/-- One captured folio: T1 while the share has room, otherwise T4, then T3, sealed anew (R299). -/
def State.restoreFolio (s : State) (p : Nat) (f : Folio) : Option (Nat × State) :=
  let put := fun (t : State) (i tier loc : Nat) => t.modFolio i fun x =>
    { f with tier := tier, loc := loc, gen := x.gen, refcnt := 0, pin := 0, demoting := false, promoting := false, inPrefix := false,
             zombie := false, copied := false, lost := false, heatTime := s.now, t0Loc := 0, target := 0, targetLoc := 0 }
  if s.t1Room p 1 then
    match s.allocFolio p f.kind f.fmt f.layer f.handle with
    | some (i, t) => some (i, put t i 1 0)
    | none => none
  else
    match s.allocFirst p [4, 3] with
    | none => none
    | some (tier, loc, t) =>
      match t.allocFolio p f.kind f.fmt f.layer f.handle with
      | some (i, t) =>
        let (n, t) := t.drawn
        let t := (put t i tier loc).modFolPart p fun x => { x with t1Use := x.t1Use - 1 }
        let t := t.modFolio i fun x => { x with nonce := n, tag := t.sealTag f n }
        let t := t.countWrite p tier
        some (i, if tier = 3 then t.writeT3 (t.demoted f n) loc false else t)
      | none => none

/-- Captured folios in ascending descriptor order; the map from old descriptors to new ones. -/
def State.restoreFolios (s : State) (p : Nat) : List (Nat × Folio) → Tab Nat → Option (Tab Nat × State)
  | [], m => some (m, s)
  | (i, f) :: r, m =>
    match s.restoreFolio p f with
    | none => none
    | some (k, t) => t.restoreFolios p r (tput m i k)

/-- Parked quires go to T4, then T3; seals, park identifiers and ordinals are kept. -/
def State.restoreQuires (s : State) (p : Nat) : List (Nat × Session) → Option State
  | [] => some s
  | (d, x) :: r =>
    match x.quire with
    | none => s.restoreQuires p r
    | some q =>
      match s.allocQuireTier p q.folios.length [4, 3] with
      | none => none
      | some (tier, locs, t) =>
        let q' := { q with tier := tier, uncopied := false, woken := false,
                           folios := (locs.zip q.folios).map fun e => { e.2 with loc := e.1 } }
        let t := (t.writeQuire p tier q'.folios).modSession d fun y => { y with quire := some q' }
        let t := t.setRec d { t.recOf d with tier := tier, flyleafLoc := locs.headD 0 }
        t.restoreQuires p r

/-- Entries of a resident session name the new descriptors. -/
def restoreSpan (s : State) (m : Tab Nat) (x : Span) : Span :=
  { x with entries := x.entries.map fun e =>
      let i := tgetD m e.ref 0
      { e with ref := i, dgen := (match s.folio? i with | some f => f.gen | none => 0) } }

/-- Resident sessions: descriptors, references, Spine entries and the page-table share. -/
def State.restoreSessions (s : State) (p : Nat) (m : Tab Nat) : List (Nat × Session) → Option State
  | [] => some s
  | (d, x) :: r =>
    if x.quire.isSome then s.restoreSessions p m r
    else
      let old := s
      let fly := match x.flyleaf with | some i => tget m i | none => none
      let t := s.modSession d fun y => { y with
        flyleaf := fly, ptFolios := x.ptFolios.map fun i => tgetD m i 0,
        seqs := tmap (fun _ (q : Seq) => { q with spans := q.spans.map (restoreSpan old m) }) y.seqs }
      match t.session? d with
      | none => none
      | some y =>
        let t := ((t.addRefs y.allRefs).addRefs fly.toList).addRefs y.ptFolios
        let t := t.setRec d { t.recOf d with flyleafLoc := fly.getD 0 }
        (t.addPt p (y.liveSeqs.map Seq.entryCount).sum).restoreSessions p m r

/-- The restored sequences that hold a Spine entry (Table 2.2), as (sequence, directory index): those of resident sessions, the
expired ones left out. -/
def spineSeqs (l : List (Nat × Session)) : List (Nat × Nat) :=
  l.flatMap fun e => if e.2.quire.isSome then []
    else (e.2.liveSeqs.filter fun q => q.state != .expired).map fun q => (q.num, e.1)

/-- A pair into a list that rises by its first parts, behind those of the same first part. -/
def byFirst (a : Nat × Nat) : List (Nat × Nat) → List (Nat × Nat)
  | [] => [a]
  | b :: r => if a.1 < b.1 then a :: b :: r else b :: byFirst a r

/-- Spine entries for all sequences restored in this instant, in ascending sequence number (R422); among sequences of one number, in
ascending directory index. DESIGN CHOICE, log entry 28. -/
def State.restoreSpines (s : State) (p : Nat) : List (Nat × Nat) → Option State
  | [] => some s
  | (n, d) :: r =>
    match s.freeSpine p with
    | none => none
    | some i => (s.giveSpine d n i).restoreSpines p r

/-- A record's held notices wait again, held in it (R56, R406). -/
def State.restoreNotices (s : State) (p d : Nat) (r : DirRec) : State :=
  let h := match s.session? d with | some x => x.handle | none => 0
  let l := r.held.map fun st => ({ record := { handle := h, status := st }, notice := some d, inDir := true } : Waiting)
  s.setVf p { s.vf p with waiting := (s.vf p).waiting ++ l }

/-- A member's state becomes what it captured. None: its tiers cannot hold it. DEDUCED, log entry 28. -/
def State.install (s : State) (p : Nat) (k : Capture) : Option State :=
  let t := k.dir.foldl (fun (t : State) e => t.setRec e.1 { e.2 with held := [] }) s
  let t := t.setDirFree p k.free
  let t := k.sessions.foldl (fun (t : State) e => t.setSession e.1 { e.2 with part := p }) t
  match t.restoreFolios p k.folios [] with
  | none => none
  | some (m, t) =>
    match (t.restoreSessions p m k.sessions).bind fun u =>
      u.restoreSpines p ((spineSeqs k.sessions).foldl (fun l a => byFirst a l) []) with
    | none => none
    | some t =>
      match t.restoreQuires p k.sessions with
      | none => none
      | some t =>
        let t := match k.program with | some g => t.loadProgram p g | none => t
        let t := t.setTxtPart p { grammars := tmap (fun _ (g : Grammar) => { g with dropping := false }) k.grammars }
        let t := k.dir.foldl (fun (t : State) e => t.restoreNotices p e.1 e.2) t
        some (t.expireDue p)

/-- What member p restores: its own capture, or what its rows hold. -/
def State.captureOf (s : State) (p : Nat) : Capture :=
  let k := s.ckpOf p
  match tget k.stored k.run with
  | some c => c
  | none => Config.restored k.run (k.rows.map fun e => e.2.data)

/-- The members that were rebuilt, as this device knows them. -/
def State.rebuilt (s : State) (p : Nat) : Nat :=
  match s.group? p with
  | none => 0
  | some g => (((s.localMembers g).find? fun q => s.memberNo g q == 0).map fun q => (s.ckpOf q).lost.length).getD 0

/-- CKPT_RESTORE_DONE: a member's shards are all restored, or (`ok` false) a row had more than two erasures. The coordinator's
verb completes once the other members on this device have restored. -/
def doCkptRestoreDone (p : Nat) (ok : Bool) (s : State) : State :=
  let k := s.ckpOf p
  if !s.live || k.phase != 4 then s
  else if !ok then s.abortCkpt p .tierFailed
  else
    let n := s.rebuilt p
    let mates := match s.group? p with | some g => (s.localMembers g).filter (· != p) | none => []
    if !k.chains.isEmpty || (k.verb.isSome && mates.any fun q => (s.ckpOf q).phase == 4) then s
    else
      match s.install p (s.captureOf p) with
      | none => s.abortCkpt p .tierFailed
      | some t =>
        let t := t.modCkp p fun c => { c with phase := 0, lastStatus := .ok, seq := k.run, verb := none, lost := [], chains := [],
                                              degraded := n != 0 }
        match k.verb with
        | some v => t.complete p v .ok 0 [(0x20, 8, k.run), (0x40, 2, n)]
        | none => t

/-! ## The commands of this file -/

/-- CKPT_RESTORE (R321). -/
def execCkptRestore (p vid : Nat) (others : Bool) (seen : List (Nat × Colophon)) (s : State) : Host.Outcome State Fault Refusal :=
  .next (doCkptRestore p vid others seen s)

/-- CKPT_RESTORE_DONE (R323). -/
def execCkptRestoreDone (p : Nat) (ok : Bool) (s : State) : Host.Outcome State Fault Refusal :=
  .next (doCkptRestoreDone p ok s)

end Machine
end Sys2Proof
end

