-- ==== Sys2Proof/Machine/Dispatch.lean ====
section
/-!
DEFINITION. Sys2Proof/Machine/Dispatch.lean: one arm for each command, each one call of its meaning.
-/
namespace Sys2Proof
namespace Machine

def exec (i : Instr) (s : State) : Host.Outcome State Fault Refusal :=
  match i with
  | .sqDoorbell p tail => Sys2Proof.Machine.execSqDoorbell p tail s
  | .cqDoorbell p head => Sys2Proof.Machine.execCqDoorbell p head s
  | .sqEnable p base log2 => Sys2Proof.Machine.execSqEnable p base log2 s
  | .sqDisable p => Sys2Proof.Machine.execSqDisable p s
  | .cqEnable p base log2 => Sys2Proof.Machine.execCqEnable p base log2 s
  | .cqDisable p => Sys2Proof.Machine.execCqDisable p s
  | .sqEntryRead p data edits => Sys2Proof.Machine.execSqEntryRead p data edits s
  | .deferredAdmit p q => Sys2Proof.Machine.execDeferredAdmit p q s
  | .policerWrite q which v => Sys2Proof.Machine.execPolicerWrite q which v s
  | .verbBegin p vid => Sys2Proof.Machine.execVerbBegin p vid s
  | .openSession p vid => Sys2Proof.Machine.execOpenSession p vid s
  | .append p vid data => Sys2Proof.Machine.execAppend p vid data s
  | .stepGen p vid stops => Sys2Proof.Machine.execStepGen p vid stops s
  | .stepStop p vid => Sys2Proof.Machine.execStepStop p vid s
  | .park p vid => Sys2Proof.Machine.execPark p vid s
  | .revive p vid => Sys2Proof.Machine.execRevive p vid s
  | .fork p vid => Sys2Proof.Machine.execFork p vid s
  | .splice p vid inputs => Sys2Proof.Machine.execSplice p vid inputs s
  | .close p vid => Sys2Proof.Machine.execClose p vid s
  | .place p vid => Sys2Proof.Machine.execPlace p vid s
  | .grammarLoad p vid => Sys2Proof.Machine.execGrammarLoad p vid s
  | .grammarDrop p vid => Sys2Proof.Machine.execGrammarDrop p vid s
  | .grammarDropEffect p gid => Sys2Proof.Machine.execGrammarDropEffect p gid s
  | .indexLoad p l => Sys2Proof.Machine.execIndexLoad p l s
  | .indexSwitch p vid img => Sys2Proof.Machine.execIndexSwitch p vid img s
  | .query p vid vec => Sys2Proof.Machine.execQuery p vid vec s
  | .queryDone p vid t4Ok pipe => Sys2Proof.Machine.execQueryDone p vid t4Ok pipe s
  | .mergeDeadlineExpire p vid => Sys2Proof.Machine.execMergeDeadlineExpire p vid s
  | .generationRelease p idx gen => Sys2Proof.Machine.execGenerationRelease p idx gen s
  | .delete p vid nodes => Sys2Proof.Machine.execDelete p vid nodes s
  | .indexDrop p vid => Sys2Proof.Machine.execIndexDrop p vid s
  | .programLoad p vid => Sys2Proof.Machine.execProgramLoad p vid s
  | .programFetch p prog => Sys2Proof.Machine.execProgramFetch p prog s
  | .handoffSend p vid => Sys2Proof.Machine.execHandoffSend p vid s
  | .handoffClaim p vid => Sys2Proof.Machine.execHandoffClaim p vid s
  | .handoffPoll dir => Sys2Proof.Machine.execHandoffPoll dir s
  | .handoffReclaim dir => Sys2Proof.Machine.execHandoffReclaim dir s
  | .recordRetry dir => Sys2Proof.Machine.execRecordRetry dir s
  | .ckptTake p vid others => Sys2Proof.Machine.execCkptTake p vid others s
  | .ckptRequest p seq tc => Sys2Proof.Machine.execCkptRequest p seq tc s
  | .consistencyPoint p => Sys2Proof.Machine.execConsistencyPoint p s
  | .ckptCommit p ok => Sys2Proof.Machine.execCkptCommit p ok s
  | .ckptRestore p vid others seen => Sys2Proof.Machine.execCkptRestore p vid others seen s
  | .ckptRestoreDone p ok => Sys2Proof.Machine.execCkptRestoreDone p ok s
  | .selection p => Sys2Proof.Machine.execSelection p s
  | .gatheringRelease p => Sys2Proof.Machine.execGatheringRelease p s
  | .maskReady p entry node => Sys2Proof.Machine.execMaskReady p entry node s
  | .stepBoundary p => Sys2Proof.Machine.execStepBoundary p s
  | .taskProduct e => Sys2Proof.Machine.execTaskProduct e s
  | .taskVector e => Sys2Proof.Machine.execTaskVector e s
  | .taskAttention e => Sys2Proof.Machine.execTaskAttention e s
  | .taskSample e => Sys2Proof.Machine.execTaskSample e s
  | .taskMove e => Sys2Proof.Machine.execTaskMove e s
  | .issueRead e => Sys2Proof.Machine.execIssueRead e s
  | .issueWrite e => Sys2Proof.Machine.execIssueWrite e s
  | .await e => Sys2Proof.Machine.execAwait e s
  | .barrier e => Sys2Proof.Machine.execBarrier e s
  | .endStream e => Sys2Proof.Machine.execEndStream e s
  | .budgetFault e unit => Sys2Proof.Machine.execBudgetFault e unit s
  | .contextSwitchDone e => Sys2Proof.Machine.execContextSwitchDone e s
  | .awaitSwitchTimeout e target => Sys2Proof.Machine.execAwaitSwitchTimeout e target s
  | .stepSliceExpire e => Sys2Proof.Machine.execStepSliceExpire e s
  | .promotionCommit d => Sys2Proof.Machine.execPromotionCommit d s
  | .demotionCommit d => Sys2Proof.Machine.execDemotionCommit d s
  | .eagerDemotion d => Sys2Proof.Machine.execEagerDemotion d s
  | .prefetchStart d => Sys2Proof.Machine.execPrefetchStart d s
  | .parkDone dir => Sys2Proof.Machine.execParkDone dir s
  | .reviveDone dir latNs ns => Sys2Proof.Machine.execReviveDone dir latNs ns s
  | .placeDone p vid => Sys2Proof.Machine.execPlaceDone p vid s
  | .tierFailure x tag => Sys2Proof.Machine.execTierFailure x tag s
  | .t3Timeout x => Sys2Proof.Machine.execT3Timeout x s
  | .wakeAheadStart dir => Sys2Proof.Machine.execWakeAheadStart dir s
  | .ttlExpire dir => Sys2Proof.Machine.execTtlExpire dir s
  | .pieceTokenized p vid read => Sys2Proof.Machine.execPieceTokenized p vid read s
  | .wheelTick => Sys2Proof.Machine.execWheelTick s
  | .histSample => Sys2Proof.Machine.execHistSample s
  | .portGrantEnd port => Sys2Proof.Machine.execPortGrantEnd port s
  | .scrubRead line corrected uncorrectable => Sys2Proof.Machine.execScrubRead line corrected uncorrectable s
  | .bindCommit img deadline => Sys2Proof.Machine.execBindCommit img deadline s
  | .drainDeadline => Sys2Proof.Machine.execDrainDeadline s
  | .compositionSwitch => Sys2Proof.Machine.execCompositionSwitch s
  | .keyEnroll hash newFloor => Sys2Proof.Machine.execKeyEnroll hash newFloor s
  | .floorSet v => Sys2Proof.Machine.execFloorSet v s
  | .fwFloorSet v => Sys2Proof.Machine.execFwFloorSet v s
  | .keyAuthSet p hash mctpOk => Sys2Proof.Machine.execKeyAuthSet p hash mctpOk s
  | .faultCfg source threshold windowS => Sys2Proof.Machine.execFaultCfg source threshold windowS s
  | .partReset p => Sys2Proof.Machine.execPartReset p s
  | .safeRestart => Sys2Proof.Machine.execSafeRestart s
  | .deviceReset => Sys2Proof.Machine.execDeviceReset s
  | .debugUnlock token => Sys2Proof.Machine.execDebugUnlock token s
  | .debugLock => Sys2Proof.Machine.execDebugLock s
  | .auditRead seq count => Sys2Proof.Machine.execAuditRead seq count s
  | .auditAck seq => Sys2Proof.Machine.execAuditAck seq s
  | .auditFlush => Sys2Proof.Machine.execAuditFlush s
  | .pkeySet m => Sys2Proof.Machine.execPkeySet m s
  | .poolKeySet m => Sys2Proof.Machine.execPoolKeySet m s
  | .ckSet m => Sys2Proof.Machine.execCkSet m s
  | .keyStatus m => Sys2Proof.Machine.execKeyStatus m s
  | .spdmRequest m blocks => Sys2Proof.Machine.execSpdmRequest m blocks s
  | .tdispRequest p m stream => Sys2Proof.Machine.execTdispRequest p m stream s
  | .ideKm stream on => Sys2Proof.Machine.execIdeKm stream on s
  | .sysHangReport v => Sys2Proof.Machine.execSysHangReport v s
  | .faultEvent src detail => Sys2Proof.Machine.execFaultEvent src detail s
  | .replayEnd p hit => Sys2Proof.Machine.execReplayEnd p hit s
  | .partitionDrainEnd p => Sys2Proof.Machine.execPartitionDrainEnd p s
  | .partResetDone p ok => Sys2Proof.Machine.execPartResetDone p ok s
  | .flitRx l flit => Sys2Proof.Machine.execFlitRx l flit s
  | .linkDown l => Sys2Proof.Machine.execLinkDown l s
  | .linkRetry l => Sys2Proof.Machine.execLinkRetry l s
  | .linkTrained l => Sys2Proof.Machine.execLinkTrained l s
  | .hello l m => Sys2Proof.Machine.execHello l m s
  | .auth l uid secret ok => Sys2Proof.Machine.execAuth l uid secret ok s
  | .lsa l m => Sys2Proof.Machine.execLsa l m s
  | .lsaAck l origin seq => Sys2Proof.Machine.execLsaAck l origin seq s
  | .lsaResend l origin => Sys2Proof.Machine.execLsaResend l origin s
  | .routeSwitch => Sys2Proof.Machine.execRouteSwitch s
  | .routeTableRetire => Sys2Proof.Machine.execRouteTableRetire s
  | .keyUpdate l phase => Sys2Proof.Machine.execKeyUpdate l phase s
  | .keyUpdateSend l => Sys2Proof.Machine.execKeyUpdateSend l s
  | .syncTimer => Sys2Proof.Machine.execSyncTimer s
  | .syncReq l t1 t2 => Sys2Proof.Machine.execSyncReq l t1 t2 s
  | .syncRsp l t1 t2 t3 t4 => Sys2Proof.Machine.execSyncRsp l t1 t2 t3 t4 s
  | .readReq f => Sys2Proof.Machine.execReadReq f s
  | .writeReq f => Sys2Proof.Machine.execWriteReq f s
  | .casReq f => Sys2Proof.Machine.execCasReq f s
  | .shardReq f => Sys2Proof.Machine.execShardReq f s
  | .readRsp f => Sys2Proof.Machine.execReadRsp f s
  | .writeAck f => Sys2Proof.Machine.execWriteAck f s
  | .casRsp f => Sys2Proof.Machine.execCasRsp f s
  | .shardRsp f => Sys2Proof.Machine.execShardRsp f s
  | .errorRsp f => Sys2Proof.Machine.execErrorRsp f s
  | .nandReadDone c unit worst retries ok => Sys2Proof.Machine.execNandReadDone c unit worst retries ok s
  | .nandProgramDone c unit block ok => Sys2Proof.Machine.execNandProgramDone c unit block ok s
  | .nandEraseDone c block ok => Sys2Proof.Machine.execNandEraseDone c block ok s
  | .relocationCommit c unit => Sys2Proof.Machine.execRelocationCommit c unit s
  | .gcStart c => Sys2Proof.Machine.execGcStart c s
  | .staticLevel c block => Sys2Proof.Machine.execStaticLevel c block s
  | .readRefresh c block => Sys2Proof.Machine.execReadRefresh c block s
  | .patrolRead c block worst => Sys2Proof.Machine.execPatrolRead c block worst s
  | .hifT3Write which v => Sys2Proof.Machine.execHifT3Write which v s
  | .cqRecordWrite p => Sys2Proof.Machine.execCqRecordWrite p s
  | .coalTimerExpire p => Sys2Proof.Machine.execCoalTimerExpire p s
  | .snapTake fn block => Sys2Proof.Machine.execSnapTake fn block s
  | .satClear fn off bits => Sys2Proof.Machine.execSatClear fn off bits s
  | .rcRead fn r => Sys2Proof.Machine.execRcRead fn r s
  | .registerWrite fn off width v => Sys2Proof.Machine.execRegisterWrite fn off width v s
  | .vfFlr p => Sys2Proof.Machine.execVfFlr p s
  | .pfFlr => Sys2Proof.Machine.execPfFlr s
  | .d3hotEntry fn => Sys2Proof.Machine.execD3hotEntry fn s
  | .perstAssert => Sys2Proof.Machine.execPerstAssert s
  | .perstDeassert => Sys2Proof.Machine.execPerstDeassert s
  | .pwrokAssert => Sys2Proof.Machine.execPwrokAssert s
  | .powerDown => Sys2Proof.Machine.execPowerDown s
  | .firmwareBoot slots => Sys2Proof.Machine.execFirmwareBoot slots s
  | .trainingDone r => Sys2Proof.Machine.execTrainingDone r s
  | .bringupFabricEnd => Sys2Proof.Machine.execBringupFabricEnd s
  | .pacerTick watts tj hbmMax => Sys2Proof.Machine.execPacerTick watts tj hbmMax s
  | .tempThreshold stack celsius => Sys2Proof.Machine.execTempThreshold stack celsius s
  | .thermtrip => Sys2Proof.Machine.execThermtrip s
  | .clockLoss domain => Sys2Proof.Machine.execClockLoss domain s
  | .rtcUpdate => Sys2Proof.Machine.execRtcUpdate s
  | .vbatLoss => Sys2Proof.Machine.execVbatLoss s
  | .drrRoundStart sch => Sys2Proof.Machine.execDrrRoundStart sch s
  | .testContextLoad e signed prog => Sys2Proof.Machine.execTestContextLoad e signed prog s
  | .jtagInstruction jt => Sys2Proof.Machine.execJtagInstruction jt s
  | .configurationRequest r => Sys2Proof.Machine.execConfigurationRequest r s
  | .grammarLoadDone p vid img => Sys2Proof.Machine.execGrammarLoadDone p vid img s
  | .programLoadDone p vid prog => Sys2Proof.Machine.execProgramLoadDone p vid prog s
  | .memoryInitDone macOk => Sys2Proof.Machine.execMemoryInitDone macOk s
  | .flashMapRebuilt bad => Sys2Proof.Machine.execFlashMapRebuilt bad s
  | .shardTransfer p m => Sys2Proof.Machine.execShardTransfer p m s
  | .clockRelock domain => Sys2Proof.Machine.execClockRelock domain s

end Machine
end Sys2Proof
end

