-- ==== Sys2Proof/Machine/Tick.lean ====
section
/-!
DEFINITION. Sys2Proof/Machine/Tick.lean: what one nanosecond of reference time does when no command waits (the table of commands
has no row for it): the timebase and the real-time counter go on, times are counted, and what follows from time alone happens.
-/
namespace Sys2Proof
namespace Machine

/-- A new instant: what R9 and R12 compare with is past. -/
def State.newInstant (s : State) : State :=
  { s with stamps := [], pwr := { s.pwr with peakW := max s.pwr.peakW s.pwr.peakNew, peakNew := 0 } }

/-- The real-time counter on VBAT (R381): 32,768 units a second. -/
def PwrState.rtcTick (w : PwrState) : PwrState :=
  let f := w.rtcFrac + 32768
  if f ≥ 1000000000 then { w with rtc := w.rtc + 1, rtcFrac := f - 1000000000 } else { w with rtcFrac := f }

/-- Nanoseconds that the timebase counts in 1 ns at a rate correction in 10⁻⁸, and the fraction after it (R268). -/
def clockStep (frac adj : Int) : Nat × Int :=
  let f := frac + adj
  if f ≥ 100000000 then (2, f - 100000000)
  else if f ≤ -100000000 then (0, f + 100000000)
  else (1, f)

/-- One tick. Without power only the real-time counter goes on; in the safe state and during a start only time is counted.
The timebase is a count of 64 bits (R5). DESIGN CHOICE, log entry 1. -/
def State.tick (s : State) : State :=
  let t : State := { s.newInstant with pwr := s.newInstant.pwr.rtcTick }
  if !s.pwr.pwrok then t
  else
    let (ns, frac) := clockStep t.frac t.fab.rateAdj
    let t : State := { t with now := (t.now + ns) % two64, frac := frac }
    let t := if t.pwr.pacing then t.count .sysPaceNs 0 ns else t
    let t := (t.checkHot).settleConfig
    if !t.live then t
    else
      let t := (List.range Config.partitions).foldl (fun (t : State) p => if t.bufferFull p then t.count .hifCqStall p ns else t) t
      t.settleDrains.ckptTick

end Machine
end Sys2Proof
end

