-- ==== Sys2Proof/Safety.lean ====
section
/-!
DEFINITION. Sys2Proof/Safety.lean: what counts as a safe run, in the terms that statements use: no step stops, and a device in its
safe state, or without power, holds no key.
-/
namespace Sys2Proof
namespace Machine

/-- The step goes on: it ends in a next state. -/
def Goes (o : Host.Outcome State Fault Refusal) : Prop := ∃ t, o = .next t

/-- The command completes: it answers a next state, of which P holds. -/
def Does (c : Instr) (s : State) (P : State → Prop) : Prop := ∃ t, exec c s = .next t ∧ P t

/-- From s to t verb v of partition p has completed with a record of this content: the verb is gone, the record waits last for the
CQ, and of the host interface nothing else has changed than the SQ slots that HEAD may have passed. -/
def Ended (s t : State) (p : Nat) (v : Verb) (st : Status) (flags : Nat := 0) (body : RecBody := []) (h : Option Nat := none) :
    Prop :=
  t.verbs p = (s.verbs p).filter (fun w => w.id != v.id) ∧
  t.vf p = { s.vf p with waiting := (s.vf p).waiting ++ [{ record := verbRec v st flags body h }],
                         sqSlots := (t.vf p).sqSlots, sqHead := (t.vf p).sqHead } ∧
  t.hif = { s.hif with vfs := t.hif.vfs, verbs := t.hif.verbs } ∧
  ∀ q, q ≠ p → t.vf q = s.vf q ∧ t.verbs q = s.verbs q

/-- A request of this device has been made under a tag: it is among the outstanding requests, with its asker, its destination and its
length. -/
def State.awaits (t : State) (tag : Nat) (who : Asker) (dst : Nat × Nat) (total : Nat) : Prop :=
  ∃ r ∈ t.fab.requests, r.tag = tag ∧ r.asker = who ∧ r.dst = dst ∧ r.total = total

/-- The firmware serves every management command: it is up, the audit log takes records, and the device is out of its safe state. -/
def State.serves (s : State) : Bool := s.mgmtUp && !s.auditFull && !s.flt.safe

/-- A management command that has left state t is recorded and answered. -/
def State.answered (t : State) (opcode value : Nat) (arg : Bytes) (r : MgmtCode) : State :=
  (t.audit auditMgmt 1 (mgmtCode r) opcode value arg).emit (.mgmt r)

/-- A key message on the management port that has left state t is recorded and answered. -/
def State.keyAnswered (t : State) (m : KeyMsg) (r : KeyResult) (rest : Bytes := []) : State :=
  (if m.mgmt then t.audit auditMgmt 6 (keyResultCode r) (kmCode m) (kmPart m) else t).emit
    (.keyReply r (kmReply (kmCode m) r rest))

/-- No volatile key of Table 17.6 is held: no partition, pool or checkpoint key, no data key of a session, no key of a link or of an
IDE stream, and not the device storage key. -/
def State.keyless (s : State) : Bool :=
  s.sec.keys.isEmpty && !s.sec.storageKey && s.hif.ideStreams.isEmpty && (s.dir.sessions.all fun e => e.2.sdk.isNone) &&
  s.fab.links.all fun e => !e.2.keyed

/-- The device is in its safe state (R345): powered, stopped, and without keys. -/
def State.secured (s : State) : Bool := s.pwr.pwrok && s.flt.safe && s.keyless

end Machine
end Sys2Proof
end

