-- ==== Sys2Proof/Certificates/Slice0/Obligations.lean ====
section
/-!
DEFINITION. Sys2Proof/Certificates/Slice0/Obligations.lean: the statements for the provers. A statement about a command says that exec
answers a next state, and what of it; `Does c s P` reads so, and `Ended` is the completion of a verb.
-/
open Sys2Proof Sys2Proof.Machine

/-! ## The block -/

/-- A step runs the command at the front of the queue on the rest of it: first in, first out. -/
def Obligations.StepRunsFrontCommand : Prop :=
  ∀ (c : Instr) (r : List Instr) (s : State), step { s with pending := c :: r } = exec c { s with pending := r }

/-- With no command waiting a step is one tick (the model's choice, log entry 1): it goes on, it puts nothing into the queue, and
without power it changes nothing but the real-time counter on VBAT and the marks of the instant. -/
def Obligations.EmptyQueueTicks : Prop :=
  (∀ s : State, s.pending = [] → step s = .next s.tick ∧ s.tick.pending = []) ∧
  ∀ s : State, s.pending = [] → s.pwr.pwrok = false →
    step s = .next { s with stamps := [], pwr := { s.pwr with peakW := s.tick.pwr.peakW, peakNew := 0, rtc := s.tick.pwr.rtc,
                                                               rtcFrac := s.tick.pwr.rtcFrac } }

/-- Reset is the device with only VBAT present: no power good, stage 0, PERST# asserted, no key, no image, no session, no output, an
empty queue, and every register at its reset value. -/
def Obligations.ResetIsPowerOff : Prop :=
  State.reset.pwr.pwrok = false ∧ State.reset.pwr.stage = 0 ∧ State.reset.pwr.aon = false ∧ State.reset.hif.perst = true ∧
  State.reset.flt.safe = false ∧ State.reset.pwr.safePin = false ∧ State.reset.pwr.thermtrip = false ∧
  State.reset.keyless = true ∧ State.reset.bind.image = none ∧ State.reset.dir.sessions = [] ∧ State.reset.out = [] ∧
  State.reset.pending = [] ∧ ∀ (r : RegName) (i j : Nat), State.reset.reg r i j = regReset r i

/-- The SAFE# pin is asserted in the safe state and in every failed start: every step keeps this. -/
def Obligations.SafePinInvariant : Prop :=
  ∀ s t : State, (s.flt.safe = true ∨ s.pwr.stage = 15 → s.pwr.safePin = true) → step s = .next t →
    (t.flt.safe = true ∨ t.pwr.stage = 15 → t.pwr.safePin = true)

/-- Reset meets the invariant of SAFE#: the device is neither in its safe state nor failed, and SAFE# is released. A device whose start
fails before its fabric is up asserts SAFE# from any state, so the invariant's premise does occur. -/
def Obligations.SafePinAtReset : Prop :=
  ¬ (State.reset.flt.safe = true ∨ State.reset.pwr.stage = 15) ∧ State.reset.pwr.safePin = false ∧
  ∀ (k : Nat) (s : State), (s.failStart k).pwr.stage = 15 ∧ (s.failStart k).pwr.safePin = true

/-- Every command completes: whatever the state and the operands, exec answers a next state, in which the queue behind the command
stands, the fused identity stands, and time has moved only by SYNC_RSP (a step of the timebase), by the starts and by the loss of
power. The one exception is JTAG_INSTRUCTION of another instruction than IDCODE, BYPASS and boundary scan while debug is unlocked:
R374 says nothing of it, and it is refused. -/
def Obligations.CommandsKeepIdentityQueueAndTime : Prop :=
  (∀ (c : Instr) (s : State), (∀ k, c = .jtagInstruction (.other k) → s.sec.battery.debugUnlocked = false) →
    ∃ t, exec c s = .next t ∧ t.pending = s.pending ∧ t.sec.uid = s.sec.uid ∧ t.sec.fusedSvn = s.sec.fusedSvn ∧
      (t.now ≠ s.now → (∃ l t1 t2 t3 t4, c = .syncRsp l t1 t2 t3 t4) ∨ c = .powerDown ∨ c = .pwrokAssert ∨ c = .deviceReset ∨
        ∃ ok, c = .memoryInitDone ok)) ∧
  ∀ (k : Nat) (s : State), s.sec.battery.debugUnlocked = true →
    exec (.jtagInstruction (.other k)) s = .refused (.scanUnspecified k)

/-- The two SVN floors never fall, but where the battery-backed file is lost or found blank. The device leaves its safe state only by a
start: FIRMWARE_BOOT (of a SAFE_RESTART), DEVICE_RESET, a new PWROK, or by losing power. THERMTRIP# once asserted stays asserted
until the power is gone; debug is unlocked by DEBUG_UNLOCK alone. -/
def Obligations.FloorsSafeStateAndLatches : Prop :=
  (∀ s t : State, step s = .next t → s.pending.head? ≠ some .vbatLoss → (∀ ok, s.pending.head? ≠ some (.memoryInitDone ok)) →
     s.sec.battery.bindFloor ≤ t.sec.battery.bindFloor ∧ s.sec.battery.fwFloor ≤ t.sec.battery.fwFloor) ∧
  (∀ s t : State, step s = .next t → s.flt.safe = true → t.flt.safe = false →
     s.pending.head? = some .powerDown ∨ s.pending.head? = some .pwrokAssert ∨ s.pending.head? = some .deviceReset ∨
     ∃ l, s.pending.head? = some (.firmwareBoot l)) ∧
  ((∀ s t : State, step s = .next t → s.pwr.thermtrip = true → s.pending.head? ≠ some .powerDown → t.pwr.thermtrip = true) ∧
   ∀ s t : State, step s = .next t → s.sec.battery.debugUnlocked = false → t.sec.battery.debugUnlocked = true →
     ∃ k, s.pending.head? = some (.debugUnlock k))

/-- The byte memories (engine stores, HBM shares, state buffers, folio payloads): a write of bytes reads back, changes no byte outside
it, and keeps the canonical form. -/
def Obligations.MemoryWrites : Prop :=
  ∀ (m : Mem) (a : Nat) (l : Bytes),
    mreads (mwrites m a l) a l.length = l ∧
    (∀ b, b < a ∨ a + l.length ≤ b → mread (mwrites m a l) b = mread m b) ∧
    (memWf m = true → memWf (mwrites m a l) = true)

/-! ## Host queues -/

/-- SQ_DOORBELL and CQ_DOORBELL on a function that takes part on the host link: a TAIL or HEAD in range moves the ring's own pointer and
nothing else; any other has no effect but HIF_DB_ERR. SQ_ENABLE and CQ_ENABLE on a disabled ring take BASE and SIZE and start it at
slot 0 (the CQ with PHASE 1); on an enabled ring they change nothing, and a different BASE or SIZE is counted in SYS_ACCESS_ERR.
SQ_DISABLE takes the entries read into the device and moves HEAD to the read position; CQ_DISABLE clears ENABLE. Nothing else
changes. COMPLETES, with its own effect, under hypotheses on the state and the operands alone: exec answers a next state for
sqDoorbell, cqDoorbell, sqEnable, sqDisable, cqEnable and cqDisable. -/
def Obligations.RingsAndDoorbells : Prop :=
  ((∀ (p tail : Nat) (s : State), s.vfOn p = true → (s.vf p).sqEnable = true → (s.vf p).tdi = .run →
     tail < ringSlots (s.vf p).sqSize →
     ((s.vf p).sqTail + ringSlots (s.vf p).sqSize - (s.vf p).sqHead) % ringSlots (s.vf p).sqSize +
       (tail + ringSlots (s.vf p).sqSize - (s.vf p).sqTail) % ringSlots (s.vf p).sqSize ≤ ringSlots (s.vf p).sqSize - 1 →
     exec (.sqDoorbell p tail) s = .next (s.setVf p { s.vf p with sqTail := tail })) ∧
   (∀ (p tail : Nat) (s : State), s.vfOn p = true →
     (ringSlots (s.vf p).sqSize ≤ tail ∨
      ringSlots (s.vf p).sqSize - 1 <
       ((s.vf p).sqTail + ringSlots (s.vf p).sqSize - (s.vf p).sqHead) % ringSlots (s.vf p).sqSize +
       (tail + ringSlots (s.vf p).sqSize - (s.vf p).sqTail) % ringSlots (s.vf p).sqSize) →
     exec (.sqDoorbell p tail) s = .next (s.countSat .hifDbErr p)) ∧
   (∀ (p head : Nat) (s : State), s.vfOn p = true → (s.vf p).cqEnable = true → (s.vf p).tdi = .run →
     head < ringSlots (s.vf p).cqSize →
     (head + ringSlots (s.vf p).cqSize - (s.vf p).cqHead) % ringSlots (s.vf p).cqSize ≤ (s.vf p).cqUsed →
     exec (.cqDoorbell p head) s = .next (s.setVf p { s.vf p with
       cqHead := head,
       cqUsed := (s.vf p).cqUsed -
         (head + ringSlots (s.vf p).cqSize - (s.vf p).cqHead) % ringSlots (s.vf p).cqSize })) ∧
   (∀ (p head : Nat) (s : State), s.vfOn p = true →
     (ringSlots (s.vf p).cqSize ≤ head ∨
      (s.vf p).cqUsed < (head + ringSlots (s.vf p).cqSize - (s.vf p).cqHead) % ringSlots (s.vf p).cqSize) →
     exec (.cqDoorbell p head) s = .next (s.countSat .hifDbErr p))) ∧
  ((∀ (p base log2 : Nat) (s : State), s.vfOn p = true → (s.vf p).sqEnable = false →
     exec (.sqEnable p base log2) s = .next (s.setVf p { s.vf p with
       sqBase := base, sqSize := log2, sqEnable := true, sqHead := 0, sqTail := 0, sqRead := 0, sqSlots := [] })) ∧
   (∀ (p base log2 : Nat) (s : State), s.vfOn p = true → (s.vf p).sqEnable = true →
     exec (.sqEnable p base log2) s = .next
       (if (s.vf p).sqBase = base ∧ (s.vf p).sqSize = log2 then s else s.accessErr (.vf p))) ∧
   (∀ (p base log2 : Nat) (s : State), s.vfOn p = true → (s.vf p).cqEnable = false →
     exec (.cqEnable p base log2) s = .next (s.setVf p { s.vf p with
       cqBase := base, cqSize := log2, cqEnable := true, cqIndex := 0, cqPhase := true, cqHead := 0, cqUsed := 0 })) ∧
   (∀ (p base log2 : Nat) (s : State), s.vfOn p = true → (s.vf p).cqEnable = true →
     exec (.cqEnable p base log2) s = .next
       (if (s.vf p).cqBase = base ∧ (s.vf p).cqSize = log2 then s else s.accessErr (.vf p))) ∧
   (∀ (p : Nat) (s : State), s.vfOn p = true → (s.vf p).sqEnable = true →
     Does (.sqDisable p) s fun t =>
       t = { s with hif := t.hif } ∧ (t.vf p).sqEnable = false ∧ (t.vf p).sqHead = (s.vf p).sqRead ∧
       ∀ v ∈ t.verbs p, v.slot = none) ∧
   (∀ (p : Nat) (s : State), s.vfOn p = true →
     exec (.cqDisable p) s = .next (s.setVf p { s.vf p with cqEnable := false })))

/-- SQ_ENTRY_READ of an entry that is not taken up. In a partition that is fenced it completes with FENCED; in another, one that breaks
the layout of R403 completes with BAD_ARGUMENT, and so does, with flag bit 15 and HIF_DB_ERR counted, one whose host read failed
(log entry 7); a handle or SEQ that R32 refuses completes with BAD_HANDLE, and a QUEUE outside the partition's range with
BAD_ARGUMENT. The read position has moved on, and nothing outside the host interface has changed. -/
def Obligations.RefusedEntries : Prop :=
  ∀ (p : Nat) (b : Bytes) (edits : Option Bytes) (s : State), s.canReadSq p = true → (∀ w ∈ s.verbs p, w.id ≠ s.hif.nextVerb) →
    let v := s.entryVerb p b edits
    (s.entriesFenced p = true →
      Does (.sqEntryRead p (some b) edits) s fun t => Ended (s.takeEntry p v) t p v .fenced ∧ t = { s with hif := t.hif }) ∧
    (s.entriesFenced p = false → entryMalformed b = true →
      Does (.sqEntryRead p (some b) edits) s fun t => Ended (s.takeEntry p v) t p v .badArgument ∧ t = { s with hif := t.hif }) ∧
    (s.entriesFenced p = false → entryMalformed b = false → v.scope ≠ .part → s.checkHandle p v.handle v.seq v.scope = none →
      Does (.sqEntryRead p (some b) edits) s fun t => Ended (s.takeEntry p v) t p v .badHandle ∧ t = { s with hif := t.hif }) ∧
    (s.entriesFenced p = false → entryMalformed b = false → v.scope = .part → s.queueIn p v.queueField = false →
      Does (.sqEntryRead p (some b) edits) s fun t => Ended (s.takeEntry p v) t p v .badArgument ∧ t = { s with hif := t.hif }) ∧
    Does (.sqEntryRead p none edits) s fun t =>
      Ended (s.takeEntry p (s.entryVerb p (zeros 128) edits)) t p (s.entryVerb p (zeros 128) edits)
        (if s.entriesFenced p = true then .fenced else .badArgument) 0x8000 ∧
      ∃ u : State, t = u.countSat .hifDbErr p ∧ u = { s with hif := u.hif }

/-- SQ_ENTRY_READ of a good entry. A CLOSE, or a STEP with STOP, acts at once: its turn has come. Any other verb comes to its service
queue, whose policer colours it on its length in work units (Table 10.2); behind held verbs of its queue it is held. Green and
yellow verbs are queued, unless the partition's composition change or consistency point holds them in their slots; a red one is held
or completes with POLICED as the queue is set, and one that can never pass completes with POLICED. COMPLETES, with its own effect,
under hypotheses on the state and the operands alone: exec answers a next state for sqEntryRead. -/
def Obligations.GoodEntries : Prop :=
  ∀ (p : Nat) (b : Bytes) (edits : Option Bytes) (s : State), s.canReadSq p = true → (∀ w ∈ s.verbs p, w.id ≠ s.hif.nextVerb) →
    s.entriesFenced p = false → entryMalformed b = false →
    let v := s.entryVerb p b edits
    (v.scope = .part ∨ (s.checkHandle p v.handle v.seq v.scope).isSome = true) →
    (v.acts = true →
      Does (.sqEntryRead p (some b) edits) s fun t => t.verb? p v.id = some { v with slot := none, phase := .begun } ∧
        t.hif.nextVerb = s.hif.nextVerb + 1 ∧ t = { s with hif := t.hif, dir := t.dir }) ∧
    (v.acts = false → (v.scope = .part → s.queueIn p v.queueField = true) →
      let q := s.queueOf v
      let c := colourOf (s.polMode q) (s.preColour q v.prio) (s.policedLen p v) (s.cbs q) (s.ebs q) (s.refilled q)
      ((s.deferred p q).isEmpty = false →
        Does (.sqEntryRead p (some b) edits) s fun t =>
          t.verb? p v.id = some { v with queue := q, phase := .deferred } ∧ t.shp = s.shp) ∧
      ((s.deferred p q).isEmpty = true →
        Does (.sqEntryRead p (some b) edits) s fun t =>
          t.policer q = c.2 ∧ t.dir = s.dir ∧
          match c.1 with
          | .never => t.verb? p v.id = none ∧ ∃ r, (t.vf p).waiting = (s.vf p).waiting ++ [{ record := r }] ∧ r.status = .policed
          | .red =>
            if s.redDefers q = true then t.verb? p v.id = some { v with queue := q, phase := .deferred, coloured := true }
            else t.verb? p v.id = none ∧ ∃ r, (t.vf p).waiting = (s.vf p).waiting ++ [{ record := r }] ∧ r.status = .policed
          | _ =>
            if (s.fencedByChange p && v.epoch != s.epoch || s.heldByPoint p v) = true then
              t.verb? p v.id = some { v with queue := q, phase := .held, coloured := true }
            else t.verb? p v.id = some { v with queue := q, phase := .queued, coloured := true, slot := none }))

/-- CQ_RECORD_WRITE, where a slot is free and a record waits: the oldest record, with the partition's next CSN and the PHASE of the
ring's current pass, goes to the slot at the CQ's index; CSN and index move on by one, and PHASE turns where the index wraps. A
record that is not a notice gives its sequence that CSN. Vector 0 is signalled where COAL_US is 0 or COAL_COUNT records (0 acts as
1) have gone without it; nothing else changes. COAL_TIMER_EXPIRE, COAL_US after the first record that has not been signalled: vector
0 is sent; nothing else changes. COMPLETES, with its own effect, under hypotheses on the state and the operands alone: exec answers
a next state for cqRecordWrite and coalTimerExpire. -/
def Obligations.RecordsReachTheHost : Prop :=
  (∀ (p : Nat) (w : Waiting) (rest : List Waiting) (s : State), s.canWriteCq p = true → (s.vf p).waiting = w :: rest →
     let x := s.vf p
     let fires := x.coalUs = 0 ∨ max 1 x.coalCount ≤ x.unsignalled + 1
     Does (.cqRecordWrite p) s fun t =>
       t.out = s.out ++ [.hostWrite (x.cqBase + 128 * x.cqIndex) (recordBytes w.record x.csnNext x.cqPhase)] ++
         (if fires then [.msix (.vf p) 0] else []) ∧
       (t.vf p).waiting.map (·.record) = rest.map (·.record) ∧ (t.vf p).csnNext = (x.csnNext + 1) % two64 ∧
       (t.vf p).cqUsed = x.cqUsed + 1 ∧
       (t.vf p).cqIndex = (if x.cqIndex + 1 = ringSlots x.cqSize then 0 else x.cqIndex + 1) ∧
       (t.vf p).cqPhase = (if x.cqIndex + 1 = ringSlots x.cqSize then !x.cqPhase else x.cqPhase) ∧
       (t.vf p).unsignalled = (if fires then 0 else x.unsignalled + 1) ∧
       t.dir = (if w.notice.isSome = true then s
                else s.modSeq (hIndex w.record.handle) w.record.seq fun q => { q with csn := x.csnNext }).dir ∧
       t = { s with hif := t.hif, dir := t.dir, out := t.out }) ∧
  (∀ (p : Nat) (s : State), s.hostUp p = true → 0 < (s.vf p).unsignalled →
     (s.vf p).unsignalledSince + 1000 * (s.vf p).coalUs ≤ s.now →
     exec (.coalTimerExpire p) s = .next
       ((s.setVf p { s.vf p with unsignalled := 0, msix := (s.vf p).msix ++ [0] }).emit (.msix (.vf p) 0)))

/-- VERB_BEGIN of a queued verb whose turn has come, in a partition that is not fenced and whose record buffer has room. Without a PRK,
or without the model program that it needs, it completes with BAD_STATE; for a part-scope verb nothing more is asked. For the
others, a handle that no longer stands completes with BAD_HANDLE, a damaged record with TIER_FAILED, an expired one with
TTL_EXPIRED, a poisoned sequence with POISONED, and a state that Table 2.4 does not accept with BAD_STATE. A verb that nothing
refuses begins. COMPLETES, with its own effect, under hypotheses on the state and the operands alone: exec answers a next state for
verbBegin. -/
def Obligations.VerbsBegin : Prop :=
  ∀ (p vid : Nat) (v : Verb) (s : State), s.verb? p vid = some v → v.phase = .queued → s.live = true → s.bufferFull p = false →
    s.turn p v = true → s.partFenced p = false → (s.partImage? p).isSome = true →
    (∀ st, s.refuses p v = some st → Does (.verbBegin p vid) s fun t => Ended s t p v st ∧ t = { s with hif := t.hif }) ∧
    (s.refuses p v = none → exec (.verbBegin p vid) s = .next (s.modVerb p vid fun v => { v with phase := .begun })) ∧
    (s.hasPrk p = false → s.refuses p v = some .badState) ∧
    (s.hasPrk p = true → needsProgram v.op = true → s.program? p = none → s.refuses p v = some .badState) ∧
    (s.hasPrk p = true → (needsProgram v.op = true → (s.program? p).isSome = true) →
      (v.scope = .part → s.refuses p v = none) ∧
      (v.scope ≠ .part → s.checkHandle p v.handle v.seq v.scope = none → s.refuses p v = some .badHandle) ∧
      ∀ (d : Nat) (x : Session), v.scope ≠ .part → s.checkHandle p v.handle v.seq v.scope = some d → s.session? d = some x →
        v.op ≠ .close →
        ((s.recOf d).damaged = true → s.refuses p v = some .tierFailed) ∧
        ((s.recOf d).damaged = false → (s.recOf d).expired = true → s.refuses p v = some .ttlExpired) ∧
        ((s.recOf d).damaged = false → (s.recOf d).expired = false →
          (∀ q, tget x.seqs v.seq = some q → v.scope = .sequence → q.state = .poisoned → s.refuses p v = some .poisoned) ∧
          ((∀ q, tget x.seqs v.seq = some q → q.state ≠ .poisoned) → s.roleOf p ≠ .state → v.op ≠ .place →
            s.refuses p v = if stateAccepts v x = true then none else some .badState)))

/-- DEFERRED_ADMIT of a queue that holds one verb: it is coloured again, yellow beforehand on a colour-aware queue and green on another,
with the buckets filled up to now. Green and yellow admit it, red leaves it held and the buckets as filled, and one that can never
pass completes with POLICED. POLICER_WRITE while the partition's queue holds no verb, in a running device whose audit log takes
records: the write is recorded, the buckets are brought up to now under the old values and then clamped to the bursts in force, and
the register holds the bits that may be set. COMPLETES, with its own effect, under hypotheses on the state and the operands alone:
exec answers a next state for deferredAdmit and policerWrite. -/
def Obligations.PolicedVerbs : Prop :=
  (∀ (p q : Nat) (v : Verb) (s : State), s.live = true → s.deferred p q = [v] → s.verb? p v.id = some v → v.coloured = true →
     s.fencedByChange p = false → s.heldByPoint p v = false →
     let c := colourOf (s.polMode q) (if s.colorAware q = true then .yellow else .green) (s.policedLen p v) (s.cbs q) (s.ebs q)
       (s.refilled q)
     Does (.deferredAdmit p q) s fun t =>
       t.policer q = c.2 ∧ t.dir = s.dir ∧
       match c.1 with
       | .never => t.verb? p v.id = none ∧ (t.vf p).waiting = (s.vf p).waiting ++ [{ record := verbRec v .policed 0 [] none }]
       | .red =>
         if s.redDefers q = true then t.verb? p v.id = some v
         else t.verb? p v.id = none ∧ (t.vf p).waiting = (s.vf p).waiting ++ [{ record := verbRec v .policed 0 [] none }]
       | _ => t.verb? p v.id = some { v with phase := .queued, slot := none }) ∧
  (∀ (q which : Nat) (v : W64) (s : State), q < 4096 → s.answers .pf = true → s.flt.safe = false → s.auditFull = false →
     s.headKnown = true → (∀ p, s.deferred p q = []) →
     let r := match which with | 0 => RegName.shpPolRate | 1 => .shpPolBurst | _ => .shpQueueCfg
     let new := (s.reg r q &&& ~~~(w64 (rwMask r q))) ||| (v &&& w64 (rwMask r q))
     Does (.policerWrite q which v) s fun t =>
       t.reg r q = new ∧ t.policer q = { tc := min (s.refilled q).tc (mu (t.cbs q)), te := min (s.refilled q).te (mu (t.ebs q)),
                                          time := s.now } ∧
       t = { s with regs := t.regs, shp := t.shp, sec := t.sec } ∧
       t.sec.audit = s.sec.audit ++ [auditBytes (s.sec.battery.auditSeq + 1) s.now auditPf 0 0 (regAddr r q 0) v.toNat []
         s.sec.battery.auditHash])

/-- The policer (R213). A verb that is coloured for the first time enters green on a colour-blind queue, and else by its PRIO against
GREEN_MIN and YELLOW_MIN of SHP_QUEUE_CFG; Table 10.2 then gives its colour and its debit, with Tp of trTCM held in `te`. A length
that can never pass is left to R214. -/
def Obligations.VerbsAreColoured : Prop :=
  (∀ (p : Nat) (v : Verb) (s : State), v.coloured = false →
    let cfg := s.reg .shpQueueCfg v.queue
    let pre : Colour := if bit cfg 45 = false then .green
      else if bits cfg 42 40 ≤ v.prio then .green else if bits cfg 39 37 ≤ v.prio then .yellow else .red
    let c := colourOf (s.polMode v.queue) pre (s.policedLen p v) (s.cbs v.queue) (s.ebs v.queue) (s.refilled v.queue)
    (s.colourVerb p v).1 = c.1 ∧ (s.colourVerb p v).2.policer v.queue = c.2) ∧
  ∀ (pre : Colour) (len cbs ebs : Nat) (x : Policer), pre ≠ .never →
    let b := mu len
    (len ≤ cbs + ebs →
      colourOf 1 pre len cbs ebs x =
        if pre = .green ∧ b ≤ x.tc then (.green, { x with tc := x.tc - b })
        else if (pre = .green ∨ pre = .yellow) ∧ b ≤ x.te then (.yellow, { x with te := x.te - b })
        else (.red, x)) ∧
    (len ≤ ebs →
      (pre = .red ∨ x.te < b → colourOf 2 pre len cbs ebs x = (.red, x)) ∧
      (pre = .yellow ∨ pre = .green ∧ x.tc < b → b ≤ x.te → colourOf 2 pre len cbs ebs x = (.yellow, { x with te := x.te - b })) ∧
      (pre = .green → b ≤ x.te → b ≤ x.tc → colourOf 2 pre len cbs ebs x = (.green, { x with te := x.te - b, tc := x.tc - b })))

/-! ## Sessions -/

/-- OPEN whose turn has come. Arguments out of range complete with BAD_ARGUMENT; without a free directory record, a free Spine entry or
room for two folios in the T1 share it completes with NO_CAPACITY. Else it takes the record at the head of the free list, the lowest
free Spine entry, a flyleaf and one page-table folio (log entry 10), draws salt and data key, and completes with OK and the handle
of Table 2.1; sequence 0 is NEW with the arguments of the entry. Nothing else changes. PARK and PARK_DONE. PARK of a parked session
completes with BAD_STATE, and without space in its tiers (a TIER that is none of 0, 3 and 4 names no tier: model's choice, log entry
37) with NO_CAPACITY; where an entry that it uses fails the check of R67 the fault is reported and it completes with TIER_FAILED;
where a PIN cannot rise it waits. Else the space is allocated, a PARK_ID drawn, the candidates of its trees are gone, the resident
KV folios are pinned, the transfers ask their ports in class C, and the verb runs. PARK_DONE makes the session PARKED: the quire
stands in its tier under the PARK_ID, the data key is wrapped, every live sequence is PARKED and remembers its state, the record
shows tier, PARK_ID and the TTL instant, and the verb completes with OK. COMPLETES, with its own effect, under hypotheses on the
state and the operands alone: exec answers a next state for openSession, park and parkDone. -/
def Obligations.SessionsOpenAndPark : Prop :=
  (∀ (p vid : Nat) (v : Verb) (s : State), s.begun? p vid .openS = some v →
     (s.openBad p v = true →
       Does (.openSession p vid) s fun t => Ended s t p v .badArgument ∧ t = { s with hif := t.hif }) ∧
     (s.openBad p v = false → ((s.dirFree p).take = none ∨ s.freeSpine p = none ∨ s.t1Room p 2 = false) →
       Does (.openSession p vid) s fun t => Ended s t p v .noCapacity ∧ t = { s with hif := t.hif }) ∧
     ∀ (d sp fly pt : Nat) (fl : FreeList) (s1 s2 : State), s.openBad p v = false → (s.dirFree p).take = some (d, fl) →
       s.freeSpine p = some sp → s.t1Room p 2 = true →
       s.allocFolio p .flyleaf (s.kvFmt p) 0 (mkHandle p (s.recOf d).gen d) = some (fly, s1) →
       s1.allocFolio p .pageTable (s.kvFmt p) 0 (mkHandle p (s.recOf d).gen d) = some (pt, s2) →
       Does (.openSession p vid) s fun t =>
         t.session? d = some
           { handle := mkHandle p (s.recOf d).gen d, part := p, objectMode := s.objectMode p, seed := v.f 0x20 8,
             ttl := (s.partImage p).part.ttlDefault, sdk := some (s.free + 1), seqs := [(0, { openSeq v with spine := some sp })],
             flyleaf := some fly, ptFolios := [pt] } ∧
         t.recOf d = { gen := (s.recOf d).gen, inUse := true, object := s.objectMode p, live := 1, flyleafLoc := fly,
                       salt := (Config.drbg s.free).toNat % 2 ^ 128 } ∧
         tget t.dir.spine sp = some (d, 0) ∧ t.dirFree p = fl ∧ Ended s t p v .ok 0 [] (some (mkHandle p (s.recOf d).gen d)) ∧
         t = { s with hif := t.hif, dir := t.dir, free := s.free + 2, fol := s2.fol, nvf := s2.nvf, shp := s2.shp }) ∧
  ((∀ (p vid : Nat) (v : Verb) (x : Session) (s : State), s.begun? p vid .park = some v → s.session? v.dir = some x →
       (x.quire.isSome = true →
         Does (.park p vid) s fun t => Ended s t p v .badState ∧ t = { s with hif := t.hif }) ∧
       (x.quire = none →
         let n := 1 + s.ptNeed x 0 + x.kvFolios.length
         let tiers := if v.f 0x24 1 = 0 then [4, 3] else [v.f 0x24 1]
         (s.allocQuireTier p n tiers = none →
           Does (.park p vid) s fun t => Ended s t p v .noCapacity ∧ t = { s with hif := t.hif }) ∧
         ∀ (tier : Nat) (locs : List Nat) (u : State), s.allocQuireTier p n tiers = some (tier, locs, u) →
           ((x.seqs.any fun e => s.badEntry p e.2.spans) = true → Does (.park p vid) s fun t =>
             Ended (s.pteFault p v.dir v.seq) t p v .tierFailed ∧ t = { s.pteFault p v.dir v.seq with hif := t.hif }) ∧
           ((x.seqs.any fun e => s.badEntry p e.2.spans) = false → s.pinRoom x.kvFolios = false → exec (.park p vid) s = .next s) ∧
           ((x.seqs.any fun e => s.badEntry p e.2.spans) = false → s.pinRoom x.kvFolios = true → exec (.park p vid) s = .next
             ((((((u.draw 64).2.modSeqs v.dir fun q => { q with tree := [] }).modSession v.dir fun x => { x with
                 parkOp := some { verb := vid, began := s.now, tier := tier, ttl := v.f 0x20 4, hint := v.f 0x28 8, locs := locs,
                                  parkId := (Config.drbg u.free).toNat % 2 ^ 64 } }).pins x.kvFolios).carry
               ((locs.map (fun l => (tier, l)) ++ x.kvFolios.filterMap fun i => (s.folio? i).map fun f => (f.tier, f.loc)).flatMap
                 fun e => tierPorts e.1 e.2) .c (.quire v.dir)).runVerb p vid)))) ∧
     ∀ (d : Nat) (x : Session) (o : ParkOp) (s : State), s.session? d = some x → x.parkOp = some o → s.live = true →
       ((∃ i f, i ∈ x.kvFolios ∧ s.folio? i = some f ∧ f.lost = true) →
         exec (.parkDone d) s = .next ((s.abandonPark d).complete x.part o.verb .tierFailed)) ∧
       ((∀ i ∈ x.kvFolios, ∀ f, s.folio? i = some f → f.lost = false) → Does (.parkDone d) s fun t => ∃ u : State,
         t = (if ((u.recOf d).ttlInstant != two64 - 1 && decide ((u.recOf d).ttlInstant < s.now)) = true
              then (u.complete x.part o.verb .ok).expire d else u.complete x.part o.verb .ok) ∧
         (u.recOf d).parked = true ∧ (u.recOf d).tier = o.tier ∧ (u.recOf d).parkId = o.parkId ∧
         (u.recOf d).ttlInstant = ttlInstantOf o.began (if o.ttl = 0 then (s.partImage x.part).part.ttlDefault else o.ttl) ∧
         ∀ y, u.session? d = some y → y.parkOp = none ∧ y.sdk = none ∧ y.flyleaf = none ∧ y.ptFolios = [] ∧
           (∃ q, y.quire = some q ∧ q.tier = o.tier ∧ q.keyEpoch = s.prkEpoch x.part) ∧
           ∀ e ∈ y.seqs, e.2.state = .closed ∨ e.2.state = .parked))

/-- REVIVE of a session that is not parked completes with BAD_STATE; one whose revive is under way joins it; one that cannot start
completes with what refuses it; else the revive starts and the verb runs. A revive that starts makes every sequence that is not
CLOSED REVIVING. REVIVE_DONE: where the seals open under the session's own record, PARK_ID and key epoch, the session has its data
key again and no quire, and its record is no longer parked; where they do not, the revive fails with TIER_FAILED. A verb that needs
its session resident (APPEND, STEP, FORK; Table 2.3) and finds it parked starts its revive, with itself as the cause: it begins
again when REVIVE_DONE has made the session resident. Where the revive cannot start the verb completes with what refuses it; while
another revive of the session is under way it waits. COMPLETES, with its own effect, under hypotheses on the state and the operands
alone: exec answers a next state for revive and reviveDone. -/
def Obligations.SessionsRevive : Prop :=
  ((∀ (p vid : Nat) (v : Verb) (x : Session) (s : State), s.begun? p vid .revive = some v → s.session? v.dir = some x →
     (x.quire = none → Does (.revive p vid) s fun t => Ended s t p v .badState ∧ t = { s with hif := t.hif }) ∧
     (x.quire.isSome = true → ∀ o, x.revive = some o →
       exec (.revive p vid) s = .next ((s.runVerb p vid).setSession v.dir
         { x with revive := some { o with joined := o.joined ++ [vid] } })) ∧
     (x.quire.isSome = true → x.revive = none → s.startRevive v.dir (some vid) false = none →
       Does (.revive p vid) s fun t => Ended s t p v ((s.reviveBad v.dir).getD .noCapacity) ∧ t = { s with hif := t.hif }) ∧
     (x.quire.isSome = true → x.revive = none → ∀ t, s.startRevive v.dir (some vid) false = some t →
       exec (.revive p vid) s = .next (t.runVerb p vid))) ∧
   (∀ (d : Nat) (cause : Option Nat) (wake : Bool) (s t : State), s.startRevive d cause wake = some t →
     s.reviveBad d = none ∧ ∀ x, t.session? d = some x → (∃ o, x.revive = some o ∧ o.cause = cause ∧ o.began = s.now ∧ o.wake = wake) ∧
       ∀ e ∈ x.seqs, e.2.state = .closed ∨ e.2.state = .reviving) ∧
   ∀ (d latNs ns : Nat) (x : Session) (o : ReviveOp) (q : Quire) (s : State), s.session? d = some x → x.revive = some o →
     x.quire = some q → s.live = true →
     (s.quireOpens d x q = true →
       Does (.reviveDone d latNs ns) s fun t =>
         (t.recOf d).parked = false ∧ (t.recOf d).tier = 0 ∧ (t.recOf d).parkId = 0 ∧
         ∀ y, t.session? d = some y → y.quire = none ∧ y.revive = none ∧ y.sdk = some y.wrappedSdk ∧ y.flyleaf = o.descs.head?) ∧
     (s.quireOpens d x q = false → exec (.reviveDone d latNs ns) s = .next (s.failRevive d .tierFailed))) ∧
  (∀ (p vid : Nat) (v : Verb) (x : Session) (q : Seq) (s : State), s.session? v.dir = some x → x.quire.isSome = true →
     s.seq? v.dir v.seq = some q →
     let after : Option Status × Option State :=
       if x.revive.isSome = true then (none, some s)
       else match s.startRevive v.dir (some vid) false with
         | some t => (none, some t)
         | none => (some ((s.reviveBad v.dir).getD .noCapacity), none)
     (s.begun? p vid .append = some v → v.f 0x2C 1 ≤ 1 → ∀ data,
       (∀ t, after = (none, some t) → exec (.append p vid data) s = .next t) ∧
       (∀ st, after = (some st, none) → Does (.append p vid data) s fun t => Ended s t p v st ∧ t = { s with hif := t.hif })) ∧
     (s.begun? p vid .step = some v → v.flag flagStop = false → stepArgsOk v = true → ∀ stops,
       (s.stopsOf p v stops).isSome = true → (s.stepGrammar p v q).isSome = true →
       (∀ t, after = (none, some t) → exec (.stepGen p vid stops) s = .next t) ∧
       (∀ st, after = (some st, none) → Does (.stepGen p vid stops) s fun t => Ended s t p v st ∧ t = { s with hif := t.hif })) ∧
     (s.begun? p vid .fork = some v →
       (∀ t, after = (none, some t) → exec (.fork p vid) s = .next t) ∧
       (∀ st, after = (some st, none) → Does (.fork p vid) s fun t => Ended s t p v st ∧ t = { s with hif := t.hif })))

/-- FORK of a resident session's sequence in WAIT, where a number, a Spine entry, page-table room and references are there: the new
sequence has the source's history over shared folios, is in WAIT with nothing pending and no deadline, and has its own Spine entry;
the record counts one more live sequence, and the verb completes with OK and its number. Another sequence of the session stays as it
was. In another state it completes with BAD_STATE, without the room with NO_CAPACITY, and where an entry of the source fails the
check of R67 the fault is reported and it completes with TIER_FAILED. COMPLETES, with its own effect, under hypotheses on the state
and the operands alone: exec answers a next state for fork. -/
def Obligations.SessionsFork : Prop :=
  ∀ (p vid : Nat) (v : Verb) (x : Session) (q : Seq) (s : State), s.begun? p vid .fork = some v → (s.resident p v).1 = true →
    s.session? v.dir = some x → tget x.seqs v.seq = some q →
    (q.state ≠ .wait → Does (.fork p vid) s fun t => Ended s t p v .badState ∧ t = { s with hif := t.hif }) ∧
    (q.state = .wait → x.freeNum.isSome = true → (s.freeSpine p).isSome = true → s.badEntry p q.spans = true →
      Does (.fork p vid) s fun t =>
        Ended (s.pteFault p v.dir v.seq) t p v .tierFailed ∧ t = { s.pteFault p v.dir v.seq with hif := t.hif }) ∧
    (q.state = .wait → s.badEntry p q.spans = false →
      (x.freeNum = none ∨ s.freeSpine p = none ∨ s.ptRoom p q.entryCount = false) →
      Does (.fork p vid) s fun t => Ended s t p v .noCapacity ∧ t = { s with hif := t.hif }) ∧
    ∀ (n sp : Nat) (spans : List Span) (s1 s2 : State), q.state = .wait → s.badEntry p q.spans = false → x.freeNum = some n →
      s.freeSpine p = some sp → s.ptRoom p q.entryCount = true → s.reservePt v.dir q.spans.length = some s1 →
      s1.shareSpans x.handle q.spans [] = some (spans, s2) →
      Does (.fork p vid) s fun t =>
        t.seq? v.dir n = some { q with num := n, spans := spans, state := .wait, spine := some sp, pending := [], tree := [], csn := 0,
                                       ttftDeadline := none, nextDeadline := none, stopping := false } ∧
        (∀ m, m ≠ n → t.seq? v.dir m = s2.seq? v.dir m) ∧ tget t.dir.spine sp = some (v.dir, n) ∧
        (t.recOf v.dir).live = (s2.recOf v.dir).live + 1 ∧
        (∃ u : State, t = u.complete p vid .ok 0 [(0x20, 1, n)]) ∧ t = { s2 with hif := t.hif, dir := t.dir, fol := t.fol }

/-- PLACE: a tier that is none of 1, 3 and 4, or spans beyond the sequence's, complete with BAD_ARGUMENT, and spans of which an entry
fails the check of R67 with TIER_FAILED, the fault reported; in an object-mode session that is resident, with a sequence in NEW or
WAIT, the verb runs and its folios start to move one after another. PLACE_DONE: when all of them have moved, the verb completes with
OK and nothing else changes than its entry among the partition's moves. TTL_EXPIRE of a parked session whose TTL instant has come
and which no verb that revives it holds: the session is erased and EXPIRED: no data key, no quire, salt 0, every sequence that is
not CLOSED in EXPIRED, and one notice TTL_EXPIRED with its handle. WAKE_AHEAD_START, when the start instant of a parked session's
hint has come, counts and starts its revive once; where the revive cannot start a notice says why. COMPLETES, with its own effect,
under hypotheses on the state and the operands alone: exec answers a next state for place, placeDone, wakeAheadStart and ttlExpire. -/
def Obligations.PlacesAndClocksOfSessions : Prop :=
  ((∀ (p vid : Nat) (v : Verb) (q : Seq) (s : State), s.begun? p vid .place = some v → s.seq? v.dir v.seq = some q →
     let n := v.f 0x20 4 + v.f 0x24 4
     let good := v.f 0x28 1 = 1 ∨ v.f 0x28 1 = 3 ∨ v.f 0x28 1 = 4
     (¬ good ∨ q.spans.length < n → Does (.place p vid) s fun t => Ended s t p v .badArgument ∧ t = { s with hif := t.hif }) ∧
     (good → n ≤ q.spans.length → (s.resident p v).1 = true → (q.state = .new ∨ q.state = .wait) →
       s.badEntry p ((q.spans.drop (v.f 0x20 4)).take (v.f 0x24 4)) = true →
       Does (.place p vid) s fun t =>
         Ended (s.pteFault p v.dir v.seq) t p v .tierFailed ∧ t = { s.pteFault p v.dir v.seq with hif := t.hif }) ∧
     (good → n ≤ q.spans.length → (s.resident p v).1 = true → (q.state = .new ∨ q.state = .wait) →
       s.badEntry p ((q.spans.drop (v.f 0x20 4)).take (v.f 0x24 4)) = false →
       let o : PlaceOp := { verb := vid, left := (((q.spans.drop (v.f 0x20 4)).take (v.f 0x24 4)).flatMap Span.refs).eraseDups,
                            tier := v.f 0x28 1 }
       exec (.place p vid) s = .next
         (((s.runVerb p vid).modFolPart p fun x => { x with places := x.places ++ [o] }).placeStep p o))) ∧
   ∀ (p vid : Nat) (v : Verb) (s : State), s.running? p vid .place = some v →
     (s.folPart p).places.any (fun o => o.verb == vid && o.left.isEmpty) = true →
     Does (.placeDone p vid) s fun t => Ended s t p v .ok ∧ (t.folPart p).places = (s.folPart p).places.filter (fun o => o.verb != vid) ∧
       t = { s with hif := t.hif, fol := t.fol }) ∧
  ((∀ (d : Nat) (x : Session) (s : State), s.session? d = some x → s.live = true → (s.recPart x.part).mode ≠ .safe →
     x.isParked = true → (s.recOf d).ttlInstant ≠ two64 - 1 → (s.recOf d).ttlInstant ≤ s.now → s.ttlHeld d = false →
     Does (.ttlExpire d) s fun t =>
       (t.recOf d).expired = true ∧ (t.recOf d).parked = false ∧ (t.recOf d).salt = 0 ∧
       (∃ l w, (t.vf x.part).waiting = l ++ [w] ∧ w.notice = some d ∧ w.record.handle = x.handle ∧ w.record.status = .ttlExpired) ∧
       ∀ y, t.session? d = some y → y.sdk = none ∧ y.quire = none ∧ y.flyleaf = none ∧
         ∀ e ∈ y.seqs, e.2.state = .closed ∨ e.2.state = .expired) ∧
   ∀ (d : Nat) (x : Session) (q : Quire) (s : State), s.session? d = some x → x.quire = some q → s.live = true →
     s.hasPrk x.part = true → x.isParked = true → x.wakeHint ≠ 0 → q.woken = false → (s.recOf d).damaged = false →
     (s.recOf d).expired = false → s.roleOf x.part ≠ .state → s.fencedByChange x.part = false →
     ((s.recPart x.part).mode = .normal ∨ (s.recPart x.part).mode = .recovering) →
     ((s.recOf d).ttlInstant = two64 - 1 ∨ s.now < (s.recOf d).ttlInstant) → s.wakeStart x q ≤ (s.now : Int) →
     let u := (s.setSession d { x with quire := some { q with woken := true } }).count .folWakeStarts x.part
     exec (.wakeAheadStart d) s = .next
       (match u.startRevive d none true with
        | some t => t
        | none => u.notice x.part d x.handle ((u.reviveBad d).getD .noCapacity)))

/-- CLOSE of a session or of its last live sequence, once nothing of it is in flight and no hand-off or session verb of it runs: the
session is gone, and the CLOSE completes with OK. CLOSE of another sequence: that sequence is CLOSED. A CLOSE that is refused at its
turn completes with what refuses it and changes nothing else. COMPLETES, with its own effect, under hypotheses on the state and the
operands alone: exec answers a next state for close. -/
def Obligations.SessionsClose : Prop :=
  ∀ (p vid : Nat) (v : Verb) (s : State), s.begun? p vid .close = some v →
    (∀ st, s.refuses p v = some st → Does (.close p vid) s fun t => Ended s t p v st ∧ t = { s with hif := t.hif }) ∧
    ∀ x, s.refuses p v = none → s.session? v.dir = some x → x.send = none →
      (∀ n ∈ closeCovers v x, s.inFlight p v.dir n = false) → (v.flag flagSession = true ∨ s.sessionVerbRuns p v = false) →
      Does (.close p vid) s fun t =>
        (∃ u : State, t = u.complete p vid .ok) ∧ t.verb? p vid = none ∧
        (closesSession v x = true → t.session? v.dir = none) ∧
        (closesSession v x = false → ∀ q, t.seq? v.dir v.seq = some q → q.state = .closed ∧ q.stopping = false)

/-- APPEND to a resident session's sequence in NEW or WAIT. An input whose read failed, which is too short or names a token outside the
vocabulary, or which passes the longest context, completes with BAD_ARGUMENT; an empty one with OK and the context's length; one for
which the page-table share has no room with NO_CAPACITY. Else the sequence is in PREFILL and the verb runs: token identifiers join
the pending input at once, the pieces of a text wait in the verb for a tokenize pipe. PIECE_TOKENIZED, where a pipe holds the verb:
the oldest piece's tokens join the pending input, or, where the input may pass the longest context (R170), wait in the verb until
its last piece is tokenized; with its last piece the pipe is free for the next grant, and the verb may be absorbed. A host read of
the input that has failed ends the verb with BAD_ARGUMENT (R168). COMPLETES, with its own effect, under hypotheses on the state and
the operands alone: exec answers a next state for append and pieceTokenized. -/
def Obligations.AppendsAbsorb : Prop :=
  (∀ (p vid : Nat) (v : Verb) (x : Session) (q : Seq) (data : Option Bytes) (s : State), s.begun? p vid .append = some v →
    (1 < v.f 0x2C 1 → Does (.append p vid data) s fun t => Ended s t p v .badArgument ∧ t = { s with hif := t.hif }) ∧
    (v.f 0x2C 1 ≤ 1 → s.session? v.dir = some x → x.quire = none → tget x.seqs v.seq = some q → (q.state = .new ∨ q.state = .wait) →
      let y := s.inputOf p (v.f 0x2C 1 == 1) (v.f 0x28 4) data none
      let n := s.inputTokens p y
      (y = .bad ∨ Config.maxContext < q.ctxLen + n →
        Does (.append p vid data) s fun t => Ended s t p v .badArgument ∧ t = { s with hif := t.hif }) ∧
      (y ≠ .bad → q.ctxLen + n ≤ Config.maxContext →
        (n = 0 → Does (.append p vid data) s fun t => Ended s t p v .ok 0 [(0x24, 4, q.ctxLen)] ∧ t = { s with hif := t.hif }) ∧
        (n ≠ 0 → s.ptRoom p (s.newSpans p q n * s.foliosPerSpan p) = false →
          Does (.append p vid data) s fun t => Ended s t p v .noCapacity ∧ t = { s with hif := t.hif }) ∧
        (n ≠ 0 → s.ptRoom p (s.newSpans p q n * s.foliosPerSpan p) = true →
          (∀ l, y = .tokens l → v.allFirst = false → Does (.append p vid data) s fun t => ∃ u : State, t = u.grantText ∧
            u.verb? p vid = some { v with phase := .running } ∧
            u.seq? v.dir v.seq =
              some (({ q with state := .prefill, absorbing := some vid, arrival := v.arrival } : Seq).addPending l none) ∧
            u = { s with hif := u.hif, dir := u.dir }) ∧
          (∀ l, y = .pieces l →
            let whole := v.allFirst || decide (Config.maxContext < q.ctxLen + (l.map fun x => x.bytes.length).sum)
            Does (.append p vid data) s fun t => ∃ u : State, t = u.grantText ∧
            u.verb? p vid = some { v with phase := .running, pieces := v.pieces ++ l, allFirst := whole } ∧
            u.seq? v.dir v.seq = some { q with state := .prefill, absorbing := some vid, arrival := v.arrival } ∧
            u = { s with hif := u.hif, dir := u.dir }))))) ∧
  ∀ (p vid : Nat) (v : Verb) (x : Piece) (rest : List Piece) (q : Seq) (s : State), s.verb? p vid = some v → s.live = true →
    v.phase = .running → v.pieces = x :: rest → s.seq? v.dir v.seq = some q →
    s.txt.pipes.any (fun e => e.2.part == p && e.2.verb == vid) = true →
    exec (.pieceTokenized p vid false) s = .next (s.endInput p v.dir v.seq .badArgument) ∧
    Does (.pieceTokenized p vid true) s fun t =>
      ∃ u : State, t = (if rest.isEmpty = true then u.grantText else u).absorbed p v.dir v.seq ∧
        (let l := v.finished ++ [(tokenize (s.vocab p) x.bytes, x.before)]
         if v.allFirst = true ∧ rest ≠ [] then
           u.seq? v.dir v.seq = some q ∧ u.verb? p vid = some { v with pieces := rest, finished := l }
         else
           u.seq? v.dir v.seq = some (l.foldl (fun q e => q.addPending e.1 e.2) q) ∧
           u.verb? p vid = some { v with pieces := rest, finished := [] }) ∧
        u.fol = s.fol ∧ u.spn = s.spn ∧ u.out = s.out

/-- SPLICE of a resident session's sequence in NEW or WAIT: an edit list that is absent, malformed, out of order, off the folio
boundaries or too long completes with BAD_ARGUMENT, one for which the page-table share has no room with NO_CAPACITY, and one that
drops a span of which an entry fails the check of R67 with TIER_FAILED, the fault reported; else the spans are dropped and the
inputs begin to be absorbed. A SPLICE that drops alone completes at once with OK and the context's new length. COMPLETES, with its
own effect, under hypotheses on the state and the operands alone: exec answers a next state for splice. -/
def Obligations.SplicesEdit : Prop :=
  ∀ (p vid : Nat) (v : Verb) (x : Session) (q : Seq) (inputs : List (Option Bytes)) (s : State), s.begun? p vid .splice = some v →
    s.session? v.dir = some x → x.quire = none → tget x.seqs v.seq = some q →
    (v.edits = none → Does (.splice p vid inputs) s fun t => Ended s t p v .badArgument ∧ t = { s with hif := t.hif }) ∧
    ∀ b, v.edits = some b →
      (parseEdits b (v.f 0x28 1) = none →
        Does (.splice p vid inputs) s fun t => Ended s t p v .badArgument ∧ t = { s with hif := t.hif }) ∧
      ∀ es, parseEdits b (v.f 0x28 1) = some es →
        let edits := s.pairInputs p es inputs
        let n := (edits.map fun e => s.inputTokens p e.2).sum
        let less := ((es.filter fun e => !e.insert).map (·.len)).sum
        let good := v.f 0x28 1 ≤ 16 ∧ editsOrdered es = true ∧ editsFit (s.tokensPer p) q.spans es = true ∧
          (∀ e ∈ edits, e.2 ≠ .bad) ∧ q.ctxLen - less + n ≤ Config.maxContext
        (¬ good → Does (.splice p vid inputs) s fun t => Ended s t p v .badArgument ∧ t = { s with hif := t.hif }) ∧
        (good → (q.state = .new ∨ q.state = .wait) → s.ptRoom p (s.spliceNeed p q edits * s.foliosPerSpan p) = false →
          Does (.splice p vid inputs) s fun t => Ended s t p v .noCapacity ∧ t = { s with hif := t.hif }) ∧
        (good → (q.state = .new ∨ q.state = .wait) → s.ptRoom p (s.spliceNeed p q edits * s.foliosPerSpan p) = true →
          s.badEntry p (((starts q.spans 0).filter fun e => dropped es e.1 e.2).map (·.2)) = true →
          Does (.splice p vid inputs) s fun t =>
            Ended (s.pteFault p v.dir v.seq) t p v .tierFailed ∧ t = { s.pteFault p v.dir v.seq with hif := t.hif }) ∧
        (good → (q.state = .new ∨ q.state = .wait) → s.ptRoom p (s.spliceNeed p q edits * s.foliosPerSpan p) = true →
          s.badEntry p (((starts q.spans 0).filter fun e => dropped es e.1 e.2).map (·.2)) = false →
          exec (.splice p vid inputs) s = .next (s.splice p v q edits))

/-- STEP of a resident session's sequence in WAIT: bad arguments, a stop list that is malformed or could not be read, or a grammar that
is not loaded complete with BAD_ARGUMENT; else the sequence is in DECODE with the verb's run, its first deadline set from the verb's
arrival, and the verb runs; a context already full ends the run with LENGTH. STEP with STOP where no step runs completes with OK,
and where the sequence is in the gathering in flight waits for its end. COMPLETES, with its own effect, under hypotheses on the
state and the operands alone: exec answers a next state for stepGen and stepStop. -/
def Obligations.StepsBegin : Prop :=
  (∀ (p vid : Nat) (v : Verb) (x : Session) (q : Seq) (stops : Option Bytes) (s : State), s.begun? p vid .step = some v →
    v.flag flagStop = false →
    (stepArgsOk v = false ∨ s.stopsOf p v stops = none →
      Does (.stepGen p vid stops) s fun t => Ended s t p v .badArgument ∧ t = { s with hif := t.hif }) ∧
    (s.session? v.dir = some x → x.quire = none → tget x.seqs v.seq = some q → stepArgsOk v = true →
      ∀ sl, s.stopsOf p v stops = some sl →
      (s.stepGrammar p v q = none →
        Does (.stepGen p vid stops) s fun t => Ended s t p v .badArgument ∧ t = { s with hif := t.hif }) ∧
      ∀ gid gs gk, s.stepGrammar p v q = some (gid, gs, gk) →
        (q.state ≠ .wait → Does (.stepGen p vid stops) s fun t => Ended s t p v .badState ∧ t = { s with hif := t.hif }) ∧
        (q.state = .wait → q.overhang = [] →
          let r := stepRun v q sl
          let q' : Seq := { q with
            state := .decode, run := some r, grammar := gid, gState := gs, gStack := gk, arrival := v.arrival,
            ttftDeadline := if r.ttftUs = 0 then none else some (v.arrival + 1000 * r.ttftUs), nextDeadline := none, lastEmit := 0,
            tree := [], overhang := [] }
          ∃ u : State, u.verb? p vid = some { v with phase := .running } ∧ u.seq? v.dir v.seq = some q' ∧
            u = { s with hif := u.hif, dir := u.dir } ∧
            exec (.stepGen p vid stops) s =
              .next (if Config.maxContext ≤ q.ctxLen then u.endStep p v.dir v.seq .length else u)))) ∧
  ∀ (p vid : Nat) (v : Verb) (q : Seq) (s : State), s.begun? p vid .step = some v → v.flag flagStop = true →
    s.seq? v.dir v.seq = some q →
    (q.run = none → Does (.stepStop p vid) s fun t => Ended s t p v .ok ∧
      t.seq? v.dir v.seq = some { q with stopping := false } ∧ t = { s with hif := t.hif, dir := t.dir, spn := t.spn }) ∧
    ∀ r, q.run = some r →
      (s.inFlight p v.dir v.seq = true → Does (.stepStop p vid) s fun t =>
        t.verb? p vid = some { v with phase := .running } ∧
        t.seq? v.dir v.seq = some { q with run := some { r with stopVerbs := r.stopVerbs ++ [vid] } } ∧
        t = { s with hif := t.hif, dir := t.dir, spn := t.spn }) ∧
      (s.inFlight p v.dir v.seq = false → Does (.stepStop p vid) s fun t =>
        (∃ u : State, t = u.complete p vid .ok) ∧ t.verb? p vid = none)

/-! ## Text, recall and programs -/

/-- GRAMMAR_LOAD with the reserved identifiers 0 and 0xFFFFFFFF completes with BAD_ARGUMENT; with another its image is read through the
host port in class D. GRAMMAR_LOAD_DONE: an image that could not be read or breaks Table 8.6 completes with BAD_ARGUMENT, an
identifier that is loaded with BAD_STATE, one image too many or too large with NO_CAPACITY; else the grammar is loaded and the verb
completes with OK. GRAMMAR_DROP of an identifier that is not loaded completes with BAD_ARGUMENT; of one that no running STEP and no
checkpoint copy uses, it takes effect at once: grammar and cached bitmaps are gone, and with this drop every other drop of the
grammar that waits completes with OK; else it waits for GRAMMAR_DROP_EFFECT, which does the same. COMPLETES, with its own effect,
under hypotheses on the state and the operands alone: exec answers a next state for grammarLoad, grammarLoadDone, grammarDrop and
grammarDropEffect. -/
def Obligations.GrammarsLoadAndDrop : Prop :=
  ((∀ (p vid : Nat) (v : Verb) (s : State), s.begun? p vid .grammarLoad = some v →
     (v.f 0x2C 4 = 0 ∨ v.f 0x2C 4 = 0xFFFFFFFF →
       Does (.grammarLoad p vid) s fun t => Ended s t p v .badArgument ∧ t = { s with hif := t.hif }) ∧
     (v.f 0x2C 4 ≠ 0 → v.f 0x2C 4 ≠ 0xFFFFFFFF → exec (.grammarLoad p vid) s =
       .next ((s.runVerb p vid).request .host { cls := .d, len := v.f 0x28 4, owner := some (.verb p vid) }))) ∧
   ∀ (p vid : Nat) (v : Verb) (s : State), s.running? p vid .grammarLoad = some v →
     Does (.grammarLoadDone p vid none) s (fun t => Ended s t p v .badArgument ∧ t = { s with hif := t.hif }) ∧
     ∀ g : GrammarImage,
       let g' : GrammarImage := { g with len := v.f 0x28 4 }
       let x := s.txtPart p
       (g'.ok (s.vocab p) = false →
         Does (.grammarLoadDone p vid (some g)) s fun t => Ended s t p v .badArgument ∧ t = { s with hif := t.hif }) ∧
       (g'.ok (s.vocab p) = true → (tget x.grammars (v.f 0x2C 4)).isSome = true →
         Does (.grammarLoadDone p vid (some g)) s fun t => Ended s t p v .badState ∧ t = { s with hif := t.hif }) ∧
       (g'.ok (s.vocab p) = true → tget x.grammars (v.f 0x2C 4) = none →
         (s.grammarMax p < x.grammars.length + 1 ∨ s.grammarMib p * 1048576 < s.grammarUse p + grammarSpace (v.f 0x28 4) →
           Does (.grammarLoadDone p vid (some g)) s fun t => Ended s t p v .noCapacity ∧ t = { s with hif := t.hif }) ∧
         (x.grammars.length + 1 ≤ s.grammarMax p → s.grammarUse p + grammarSpace (v.f 0x28 4) ≤ s.grammarMib p * 1048576 →
           Does (.grammarLoadDone p vid (some g)) s fun t => Ended s t p v .ok ∧
             t.txtPart p = { x with grammars := tput x.grammars (v.f 0x2C 4) { image := g' } } ∧
             t = { s with hif := t.hif, txt := t.txt }))) ∧
  ((∀ (p vid : Nat) (v : Verb) (s : State), s.begun? p vid .grammarDrop = some v →
     let gid := v.f 0x2C 4
     let x := s.txtPart p
     let drops := ((s.verbs p).filter fun w => w.op == .grammarDrop && w.f 0x2C 4 == gid && (w.phase == .running || w.id == vid)).map
       (·.id)
     (tget x.grammars gid = none →
       Does (.grammarDrop p vid) s fun t => Ended s t p v .badArgument ∧ t = { s with hif := t.hif }) ∧
     ∀ g, tget x.grammars gid = some g →
       (s.grammarInUse p gid = false → (s.ckpOf p).jobs.contains (.grammar gid) = false →
         Does (.grammarDrop p vid) s fun t => tget (t.txtPart p).grammars gid = none ∧
           (∀ k, k ≠ gid → tget (t.txtPart p).grammars k = tget x.grammars k) ∧ t = { s with hif := t.hif, txt := t.txt } ∧
           vid ∈ drops ∧ ∃ u : State, t = u.completeAll p drops .ok ∧ u.hif = s.hif) ∧
       (s.grammarInUse p gid = true ∨ (s.ckpOf p).jobs.contains (.grammar gid) = true →
         exec (.grammarDrop p vid) s = .next ((s.setTxtPart p { x with
           grammars := tput x.grammars gid { g with dropping := true } }).runVerb p vid))) ∧
   ∀ (p gid : Nat) (g : Grammar) (v : Verb) (s : State), s.live = true → s.grammarInUse p gid = false →
     (s.ckpOf p).jobs.contains (.grammar gid) = false → tget (s.txtPart p).grammars gid = some g → g.dropping = true →
     (s.verbs p).find? (fun v => v.op == .grammarDrop && v.phase == .running && v.f 0x2C 4 == gid) = some v →
     Does (.grammarDropEffect p gid) s fun t => tget (t.txtPart p).grammars gid = none ∧ t = { s with hif := t.hif, txt := t.txt } ∧
       ∃ u : State, u.hif = s.hif ∧ t = u.completeAll p (((s.verbs p).filter fun w =>
         w.op == .grammarDrop && w.f 0x2C 4 == gid && (w.phase == .running || w.id == v.id)).map (·.id)) .ok)

/-- INDEX_LOAD: a header that could not be read or breaks Table 9.3, or index 0, completes with BAD_ARGUMENT; an index too many, or an
image that T1, the device's nodes or T4 cannot hold, with NO_CAPACITY; else the space is taken at once, and the image is read
through the host port in class C. INDEX_SWITCH ends the load: an image that could not be read, is bad or has another header
completes it with BAD_ARGUMENT, vectors that could not be stored in T4 with TIER_FAILED, and its space is free again; else the image
is the index's current generation, one above the last, earlier generations keep serving their users, and the verb completes with OK
and the generation. INDEX_DROP of an index that is not loaded completes with BAD_STATE; without users the index is gone at once.
GENERATION_RELEASE frees a generation without users that is not current, and, of a dropped index, the index with its last one.
DELETE: bad counts, index 0, a list that could not be read and node numbers outside the image complete with BAD_ARGUMENT; an index
that does not serve, or another generation, with BAD_STATE; too many pending nodes with NO_CAPACITY. Without COMMIT the nodes wait;
with it every waiting node has the next epoch as its tombstone. COMPLETES, with its own effect, under hypotheses on the state and
the operands alone: exec answers a next state for indexLoad, indexSwitch, generationRelease, indexDrop and delete. -/
def Obligations.IndexesLoadDropAndDelete : Prop :=
  ((∀ (p vid : Nat) (v : Verb) (head : Option Bytes) (s : State), s.begun? p vid .indexLoad = some v →
     let i := v.f 0x30 2
     (head = none ∨ i = 0 ∨ (∃ b, head = some b ∧ ixHeadOk b (v.f 0x28 8) = false) →
       Does (.indexLoad p ⟨vid, head⟩) s fun t => Ended s t p v .badArgument ∧ t = { s with hif := t.hif }) ∧
     ∀ b, head = some b → i ≠ 0 → ixHeadOk b (v.f 0x28 8) = true →
       let full := s.index? p i = none ∧ maxIndexes ≤ s.indexCount p
       (full ∨ s.t1Room p (ixT1 b) = false ∨ Config.recallNodes < s.nodesHeld + ixNodes b ∨ s.takeT4 p (ixT4 b) [] = none →
         Does (.indexLoad p ⟨vid, head⟩) s fun t => Ended s t p v .noCapacity ∧ t = { s with hif := t.hif }) ∧
       (¬ full → s.t1Room p (ixT1 b) = true → s.nodesHeld + ixNodes b ≤ Config.recallNodes →
         ∀ locs u, s.takeT4 p (ixT4 b) [] = some (locs, u) →
           Does (.indexLoad p ⟨vid, head⟩) s fun t => ∃ w : State,
             t = (w.runVerb p vid).request .host { cls := .c, len := v.f 0x28 8, owner := some (.verb p vid) } ∧ w.hif = u.hif ∧
             w.rcl.loads = u.rcl.loads ++ [{ part := p, verb := vid, index := i, header := b.take ixHeader, t1 := ixT1 b, locs := locs,
                                             nodes := ixNodes b }] ∧
             ∀ x, u.index? p i = some x → w.index? p i = some { x with loading := true })) ∧
   (∀ (p vid : Nat) (v : Verb) (o : LoadOp) (s : State), s.running? p vid .indexLoad = some v → s.load? p vid = some o →
     (∀ stored, exec (.indexSwitch p vid ⟨none, stored⟩) s = .next ((s.endLoad p vid false).complete p vid .badArgument)) ∧
     ∀ b : Bytes,
       let good := b.take ixHeader = o.header ∧ ixOk b (min b.length (v.f 0x28 8)) = true
       (¬ good → ∀ stored, exec (.indexSwitch p vid ⟨some b, stored⟩) s =
         .next ((s.endLoad p vid false).complete p vid .badArgument)) ∧
       (good → exec (.indexSwitch p vid ⟨some b, false⟩) s = .next ((s.endLoad p vid false).complete p vid .tierFailed)) ∧
       (good →
         let x := (s.index? p o.index).getD {}
         let g := ((x.gens.head?.map (·.gen)).getD 0) + 1
         Does (.indexSwitch p vid ⟨some b, true⟩) s fun t => ∃ w : State, t = w.complete p vid .ok 0 [(0x28, 4, g)] ∧
           w = { s with rcl := w.rcl } ∧ w.load? p vid = none ∧
           w.index? p o.index = some { x with
             loading := false, changedAt := some s.now, before := s.taken x,
             gens := ({ gen := g, image := b, t1 := o.t1, locs := o.locs } : IndexGen) :: (x.gens.map fun y => { y with pending := [] }) })) ∧
   (∀ (p vid : Nat) (v : Verb) (s : State), s.begun? p vid .indexDrop = some v →
     (s.index? p (v.f 0x2A 2) = none →
       Does (.indexDrop p vid) s fun t => Ended s t p v .badState ∧ t = { s with hif := t.hif }) ∧
     ∀ x, s.index? p (v.f 0x2A 2) = some x →
       (x.gens = [] ∨ x.dropping = true →
         Does (.indexDrop p vid) s fun t => Ended s t p v .badState ∧ t = { s with hif := t.hif }) ∧
       (x.gens ≠ [] → x.dropping = false →
         ((∀ g ∈ x.gens, g.users = []) → Does (.indexDrop p vid) s fun t =>
           (∃ u : State, t = u.complete p vid .ok) ∧ t.index? p (v.f 0x2A 2) = none) ∧
         ((∃ g ∈ x.gens, g.users ≠ []) →
           exec (.indexDrop p vid) s = .next ((s.setIndex p (v.f 0x2A 2) { x with dropping := true }).runVerb p vid)))) ∧
   ∀ (p i gen : Nat) (x : RIndex) (g : IndexGen) (s : State), s.index? p i = some x → x.genOf gen = some g → s.live = true →
     g.users = [] → (x.dropping = true ∨ x.gens.head?.map (·.gen) ≠ some gen ∧
       ¬ (x.changedAt = some s.now ∧ x.before.map (·.1) = some gen)) →
     Does (.generationRelease p i gen) s fun t =>
       t.index? p i = (if (x.gens.filter fun y => y.gen != gen) = [] then none
         else some { x with gens := x.gens.filter fun y => y.gen != gen })) ∧
  (∀ (p vid : Nat) (v : Verb) (nodes : Option Bytes) (s : State), s.begun? p vid .delete = some v →
     (4096 < v.f 0x28 2 ∨ v.f 0x2A 2 = 0 →
       Does (.delete p vid nodes) s fun t => Ended s t p v .badArgument ∧ t = { s with hif := t.hif }) ∧
     (v.f 0x28 2 ≤ 4096 → v.f 0x2A 2 ≠ 0 →
       (s.current? p (v.f 0x2A 2) = none →
         Does (.delete p vid nodes) s fun t => Ended s t p v .badState ∧ t = { s with hif := t.hif }) ∧
       ∀ x g, s.index? p (v.f 0x2A 2) = some x → s.current? p (v.f 0x2A 2) = some g →
         (g.gen ≠ v.f 0x2C 4 → Does (.delete p vid nodes) s fun t => Ended s t p v .badState ∧ t = { s with hif := t.hif }) ∧
         (g.gen = v.f 0x2C 4 → v.f 0x28 2 ≠ 0 → nodes = none →
           Does (.delete p vid nodes) s fun t => Ended s t p v .badArgument ∧ t = { s with hif := t.hif }) ∧
         ∀ b, g.gen = v.f 0x2C 4 → (v.f 0x28 2 ≠ 0 → nodes = some b) → (v.f 0x28 2 = 0 → b = []) →
           let l := (List.range (v.f 0x28 2)).map fun k => fld b (4 * k) 4
           let new := l.eraseDups.filter fun n => g.tomb n = 0 && !g.pending.contains n
           ((∃ n ∈ l, ixNodes g.image ≤ n) →
             Does (.delete p vid nodes) s fun t => Ended s t p v .badArgument ∧ t = { s with hif := t.hif }) ∧
           ((∀ n ∈ l, n < ixNodes g.image) → maxPending < g.pending.length + new.length →
             Does (.delete p vid nodes) s fun t => Ended s t p v .noCapacity ∧ t = { s with hif := t.hif }) ∧
           ((∀ n ∈ l, n < ixNodes g.image) → g.pending.length + new.length ≤ maxPending → g.epoch + 1 ≤ 0xFFFFFFFF →
             Does (.delete p vid nodes) s fun t => Ended s t p v .ok ∧ t = { s with hif := t.hif, rcl := t.rcl } ∧
               t.index? p (v.f 0x2A 2) = some { x with
                 changedAt := if v.flag flagCommit = true then some s.now else x.changedAt,
                 before := if v.flag flagCommit = true then s.taken x else x.before,
                 gens := x.gens.map fun y => if y.gen = g.gen then
                   (if v.flag flagCommit = true then
                     { g with tombs := (g.pending ++ new).foldl (fun m n => tput m n (g.epoch + 1)) g.tombs, pending := [],
                              epoch := g.epoch + 1 }
                    else { g with pending := g.pending ++ new }) else y })))

/-- QUERY: index 0, parameters out of range, a vector that could not be read or does not suit the image complete with BAD_ARGUMENT, an
index that does not serve, or has no shard table for a SHARDED query, with BAD_STATE; while no walk pipe has a slot for it, it
waits. Else the search begins in the lowest free pipe on the generation and epoch that this instant takes (R194), the other shards
are asked, and the verb runs; a SHARDED query whose own shard does not serve counts that shard as missing. QUERY_DONE gives the hits
of the device's own search to the query, or its shard to the missing ones where T4 failed, and ends the query if nothing else is
awaited. MERGE_DEADLINE_EXPIRE counts every shard still awaited as missing and ends it. COMPLETES, with its own effect, under
hypotheses on the state and the operands alone: exec answers a next state for query, queryDone and mergeDeadlineExpire. -/
def Obligations.QueriesSearch : Prop :=
  (∀ (p vid : Nat) (v : Verb) (vec : Option Bytes) (s : State), s.begun? p vid .query = some v →
    let u := s.count .rclQueries p
    let i := v.f 0x38 2
    (i = 0 ∨ prmOk (queryPrm v) = false →
      Does (.query p vid vec) s fun t => Ended u t p v .badArgument ∧ t = { u with hif := t.hif }) ∧
    (i ≠ 0 → prmOk (queryPrm v) = true → s.slotFor p v = false → exec (.query p vid vec) s = .next s) ∧
    (i ≠ 0 → prmOk (queryPrm v) = true → s.slotFor p v = true → v.flag flagSharded = false →
      (s.serving p i = none →
        Does (.query p vid vec) s fun t => Ended u t p v .badState ∧ t = { u with hif := t.hif }) ∧
      ∀ g epoch, s.serving p i = some (g, epoch) →
        (vec = none → Does (.query p vid vec) s fun t => Ended u t p v .badArgument ∧ t = { u with hif := t.hif }) ∧
        ∀ b, vec = some b →
          (queryFits g.image (queryPrm v) (vecOf (ixBf16 g.image) (ixDims g.image) b) = false →
            Does (.query p vid vec) s fun t => Ended u t p v .badArgument ∧ t = { u with hif := t.hif }) ∧
          (queryFits g.image (queryPrm v) (vecOf (ixBf16 g.image) (ixDims g.image) b) = true →
            Does (.query p vid vec) s fun t =>
              t.verb? p vid = some { v with phase := .running } ∧
              (∃ q, q ∈ t.queriesOf p ∧ q.verb = vid ∧ q.index = i ∧ q.gen = g.gen ∧ q.epoch = epoch ∧ q.vec = b ∧
                q.pipe = s.freePipe ∧ q.since = s.now ∧ q.localDone = false) ∧ t = { s with hif := t.hif, rcl := t.rcl })) ∧
    (i ≠ 0 → prmOk (queryPrm v) = true → s.slotFor p v = true → v.flag flagSharded = true → ∀ b, vec = some b →
      let table := s.shardTable p i
      let own := table.findIdx? fun e => e == (s.fab.devId, p)
      let others := (enum table).filter fun e => some e.1 != own
      let base : QueryOp := { verb := vid, index := i, gen := 0, epoch := 0, vec := b, sharded := true, deadline := v.f 0x30 8,
                              pipe := s.freePipe, since := s.now, waitShards := others.map (·.1), localDone := false }
      let searchless := fun (q : QueryOp) => ((((s.runVerb p vid).setQueries p ((s.runVerb p vid).queriesOf p ++ [q])).askShards
        p vid i (queryPrm v) b others).endQuery p vid)
      (table = [] → Does (.query p vid vec) s fun t => Ended u t p v .badState ∧ t = { u with hif := t.hif }) ∧
      (table ≠ [] → own = none → exec (.query p vid vec) s = .next (searchless { base with localDone := true })) ∧
      ∀ k, own = some k →
        (s.serving p i = none → exec (.query p vid vec) s = .next (searchless { base with localDone := true, missing := [k] })) ∧
        ∀ g epoch, s.serving p i = some (g, epoch) →
          (queryFits g.image (queryPrm v) (vecOf (ixBf16 g.image) (ixDims g.image) b) = false →
            Does (.query p vid vec) s fun t => Ended u t p v .badArgument ∧ t = { u with hif := t.hif }) ∧
          (queryFits g.image (queryPrm v) (vecOf (ixBf16 g.image) (ixDims g.image) b) = true →
            exec (.query p vid vec) s = .next ((((s.runVerb p vid).startWalk p vid (queryPrm v) g epoch b base).askShards p vid i
              (queryPrm v) b others).endQuery p vid)))) ∧
  (∀ (p vid : Nat) (t4Ok : Bool) (prm : SearchPrm) (q : QueryOp) (x : RIndex) (g : IndexGen) (s : State), s.query? p vid = some q →
    s.live = true → q.localDone = false → s.searchPrm? p q = some prm → s.index? p q.index = some x → x.genOf q.gen = some g →
    let r := finishSearch g q.epoch prm (vecOf (ixBf16 g.image) (ixDims g.image) q.vec) (q.queue.map (·.2)) (s.ownOrdinal p q)
    let ok := t4Ok && !q.t4Failed
    (q.remote = none → Does (.queryDone p vid t4Ok q.pipe) s fun t => ∃ u : State, t = u.endQuery p vid ∧ u.query? p vid = some { q with
      localDone := true, hits := if ok = true then q.hits ++ r.1 else q.hits,
      missing := if ok = true then q.missing else q.missing ++ [s.ownOrdinal p q] }) ∧
    (∀ f, q.remote = some f → exec (.queryDone p vid t4Ok q.pipe) s =
      .next (((s.count .rclPageReads p r.2.1).count .rclTombSkip p r.2.2).endRemote p q f ok r.1)) ∧
    ∀ pipe, pipe ≠ q.pipe → exec (.queryDone p vid t4Ok pipe) s = .next s) ∧
  ∀ (p vid : Nat) (q : QueryOp) (s : State), s.query? p vid = some q → s.live = true → q.sharded = true → q.deadline ≠ 0 →
    q.deadline ≤ s.now →
    exec (.mergeDeadlineExpire p vid) s = .next ((s.modQuery p vid fun y => { y with
      missing := y.missing ++ y.waitShards ++ (if q.localDone = true then [] else [s.ownOrdinal p q]),
      waitShards := [], localDone := true }).endQuery p vid)

/-- PROGRAM_LOAD where the image takes its program from SYS_BIND_SRC's host memory, or where a program is loaded, completes with
BAD_STATE; else the program is read through the host port in class D. PROGRAM_LOAD_DONE: one whose length or digest is not that of
the PROGRAM section completes with BAD_ARGUMENT; else the program is loaded and measured, and the verb completes with OK.
PROGRAM_FETCH does the same without a verb, and a program that fails there leaves the record of a failed fetch. COMPLETES, with its
own effect, under hypotheses on the state and the operands alone: exec answers a next state for programLoad, programFetch and
programLoadDone. -/
def Obligations.ProgramsLoad : Prop :=
  (∀ (p vid : Nat) (v : Verb) (s : State), s.begun? p vid .programLoad = some v →
    ((s.partImage p).prog.source = 0 ∨ (s.program? p).isSome = true →
      Does (.programLoad p vid) s fun t => Ended s t p v .badState ∧ t = { s with hif := t.hif }) ∧
    ((s.partImage p).prog.source ≠ 0 → s.program? p = none → exec (.programLoad p vid) s =
      .next ((s.runVerb p vid).request .host { cls := .d, len := v.f 0x28 8, owner := some (.verb p vid) }))) ∧
  (∀ (p vid : Nat) (v : Verb) (s : State), s.running? p vid .programLoad = some v →
    Does (.programLoadDone p vid none) s (fun t => Ended s t p v .badArgument ∧ t = { s with hif := t.hif }) ∧
    ∀ g : Program,
      (v.f 0x28 8 ≠ g.bytes.length ∨ progOk (s.partImage p).prog g = false →
        Does (.programLoadDone p vid (some g)) s fun t => Ended s t p v .badArgument ∧ t = { s with hif := t.hif }) ∧
      (v.f 0x28 8 = g.bytes.length → progOk (s.partImage p).prog g = true →
        Does (.programLoadDone p vid (some g)) s fun t => Ended s t p v .ok ∧ t.program? p = some g ∧
          tget t.sec.blocks (0x30 + p) = some (sha384 g.bytes) ∧ t = { s with hif := t.hif, spn := t.spn, sec := t.sec })) ∧
  ∀ (p : Nat) (s : State), s.live = true → (s.partImage? p).isSome = true → (s.partImage p).prog.source = 0 → s.hasPrk p = true →
    s.program? p = none → (s.spnOf p).fetchFailed = false → s.hif.linkUp = true → s.hif.pfD3hot = false → s.partFenced p = false →
    (∀ g, progOk (s.partImage p).prog g = true → exec (.programFetch p (some g)) s = .next (s.loadProgram p g)) ∧
    ∀ r : Option Program, (∀ g, r = some g → progOk (s.partImage p).prog g = false) →
      exec (.programFetch p r) s = .next ((s.modSpn p fun y => { y with fetchFailed := true }).post p { status := .badArgument })

/-! ## Steps and engines -/

/-- SELECTION in a partition that builds steps and has no gathering waiting. Without a candidate nothing more is done; else either the
sequences whose last token a prefix hit absorbed complete and no gathering is formed, or the gathering formed is not empty, and its
entries carry together no more tokens than the budget of SPN_PART_LIMITS and are no more than MAX_SEQ. GATHERING_RELEASE: a
gathering that waits for folios, for room to count its pins or for stage buffers of a checkpoint stays; one that every entry has
left is gone and its absorbed verbs complete; else it is the step in flight from this instant on, its entries' places stand in
length-table order, and the engines start. MASK_READY: the mask of a node of a decode entry is the bitmap of the tokens that the
grammar accepts in the state that the node has reached, is counted, and the entry waits for that node no longer. STEP_BOUNDARY, once
every engine has reached END: the step is no longer in flight, no absorbed verb is owed, the estimate moves by an eighth of the
difference, and the partition's heartbeat counts. COMPLETES, with its own effect, under hypotheses on the state and the operands
alone: exec answers a next state for selection, gatheringRelease, maskReady and stepBoundary. -/
def Obligations.StepsAreBuiltAndEnd : Prop :=
  ((∀ (p : Nat) (s : State), s.steps p = true → (s.spnOf p).next = none →
     let u := s.retryStalled p
     (u.candidates p = [] → exec (.selection p) s = .next u) ∧
     Does (.selection p) s fun t => (∃ (w : State) (l : List Nat), t = l.foldl (fun t v => t.completeHit p v) w) ∨
       ∃ (g : Gather) (w : State), t = w.modSpn p (fun y => { y with next := some g }) ∧ g.entries ≠ [] ∧
         (g.entries.map (·.qLen)).sum ≤ (u.schedCfg p).budget ∧ g.entries.length ≤ (u.schedCfg p).maxSeq) ∧
   ∀ (p : Nat) (g : Gather) (s : State), (s.spnOf p).next = some g → s.steps p = true →
     (s.vf p).tdi = .run → (s.spnOf p).cur = none → (s.ckpOf p).sectionsFrozen = false → s.pointDue p = false →
     let a := s.askAll p (g.entries.filterMap s.finalise)
     let b := a.1.prepAll p a.2
     let waits := a.2.any fun en => match a.1.seq? en.dir en.seq with
       | some q => (a.1.outside (readSpans q en)).any fun i => !(en.replaces q).contains i
       | none => false
     let keep := fun (w : State) => w.modSpn p fun x => { x with next := some { g with entries := a.2 } }
     let room := b.1.pinRoom (b.2.flatMap (·.pins))
     let n := (b.1.uncopied p b.2).length
     let staged := n = 0 ∨ (b.1.ckpOf p).staged + n ≤ b.1.stagePlaces p
     (waits = true → exec (.gatheringRelease p) s = .next (keep a.1)) ∧
     (waits = false → room = false → exec (.gatheringRelease p) s = .next (keep a.1)) ∧
     (waits = false → room = true → ¬ staged → exec (.gatheringRelease p) s =
       .next (keep (a.1.modCkp p fun x => { x with stallSince := some (x.stallSince.getD s.now) }))) ∧
     (waits = false → room = true → staged → b.2 = [] → exec (.gatheringRelease p) s =
       .next (g.hitVerbs.foldl (fun t v => t.completeHit p v) (b.1.modSpn p fun x => { x with next := none }))) ∧
     (waits = false → room = true → staged → b.2 ≠ [] →
       Does (.gatheringRelease p) s fun w => ∃ (v : State) (g' : Gather), w = v.startEngines p g' ∧
         (v.spnOf p).cur = some g' ∧ (v.spnOf p).next = none ∧ (v.spnOf p).treeKv = [] ∧ g'.releasedAt = s.now ∧
         g'.hitVerbs = g.hitVerbs ∧ g'.entries.map (·.qLen) = b.2.map (·.qLen) ∧ g'.entries.map (·.tokens) = b.2.map (·.tokens))) ∧
  ((∀ (p entry node gs : Nat) (g : Gather) (en : GEntry) (q : Seq) (im : GrammarImage) (stk : List Nat) (s : State),
     (s.spnOf p).cur = some g → g.entries[entry]? = some en → s.live = true → en.maskWait.contains node = true →
     s.seq? en.dir en.seq = some q → s.nodeGrammar p en node = some (im, gs, stk) →
     exec (.maskReady p entry node) s = .next
       (((s.modEntry p 0 entry fun en =>
         { en with masks := en.masks ++ [(node, bitmapOf (s.vocab p).size (txtMask im (s.vocab p) gs stk))],
                   maskWait := en.maskWait.filter (· != node) }).count .txtMasks p).bitmapRead p q.grammar im gs)) ∧
   ∀ (p : Nat) (g : Gather) (s : State), (s.spnOf p).cur = some g → s.live = true → s.partFenced p = false → s.stepEnded p = true →
     Does (.stepBoundary p) s fun t => (t.spnOf p).cur = none ∧ (t.spnOf p).treeKv = [] ∧ (t.spnOf p).owed = [] ∧
       ∃ u : State, t = (u.modSpn p fun x => { x with
         cur := none, treeKv := [], owed := [], estNs := nextEst x.estNs (s.now - g.releasedAt) }).count .spnPartHeartbeat p)

/-- A command that R146 refuses, or an opcode or task kind that is not defined, does not start, whichever command of the engine is
attempted: the context stops, the engine stops, and the fault of the engine is reported with cause 2. A command of another kind than
the one that stands next changes nothing. -/
def Obligations.MalformedCommandsStop : Prop :=
  ∀ (e : Nat) (i : Inst) (s : State), s.current e = some i →
    let undef := ¬ (1 ≤ i.cmd.opcode ∧ i.cmd.opcode ≤ 5 ∧ (i.cmd.opcode = 1 → i.cmd.kind ≤ 4))
    let stop := ((s.modCtx e i.slot fun y => { y with faulted := true }).modEng e fun x => { x with stopped := true }).raise (0x20 + e)
      { part := some i.p, engine := some e, slot := i.slot, cmd := i.ctx.index, stream := i.ctx.stream, unit := 3, cause := 2 }
    (undef → ∀ c ∈ [Instr.taskProduct e, .taskVector e, .taskAttention e, .taskSample e, .taskMove e, .issueRead e, .issueWrite e,
        .await e, .barrier e, .endStream e], exec c s = .next stop) ∧
    (¬ undef → s.instOk i = false →
      (i.cmd.opcode = 1 → i.cmd.kind = 0 → exec (.taskProduct e) s = .next stop) ∧
      (i.cmd.opcode = 1 → i.cmd.kind = 1 → exec (.taskVector e) s = .next stop) ∧
      (i.cmd.opcode = 1 → i.cmd.kind = 2 → exec (.taskAttention e) s = .next stop) ∧
      (i.cmd.opcode = 1 → i.cmd.kind = 3 → exec (.taskSample e) s = .next stop) ∧
      (i.cmd.opcode = 1 → i.cmd.kind = 4 → exec (.taskMove e) s = .next stop) ∧
      (i.cmd.opcode = 2 → i.cmd.issueOp = 0 → exec (.issueRead e) s = .next stop) ∧
      (i.cmd.opcode = 2 → i.cmd.issueOp = 1 → exec (.issueWrite e) s = .next stop) ∧
      (i.cmd.opcode = 3 → exec (.await e) s = .next stop) ∧ (i.cmd.opcode = 4 → exec (.barrier e) s = .next stop) ∧
      (i.cmd.opcode = 5 → exec (.endStream e) s = .next stop)) ∧
    (¬ undef → i.cmd.opcode ≠ 1 →
      ∀ c ∈ [Instr.taskProduct e, .taskVector e, .taskAttention e, .taskSample e, .taskMove e], exec c s = .next s)

/-- A TASK that passes the checks of R146 and stays inside its budget takes its effect and completes: its context goes on to the next
command, and the engine's heartbeat counts. A MOVE makes the bytes at C those at A. A VECTOR task of one operation writes its result
into the store. An ATTENTION task with a bad parameter block or operands outside their spaces is malformed; one whose repetition has
no entry takes no work; one that needs a folio outside T1 stops with the page-table fault, and one that needs a folio which lost a
line stops with that line's fault; else it attends. A SAMPLE task whose logits lie outside their spaces is malformed; else it waits,
counted once, while a mask of its range is still being written, and then samples its entries. A PRODUCT task that passes the checks
of R146 and stays inside its budget: each result of row r and column c is the accumulation of the row of A with the column of B, in
the order of the pair's rule and on top of C where the task accumulates, and each row of results is written, encoded in the output
format, at its place in C; saturation and NaN are counted, and the command completes. COMPLETES, with its own effect, under
hypotheses on the state and the operands alone: exec answers a next state for taskVector, taskAttention, taskSample, taskMove and
taskProduct. -/
def Obligations.TasksCompute : Prop :=
  (∀ (e : Nat) (i : Inst) (s : State), s.current e = some i → s.instOk i = true → i.cmd.opcode = 1 → s.overBudget e i = false →
     let m := i.cmd
     (m.kind = 4 → Does (.taskMove e) s fun t => ∃ u : State, t = u.finishCmd e i ∧
       u.readSpace i.p e i.slot m.addrC m.note.moveBytes = s.readSpace i.p e i.slot m.addrA m.note.moveBytes ∧
       u = { s with eng := u.eng, spn := u.spn, flt := u.flt }) ∧
     (m.kind = 1 → ∀ o, m.note.vops = [o] → Does (.taskVector e) s fun t => ∃ u : State,
       t = ((u.countClip e (vecResult (s.engOf e).store o).2.1).countNan e (vecResult (s.engOf e).store o).2.2).finishCmd e i ∧
       (u.engOf e).store = mwrites (s.engOf e).store o.dst (vecResult (s.engOf e).store o).1 ∧ u = { s with eng := u.eng }) ∧
     (m.kind = 2 →
       (s.attParam e i = none → exec (.taskAttention e) s = .next (s.malformed e i)) ∧
       ∀ x freqs, s.attParam e i = some (x, freqs) →
         (s.attCtx i x = none → exec (.taskAttention e) s = .next (s.finishCmd e i)) ∧
         ∀ a, s.attCtx i x = some a →
           (s.attOperands i a = false → exec (.taskAttention e) s = .next (s.malformed e i)) ∧
           let folios := spansRead a (partKeys x m.part (s.keyOrder a.p a.seq a.en)) ++
             (s.placesOf a.p a.seq a.en a.en.slotCount).map (·.1)
           (s.attOperands i a = true → (∃ n ∈ folios, s.attFolio a n = none) → exec (.taskAttention e) s = .next (s.ptFault e i a)) ∧
           (∀ f, s.attOperands i a = true → (∀ n ∈ folios, s.attFolio a n ≠ none) → folios.findSome? (s.lostIn a) = some f →
             exec (.taskAttention e) s = .next ((s.stopCtx e i.slot).raise (0x48 + f.2)
               { part := some i.p, engine := some e, slot := i.slot, stepRead := true, folio := some f.1 })) ∧
           (s.attOperands i a = true → (∀ n ∈ folios, s.attFolio a n ≠ none ∧ s.lostIn a n = none) →
             exec (.taskAttention e) s = .next (s.attend e i a freqs))) ∧
     (m.kind = 3 →
       (s.sampleOperands i = false → exec (.taskSample e) s = .next (s.malformed e i)) ∧
       (s.sampleOperands i = true → (∃ x ∈ s.sampled i, x.2.2.maskWait ≠ []) → exec (.taskSample e) s = .next
         (if i.ctx.maskLate = true then s
          else (s.count .txtMaskLate i.p).modCtx e i.slot fun y => { y with maskLate := true })) ∧
       (s.sampleOperands i = true → (∀ x ∈ s.sampled i, x.2.2.maskWait = []) → exec (.taskSample e) s = .next
         ((((s.sampled i).filter fun x => x.2.2.kind == 0).foldl (fun t x => t.sampleEntry e i x.1 x.2.1 x.2.2) s).finishCmd e i)))) ∧
  (∀ (e : Nat) (i : Inst) (r : PairRule) (s : State), s.current e = some i → s.instOk i = true → i.cmd.opcode = 1 →
     i.cmd.kind = 0 → s.overBudget e i = false → pairRule (i.cmd.fmt % 16) (i.cmd.fmt / 16) = some r →
     let m := i.cmd
     let ra := rowBytes (m.fmt % 16) m.k
     let rb := rowBytes (m.fmt / 16) m.k
     let row := fun k => rowOf (m.fmt % 16) m.k (s.readSpace i.p e i.slot (m.addrA + k * ra) ra)
     let col := fun k => rowOf (m.fmt / 16) m.k (s.readSpace i.p e i.slot (m.addrB + k * rb) rb)
     let acc := if m.out < 16 then [] else unpackF (s.readSpace i.p e i.slot m.addrC (4 * m.m * m.n))
     let res := fun a => (List.range m.n).map fun b => columnAcc r (acc.getD (a * m.n + b) 0) (row a) (col b)
     let clip := (List.range m.m).any fun a => (encodeRow (m.out % 16) (res a)).2.1
     let nan := ((List.range m.m).any fun a => (List.range m.n).any fun b =>
         isNaN32 ((res a).getD b 0) && !(row a).contains .nan && !(col b).contains .nan && !isNaN32 (acc.getD (a * m.n + b) 0)) ||
       (List.range m.m).any fun a => (encodeRow (m.out % 16) (res a)).2.2
     let u := (List.range m.m).foldl (fun u a => u.writeSpace i.p e i.slot (m.addrC + a * rowBytes (m.out % 16) m.n)
         (encodeRow (m.out % 16) (res a)).1) s
     exec (.taskProduct e) s = .next (((u.countClip e clip).countNan e nan).finishCmd e i))

/-- BUDGET_FAULT of a TASK that reaches BUDGET + 1 waves: its outputs are left incomplete (free values), its context and its engine
stop, the unit is logged, its dot waves are counted, and the engine's fault is reported with cause 3. END counts the heartbeat and
ends the context. BARRIER of a STEP context: the last engine of the partition to arrive lets every context go on, an earlier one
waits. CONTEXT_SWITCH_DONE: the outgoing context's store is saved, the incoming one's restored, and the switch is counted with its
time. AWAIT_SWITCH_TIMEOUT and STEP_SLICE_EXPIRE are points at which the engine chooses anew: when the running context has waited
its limit and the target is the one chosen, and when a STEP context that waits has used its slice while a privileged context is
ready; one that still computes is marked as overrunning from this instant on. TEST_CONTEXT_LOAD puts a signed diagnostic program
into slot 2, and an engine whose running slot is empty, or that stood at a pre-emption point in this instant, chooses again.
COMPLETES, with its own effect, under hypotheses on the state and the operands alone: exec answers a next state for barrier,
endStream, budgetFault, contextSwitchDone, awaitSwitchTimeout, stepSliceExpire and testContextLoad. -/
def Obligations.StreamsStopAndSwitch : Prop :=
  ((∀ (e unit : Nat) (i : Inst) (s : State), s.current e = some i → s.instOk i = true → i.cmd.opcode = 1 →
     taskUnit i.cmd.kind = unit → s.overBudget e i = true →
     Does (.budgetFault e unit) s fun t =>
       (t.engOf e).stopped = true ∧ (t.engOf e).budgetLog = (i.slot, i.ctx.index, unit) ∧
       (∀ y, t.ctx? e i.slot = some y → y.faulted = true) ∧
       t.flt.lines = s.flt.lines ++ [(0x20 + e, { part := some i.p, engine := some e, slot := i.slot, cmd := i.ctx.index,
                                                  stream := i.ctx.stream, unit := unit, cause := 3 })] ∧
       t.reg .engAttWaves e = s.reg .engAttWaves e + BitVec.ofNat 64 (if i.cmd.kind = 2 then i.cmd.budget + 1 else 0) ∧
       t = { s with free := t.free, eng := t.eng, spn := t.spn, flt := t.flt, fol := t.fol, regs := t.regs }) ∧
   (∀ (e : Nat) (i : Inst) (s : State), s.current e = some i → s.instOk i = true → i.cmd.opcode = 5 → i.slot ≠ 1 →
     exec (.endStream e) s = .next
       (((s.count .engHeartbeat e).modCtx e i.slot fun y => { y with ended := true }).choose i.p e)) ∧
   ∀ (e : Nat) (i : Inst) (s : State), s.current e = some i → s.instOk i = true → i.cmd.opcode = 4 → i.slot ≠ 1 →
     let all := (s.enginesOf i.p).filter fun k => (s.ctx? k i.slot).isSome
     ((∃ k ∈ all, k ≠ e ∧ s.atBarrier k i.slot i.cmd.tag = false) → exec (.barrier e) s = .next (s.block e i 3 i.cmd.tag)) ∧
     ((∀ k ∈ all, k = e ∨ s.atBarrier k i.slot i.cmd.tag = true) → exec (.barrier e) s = .next
       (all.foldl (fun t k =>
         let u := t.advanceCtx i.p k i.slot
         if (u.engOf k).running = i.slot ∧ (u.engOf k).switching = none then u.choose i.p k else u) s))) ∧
  ((∀ (e k : Nat) (y z : Ctx) (s : State), (s.engOf e).switching = some k → s.live = true → tget (s.engOf e).slots k = some y →
     tget (s.engOf e).slots (s.engOf e).running = some z → k ≠ (s.engOf e).running →
     Does (.contextSwitchDone e) s fun t =>
       (t.engOf e).running = k ∧ (t.engOf e).switching = none ∧ (t.engOf e).store = y.saved ∧
       t.ctx? e (s.engOf e).running = some { z with saved := (s.engOf e).store } ∧
       t.ctx? e k = some { y with saved := [], resumedAt := s.now, startedAt := s.now } ∧
       t.reg .engSwitches e = s.reg .engSwitches e + 1 ∧
       t.reg .engSwitchNs e = s.reg .engSwitchNs e + BitVec.ofNat 64 (s.now - (s.engOf e).switchSince) ∧
       t = { s with eng := t.eng, regs := t.regs }) ∧
   (∀ (e target : Nat) (i : Inst) (s : State), s.current e = some i → i.ctx.blocked = true → i.ctx.waitSince + s.awaitNs i.p ≤ s.now →
     (((s.payRunning e).grantRounds e).chosen i.p e).1 = target → exec (.awaitSwitchTimeout e target) s = .next (s.choose i.p e)) ∧
   (∀ (e p : Nat) (y : Ctx) (s : State), s.ownerOfEngine e = some p → s.live = true → (s.engOf e).running = 0 →
     (s.engOf e).switching = none → (s.engOf e).stopped = false → s.ctx? e 0 = some y →
     ((s.grantRounds e).firstPositive e ((s.grantRounds e).privReady e)).isSome = true → y.resumedAt + cfgSliceNs (s.sliceCfg p e) ≤ s.now →
     exec (.stepSliceExpire e) s = .next
       (if y.ready = true ∧ y.blocked = false then
         (s.grantRounds e).modEng e fun x => { x with overrunSince := some (x.overrunSince.getD s.now) }
        else (s.grantRounds e).choose p e)) ∧
   ∀ (e p : Nat) (prog : List Cmd) (s : State), s.ownerOfEngine e = some p → s.live = true →
     let x := s.engOf e
     let t := s.modEng e fun x => { x with slots := tput x.slots 2 (newCtx none 2 { cmds := prog } s.now) }
     exec (.testContextLoad e true prog) s = .next
       (if x.switching = none ∧ x.stopped = false ∧ (tget (t.engOf e).slots x.running = none ∨ x.pointAt = some s.now) then t.choose p e
        else t))

/-- ISSUE: one request is made with the command's tag, and the tag's count rises. A read into the store that the partition's reply
buffer cannot hold waits, and makes none; one that it can hold reserves its length. AWAIT: an error reply to its tag stops the
context with the fault of R157; while a reply is still out it waits; else it completes. COMPLETES, with its own effect, under
hypotheses on the state and the operands alone: exec answers a next state for issueRead, issueWrite and await. -/
def Obligations.RemoteAccesses : Prop :=
  ∀ (e : Nat) (i : Inst) (s : State), s.current e = some i → s.instOk i = true →
    let m := i.cmd
    let dst := (m.fabric / 2 ^ 52, m.fabric / 2 ^ 48 % 16)
    (m.opcode = 2 → m.issueOp = 0 →
      (spaceOf m.addrC = 0 → (s.partImage i.p).part.replyBuf < (s.spnOf i.p).replyUse + m.length →
        exec (.issueRead e) s = .next (s.block e i 4 0)) ∧
      (spaceOf m.addrC = 0 → (s.spnOf i.p).replyUse + m.length ≤ (s.partImage i.p).part.replyBuf →
        Does (.issueRead e) s fun t => ∃ u : State, t = u.finishCmd e i ∧ u.awaits s.fab.nextTag (.engine e i.slot m.tag) dst m.length ∧
          (u.spnOf i.p).replyUse = (s.spnOf i.p).replyUse + m.length) ∧
      (spaceOf m.addrC ≠ 0 →
        Does (.issueRead e) s fun t => ∃ u : State, t = u.finishCmd e i ∧ u.awaits s.fab.nextTag (.engine e i.slot m.tag) dst m.length ∧
          u.spn = s.spn)) ∧
    (m.opcode = 2 → m.issueOp = 1 → i.slot = 1 → exec (.issueWrite e) s = .next (s.finishCmd e i)) ∧
    (m.opcode = 2 → m.issueOp = 1 → i.slot ≠ 1 →
      Does (.issueWrite e) s fun t => ∃ u : State, t = u.finishCmd e i ∧ u.awaits s.fab.nextTag (.engine e i.slot m.tag) dst m.length ∧
        u.spn = s.spn) ∧
    (m.opcode = 3 →
      (∀ x, i.ctx.errs.find? (fun x => x.1 == m.tag) = some x → exec (.await e) s = .next
        ((s.stopCtx e i.slot).raise 0x9E (remoteDetail e i x))) ∧
      (i.ctx.errs.find? (fun x => x.1 == m.tag) = none →
        (tgetD i.ctx.tags m.tag 0 ≠ 0 → exec (.await e) s = .next (s.block e i 2 m.tag)) ∧
        (tgetD i.ctx.tags m.tag 0 = 0 → Does (.await e) s fun t => ∃ u : State, t = u.finishCmd e i ∧
          (∀ y, u.ctx? e i.slot = some y → (∀ r ∈ y.replies, r.tag ≠ m.tag) ∧ (∀ r ∈ y.resv, r.1 ≠ m.tag) ∧
            (∀ r ∈ y.dests, r.1 ≠ m.tag) ∧ tget y.tags m.tag = none))))

/-! ## Tiers, ports and shaping -/

/-- PROMOTION_COMMIT of a folio on its way to T1: it stands there, and its place in the tier it left is free, or, while a PARK still
reads that place, kept until it has; its pin of the move goes. DEMOTION_COMMIT of a folio that no pin holds: it stands at its place
of the target tier under a fresh nonce and its tag, and one that goes to T3 is written to its frame of the host; one that is pinned
stays in T1. EAGER_DEMOTION and PREFETCH_START start their moves in class D under the conditions of Table 3.6 and R75. Nothing
outside tiers, counters and the waiting sequences is touched before pressure and PLACE go on. TIER_FAILURE of a transfer under way,
and T3_TIMEOUT of a T3 transfer that has gone unanswered for TIMEOUT_US: a T3 failure is counted and reported as 0xA1, and the
operation ends as Table 14.6 gives: a demotion is abandoned, with its place freed; a PARK ends with TIER_FAILED; a revive fails with
TIER_FAILED; a prefetch is counted as failed; a search is noted as one whose vectors failed. COMPLETES, with its own effect, under
hypotheses on the state and the operands alone: exec answers a next state for promotionCommit, demotionCommit, eagerDemotion,
prefetchStart, tierFailure and t3Timeout. -/
def Obligations.FoliosMoveOrFail : Prop :=
  ((∀ (i : Nat) (f : Folio) (s : State), s.folio? i = some f → s.live = true → f.promoting = true →
     Does (.promotionCommit i) s fun t => ∃ u : State,
       t = ((u.unpins [i]).placeAll f.part).landed f.part ∧
       u.folio? i = some { f with
         tier := 1, loc := 0, promoting := false, nonce := 0, tag := 0,
         oldPlaces := if s.sourceRead i = true then f.oldPlaces ++ [(f.tier, f.loc)] else f.oldPlaces } ∧
       u = { s with regs := u.regs, fol := u.fol, nvf := u.nvf }) ∧
   (∀ (i : Nat) (f : Folio) (s : State), s.folio? i = some f → s.live = true → f.demoting = true →
     (f.pin ≠ 0 → Does (.demotionCommit i) s fun t => ∃ u : State, t = (u.pressureStep f.part).placeAll f.part ∧
       u.folio? i = some { f with demoting := false } ∧ u = { s with fol := u.fol, nvf := u.nvf }) ∧
     (f.pin = 0 → Does (.demotionCommit i) s fun t => ∃ u : State, t = (u.pressureStep f.part).placeAll f.part ∧
       u.folio? i = some { f with tier := f.target, loc := f.targetLoc, demoting := false, nonce := s.free, tag := s.sealTag f s.free } ∧
       u.free = s.free + 1 ∧ (u.folPart f.part).t1Use = (s.folPart f.part).t1Use - 1 ∧
       u.out = s.out ++ (if f.target = 3 then [.hostWrite (bits (s.reg .hifT3Base) 63 16 * 65536 + Config.folioBytes * f.targetLoc)
         (s.demoted f s.free).bytes] else []) ∧
       u = { s with free := u.free, regs := u.regs, fol := u.fol, out := u.out })) ∧
   ∀ (i : Nat) (f : Folio) (s : State), s.folio? i = some f → s.live = true → s.hasPrk f.part = true → f.kind = .kv →
     f.promoting = false →
     let cfg := s.reg .folHeatCfg f.part
     let heat := (heatNow cfg f s.now).1
     (bit cfg 33 = true → bit cfg 32 = false → f.tier = 1 → f.pin = 0 → f.demoting = false → heat < bits cfg 63 56 →
       exec (.eagerDemotion i) s = .next (s.startDemotion f.part i .d (s.demoteTo f.part))) ∧
     (f.tier = 3 ∨ f.tier = 4 → s.objectMode f.part = false → bits cfg 55 48 ≤ heat →
       (s.folPart f.part).t1Use + 1 ≤ s.t1High f.part → s.t1Room f.part 1 = true → s.residentFolio f.part i = true →
       exec (.prefetchStart i) s = .next (s.startPromotion i .d))) ∧
  ((∀ (x : TierTarget) (tag : Bool) (p tier : Nat) (s : State), s.failedAt x = some (p, tier) → s.live = true →
     exec (.tierFailure x tag) s = .next ((s.countT3 p tier tag).tierFail x)) ∧
   (∀ (x : TierTarget) (p : Nat) (s : State), s.failedAt x = some (p, 3) → s.live = true →
     s.transferSince x + s.t3TimeoutNs ≤ s.now → exec (.t3Timeout x) s = .next ((s.countT3 p 3 false).tierFail x)) ∧
   (∀ (p : Nat) (tag : Bool) (s : State), (s.countT3 p 3 tag).flt.lines.getLast? = some (0xA1, { part := some p }) ∧
     s.countT3 p 4 tag = s) ∧
   (∀ (d : Nat) (x : Session) (o : ParkOp) (s : State), s.session? d = some x → x.parkOp = some o →
     s.tierFail (.quire d) = (s.abandonPark d).complete x.part o.verb .tierFailed) ∧
   (∀ (d : Nat) (x : Session) (o : ReviveOp) (s : State), s.session? d = some x → x.parkOp = none → x.revive = some o →
     s.tierFail (.quire d) = s.failRevive d .tierFailed) ∧
   (∀ (i : Nat) (f : Folio) (s : State), s.folio? i = some f → f.demoting = true →
     s.tierFail (.folio i) = (((s.setFolio i { f with demoting := false }).freeTier f.part f.target f.targetLoc).failPlace f.part
       i).pressureStep f.part) ∧
   (∀ (i : Nat) (f : Folio) (s : State), s.folio? i = some f → f.demoting = false → f.promoting = true → f.moveCls = .d →
     s.tierFail (.folio i) = (s.abandonPromotion i).count .folPrefetchFail f.part) ∧
   ∀ (p vid : Nat) (q : QueryOp) (s : State), s.query? p vid = some q →
     (s.tierFail (.query p vid)).query? p vid = some { q with t4Failed := true })

/-- WHEEL_TICK at a whole microsecond: the queues whose time has come are eligible again, those of the overflow list that the wheel now
reaches are on it, and the pointer stands at the microsecond modulo 65,536; nothing else changes before the text unit's scheduler
grants its free pipes. HIST_SAMPLE at every 100 microseconds takes one sample of each queue of every partition that is not in its
safe state. DRR_ROUND_START when a round is due: each privileged queue with work gains its quantum, a positive deficit of another is
lost. PORT_GRANT_END: requests whose work is over are gone, the queue of the grant that ends is charged, and of the requests that
may be served now the class that the port's window gives is served next: of its requests the one that its queues' order gives, as
far as one grant of the port reaches, and every class held back by the regulator is counted; without a request the port is idle. At
a link port the request granted is a lane's oldest frame, and it is sent on the link under the link's next counter and its key
phase. SCRUB_READ of a line that was corrected writes it back and reports it at its stack, and of an uncorrectable one reports it
with the partition whose share holds the channel, or, in a channel of no partition, as a line that the device reserves. COMPLETES,
with its own effect, under hypotheses on the state and the operands alone: exec answers a next state for wheelTick, histSample,
drrRoundStart, portGrantEnd and scrubRead. -/
def Obligations.ShapersAndPorts : Prop :=
  ((∀ s : State, s.live = true → s.now % 1000 = 0 →
     Does .wheelTick s fun v => ∃ t : State, v = t.grantText ∧
       (∀ e ∈ t.shp.wheel, s.now < e.2) ∧ (∀ e ∈ t.shp.overflow, s.now + wheelSpan < e.2) ∧ t.shp.wheelPos = s.now / 1000 % 65536 ∧
       (∀ q ∈ t.shp.ineligible, q ∈ s.shp.ineligible ∧ ∀ w, tget s.shp.wheel q = some w →
         (∀ e ∈ s.shp.overflow, e.1 ≠ q) → s.now < w) ∧
       t = { s with shp := { s.shp with wheel := t.shp.wheel, overflow := t.shp.overflow, ineligible := t.shp.ineligible,
                                        wheelPos := t.shp.wheelPos } }) ∧
   (∀ s : State, s.live = true → s.now % 100000 = 0 →
     exec .histSample s = .next ((List.range Config.partitions).foldl (fun t p =>
       if (t.recPart p).mode = .safe then t
       else (List.range (t.qcount p)).foldl (fun t i =>
         let l := t.queued p (t.qbase p + i)
         let delay := l.foldl (fun a v => max a (t.now - v.arrival)) 0
         (t.sampleBin .shpHistDepth (t.qbase p + i) (depthBin l.length) 0).sampleBin .shpHistDelay (t.qbase p + i) (delayBin delay) 16) t) s)) ∧
   ∀ (id : SchedId) (s : State), s.live = true → s.roundDue id (s.privWork id) = true →
     Does (.drrRoundStart id) s fun v => ∃ t : State, v = t.grantText ∧
       (∀ k, k < 8 → (t.sched id).deficit k =
         if (s.privWork id).contains k = true then (s.sched id).deficit k + (s.quantum k : Int) else min ((s.sched id).deficit k) 0) ∧
       (t.sched id).lastRound = s.now ∧ t = { s with shp := t.shp }) ∧
  ((∀ (id : PortId) (s : State), s.live = true → (∀ l, id ≠ .link l) →
     let u := (s.tidyPort id).endGrant id (s.port id).reqs
     let x := u.port id
     let z : Port := { x with reqs := x.reqs.filter fun r => u.waiting id r && (!u.held id || classRank r.cls ≤ classRank .b) }
     (nextGrant z = none → exec (.portGrantEnd id) s = .next (u.setPort id { x with cur := none })) ∧
     ∀ cls r, nextGrant z = some cls → u.pick id cls z.reqs = some r →
       let n := match grantBytes id with | some b => min b r.len | none => r.len
       exec (.portGrantEnd id) s = .next (u.setPort id
         { win := (cls :: x.win).take 32, reqs := takeGrant r n x.reqs, cur := some { r with len := n }, holds := z.countHolds cls })) ∧
   (∀ (l : Nat) (s : State), s.live = true →
     let x := s.port (.link l)
     let heads := (laneHeads x.reqs []).filter fun r => match r.frame with | some f => s.sendable l f | none => false
     let u := (s.endGrant (.link l) x.reqs).grantOf (.link l) heads
     ((u.port (.link l)).cur = none → exec (.portGrantEnd (.link l)) s = .next (u.modLink l fun y => { y with txFill := 0 })) ∧
     ∀ (r : PortReq) (f : Frame), (u.port (.link l)).cur = some r → r.frame = some f →
       Does (.portGrantEnd (.link l)) s fun t =>
         .frame l { f with frameCtr := (s.linkOf l).txFrames, keyPhase := (s.linkOf l).txPhase } ∈ t.out ∧
         (t.linkOf l).txFrames = (s.linkOf l).txFrames + 1) ∧
   ∀ (line : Nat) (s : State), s.live = true → 3 ≤ s.pwr.stage → line / channelLines < Config.hbmChannels →
     let c := line / channelLines
     let d : FaultDetail := { raw := at' line 80 + at' (c % 256) 72 }
     let owner := (List.range Config.partitions).find? fun p => (s.partImage p).part.hbm.contains c
     exec (.scrubRead line true false) s = .next ((s.emit (.hbmLine line)).raise (0x40 + c / 32) d) ∧
     exec (.scrubRead line false false) s = .next s ∧
     ∀ fixed,
       (owner = none → exec (.scrubRead line fixed true) s = .next (s.raise 0x58 d)) ∧
       ∀ p, owner = some p → exec (.scrubRead line fixed true) s = .next (s.raise (0x48 + c / 32) { d with part := some p }))

/-! ## Hand-off and checkpoint -/

/-- HANDOFF_SEND of a session that has none running. A session that is being parked or revived, or a partition without a pool key,
completes with BAD_STATE (log entry 22); a region that is not known or not granted with R, W and A, a record beyond it, a target
device that is no peer, or a CLAIM_US outside 10 to 1,000,000 with BAD_ARGUMENT; a quire larger than a slot with NO_CAPACITY. Else
the verb runs, and the first act of the hand-off is one read of the 16-byte ownership record from the region's host. While a
hand-off is sent, HANDOFF_POLL reads its record once POLL_US have passed since the last read, and HANDOFF_RECLAIM, once its deadline
has come, swaps the HANDOFF record for the sender's own at the next epoch but one. RECORD_RETRY makes a record operation again,
POLL_US after it was answered with FENCED, NO_ROUTE or BUSY. COMPLETES, with its own effect, under hypotheses on the state and the
operands alone: exec answers a next state for handoffSend, handoffPoll, handoffReclaim and recordRetry. -/
def Obligations.HandoffsSend : Prop :=
  (∀ (p vid : Nat) (v : Verb) (x : Session) (s : State), s.begun? p vid .handoffSend = some v → s.session? v.dir = some x →
     x.send = none →
     let us := v.f 0x28 4
     let target := unpackPair (v.f 0x24 2)
     (x.parkOp.isSome = true ∨ x.revive.isSome = true ∨ (s.keysOf p).plk = none →
       Does (.handoffSend p vid) s fun t => Ended s t p v .badState ∧ t = { s with hif := t.hif }) ∧
     (x.parkOp = none → x.revive = none → (s.keysOf p).plk.isSome = true →
       (s.region? (v.f 0x20 1) = none →
         Does (.handoffSend p vid) s fun t => Ended s t p v .badArgument ∧ t = { s with hif := t.hif }) ∧
       ∀ r, s.region? (v.f 0x20 1) = some r →
         let good := s.regionGranted p r = true ∧ v.f 0x22 2 < r.records ∧ s.fabSec.peers.any (fun y => y.id == target.1) = true ∧
           (us = 0 ∨ (10 ≤ us ∧ us ≤ 1000000))
         (¬ good → Does (.handoffSend p vid) s fun t => Ended s t p v .badArgument ∧ t = { s with hif := t.hif }) ∧
         let o : SendOp := { verb := vid, region := r.num, record := v.f 0x22 2, tdev := target.1, tpart := target.2,
                             claimUs := if us = 0 then s.claimDefault p else us, phase := .readRecord, tag := s.fab.nextTag }
         (good → r.slotBytes < slotUse (s.quireCount x) →
           Does (.handoffSend p vid) s fun t => Ended s t p v .noCapacity ∧ t = { s with hif := t.hif }) ∧
         (good → slotUse (s.quireCount x) ≤ r.slotBytes →
           Does (.handoffSend p vid) s fun t =>
             t.verb? p vid = some { v with phase := .running } ∧
             t.session? v.dir = some { x with send := some o } ∧
             t.awaits s.fab.nextTag (.send v.dir) (r.dev, r.part) 16 ∧
             t = { s with hif := t.hif, dir := t.dir, fab := t.fab, shp := t.shp, out := t.out }))) ∧
  ((∀ (d : Nat) (x : Session) (o : SendOp) (r : XRegion) (s : State), s.sendIn d .sent = some (x, o) → s.region? o.region = some r →
     (o.lastPoll + s.pollNs x.part ≤ s.now →
       Does (.handoffPoll d) s fun t =>
         t.session? d = some { x with send := some { o with lastPoll := s.now, tag := s.fab.nextTag, retry := none } } ∧
         t.awaits s.fab.nextTag (.send d) (r.dev, r.part) 16 ∧
         t = { s with dir := t.dir, fab := t.fab, shp := t.shp, out := t.out }) ∧
     (o.deadline ≤ s.now →
       Does (.handoffReclaim d) s fun t =>
         t.session? d = some { x with send := some { o with phase := .reclaim, tag := s.fab.nextTag, retry := none } } ∧
         t = (s.waitSend d (fun o => { o with phase := .reclaim }) (s.askCas (.send d) x.part r o.record (s.handoffRec x.part o)
           (s.ownedRec x.part (nextEpoch (nextEpoch o.epoch))))) ∧
         t.awaits s.fab.nextTag (.send d) (r.dev, r.part) 32 ∧
         t = { s with dir := t.dir, fab := t.fab, shp := t.shp, out := t.out })) ∧
   (∀ (d w : Nat) (x : Session) (o : SendOp) (s : State), s.live = true → s.session? d = some x → x.send = some o →
     o.retry = some w → w + s.pollNs x.part ≤ s.now → (o.phase = .writing → o.acksLeft = 0) → (∀ c ∈ s.ho.claims, c.retry = none) →
     exec (.recordRetry d) s = .next (s.sendAct d o.phase)) ∧
   ∀ (d w : Nat) (o : ClaimOp) (before after : List ClaimOp) (s : State), s.live = true → s.session? d = none →
     s.ho.claims = before ++ o :: after → (∀ c ∈ before ++ after, c.retry = none) → o.retry = some w → o.landed = none →
     w + s.pollNs o.part ≤ s.now → (o.phase = 2 → o.left = 0) →
     exec (.recordRetry d) s = .next (s.claimAct o.part o.verb o.phase))

/-- HANDOFF_CLAIM of a region that is not known or not granted, a record beyond it, or a QUEUE outside the partition's range completes
with BAD_ARGUMENT; else the verb runs, and the claim's first act is one read of the ownership record from the region's host.
COMPLETES, with its own effect, under hypotheses on the state and the operands alone: exec answers a next state for handoffClaim. -/
def Obligations.HandoffsClaim : Prop :=
  ∀ (p vid : Nat) (v : Verb) (s : State), s.begun? p vid .handoffClaim = some v → s.claim? p vid = none →
    (s.region? (v.f 0x20 1) = none →
      Does (.handoffClaim p vid) s fun t => Ended s t p v .badArgument ∧ t = { s with hif := t.hif }) ∧
    ∀ r, s.region? (v.f 0x20 1) = some r →
      let good := s.regionGranted p r = true ∧ s.queueIn p (v.f 0x26 2) = true ∧ v.f 0x22 2 < r.records
      (¬ good → Does (.handoffClaim p vid) s fun t => Ended s t p v .badArgument ∧ t = { s with hif := t.hif }) ∧
      (good → Does (.handoffClaim p vid) s fun t =>
        t.verb? p vid = some { v with phase := .running } ∧
        t.ho.claims = s.ho.claims ++ [{ part := p, verb := vid, region := r.num, record := v.f 0x22 2, queue := v.f 0x26 2, left := 1 }] ∧
        t.awaits s.fab.nextTag (.claim p vid) (r.dev, r.part) 16 ∧
        t = { s with hif := t.hif, ho := { s.ho with claims := t.ho.claims }, fab := t.fab, shp := t.shp, out := t.out })

/-- CKPT_TAKE in a partition that coordinates no group, or while a member is in a checkpoint or restore, lacks a CK, or changes its
composition, completes with BAD_STATE, and with a T_C too far ahead with BAD_ARGUMENT. Else the verb runs under the next SEQ and T_C
(0: the verb's own arrival), and every other member is sent the request. CKPT_REQUEST makes a member that is idle wait for its
consistency point. CONSISTENCY_POINT, when T_C has come and no step runs, captures the member and begins its copies; the held verbs
are released. CKPT_COMMIT in the phase of writing the colophon: CKPT_TAKE completes with OK, SEQ, T_C, the bytes and shards of the
reports and the number of members that cannot be reached; the member is idle again with the colophon in slot SEQ mod 2. A colophon
that could not be written ends the checkpoint at every member with TIER_FAILED. COMPLETES, with its own effect, under hypotheses on
the state and the operands alone: exec answers a next state for ckptTake, ckptRequest, consistencyPoint and ckptCommit. -/
def Obligations.CheckpointsTake : Prop :=
  ((∀ (p vid : Nat) (others : Bool) (v : Verb) (s : State), s.begun? p vid .ckptTake = some v →
     (s.group? p = none → Does (.ckptTake p vid others) s fun t => Ended s t p v .badState ∧ t = { s with hif := t.hif }) ∧
     ∀ g, s.group? p = some g → (s.fab.devId, p) ∈ g.members →
       let good := s.memberNo g p = 0 ∧ others = true ∧ s.changing = false ∧
         ∀ q ∈ s.localMembers g, (s.ckpOf q).phase = 0 ∧ (s.keysOf q).ck.isSome = true
       let tc := if v.f 0x20 8 = 0 then v.arrival else v.f 0x20 8
       let seq := (s.ckpOf p).seq + 1
       (¬ good → Does (.ckptTake p vid others) s fun t => Ended s t p v .badState ∧ t = { s with hif := t.hif }) ∧
       (good → v.arrival + tcLimit < tc →
         Does (.ckptTake p vid others) s fun t => Ended s t p v .badArgument ∧ t = { s with hif := t.hif }) ∧
       (good → tc ≤ v.arrival + tcLimit →
         Does (.ckptTake p vid others) s fun t =>
           t.verb? p vid = some { v with phase := .running } ∧
           t.ckpOf p = { s.ckpOf p with phase := 1, run := seq, tc := tc, written := 0, found := 0, verb := some vid, reports := [] } ∧
           (∀ m dev q, 0 < m → g.members[m]? = some (dev, q) →
             if dev = s.fab.devId then (q, CkptMsg.request seq tc) ∈ t.ckp.inbox else .ckpt m (.request seq tc) ∈ t.out) ∧
           t = { s with hif := t.hif, ckp := t.ckp, out := t.out })) ∧
   (∀ (p seq tc : Nat) (s : State), s.live = true → (s.group? p).isSome = true → (s.ckpOf p).phase = 0 →
     exec (.ckptRequest p seq tc) s = .next (s.setCkp p { s.ckpOf p with phase := 1, run := seq, tc := tc, written := 0, found := 0 })) ∧
   ∀ (p : Nat) (s : State), s.live = true → s.pointDue p = true →
     Does (.consistencyPoint p) s fun t => ∃ u : State, t = u.releaseHeld p ∧
       u.ckpOf p = { s.ckpOf p with phase := 2, capture := some (s.capture p), jobs := jobsOf (s.capture p), sectionsFrozen := true,
                                    announced := [], index := [], roots := [], indexed := false, reported := false } ∧
       u = { s with ckp := u.ckp, fol := u.fol, dir := u.dir }) ∧
  (∀ (p vid : Nat) (g : CkptGroup) (s : State), s.group? p = some g → (s.ckpOf p).verb = some vid → s.live = true →
     ((s.ckpOf p).phase ≠ 4 → exec (.ckptCommit p false) s = .next (s.endAll p .tierFailed)) ∧
     ∀ v, s.verb? p vid = some v → (s.ckpOf p).phase = 3 →
       let c := s.colophonOf p g
       let r := (s.ckpOf p).reports.map (·.2)
       Does (.ckptCommit p true) s fun t =>
         Ended s t p v .ok 0 [(0x20, 8, c.seq), (0x28, 8, c.tc), (0x30, 8, (r.map (·.units)).sum * shardBytes),
                              (0x38, 8, (r.map (·.found)).sum), (0x40, 2, (s.unreachable g).length)] ∧
         (t.ckpOf p).phase = 0 ∧ (t.ckpOf p).lastStatus = .ok ∧ (t.ckpOf p).seq = c.seq ∧
         tget (t.ckpOf p).slots (c.seq % 2) = some c ∧ (t.ckpOf p).capture = none ∧ (t.ckpOf p).verb = none)

/-- CKPT_RESTORE in a partition that does not coordinate a group whose members are empty, idle and keyed completes with BAD_STATE;
without the colophon asked for, or with more than two members lost, with TIER_FAILED; with one of another shape with BAD_STATE. Else
the verb runs and every member restores the colophon's SEQ. CKPT_RESTORE_DONE with a row of more than two erasures, or where the
tiers cannot hold the capture, ends the restore with TIER_FAILED; else the member's state is what it captured, and CKPT_RESTORE
completes with OK, SEQ and the number of members rebuilt. COMPLETES, with its own effect, under hypotheses on the state and the
operands alone: exec answers a next state for ckptRestore and ckptRestoreDone. -/
def Obligations.CheckpointsRestore : Prop :=
  (∀ (p vid : Nat) (others : Bool) (seen : List (Nat × Colophon)) (v : Verb) (s : State), s.begun? p vid .ckptRestore = some v →
    (s.group? p = none → Does (.ckptRestore p vid others seen) s fun t => Ended s t p v .badState ∧ t = { s with hif := t.hif }) ∧
    ∀ g, s.group? p = some g →
      let ready := s.memberNo g p = 0 ∧ others = true ∧ ∀ q ∈ s.localMembers g, s.memberReady q = true
      let l := s.colophons g seen
      (¬ ready → Does (.ckptRestore p vid others seen) s fun t => Ended s t p v .badState ∧ t = { s with hif := t.hif }) ∧
      (ready → pickColophon (v.f 0x20 8) l = none →
        Does (.ckptRestore p vid others seen) s fun t => Ended s t p v .tierFailed ∧ t = { s with hif := t.hif }) ∧
      ∀ c, ready → pickColophon (v.f 0x20 8) l = some c →
        (s.shapeOk g c = false →
          Does (.ckptRestore p vid others seen) s fun t => Ended s t p v .badState ∧ t = { s with hif := t.hif }) ∧
        (s.shapeOk g c = true → 2 < (s.lostMembers g l c).length →
          Does (.ckptRestore p vid others seen) s fun t => Ended s t p v .tierFailed ∧ t = { s with hif := t.hif }) ∧
        (s.shapeOk g c = true → (s.lostMembers g l c).length ≤ 2 →
          Does (.ckptRestore p vid others seen) s fun t =>
            t.verb? p vid = some { v with phase := .running } ∧
            t.ckpOf p = { s.ckpOf p with
              phase := 4, run := c.seq, tc := c.tc, verb := some vid, lost := s.lostMembers g l c,
              chains := (List.range c.rows).flatMap fun r => (s.lostMembers g l c).map fun m => (r, m) } ∧
            t = { s with hif := t.hif, ckp := t.ckp, out := t.out })) ∧
  ∀ (p : Nat) (s : State), s.live = true → (s.ckpOf p).phase = 4 →
    exec (.ckptRestoreDone p false) s = .next (s.abortCkpt p .tierFailed) ∧
    ((s.ckpOf p).chains = [] → (s.ckpOf p).verb = none →
      (s.install p (s.captureOf p) = none → exec (.ckptRestoreDone p true) s = .next (s.abortCkpt p .tierFailed)) ∧
      ∀ u, s.install p (s.captureOf p) = some u →
        Does (.ckptRestoreDone p true) s fun t => t = { u with ckp := t.ckp } ∧
          t.ckpOf p = { u.ckpOf p with phase := 0, lastStatus := .ok, seq := (s.ckpOf p).run, verb := none, lost := [], chains := [],
                                       degraded := s.rebuilt p != 0 }) ∧
    ∀ (vid : Nat) (v : Verb) (g : CkptGroup) (u : State), (s.ckpOf p).chains = [] → (s.ckpOf p).verb = some vid → s.group? p = some g →
      (∀ q ∈ s.localMembers g, q ≠ p → (s.ckpOf q).phase ≠ 4) → s.install p (s.captureOf p) = some u → u.verb? p vid = some v →
      Does (.ckptRestoreDone p true) s fun t => Ended u t p v .ok 0 [(0x20, 8, (s.ckpOf p).run), (0x40, 2, s.rebuilt p)] ∧
        (t.ckpOf p).phase = 0 ∧ (t.ckpOf p).seq = (s.ckpOf p).run ∧ t = { u with hif := t.hif, ckp := t.ckp }

/-- SHARD_TRANSFER of each message of the checkpoint engine. The owner answers a digest that one of its rows holds with that row and
counts the reference, and one that it does not hold with the wish for the shard; a shard that it does not hold goes into its next
free row, and the holders of P and Q are sent the change; a holder of P adds the change, a holder of Q adds it multiplied by its
position's coefficient; the reports gather, and with the last one the coordinator may write the colophon; a member that is idle
takes the request and the restore. COMPLETES, with its own effect, under hypotheses on the state and the operands alone: exec
answers a next state for shardTransfer. -/
def Obligations.ShardTransfers : Prop :=
  ∀ (p : Nat) (g : CkptGroup) (s : State), s.live = true → s.group? p = some g →
    let k := s.ckpOf p
    let n := g.members.length
    let me := s.memberNo g p
    (∀ seq tc, k.phase = 0 → exec (.shardTransfer p (.request seq tc)) s =
      .next (s.setCkp p { k with phase := 1, run := seq, tc := tc, written := 0, found := 0 })) ∧
    (∀ seq, k.phase = 0 → exec (.shardTransfer p (.restore seq)) s = .next (s.setCkp p { k with phase := 4, run := seq })) ∧
    (∀ src dg kind place, k.phase = 1 ∨ k.phase = 2 ∨ k.phase = 3 →
      (k.rowOf dg = none → exec (.shardTransfer p (.digest src dg kind place)) s = .next (s.tellMember p src (.answer dg none))) ∧
      ∀ r, k.rowOf dg = some r →
        exec (.shardTransfer p (.digest src dg kind place)) s = .next ((s.setCkp p (k.refer r)).tellMember p src (.answer dg (some r)))) ∧
    (∀ src x ck, k.phase = 1 ∨ k.phase = 2 ∨ k.phase = 3 → (s.keysOf p).ck = some ck → k.rowOf (sha384 x.data) = none →
      ((List.range g.reserve).find? (fun r => k.rowFree n me r) = none →
        exec (.shardTransfer p (.shard src x)) s = .next (s.abortCkpt p .noCapacity)) ∧
      ∀ r, (List.range g.reserve).find? (fun r => k.rowFree n me r) = some r →
        let data := (sealShard ck (sha384 x.data) x.data).1
        let change : CkptMsg := .parity r ((dataIndex n r me).getD 0) (gfAdd data (tgetD k.rows r {}).data)
        exec (.shardTransfer p (.shard src x)) s = .next
          ((((s.writeUnit p r { digest := some (sha384 x.data), data := data }).tellMember p (pHolder n r) change).tellMember p
            (qHolder n r) change).tellMember p src (.answer (sha384 x.data) (some r)))) ∧
    (∀ r j delta, k.phase = 1 ∨ k.phase = 2 ∨ k.phase = 3 →
      let u := tgetD k.rows r {}
      (me = pHolder n r → exec (.shardTransfer p (.parity r j delta)) s =
        .next (s.writeUnit p r { u with data := gfAdd u.data delta })) ∧
      (me ≠ pHolder n r → me = qHolder n r → exec (.shardTransfer p (.parity r j delta)) s =
        .next (s.writeUnit p r { u with data := gfAdd u.data (gfScale (gfPow j) delta) }))) ∧
    (∀ src r, k.phase = 2 ∨ k.phase = 3 → k.verb.isSome = true → exec (.shardTransfer p (.commitReport src r)) s =
      .next (s.setCkp p { k with reports := tput k.reports src r,
                                 phase := if (tput k.reports src r).length = n then 3 else k.phase })) ∧
    (∀ c, exec (.shardTransfer p (.colophon c)) s = .next (s.takeColophon p c)) ∧
    (∀ src st, me ≠ 0 → exec (.shardTransfer p (.ended src st)) s = .next (s.endMember p st))

/-! ## Fabric -/

/-- Links. FLIT_RX on a link whose flits count: an uncorrectable flit, or one whose header breaks Table 12.2, is answered with a NAK; a
header flit only acknowledges and returns credits; a data flit in sequence is acknowledged and its frames, or its control frames,
are taken; one out of sequence carries nothing (R246, R247). LINK_DOWN counts and reports the loss and takes the link down, keys and
credits gone (R266); LINK_RETRY trains it again after 100 ms; LINK_TRAINED begins discovery; HELLO and AUTH go on to UP, with
credits and counters at their start and a SYNC exchange that measures the link, or to MISMATCH (R258). KEY_UPDATE takes the peer's
new phase, KEY_UPDATE_SEND turns this side's once its frames are used up (R256). A control frame leaves at once where nothing waits
before it, its credits of lane 0 are there and the replay buffer has room, and waits else (R247, R253). COMPLETES, with its own
effect, under hypotheses on the state and the operands alone: exec answers a next state for flitRx, linkDown, linkRetry,
linkTrained, hello, auth, keyUpdate and keyUpdateSend. -/
def Obligations.LinksComeAndGo : Prop :=
  (∀ (l : Nat) (f : Flit) (s : State), s.pwr.pwrok = true → (s.linkOf l).state ∈ [LinkState.up, .authenticating, .mismatch] →
    let x := s.linkOf l
    (f.uncorrectable = true → Does (.flitRx l f) s fun t => (t.linkOf l) = { x with uncorrRun := x.uncorrRun + 1, naking := true } ∧
      t.out = s.out ++ [.nakFlit l x.rxSeq] ∧ (∀ k, k ≠ l → t.linkOf k = s.linkOf k) ∧ t.fab.inbox = s.fab.inbox) ∧
    (f.uncorrectable = false → flitOk f = false →
      exec (.flitRx l f) s = .next ((s.setLink l { x with naking := true }).emit (.nakFlit l x.rxSeq))) ∧
    (f.uncorrectable = false → flitOk f = true → f.kind = 0 → exec (.flitRx l f) s = .next (s.takeHeader l f)) ∧
    (f.uncorrectable = false → flitOk f = true → f.kind ≠ 0 → f.seq ≠ (x.rxSeq + 1) % 4096 →
      exec (.flitRx l f) s = .next (s.setLink l { x with lastValid := s.now, uncorrRun := 0 })) ∧
    (f.uncorrectable = false → flitOk f = true → f.kind ≠ 0 → f.seq = (x.rxSeq + 1) % 4096 → Does (.flitRx l f) s fun t =>
      ∃ u : State, (u.linkOf l).rxSeq = f.seq ∧ (u.linkOf l).naking = false ∧
        t = (if f.kind = 2 then (u.emit (.ackFlit l f.seq)).takeCtrls l f.ctrl
             else if x.state = .up then (u.emit (.ackFlit l f.seq)).takeFrames l f.frames else u.emit (.ackFlit l f.seq)))) ∧
  (∀ (l : Nat) (s : State), s.pwr.pwrok = true → (s.linkOf l).state = .up ∨ (s.linkOf l).state = .authenticating → s.linkLost l = true →
    Does (.linkDown l) s fun t => (t.linkOf l).state = .down ∧ (t.linkOf l).keyed = false ∧ (t.linkOf l).replay = [] ∧
      (t.linkOf l).credits = [] ∧ (t.linkOf l).downSince = s.now ∧ (quadSource l) ∈ t.flt.lines.map (·.1) ∧
      t.reg .fabDowns l = s.reg .fabDowns l + 1) ∧
  (∀ (l : Nat) (s : State), s.pwr.pwrok = true → (s.linkOf l).state = .down ∨ (s.linkOf l).state = .training →
    (s.now < (s.linkOf l).downSince + 100000000 → exec (.linkRetry l) s = .next s) ∧
    ((s.linkOf l).downSince + 100000000 ≤ s.now → s.pwr.clockLost.contains (quadDomain (l / 4)) = false →
      exec (.linkRetry l) s = .next (s.setLink l { s.linkOf l with state := .training, downSince := s.now }))) ∧
  (∀ (l : Nat) (s : State), s.pwr.pwrok = true → s.linkActive l = true → (s.linkOf l).state = .training → 7 ≤ s.pwr.stage →
    Does (.linkTrained l) s fun t => t.out = s.out ++ [.hello l { uid := s.sec.uid, id := s.fab.devId, link := l, digest := s.membership }] ∧
      (t.linkOf l).state = .authenticating ∧ (t.linkOf l).keyed = false ∧ (t.linkOf l).helloOk = false ∧ (t.linkOf l).txSeq = 1 ∧
      (t.linkOf l).rxSeq = 4095 ∧ (t.linkOf l).credits = [(0, 31)] ∧ (∀ k, k ≠ l → t.linkOf k = s.linkOf k)) ∧
  (∀ (l : Nat) (m : HelloMsg) (s : State), s.pwr.pwrok = true →
    (s.linkOf l).state = .authenticating ∨ (s.linkOf l).state = .mismatch →
    let pass := m.digest = s.membership ∧ (∃ x ∈ s.fabSec.peers, x.uid = m.uid ∧ x.id = m.id) ∧
      ((s.linkRow l).peerId = 0xFFF ∨ (s.linkRow l).peerId = m.id ∧ (s.linkRow l).peerLink = m.link)
    (pass → exec (.hello l m) s = .next ((s.setLink l { s.linkOf l with
      state := .authenticating, helloOk := true, peerId := m.id, peerLink := m.link, peerUid := m.uid, lastValid := s.now }).sendCtrl
        l .auth)) ∧
    (¬ pass → exec (.hello l m) s = .next (s.setLink l { s.linkOf l with state := .mismatch, helloOk := false }))) ∧
  (∀ (l uid : Nat) (secret : BitVec 384) (ok : Bool) (s : State), s.pwr.pwrok = true → (s.linkOf l).state = .authenticating →
    (s.linkOf l).helloOk = true →
    let x := s.linkOf l
    (ok = false ∨ uid ≠ x.peerUid →
      exec (.auth l uid secret ok) s = .next (s.setLink l { x with state := .mismatch, helloOk := false })) ∧
    (ok = true → uid = x.peerUid → exec (.auth l uid secret ok) s = .next ((s.setLink l { x with
      state := .up, keyed := true, secret := secret, measuring := true,
      credits := tput (s.startCredits l) 0 (tgetD x.credits 0 0), txPhase := false, rxPhase := false, txFrames := 0,
      txUpdates := 0, rxUpdates := 0, rxOldLeft := 0, lastValid := s.now }).sendCtrl l (.syncReq s.now)))) ∧
  (∀ (l : Nat) (ph : Bool) (s : State), s.pwr.pwrok = true → (s.linkOf l).state = .up →
    let x := s.linkOf l
    exec (.keyUpdate l ph) s = .next
      (if ph = x.rxPhase then s else s.setLink l { x with rxPhase := ph, rxOldLeft := 1024, rxUpdates := x.rxUpdates + 1 }) ∧
    (x.txFrames < keyFrames ∨ s.ctrlSendable l (.keyUpdate (!x.txPhase)) = false → exec (.keyUpdateSend l) s = .next s) ∧
    (keyFrames ≤ x.txFrames → s.ctrlSendable l (.keyUpdate (!x.txPhase)) = true → Does (.keyUpdateSend l) s fun t =>
      (t.linkOf l).txPhase = !x.txPhase ∧ (t.linkOf l).txFrames = 0 ∧ (t.linkOf l).txUpdates = x.txUpdates + 1 ∧
      t.out = s.out ++ [.keyUpdate l (!x.txPhase)] ∧ (∀ k, k ≠ l → t.linkOf k = s.linkOf k))) ∧
  ∀ (l : Nat) (c : Ctrl) (s : State), (s.linkOf l).ctrlWait = [] →
    (s.ctrlSendable l c = true → (s.sendCtrl l c).out = s.out ++ [ctrlOut l c] ∧ ((s.sendCtrl l c).linkOf l).ctrlWait = [] ∧
      tgetD ((s.sendCtrl l c).linkOf l).credits 0 0 = tgetD (s.linkOf l).credits 0 0 - ctrlUnits c) ∧
    (s.ctrlSendable l c = false → (s.sendCtrl l c).out = s.out ∧ (s.sendCtrl l c).linkOf l = { s.linkOf l with ctrlWait := [c] })

/-- Routes and time. LSA is acknowledged, after a switch that is due (log entry 19); a newer one is stored and goes out on the other UP
links, and the latest SWITCH_AT stands (R259, R260); LSA_ACK ends its repetition, LSA_RESEND repeats it after 50 µs. ROUTE_SWITCH
puts the tables made from the advertisements in force with the other generation, and ROUTE_TABLE_RETIRE drops the old ones once no
frame of theirs has waited for 10 µs (R262). SYNC_TIMER asks the parent every millisecond, SYNC_REQ answers with the time. SYNC_RSP
of a link that is measured gives its round trip and its delay, and the links are advertised; one of the parent gives half the
difference of the two ways as the offset, and the timebase steps, modulo 2^64, or slews (R5, R258, R268; log entry 19). COMPLETES,
with its own effect, under hypotheses on the state and the operands alone: exec answers a next state for lsa, lsaAck, lsaResend,
routeSwitch, routeTableRetire, syncTimer, syncReq and syncRsp. -/
def Obligations.RoutesAndTime : Prop :=
  (∀ (l : Nat) (m : LsaMsg) (s : State), s.pwr.pwrok = true → (s.linkOf l).state = .up → s.switchDue = false →
    let t := s.sendCtrl l (.lsaAck m.origin m.seq)
    let new := ∀ x, tget s.fab.lsas m.origin = some x → newer32 m.seq x.seq = true
    (¬ new → exec (.lsa l m) s = .next t) ∧
    (new → Does (.lsa l m) s fun u => u.fab.lsas = tput s.fab.lsas m.origin m ∧
      u.fab.switchAt = some (max (s.fab.switchAt.getD 0) m.switchAt) ∧
      (∀ k, k ≠ l → k ∈ s.upLinks → (k, m, s.now) ∈ u.fab.unacked) ∧
      ∃ v : State, v = { t with fab := { t.fab with lsas := v.fab.lsas, switchAt := v.fab.switchAt } } ∧
        u = (v.upLinks.filter (· != l)).foldl (fun w k => w.sendLsa m k) v)) ∧
  (∀ (l : Nat) (m : LsaMsg) (s : State), s.pwr.pwrok = true → (s.linkOf l).state = .up → s.switchDue = true →
    exec (.lsa l m) s = exec (.lsa l m) s.switchRoutes) ∧
  (∀ (l origin seq : Nat) (s : State), exec (.lsaAck l origin seq) s = .next { s with fab := { s.fab with
    unacked := s.fab.unacked.filter fun e => !(e.1 == l && e.2.1.origin == origin && e.2.1.seq == seq) } }) ∧
  (∀ (l origin since : Nat) (m : LsaMsg) (s : State), s.pwr.pwrok = true → (s.linkOf l).state = .up →
    s.fab.unacked.find? (fun e => e.1 == l && e.2.1.origin == origin) = some (l, m, since) →
    exec (.lsaResend l origin) s = .next (if s.now < since + 50000 then s else s.sendLsa m l)) ∧
  (∀ s : State, s.pwr.pwrok = true →
    (s.switchDue = false → exec .routeSwitch s = .next s) ∧
    (s.switchDue = true → Does .routeSwitch s fun t => t.fab.routeGen = !s.fab.routeGen ∧ t.fab.oldRoutes = some s.fab.routes ∧
      t.fab.switchAt = none ∧ t.fab.lsas = s.fab.lsas ∧ t.reg .fabSwitches = s.reg .fabSwitches + 1)) ∧
  (∀ (s : State) (r : Tab Route) (i : Nat), s.pwr.pwrok = true → s.fab.oldRoutes = some r → s.fab.oldIdleSince = some i →
    exec .routeTableRetire s = .next (if s.now < i + 10000 then s
      else { s with fab := { s.fab with oldRoutes := none, oldIdleSince := none, oldTree := [] } })) ∧
  (∀ (l : Nat) (s : State), s.pwr.pwrok = true → s.parentLink = some l →
    exec .syncTimer s = .next (if s.now < s.fab.lastSync + 1000000 then s
      else ({ s with fab := { s.fab with lastSync := s.now } } : State).sendCtrl l (.syncReq s.now))) ∧
  (∀ (l t1 t2 : Nat) (s : State), s.pwr.pwrok = true → (s.linkOf l).state = .up →
    exec (.syncReq l t1 t2) s = .next (s.sendCtrl l (.syncRsp t1 t2 s.now))) ∧
  ∀ (l t1 t2 t3 t4 : Nat) (s : State), s.pwr.pwrok = true → (s.linkOf l).state = .up →
    let x := s.linkOf l
    let rtt := (t4 - t1) - (t3 - t2)
    let off : Int := Int.tdiv (((t2 : Int) - t1) - ((t4 : Int) - t3)) 2
    (s.fab.hasParent = false ∨ x.peerId ≠ s.fab.parent → exec (.syncRsp l t1 t2 t3 t4) s = .next
      (if x.measuring = true then (s.setLink l { x with rtt := rtt, delay := rtt / 2, measuring := false }).flood else s)) ∧
    (s.fab.hasParent = true → x.peerId = s.fab.parent → Does (.syncRsp l t1 t2 t3 t4) s fun t => t.fab.offset = off ∧ t.fab.firstSync = true ∧
      (s.mayStep = true → (t.now : Int) = (s.now + off) % (two64 : Int) ∧ t.fab.rateAdj = 0) ∧
      (s.mayStep = false → t.now = s.now ∧ t.fab.rateAdj = max (-20000) (min 20000 (off * 100))) ∧
      (s.fab.depth ≤ 12 → off.natAbs ≤ 50 → s.pwr.clockLost.contains 37 = false → t.fab.sync = 1) ∧
      (12 < s.fab.depth → s.pwr.clockLost.contains 37 = false → t.fab.sync = 3))

/-- Requests from the fabric. A frame of READ_REQ, WRITE_REQ or CAS_REQ leaves the inbox, a CAS_REQ only as the first of those that wait
for its location (R251), and is answered: STALE outside the window; one that Table 12.6 turns away with its error, a duplicate too;
one applied before is counted, answered again, and changes nothing; the others read, write or, if the bytes compare equal and the
record may make that move (Table 13.4), swap (R250 to R253, R278). SHARD_REQ waits for all its frames and for a slot of a walk pipe,
and is then judged and searched. COMPLETES, with its own effect, under hypotheses on the state and the operands alone: exec answers
a next state for readReq, writeReq, casReq and shardReq. -/
def Obligations.RequestsAreServed : Prop :=
  (∀ (f : Frame) (s : State), s.live = true → s.fab.inbox.any (sameFrame f) = true →
    let t : State := { s with fab := { s.fab with inbox := eraseFirst (sameFrame f) s.fab.inbox } }
    let w := s.window f.src.1
    let seen := t.setWindow f.src.1 (w.see f.e2eSeq)
    let taken := t.setWindow f.src.1 ((w.see f.e2eSeq).mark f.e2eSeq)
    let p := f.dst.2
    let found := leNat (mreads (s.spnOf p).hbm f.offset 16)
    let bytes := mreads (s.spnOf p).hbm f.offset (64 * f.len)
    (f.type = tyCasReq → s.inTurn f = false → exec (.casReq f) s = .next s) ∧
    (∀ e ∈ [(Instr.readReq f, tyReadReq, false), (.writeReq f, tyWriteReq, false), (.casReq f, tyCasReq, ownReclaim s f)],
      f.type = e.2.1 → (f.type = tyCasReq → s.inTurn f = true) →
      (w.stale f.e2eSeq = true → exec e.1 s = .next (t.respond f tyErrorRsp [] 6)) ∧
      (w.stale f.e2eSeq = false → t.requestError f e.2.2 ≠ .none →
        exec e.1 s = .next ((if w.dup f.e2eSeq = true then seen.count .fabDup else seen).respond f tyErrorRsp []
          (fabErrCode (t.requestError f e.2.2)))) ∧
      (w.stale f.e2eSeq = false → w.dup f.e2eSeq = false → t.requestError f e.2.2 = .none → t.applyError f ≠ .none →
        exec e.1 s = .next (seen.respond f tyErrorRsp [] (fabErrCode (t.applyError f))))) ∧
    (w.stale f.e2eSeq = false → w.dup f.e2eSeq = true →
      (f.type = tyReadReq → t.requestError f false = .none → exec (.readReq f) s = .next
        (if t.poisoned f = true then (seen.count .fabDup).respond f tyErrorRsp [] 4
         else (seen.count .fabDup).respond f tyReadRsp bytes 0)) ∧
      (f.type = tyWriteReq → t.requestError f false = .none →
        exec (.writeReq f) s = .next ((seen.count .fabDup).respond f tyWriteAck [] 0)) ∧
      (f.type = tyCasReq → s.inTurn f = true → t.requestError f (ownReclaim s f) = .none →
        ∀ v done, s.fab.casStore.find? (fun e => e.1 == f.src.1 && e.2.1 == f.e2eSeq) = some (f.src.1, f.e2eSeq, v, done) →
        exec (.casReq f) s = .next ((seen.count .fabDup).respond f tyCasRsp (natLe 16 v) done.toNat))) ∧
    (w.stale f.e2eSeq = false → w.dup f.e2eSeq = false →
      (f.type = tyReadReq → t.requestError f false = .none → t.applyError f = .none →
        exec (.readReq f) s = .next (taken.respond f tyReadRsp bytes 0)) ∧
      (f.type = tyWriteReq → t.requestError f false = .none → t.applyError f = .none → Does (.writeReq f) s fun u =>
        mreads (u.spnOf p).hbm f.offset f.payload.length = f.payload ∧
        (∀ b, b < f.offset ∨ f.offset + f.payload.length ≤ b → mread (u.spnOf p).hbm b = mread (s.spnOf p).hbm b) ∧
        (∀ q, q ≠ p → u.spnOf q = s.spnOf q) ∧
        u = ((taken.touchSlots f).setSpn p { s.spnOf p with
          hbm := (u.spnOf p).hbm, poison := rewritten f.offset f.payload.length (s.spnOf p).poison }).respond f tyWriteAck [] 0) ∧
      (f.type = tyCasReq → s.inTurn f = true → t.requestError f (ownReclaim s f) = .none → t.applyError f = .none →
        let swaps := recordMove s.now f.src (casCompare f) (casSwap f) = true ∧ found = casCompare f
        Does (.casReq f) s fun u =>
          (swaps → leNat (mreads (u.spnOf p).hbm f.offset 16) = casSwap f % 256 ^ 16) ∧
          (¬ swaps → (u.spnOf p).hbm = (s.spnOf p).hbm) ∧
          (∀ b, b < f.offset ∨ f.offset + 16 ≤ b → mread (u.spnOf p).hbm b = mread (s.spnOf p).hbm b) ∧
          (∀ q, q ≠ p → u.spnOf q = s.spnOf q) ∧
          (recordMove s.now f.src (casCompare f) (casSwap f) = false →
            u = ((taken.countSat .folXchRefused p).keepCas f found false).respond f tyCasRsp (natLe 16 found) 0)))) ∧
  ∀ (f : Frame) (s : State), s.live = true → s.fab.inbox.any (sameFrame f) = true → f.type = tyShardReq →
    let l := s.shardFrames f
    let t : State := { s with fab := { s.fab with inbox := s.fab.inbox.filter fun g => !l.contains g } }
    (shardWhole l = none ∨ s.freeSlots = 0 → exec (.shardReq f) s = .next s) ∧
    (∀ b first, shardWhole l = some b → l.find? (fun g => g.index == 0) = some first → s.freeSlots ≠ 0 →
      exec (.shardReq f) s = .next (match t.judgeAll l with
        | (.refuse e, v) => v.refuseFrame first e
        | (.again, v) => v
        | (.apply, v) => v.shardSearch first b)) ∧
    ∀ g, t.judgeAll [g] = t.judgeShard g

/-- Responses. READ_RSP, WRITE_ACK, CAS_RSP, SHARD_RSP and ERROR_RSP leave the inbox, answer one frame of the request that they name, or
are dropped where there is none; a request that is over leaves the device's list and its asker goes on. An ERROR_RSP is counted
against the partition (R157, R250, R252). COMPLETES, with its own effect, under hypotheses on the state and the operands alone: exec
answers a next state for readRsp, writeAck, casRsp, shardRsp and errorRsp. -/
def Obligations.ResponsesAreTaken : Prop :=
  ∀ (f : Frame) (s : State), s.live = true → s.fab.inbox.any (sameFrame f) = true →
    ∀ e ∈ [(Instr.readRsp f, tyReadRsp, [(f.index, f.payload)]), (.writeAck f, tyWriteAck, []),
        (.casRsp f, tyCasRsp, ((0, f.payload) :: if f.error % 2 = 1 then [(1, [])] else [])),
        (.shardRsp f, tyShardRsp, [(f.index, f.payload)]), (.errorRsp f, tyErrorRsp, ([] : List (Nat × Bytes)))],
      let t0 : State := { s with fab := { s.fab with inbox := eraseFirst (sameFrame f) s.fab.inbox } }
      let t := if f.type = tyErrorRsp then t0.countSat .fabPartErr f.dst.2 else t0
      (f.type ≠ e.2.1 → exec e.1 s = .next s) ∧
      (f.type = e.2.1 → s.requestOf f = none → exec e.1 s = .next t) ∧
      (∀ r, f.type = e.2.1 → s.requestOf f = some r →
        let r' := answered r f e.2.2
        (r'.ended = false → exec e.1 s = .next (({ t with fab := { t.fab with
          requests := lmod (fun (x : Request) => x.tag == r'.tag) (fun _ => r') t.fab.requests } } : State).pump r'.dst.1 4096)) ∧
        (r'.ended = true → exec e.1 s = .next ((({ t with fab := { t.fab with
          requests := t.fab.requests.filter fun x => x.tag != r'.tag } } : State).pump r'.dst.1 4096).dispatchReply r')))

/-! ## Flash -/

/-- Flash. NAND_READ_DONE counts the read of the unit's block and asks for its refresh at the read limit or at too many corrections; one
that could not be corrected after 8 retries raises the channel's source, moves the other units of its block and fails the unit's
readers (R294, R295). A read that was issued before the unit moved is one of its old place (R292). NAND_PROGRAM_DONE puts the unit
into a block in use, or a free one of the fewest erases (R293), and leaves its old place; NAND_ERASE_DONE empties a block that holds
none, and that no read uses, and adds 1 to its count; either one, failing, raises the source and retires the block (R296).
RELOCATION_COMMIT moves a unit in the map, and its old place stays for reads issued before, or drops one freed meanwhile (R292). No
other channel changes. Flash housekeeping. GC_START moves the block that holds the fewest units, in class C below 2 % of erased
blocks and else in class D; STATIC_LEVEL moves a block whose erase count is more than WEAR_GAP below the mean; READ_REFRESH moves a
block whose refresh is due; PATROL_READ looks at a block every PATROL_DAYS (R293, R294, R297). Each unit that moves asks its
channel's port for its read and its write in the class of the move (R225), and a unit of that block on its way in class D goes on in
class C where C is asked. A register of the window of tier 3 takes its value only while no frame of it is in use, and otherwise
LOCKED is set (Table 14.9). COMPLETES, with its own effect, under hypotheses on the state and the operands alone: exec answers a
next state for nandReadDone, nandProgramDone, nandEraseDone, relocationCommit, gcStart, staticLevel, readRefresh, patrolRead and
hifT3Write. -/
def Obligations.FlashWorks : Prop :=
  ((∀ (c unit worst n k : Nat) (s : State), s.chanUp c = true → tget (s.chanOf c).map unit = some k →
     let b := ((s.oldPlace c unit).map (·.block)).getD k
     Does (.nandReadDone c unit worst n true) s fun t =>
       ((t.chanOf c).block b).reads = ((s.chanOf c).block b).reads + 1 ∧
       ((t.chanOf c).block b).refreshAt = refreshClass s.readLimit s.refreshBits
         { (s.chanOf c).block b with reads := ((s.chanOf c).block b).reads + 1 } worst ∧
       (t.chanOf c).map = (s.chanOf c).map ∧ t.reg .nvfUnitsRd c = s.reg .nvfUnitsRd c + 1 ∧
       t = { s with nvf := t.nvf, regs := t.regs, stamps := t.stamps, flt := t.flt } ∧ (∀ e, e ≠ c → t.chanOf e = s.chanOf e)) ∧
   (∀ (c unit worst n k : Nat) (s : State), s.chanUp c = true → tget (s.chanOf c).map unit = some k →
     Does (.nandReadDone c unit worst n false) s fun t => ∃ u : State,
       0x60 + c ∈ u.flt.lines.map (·.1) ∧ (s.oldPlace c unit = none → ∀ r ∈ (u.chanOf c).relocs, r.unit ≠ unit) ∧
       t = (u.unitReaders c unit).foldl (fun t e => t.tierFail e) u) ∧
   (∀ (c unit b : Nat) (s : State), s.chanUp c = true → (s.chanOf c).state ≠ .readOnly → b < (s.chanOf c).nblocks →
     ((s.chanOf c).block b).retired = false → unit ∈ (s.chanOf c).alloc →
     (((s.chanOf c).block b).programmed = true ∨
       ∀ j ∈ (s.chanOf c).freeBlocks, ((s.chanOf c).block b).erases ≤ ((s.chanOf c).block j).erases) →
     (Does (.nandProgramDone c unit b true) s fun t => tget (t.chanOf c).map unit = some b ∧ unit ∈ ((t.chanOf c).block b).units ∧
       ((t.chanOf c).block b).programmed = true ∧ (t.chanOf c).wseq = (s.chanOf c).wseq + 1 ∧
       tget (t.chanOf c).seqs unit = some ((s.chanOf c).wseq + 1) ∧
       (∀ k, tget (s.chanOf c).map unit = some k → k ≠ b → unit ∉ ((t.chanOf c).block k).units) ∧
       (∀ v, v ≠ unit → tget (t.chanOf c).map v = tget (s.chanOf c).map v) ∧
       t.reg .nvfUnitsWr c = s.reg .nvfUnitsWr c + 1 ∧ (∀ e, e ≠ c → t.chanOf e = s.chanOf e)) ∧
     (Does (.nandProgramDone c unit b false) s fun t => ((t.chanOf c).block b).retired = true ∧
       (t.chanOf c).map = (s.chanOf c).map ∧ 0x60 + c ∈ t.flt.lines.map (·.1) ∧
       (t.chanOf c).spare = (s.chanOf c).spare - 1 ∧ (∀ e, e ≠ c → t.chanOf e = s.chanOf e))) ∧
   (∀ (c b : Nat) (s : State), s.chanUp c = true → b < (s.chanOf c).nblocks → ((s.chanOf c).block b).programmed = true →
     ((s.chanOf c).block b).retired = false → ((s.chanOf c).block b).units = [] → (∀ r ∈ (s.chanOf c).relocs, r.src ≠ b) →
     (s.oldReads c b = true → ∀ ok, exec (.nandEraseDone c b ok) s = .next s) ∧ (s.oldReads c b = false →
     Does (.nandEraseDone c b true) s fun t => (t.chanOf c).block b = { erases := ((s.chanOf c).block b).erases + 1 } ∧
       (∀ k, k ≠ b → (t.chanOf c).block k = (s.chanOf c).block k) ∧ t.reg .nvfErases c = s.reg .nvfErases c + 1 ∧
       t = { s with nvf := t.nvf, regs := t.regs }) ∧
     (s.oldReads c b = false → Does (.nandEraseDone c b false) s fun t => ((t.chanOf c).block b).retired = true ∧ 0x60 + c ∈ t.flt.lines.map (·.1))) ∧
   (∀ (c unit : Nat) (r : Reloc) (s : State), s.chanUp c = true → (s.chanOf c).relocs.find? (fun x => x.unit == unit) = some r →
     Does (.relocationCommit c unit) s fun t =>
       (t.chanOf c).relocs = eraseFirst (fun (y : Reloc) => y.unit == unit) (s.chanOf c).relocs ∧
       (r.src ≠ r.dst → unit ∉ ((t.chanOf c).block r.src).units) ∧
       (r.freed = true → (t.chanOf c).map = (s.chanOf c).map) ∧
       (r.freed = false → tget (t.chanOf c).map unit = some r.dst ∧ unit ∈ ((t.chanOf c).block r.dst).units ∧
         t.reg .nvfRelocated c = s.reg .nvfRelocated c + 1 ∧ (t.chanOf c).olds = (s.chanOf c).olds ++ (if s.unitReaders c unit = [] then []
           else [{ unit := unit, block := r.src, readers := s.unitReaders c unit }])) ∧ (∀ e, e ≠ c → t.chanOf e = s.chanOf e))) ∧
  ((∀ (c k : Nat) (s : State), s.chanUp c = true → (s.chanOf c).gc = none → (s.chanOf c).victim = some k →
     let cls : ArbClass := if (s.chanOf c).freeBlocks.length * 100 < 2 * (s.chanOf c).nblocks then .c else .d
     Does (.gcStart c) s fun t => t.chanOf c = { (s.relocate c k cls).chanOf c with gc := (t.chanOf c).gc } ∧
       ((t.chanOf c).gc = if ((s.relocate c k cls).chanOf c).relocs = [] then none else some cls) ∧ t = { s.relocate c k cls with nvf := t.nvf } ∧
       ((s.chanOf c).block k).programmed = true ∧ ((s.chanOf c).block k).retired = false ∧
       ∀ j, j < (s.chanOf c).nblocks → ((s.chanOf c).block j).programmed = true → ((s.chanOf c).block j).retired = false →
         ((s.chanOf c).block k).units.length ≤ ((s.chanOf c).block j).units.length) ∧
   (∀ (c b : Nat) (s : State), s.chanUp c = true → b < (s.chanOf c).nblocks → ((s.chanOf c).block b).programmed = true →
     ((s.chanOf c).block b).retired = false → exec (.staticLevel c b) s = .next
       (if ((s.chanOf c).block b).erases + s.wearGap < (s.chanOf c).meanErases then s.relocate c b .d else s)) ∧
   (∀ (c b : Nat) (cls : ArbClass) (s : State), s.chanUp c = true → ((s.chanOf c).block b).refreshAt = some cls →
     exec (.readRefresh c b) s = .next
       ((s.setChan c ((s.chanOf c).setBlock b { (s.chanOf c).block b with refreshAt := none })).relocate c b cls)) ∧
   (∀ (c b worst : Nat) (s : State), s.chanUp c = true → ((s.chanOf c).block b).programmed = true →
     ((s.chanOf c).block b).retired = false → exec (.patrolRead c b worst) s = .next
       (if s.now < ((s.chanOf c).block b).patrolled + s.patrolNs then s
        else s.setChan c ((s.chanOf c).setBlock b { (s.chanOf c).block b with
          patrolled := s.now, refreshAt := refreshClass s.readLimit s.refreshBits ((s.chanOf c).block b) worst }))) ∧
   (∀ (c k d : Nat) (cls : ArbClass) (s : State), (s.chanOf c).leastWorn = some d →
     let t := s.relocate c k cls
     (∀ u ∈ ((s.chanOf c).block k).units, tget (s.chanOf c).map u = some k → ∃ r ∈ (t.chanOf c).relocs, r.unit = u) ∧
     (∃ us : List Nat, (∀ u ∈ us, u ∈ ((s.chanOf c).block k).units) ∧
       (t.chanOf c).relocs = ((s.chanOf c).relocs.map fun r => if cls = .c ∧ r.src = k then { r with cls := .c } else r) ++
         us.map (fun u => { unit := u, src := k, dst := d, cls := cls }) ∧
       (t.port (.nand c)).reqs = (s.port (.nand c)).reqs ++ us.map fun u => { cls := cls, len := 8192, owner := some (.unit c u) }) ∧
     (∀ e, e ≠ c → t.chanOf e = s.chanOf e) ∧ (∀ i, i ≠ PortId.nand c → t.port i = s.port i) ∧
     t = { s with nvf := t.nvf, shp := { s.shp with ports := t.shp.ports } }) ∧
   ∀ (which : Nat) (v : W64) (s : State), s.live = true → s.hif.pfD3hot = false → s.hif.linkUp = true →
     (s.auditFull = true ∨ s.headKnown = false → exec (.hifT3Write which v) s = .next (s.accessErr .pf)) ∧
     (s.auditFull = false → s.headKnown = true → Does (.hifT3Write which v) s fun t => ∃ u : State,
       u = s.audit auditPf 0 0 (regAddr (t3Reg which) 0 0) v.toNat ∧
       (s.t3Used ≠ [] → t = ({ u with hif := { u.hif with t3Locked := true } } : State).stampSet (regAddr .hifT3Status 0 0) (2 ^ 63)) ∧
       (s.t3Used = [] → t = u.setReg (t3Reg which) 0 0 ((s.reg (t3Reg which) &&& ~~~ (w64 (rwMask (t3Reg which) 0))) |||
         (v &&& w64 (rwMask (t3Reg which) 0))))))

/-! ## Management, keys and audit -/

/-- Every audited management command: while the firmware does not answer it has no effect; while the audit log is full, only AUDIT_ACK,
SAFE_RESTART and DEVICE_RESET are taken, and the others are answered AUDIT_FULL without a record; in the safe state all but
SAFE_RESTART and DEVICE_RESET are recorded and answered DENIED (log entry 24), and change nothing else. -/
def Obligations.ManagementGates : Prop :=
  ∀ (s : State) (im : Image) (h : Bytes) (fl : Option Nat) (p v w d : Nat) (ok : Bool) (tok : DebugToken),
    (s.mgmtUp = false → ∀ c ∈ [Instr.bindCommit im d, .keyEnroll h fl, .floorSet v, .fwFloorSet v, .keyAuthSet p h ok, .faultCfg p v w,
        .partReset p, .safeRestart, .deviceReset, .debugUnlock tok, .debugLock, .auditAck v], exec c s = .next s) ∧
    (s.mgmtUp = true → s.auditFull = true → ∀ c ∈ [Instr.bindCommit im d, .keyEnroll h fl, .floorSet v, .fwFloorSet v,
        .keyAuthSet p h ok, .faultCfg p v w, .partReset p, .debugUnlock tok, .debugLock],
      exec c s = .next (s.emit (.mgmt .auditFull))) ∧
    (s.mgmtUp = true → s.auditFull = false → s.flt.safe = true → ∀ e ∈ [(Instr.bindCommit im d, 0x01, 0, sha384 im.bytes),
        (.keyEnroll h fl, 0x02, fl.getD 0, h), (.floorSet v, 0x03, v, []), (.fwFloorSet v, 0x04, v, []), (.keyAuthSet p h ok, 0x05, p, h),
        (.faultCfg p v w, 0x06, v % 65536 * 65536 + w % 65536, []), (.partReset p, 0x07, p, []), (.debugUnlock tok, 0x0A, 0, []),
        (.debugLock, 0x0B, 0, []), (.auditAck v, 0x11, v, [])],
      exec e.1 s = .next (s.answered e.2.1 e.2.2.1 e.2.2.2 .denied)) ∧
    (s.mgmtUp = true → s.flt.safe = false → exec .safeRestart s = .next (s.answered 0x08 0 [] .denied))

/-- FLOOR_SET and FW_FLOOR_SET raise their floor and refuse, with BAD_ARGUMENT, one below it or beyond 32 bits; KEY_ENROLL stores a key
hash of 48 bytes, and while an image is in force only with a floor above the one that stands (log entry 27); KEY_AUTH_SET stores a
key authority while the partition holds no PRK and no record in use. All of these are recorded and answered, and nothing else
changes but the PHASE shown while no image is in force. COMPLETES, with its own effect, under hypotheses on the state and the
operands alone: exec answers a next state for keyEnroll, floorSet, fwFloorSet and keyAuthSet. -/
def Obligations.FloorsAndAuthorities : Prop :=
  ∀ s : State, s.serves = true →
    let b := s.sec.battery
    let put := fun (b' : Battery) => ({ s with sec := { s.sec with battery := b' } } : State)
    (∀ v, v < b.bindFloor ∨ two32 ≤ v → exec (.floorSet v) s = .next (s.answered 0x03 v [] .badArgument)) ∧
    (∀ v, b.bindFloor ≤ v → v < two32 → exec (.floorSet v) s = .next
      (({ (put { b with formatted := true, bindFloor := v }) with sec := { (put { b with formatted := true, bindFloor := v }).sec with
        batteryLost := false } } : State).settlePhase.answered 0x03 v [] .ok)) ∧
    (∀ v, v < b.fwFloor ∨ two32 ≤ v → exec (.fwFloorSet v) s = .next (s.answered 0x04 v [] .badArgument)) ∧
    (∀ v, b.fwFloor ≤ v → v < two32 →
      exec (.fwFloorSet v) s = .next ((put { b with formatted := true, fwFloor := v }).answered 0x04 v [] .ok)) ∧
    (∀ h, h.length = 48 → s.bind.image = none → exec (.keyEnroll h none) s = .next
      ((put { b with formatted := true, keyHash := some h, bindFloor := b.bindFloor }).settlePhase.answered 0x02 0 h .ok)) ∧
    (∀ h f, h.length = 48 → b.bindFloor ≤ f → f ≠ 0 → f < two32 → (s.bind.image = none ∨ b.bindFloor < f) →
      exec (.keyEnroll h (some f)) s = .next
      ((put { b with formatted := true, keyHash := some h, bindFloor := f }).settlePhase.answered 0x02 f h .ok)) ∧
    (∀ h, h.length = 48 → s.bind.image.isSome = true → exec (.keyEnroll h none) s = .next (s.answered 0x02 0 h .inUse)) ∧
    (∀ f h, h.length = 48 → s.bind.image.isSome = true → f = b.bindFloor → f ≠ 0 → f < two32 →
      exec (.keyEnroll h (some f)) s = .next (s.answered 0x02 f h .inUse)) ∧
    (∀ h f, h.length ≠ 48 ∨ f < b.bindFloor ∨ f = 0 ∨ two32 ≤ f → exec (.keyEnroll h (some f)) s = .next (s.answered 0x02 f h .badArgument)) ∧
    ∀ p h ok,
      (Config.partitions ≤ p ∨ h.length ≠ 48 → exec (.keyAuthSet p h ok) s = .next (s.answered 0x05 p h .badArgument)) ∧
      (p < Config.partitions → h.length = 48 →
        exec (.keyAuthSet p h ok) s = .next
          (if s.hasPrk p = true ∨ s.recordInUse p = true then s.answered 0x05 p h .inUse
           else (put { b with formatted := true, keyAuth := tput b.keyAuth p (h, ok) }).answered 0x05 p h .ok))

/-- Key authorities (R358). KEY_AUTH_SET is answered with IN_USE and changes nothing while the partition holds a PRK or has a record in
use; otherwise the authority stands in the battery-backed file and at the head of measurement block 0x40 + p. A KEY_AUTH of zero
accepts no key: every key message of a partition under it is answered NO_AUTH. COMPLETES, with its own effect, under hypotheses on
the state and the operands alone: exec answers a next state for keyAuthSet. -/
def Obligations.KeyAuthorities : Prop :=
  (∀ (p : Nat) (h : Bytes) (ok : Bool) (s : State), s.serves = true → p < Config.partitions → h.length = 48 →
    (s.hasPrk p = true ∨ s.recordInUse p = true → exec (.keyAuthSet p h ok) s = .next (s.answered 0x05 p h .inUse)) ∧
    (s.hasPrk p = false → s.recordInUse p = false → Does (.keyAuthSet p h ok) s fun t =>
      tget t.sec.battery.keyAuth p = some (h, ok) ∧ (t.measurement (0x40 + p)).take 49 = h ++ natLe 1 ok.toNat ∧
      ∀ q, q ≠ p → tget t.sec.battery.keyAuth q = tget s.sec.battery.keyAuth q)) ∧
  ∀ (m : KeyMsg) (s : State), s.mgmtUp = true → (m.mgmt = true → s.auditFull = false) → (m.mgmt = false → s.hif.linkUp = true) →
    s.flt.safe = false → s.sec.battery.debugUnlocked = false → (∀ b ∈ (s.keyAuth (kmPart m)).1, b = 0) →
    ∀ e ∈ [(Instr.pkeySet m, kmPkey), (.poolKeySet m, kmPool), (.ckSet m, kmCk), (.keyStatus m, kmStatus)],
      kmMalformed e.2 m = false → exec e.1 s = .next (s.keyAnswered m .noAuth)

/-- BIND_COMMIT is answered with the first of the checks that fails, in the order of Table 11.7, and keeps the result; an image that
passes them is loaded at bring-up, and in a running device becomes the pending image of a composition change whose fence is this
instant. DRAIN_DEADLINE, when the change's deadline has come and every step boundary of that instant is over, ends the verbs of the
partitions that change, and a session whose time is over and that only such a verb held expires. COMPOSITION_SWITCH makes the change
once every condition of R240 holds. COMPLETES, with its own effect, under hypotheses on the state and the operands alone: exec
answers a next state for bindCommit, drainDeadline and compositionSwitch. -/
def Obligations.ImagesBind : Prop :=
  (∀ (im : Image) (d : Nat) (s : State), s.serves = true →
    let t : State := { s with bind := { s.bind with lastResult := s.checkImage im } }
    (s.checkImage im ≠ .ok → exec (.bindCommit im d) s = .next (t.answered 0x01 0 (sha384 im.bytes) (s.checkImage im))) ∧
    (s.checkImage im = .ok → s.bind.image = none →
      exec (.bindCommit im d) s = .next ((t.commitBringUp im).answered 0x01 0 (sha384 im.bytes) .ok)) ∧
    (∀ old, s.checkImage im = .ok → s.bind.image = some old →
      exec (.bindCommit im d) s = .next ((t.commitChange old im d).answered 0x01 0 (sha384 im.bytes) .ok)) ∧
    (signatureOk im.bytes = false → s.checkImage im = .badSignature) ∧
    (signatureOk im.bytes = true → s.sec.battery.keyHash ≠ some (imgKeyHash im.bytes) → s.checkImage im = .badKey) ∧
    (signatureOk im.bytes = true → s.sec.battery.keyHash = some (imgKeyHash im.bytes) →
      s.sec.battery.bindFloor = 0 ∨ imgSvn im.bytes < s.sec.battery.bindFloor → s.checkImage im = .rollback) ∧
    (s.checkImage im = .ok → ∀ old, s.bind.image = some old → imgPrev im.bytes = s.bind.digest ∧ s.committing = false)) ∧
  (∀ (old im : Image) (d : Nat) (s : State), (s.commitChange old im d).bind.pendingImage = some im ∧
    (s.commitChange old im d).bind.fence = s.now ∧ (s.commitChange old im d).bind.deadline = d ∧
    (s.commitChange old im d).bind.phase = .draining) ∧
  (∀ s : State, s.live = true → s.bind.phase = .draining → s.bind.deadlineDone = false → s.bind.deadline ≤ s.now →
    (s.now = s.bind.deadline → ∀ e ∈ s.bind.kinds, s.boundaryDue e.1 = false) →
    Does .drainDeadline s fun t => ∃ u : State, t = u.settleDrains ∧ u.bind.deadlineDone = true ∧
      u = { ((s.bind.kinds.map (·.1)).foldl (fun (t : State) p =>
        (((t.verbs p).foldl (fun (t : State) v => t.retireVerb p v) t).dropNext p).expireDue p) s) with bind := u.bind }) ∧
  ∀ (old im : Image) (s : State), s.live = true → s.settleDrains.bind.image = some old →
    s.settleDrains.bind.pendingImage = some im →
    exec .compositionSwitch s = .next
      (if s.settleDrains.canSwitch old im = true then s.settleDrains.switchTo old im else s.settleDrains)

/-- A key message is answered, in this order, with SAFE in the safe state, DEBUG while debug is unlocked, BAD_ARGUMENT for a payload
that breaks Table 17.10, and NO_AUTH for a requester that is not the partition's key authority (log entry 29). PKEY_SET installs a
PRK whose epoch and check value R361 accepts, and stores both; POOL_KEY_SET installs a pool key of a higher epoch and keeps the one
before; CK_SET installs a checkpoint key while no checkpoint or restore is under way; KEY_STATUS tells epochs, presence and check
values. COMPLETES, with its own effect, under hypotheses on the state and the operands alone: exec answers a next state for pkeySet,
poolKeySet, ckSet and keyStatus. -/
def Obligations.KeysAreSet : Prop :=
  (∀ (m : KeyMsg) (s : State), s.mgmtUp = true → (m.mgmt = true → s.auditFull = false) → (m.mgmt = false → s.hif.linkUp = true) →
    ∀ e ∈ [(Instr.pkeySet m, kmPkey), (.poolKeySet m, kmPool), (.ckSet m, kmCk), (.keyStatus m, kmStatus)],
      (s.flt.safe = true → exec e.1 s = .next (s.keyAnswered m .safe)) ∧
      (s.flt.safe = false → s.sec.battery.debugUnlocked = true → exec e.1 s = .next (s.keyAnswered m .debug)) ∧
      (s.flt.safe = false → s.sec.battery.debugUnlocked = false → kmMalformed e.2 m = true →
        exec e.1 s = .next (s.keyAnswered m .badArgument)) ∧
      (s.flt.safe = false → s.sec.battery.debugUnlocked = false → kmMalformed e.2 m = false → s.kmAuth m = false →
        exec e.1 s = .next (s.keyAnswered m .noAuth))) ∧
  ∀ (m : KeyMsg) (s : State), s.mgmtUp = true → (m.mgmt = true → s.auditFull = false) → (m.mgmt = false → s.hif.linkUp = true) →
    s.flt.safe = false → s.sec.battery.debugUnlocked = false → s.kmAuth m = true →
    let p := kmPart m
    let x := s.keysOf p
    let e := s.epochs p
    (kmMalformed kmPkey m = false →
      (s.pkeyResult p (kmEpoch m) (kmKey m) ≠ .ok →
        exec (.pkeySet m) s = .next (s.keyAnswered m (s.pkeyResult p (kmEpoch m) (kmKey m)))) ∧
      (s.pkeyResult p (kmEpoch m) (kmKey m) = .ok → exec (.pkeySet m) s = .next
        ((((s.setKeys p { x with prk := some (kmKey m) }).setEpochs p (kmEpoch m, e.2.1, kcv (kmKey m))).returnSessions p).keyAnswered
          m .ok)) ∧
      (s.hasPrk p = true → s.pkeyResult p (kmEpoch m) (kmKey m) = .keyPresent) ∧
      (s.hasPrk p = false → kmEpoch m < e.1 → s.pkeyResult p (kmEpoch m) (kmKey m) = .stale)) ∧
    (kmMalformed kmPool m = false → exec (.poolKeySet m) s = .next
      (if kmEpoch m ≤ e.2.1 then s.keyAnswered m .stale
       else ((s.setKeys p { x with plkPrev := x.plk, poolPrev := e.2.1, plk := some (kmKey m) }).setEpochs p
         (e.1, kmEpoch m, e.2.2)).keyAnswered m .ok)) ∧
    (kmMalformed kmCk m = false → exec (.ckSet m) s = .next
      (if (s.ckpOf p).phase ≠ 0 then s.keyAnswered m .busy else (s.setKeys p { x with ck := some (kmKey m) }).keyAnswered m .ok)) ∧
    (kmMalformed kmStatus m = false → exec (.keyStatus m) s = .next
      (s.keyAnswered m .ok (natLe 4 e.1 ++ natLe 4 e.2.1 ++ natLe 4 (x.prk.isSome.toNat + 2 * x.ck.isSome.toNat) ++ kcvOf x.prk ++
        kcvOf x.plk ++ kcvOf x.plkPrev ++ kcvOf x.ck)))

/-- DEBUG_UNLOCK issues a new nonce at every request and is DENIED unless the token is signed, names this device and the nonce issued
last, and no partition holds a PRK; then every key is zeroized and debug is unlocked. DEBUG_LOCK locks it. AUDIT_READ answers with
records from a number on, AUDIT_ACK drops the records up to one that exists, AUDIT_FLUSH leaves none waiting. SPDM_REQUEST answers
with the measurement blocks asked for and a signature unless the start has failed; TDISP_REQUEST and IDE_KM change the interface's
state and the streams. COMPLETES, with its own effect, under hypotheses on the state and the operands alone: exec answers a next
state for debugUnlock, debugLock, auditRead, auditAck, auditFlush, spdmRequest, tdispRequest and ideKm. -/
def Obligations.DebugAuditAndAttestation : Prop :=
  (∀ (tok : DebugToken) (s : State), s.serves = true →
    let n := (Config.drbg s.free).toNat
    let t := ({ s with free := s.free + 1, sec := { s.sec with debugNonce := some n } } : State).emit (.nonce n)
    let good := tok.signed = true ∧ tok.uid = s.sec.uid ∧ s.sec.debugNonce = some tok.nonce ∧ ∀ p, p < Config.partitions → s.hasPrk p = false
    (¬ good → exec (.debugUnlock tok) s = .next (t.answered 0x0A 0 [] .denied)) ∧
    (good → Does (.debugUnlock tok) s fun u => u.sec.battery.debugUnlocked = true ∧ u.sec.keys = [] ∧ u.hif.ideStreams = [] ∧
      .mgmt .ok ∈ u.out) ∧
    exec .debugLock s = .next
      (({ s with sec := { s.sec with battery := { s.sec.battery with debugUnlocked := false } } } : State).answered 0x0B 0 [] .ok)) ∧
  (∀ (seq count : Nat) (s : State), s.firmwareUp = true →
    exec (.auditRead seq count) s = .next
      ((s.emit (.mgmt .ok)).emit (.auditRecords ((s.sec.audit.filter fun r => seq ≤ auditSeqOf r).take count)))) ∧
  (∀ (seq : Nat) (s : State), s.mgmtUp = true → s.flt.safe = false →
    let l := s.sec.audit.filter fun r => seq < auditSeqOf r
    exec (.auditAck seq) s = .next
      (if s.sec.battery.auditSeq < seq then s.answered 0x11 seq [] .badArgument
       else ({ s with sec := { s.sec with audit := l, auditWaiting := min s.sec.auditWaiting l.length,
                                          auditFirst := max s.sec.auditFirst (seq + 1) } } : State).answered 0x11 seq [] .ok)) ∧
  (∀ s : State, s.pwr.pwrok = true → 3 ≤ s.pwr.stage → s.pwr.stage ≠ 15 → s.sec.auditWaiting ≠ 0 →
    exec .auditFlush s = .next { s with sec := { s.sec with
      auditWaiting := 0, battery := { s.sec.battery with flashSeq := s.sec.battery.auditSeq } } }) ∧
  (∀ (m : Bytes) (blocks : List Nat) (s : State), s.firmwareUp = true →
    exec (.spdmRequest m blocks) s = .next (({ s with free := s.free + 1 } : State).emit
      (.spdm (blocks.flatMap s.measurement ++ Config.spdmBody m s.free) (s.pwr.stage != 15)))) ∧
  (∀ (p k : Nat) (s : State), s.live = true → s.hif.linkUp = true → p < Config.partitions →
    let v := s.vf p
    ((v.tdi = .unlocked → k ∈ s.hif.ideStreams →
      exec (.tdispRequest p .lockInterface k) s = .next ((s.setVf p { v with tdi := .locked, tdiStream := k }).emit (.tdisp .locked))) ∧
     (v.tdi ≠ .unlocked ∨ k ∉ s.hif.ideStreams → exec (.tdispRequest p .lockInterface k) s = .next (s.emit (.tdisp v.tdi))) ∧
     (v.tdi = .locked →
      exec (.tdispRequest p .startInterface k) s = .next ((s.setVf p { v with tdi := .run }).emit (.tdisp .run))) ∧
     (v.tdi ≠ .locked → exec (.tdispRequest p .startInterface k) s = .next (s.emit (.tdisp v.tdi))) ∧
     exec (.tdispRequest p .stopInterface k) s = .next ((s.setVf p { v with tdi := .unlocked, tdiStream := 0 }).emit
       (.tdisp .unlocked)) ∧
     exec (.tdispRequest p .getReport k) s = .next (((s.setVf p v).emit (.tdisp v.tdi)).emit
       (.tdiReport 0x1000000 p [0x20 + p, 0x30 + p, 0x40 + p])))) ∧
  ∀ (k : Nat) (on : Bool) (s : State), s.live = true → s.hif.linkUp = true → k < 4 →
    Does (.ideKm k on) s fun t => (∀ j, j ∈ t.hif.ideStreams ↔ (if j = k then on = true else j ∈ s.hif.ideStreams)) ∧
      t.out = s.out ++ [.ideReply k] ∧ t = { s with hif := { s.hif with ideStreams := t.hif.ideStreams }, out := t.out }

/-! ## Registers -/

/-- Registers. A read by a function that answers returns what the function may see at that offset, the whole 64 bits or the half that a
32-bit read names; a read that is not aligned, or of half a register that is not RO or RW throughout, returns 0 and is counted as a
refused access (R8). PF0's read of SYS_PWR_STATUS clears PEAK_W. A write has no effect in the safe state (R346). A write of PF0 to
an RW register is recorded and sets the bits that can be written, and is ignored and counted while the audit log takes no record;
the registers of the window of tier 3 and of the policers act besides and are stated elsewhere; a SAT bit that a function may not
see is not cleared, which is counted (log entry 32). COMPLETES, with its own effect, under hypotheses on the state and the operands
alone: exec answers a next state for rcRead and registerWrite. -/
def Obligations.RegistersAnswer : Prop :=
  (∀ (fn : Fn) (off width : Nat) (s : State), s.answers fn = false → exec (.rcRead fn ⟨off, width⟩) s = .next s.noAnswer) ∧
  (∀ (fn : Fn) (off : Nat), (accessOk fn off 8 = true ↔ off % 8 = 0) ∧ (∀ w, w ≠ 8 → w ≠ 4 → accessOk fn off w = false) ∧
    (off % 4 ≠ 0 → accessOk fn off 4 = false) ∧
    ∀ r i j, resolve fn (off / 8 * 8) = some (r, i, j) → hasSat r = true → accessOk fn off 4 = false) ∧
  (∀ (fn : Fn) (off width : Nat) (s : State), s.answers fn = true →
    (accessOk fn off width = false → exec (.rcRead fn ⟨off, width⟩) s = .next ((s.accessErr fn).emit (.regRead fn 0))) ∧
    (accessOk fn off width = true → Does (.rcRead fn ⟨off, width⟩) s fun t =>
      t.out = s.out ++ [.regRead fn (if width = 8 then s.readAt fn off else if off % 8 = 0 then s.readAt fn off &&& 0xFFFFFFFF
        else s.readAt fn (off / 8 * 8) >>> 32)] ∧
      t = { s with out := t.out, pwr := { s.pwr with peakW := t.pwr.peakW } } ∧
      ((fn ≠ .pf ∨ ∀ i j, resolve fn off ≠ some (.sysPwrStatus, i, j)) → t.pwr.peakW = s.pwr.peakW) ∧
      (fn = .pf → (∃ i j, resolve fn off = some (.sysPwrStatus, i, j)) → t.pwr.peakW = 0))) ∧
  (∀ (fn : Fn) (off width : Nat) (v : W64) (s : State),
    (s.answers fn = false → exec (.registerWrite fn off width v) s = .next s.noAnswer) ∧
    (s.answers fn = true → accessOk fn off width = false → exec (.registerWrite fn off width v) s = .next (s.accessErr fn)) ∧
    (s.answers fn = true → accessOk fn off width = true → s.flt.safe = true → exec (.registerWrite fn off width v) s = .next s)) ∧
  (∀ (r : RegName) (i m : Nat) (v : W64) (s : State), s.answers .pf = true → s.flt.safe = false → i < (regRow r).n1 →
    (regRow r).kind = .rw m → w64 (rwMask r i) ≠ 0 →
    r ∉ [RegName.hifT3Base, .hifT3SealBase, .hifT3Cfg, .shpQueueCfg, .shpPolRate, .shpPolBurst] →
    let off := regAddr r i 0
    let k := w64 (rwMask r i)
    (s.auditFull = false → s.headKnown = true → exec (.registerWrite .pf off 8 v) s = .next
      ((s.audit auditPf 0 0 off v.toNat).setReg r i 0 ((s.reg r i &&& ~~~k) ||| (v &&& k)))) ∧
    (s.auditFull = true ∨ s.headKnown = false → exec (.registerWrite .pf off 8 v) s = .next (s.accessErr .pf))) ∧
  ∀ (p off : Nat) (v : W64) (r : RegName) (i j : Nat) (s : State), s.answers (.vf p) = true → s.flt.safe = false → off % 8 = 0 →
    resolve (.vf p) off = some (r, i, j) → hasSat r = true → s.sees (.vf p) r i = false →
    exec (.satClear (.vf p) off v) s = .next (s.accessErr (.vf p))

/-- SAT bits (R12). SAT_CLEAR writes a word to a counter's register, or to a register of SAT bits, that the function sees. Each SAT bit
written 1 is cleared and its counter becomes the number of increments of this instant: 0 without one, 1 after one. A counter of 32
bits that counts to its maximum in that instant saturates at once. PF0's write is recorded first. COMPLETES, with its own effect,
under hypotheses on the state and the operands alone: exec answers a next state for satClear. -/
def Obligations.SatBitsClear : Prop :=
  ∀ (fn : Fn) (off : Nat) (v : W64) (s : State), s.answers fn = true → s.flt.safe = false → off % 8 = 0 →
    (fn = .pf → s.auditFull = false ∧ s.headKnown = true) →
    let n := fun (place : Nat) => tgetD s.stamps place 0
    (∀ r i j, resolve fn off = some (r, i, j) → (regRow r).kind = .sat → s.sees fn r i = true → bit v 63 = true →
      Does (.satClear fn off v) s fun t => bits (t.reg r i) 31 0 = min satMax (n (regAddr r i 0)) ∧
        (n (regAddr r i 0) < satMax → bit (t.reg r i) 63 = false) ∧ t = { s with regs := t.regs, sec := t.sec }) ∧
    (∀ i j k, resolve fn off = some (.engNumeric, i, j) → s.sees fn .engNumeric i = true → k < 3 →
      Does (.satClear fn off v) s fun t =>
        (bit v (61 + k) = true → bit (t.reg .engNumeric i) (61 + k) = false ∧
          bits (t.reg .engNumeric i) (16 * k + 15) (16 * k) = min 0xFFFF (n (regAddr .engNumeric i 0 + k))) ∧
        (bit v (61 + k) = false → bit (t.reg .engNumeric i) (61 + k) = bit (s.reg .engNumeric i) (61 + k) ∧
          bits (t.reg .engNumeric i) (16 * k + 15) (16 * k) = bits (s.reg .engNumeric i) (16 * k + 15) (16 * k)) ∧
        t = { s with regs := t.regs, sec := t.sec }) ∧
    (∀ i j k, resolve fn off = some (.shpHistSat, i, j) → s.sees fn .shpHistSat i = true → i < Config.serviceQueues → k < 32 →
      let r := if k < 16 then RegName.shpHistDepth else .shpHistDelay
      Does (.satClear fn off v) s fun t =>
        (bit v k = true → bit (t.reg .shpHistSat i) k = false ∧
          bits (t.reg r i (k % 16 / 2)) (32 * (k % 2) + 31) (32 * (k % 2)) =
            min satMax (n (regAddr r i (k % 16 / 2) + k % 2))) ∧
        (bit v k = false → bit (t.reg .shpHistSat i) k = bit (s.reg .shpHistSat i) k ∧
          bits (t.reg r i (k % 16 / 2)) (32 * (k % 2) + 31) (32 * (k % 2)) =
            bits (s.reg r i (k % 16 / 2)) (32 * (k % 2) + 31) (32 * (k % 2))) ∧
        t = { s with regs := t.regs, sec := t.sec }) ∧
    ∀ i j, resolve fn off = some (.sysAccessErr, i, j) → s.sees fn .sysAccessErr i = true → bit v 63 = true →
      Does (.satClear fn off v) s fun t => tgetD t.hif.accessErr (fnNum fn) (0, false) = (min satMax (n (errStamp fn)), false) ∧
        t = { s with hif := { s.hif with accessErr := t.hif.accessErr }, sec := t.sec }

/-- Snapshots (R13). SNAP_TAKE writes 1 to BLOCK_SNAP.TAKE of a block: every counter and SAT bit of the block that the function sees
stands in the function's bank with its value of this instant, whatever the bank held before, and SEQ goes up by 1 modulo 2³² (Table
19.13); the other banks, the counters and everything else stay. COMPLETES, with its own effect, under hypotheses on the state and
the operands alone: exec answers a next state for snapTake. -/
def Obligations.SnapshotsAreTaken : Prop :=
  ∀ (fn : Fn) (b : Nat) (s : State), s.answers fn = true → s.flt.safe = false → b < 12 →
    let k := bankOf fn b
    Does (.snapTake fn b) s fun t =>
      (∀ r i j, (regRow r).block = b → isCounter r = true → s.sees fn r i = true → r ≠ .sysAccessErr → i < (regRow r).n1 →
        j < (regRow r).n2 → tgetD (tgetD t.hif.banks k []) (regAddr r i j) 0 = s.reg r i j) ∧
      (b = 11 → tgetD (tgetD t.hif.banks k []) (regAddr .sysAccessErr 0 0) 0 = s.accessErrWord fn) ∧
      tgetD t.hif.snapSeq k 0 = (tgetD s.hif.snapSeq k 0 + 1) % two32 ∧
      (∀ j, j ≠ k → tget t.hif.banks j = tget s.hif.banks j ∧ tget t.hif.snapSeq j = tget s.hif.snapSeq j) ∧
      (∀ j, tgetD t.hif.snapView j false = tgetD s.hif.snapView j false) ∧
      t = { s with hif := { s.hif with banks := t.hif.banks, snapSeq := t.hif.snapSeq, snapView := t.hif.snapView } }

/-- Event messages (R408). A cause sets its bit of HIF_EVENT_CAUSE; MSI-X vector n is sent exactly when the bit becomes 1 while its mask
bit is 0, and not from the safe state. A W1C of HIF_EVENT_CAUSE by PF0 keeps the bits that were set in its instant (R9), and each of
those that is unmasked and was written sends one new message. COMPLETES, with its own effect, under hypotheses on the state and the
operands alone: exec answers a next state for registerWrite. -/
def Obligations.EventMessages : Prop :=
  (∀ (n : Nat) (s : State), n < 8 → s.pwr.pwrok = true →
    let w := s.reg .hifEventCause
    bit ((s.cause n).reg .hifEventCause) n = true ∧
    (∀ k, k < 64 → k ≠ n → bit ((s.cause n).reg .hifEventCause) k = bit w k) ∧
    (bit w n = false → bit (s.reg .hifEventMask) n = false → s.flt.safe = false → (s.cause n).out = s.out ++ [.msix .pf n]) ∧
    (bit w n = true ∨ bit (s.reg .hifEventMask) n = true ∨ s.flt.safe = true → (s.cause n).out = s.out)) ∧
  ∀ (v : W64) (s : State), s.answers .pf = true → s.flt.safe = false → s.auditFull = false → s.headKnown = true →
    let kept := tgetD s.stamps (regAddr .hifEventCause 0 0) 0
    Does (.registerWrite .pf (regAddr .hifEventCause 0 0) 8 v) s fun t =>
      (∀ n, n < 64 → bit (t.reg .hifEventCause) n = (bit (s.reg .hifEventCause) n && !(bit v n && !kept.testBit n))) ∧
      t.out = s.out ++ ((List.range 8).filter fun n => bit v n && kept.testBit n && !bit (s.reg .hifEventMask) n).map (.msix .pf) ∧
      t = { s with regs := t.regs, sec := t.sec, hif := { s.hif with pfMsix := t.hif.pfMsix }, out := t.out }

/-! ## Faults, recovery and starts -/

/-- FAULT_EVENT. In a powered device whose collector has not failed, an event of a source of Table 16.1 other than 0xF0 and 0xA0, while
no recovery is under way that it could disturb, takes its line, sets the source's status bit and adds 1 to its counter, gets the
base severity or, with the bucket full, the escalated one, and is entered in the log with its time, its number and its severity
(R326, R328, R331); then, outside the safe state, the reaction of its severity follows: a CORR event does nothing more, a PART event
fences its partitions, a DEV event puts the device in its safe state (R345), its keys gone, its engines empty and SAFE# asserted. A
second step source while a partition recovers is raised to PART, and a fault of a TEST context is CORR (log entry 26). Source 0xF0
always enters the safe state, without a log entry. The bucket is capped at THRESHOLD. COMPLETES, with its own effect, under
hypotheses on the state and the operands alone: exec answers a next state for faultEvent. -/
def Obligations.FaultsAreCollected : Prop :=
  (∀ (k : Nat) (d : FaultDetail) (s : State) (r : FaultRow), s.pwr.pwrok = true →
    (s.flt.safe = true → s.sec.battery.lastSource ≠ 0xF0) → faultRow k = some r → k ≠ 0xF0 → k ≠ 0xA0 →
    (s.flt.safe = true ∨ s.recoveryOn = false) →
    let t : State := { s with flt := { s.flt with lines := takeLine k d s.flt.lines } }
    let b := s.faultSrc k
    let full : Bool := b.threshold != 0 && b.threshold * bucketUnit ≤ (b.fill s.now).level
    let sev := if full then r.esc else r.base
    ∃ u : State, (u.reg .sysFaultCnt k = satAdd (s.reg .sysFaultCnt k) 1 ∧
        bit (u.reg .sysFaultStatus (k / 64)) (k % 64) = true ∧
        u.faultSrc k = (if b.threshold = 0 then b else b.fill s.now) ∧
        u.flt.lines = t.flt.lines ∧
        (s.flt.safe = true ∨ (sev ≠ .cont ∧ inTest k d = false) → k ≠ srcSat → s.flt.held + 2 ≤ logPlaces →
          ∃ e, tget u.flt.log (s.flt.head % logPlaces) = some e ∧ e.time = s.now ∧ e.seq = s.flt.logSeq ∧ e.source = k ∧
            (inTest k d = false → sev ≠ .cont → e.severity = sev ∧ e.escalated = full)) ∧
        u = { s with flt := u.flt, regs := u.regs, stamps := u.stamps, hif := { s.hif with pfMsix := u.hif.pfMsix }, out := u.out }) ∧
      (let worse : Bool := sev == .cont && t.raised k d (t.affected k d)
       let v := if inTest k d = true then .corr else if worse = true then .part else sev
       exec (.faultEvent k d) s = .next (if s.flt.safe = true then u else u.react k d (t.affected k d) v))) ∧
  (∀ (k : Nat) (d : FaultDetail) (ps : List Nat) (s : State),
    (inTest k d = false → s.react k d ps .corr = s) ∧
    (affectsAll k = true ∨ ps = [] → s.react k d ps .dev = s.enterSafe k)) ∧
  (∀ (p : Nat) (s : State), s.partFenced p = false →
    ((s.fencePart p).recPart p).mode = .fenced ∧ ((s.fencePart p).recPart p).suspects = []) ∧
  (∀ (d : FaultDetail) (s : State), s.pwr.pwrok = true → s.flt.safe = false →
    Does (.faultEvent 0xF0 d) s fun t => ∃ u : State, t = u.enterSafe 0xF0 ∧ u = { s with flt := u.flt, regs := u.regs, stamps := u.stamps } ∧
      u.flt.log = s.flt.log ∧ bit (u.reg .sysFaultStatus 3) 48 = true) ∧
  (∀ (k : Nat) (s : State), let t := s.enterSafe k
    t.flt.safe = true ∧ t.pwr.safePin = true ∧ t.sec.keys = [] ∧ t.sec.storageKey = false ∧ t.hif.ideStreams = [] ∧ t.eng = [] ∧
    t.fab.requests = [] ∧ t.fab.inbox = [] ∧ t.shp.ports = [] ∧ (∀ l, (t.linkOf l).state ≠ .up)) ∧
  ∀ (b : FaultSrc) (now : Nat), (b.fill now).level ≤ b.threshold * bucketUnit ∧
    (now = b.time → (b.fill now).level = min (b.threshold * bucketUnit) (b.level + bucketUnit))

/-- FAULT_CFG sets THRESHOLD and WINDOW_S of a source of Table 16.1 and leaves its bucket; PART_RESET is an event of source 0xE0 + p
that is PART whatever the bucket holds; a write of SYS_HANG_REPORT is one event of source 0xE0 + PARTITION and is recorded.
COMPLETES, with its own effect, under hypotheses on the state and the operands alone: exec answers a next state for faultCfg,
partReset and sysHangReport. -/
def Obligations.FaultsAreSetAndReported : Prop :=
  (∀ (k n w : Nat) (s : State), s.serves = true →
    let v := n % 65536 * 65536 + w % 65536
    (faultRow k = none ∨ 65536 ≤ n ∨ 65536 ≤ w → exec (.faultCfg k n w) s = .next (s.answered 0x06 v [] .badArgument)) ∧
    ((faultRow k).isSome = true → n < 65536 → w < 65536 →
      exec (.faultCfg k n w) s = .next (({ s with flt := { s.flt with
        srcs := tput s.flt.srcs k { s.faultSrc k with threshold := n, windowS := w } } } : State).answered 0x06 v [] .ok))) ∧
  (∀ (p : Nat) (s : State), s.serves = true →
    ((s.partImage? p).isNone = true ∨ Config.partitions ≤ p → exec (.partReset p) s = .next (s.answered 0x07 p [] .badArgument)) ∧
    ((s.partImage? p).isSome = true → p < Config.partitions → Does (.partReset p) s fun t =>
      ∃ u : State, u = s.event (0xE0 + p) {} (some .part) ∧ t = u.answered 0x07 p [] .ok)) ∧
  (∀ (v : W64) (s : State), s.live = true → s.hif.pfD3hot = false → s.hif.linkUp = true → s.auditFull = false → s.headKnown = true →
    exec (.sysHangReport v) s = .next
      ((s.audit auditPf 0 0 (regAddr .sysHangReport 0 0) v.toNat).event (0xE0 + (v.toNat % 16))
        { engine := if v.toNat / 16 % 2 = 1 then some (v.toNat / 32 % 32) else none })) ∧
  ∀ (v : W64) (s : State), s.live = true → s.hif.pfD3hot = false → s.hif.linkUp = true → s.auditFull = true →
    exec (.sysHangReport v) s = .next (s.accessErr .pf)

/-- Recovery. REPLAY_END takes the suspect whose replay has ended off the list, onto the hits if it reproduced the fault, and starts the
next replay or, with none left, gives the verdict, after which no search is on. PARTITION_DRAIN_END, when no verb, no search and no
hand-off of a fenced partition is left, drops its requests and leaves each of its engines with nothing but a self-test in its TEST
slot (R151, R343); PART_RESET_DONE empties the engines (R111) and puts the partition back to NORMAL, its sessions parked or at rest,
or, where the self-test has failed, raises 0xF1 (log entry 25). COMPLETES, with its own effect, under hypotheses on the state and
the operands alone: exec answers a next state for replayEnd, partitionDrainEnd and partResetDone. -/
def Obligations.PartitionsRecover : Prop :=
  (∀ (p : Nat) (hit : Bool) (s : State) (one : Gather) (en : GEntry), s.live = true → (s.recPart p).gather = some one →
    one.entries.head? = some en → (s.recPart p).ended = some hit →
    let r := s.recPart p
    let e := (en.dir, en.seq)
    Does (.replayEnd p hit) s fun t => ∃ u : State,
      (u.recPart p).suspects = r.suspects.filter (· != e) ∧
      (u.recPart p).hits = (if hit = true ∧ e ∈ r.suspects then r.hits ++ [e] else r.hits) ∧
      (u.recPart p).gather = none ∧ (u.recPart p).base = r.base ∧ (u.recPart p).nSuspects = r.nSuspects ∧
      t = (if r.suspects.filter (· != e) = [] then u.verdict p else u.startReplay p)) ∧
  (∀ (p : Nat) (s : State), let r := (s.verdict p).recPart p
    r.suspects = [] ∧ r.hits = [] ∧ r.gather = none ∧ r.base = none ∧ r.mode = .normal) ∧
  (∀ (p : Nat) (s : State), s.live = true → (s.recPart p).mode = .fenced → s.verbs p = [] → s.queriesOf p = [] →
    (s.sessionsOf p fun x => x.inHandoff) = [] → (∀ o ∈ s.ho.claims, o.part ≠ p) →
    Does (.partitionDrainEnd p) s fun t => (t.recPart p).mode = .resetting ∧ (t.spnOf p).replyUse = 0 ∧
      (∀ e ∈ s.enginesOf p, (t.engOf e).store = [] ∧ (tget (t.engOf e).slots 2).isSome = true ∧
        ∀ k, k ≠ 2 → tget (t.engOf e).slots k = none) ∧ (∀ e, e ∉ s.enginesOf p → t.engOf e = s.engOf e) ∧
      (s.fencedByChange p = true → p ∈ t.bind.drained)) ∧
  (∀ (p : Nat) (s : State), s.live = true → (s.recPart p).mode = .resetting →
    exec (.partResetDone p false) s = .next (s.raise 0xF1 { part := some p }) ∧
    Does (.partResetDone p true) s fun t => (t.recPart p).mode = .normal ∧ (t.spnOf p).estNs = 0 ∧ (∀ e ∈ s.enginesOf p, t.engOf e = {}) ∧
      (∀ q, q ≠ p → t.recPart q = s.recPart q))

/-- Starts. PWROK_ASSERT begins a cold start at stage 0, with CE# and WP# of the NAND driven high, DEVICE_RESET one at stage 1 (R377,
R385, R417): what a loss of power leaves, with the timebase from the real-time counter. SAFE_RESTART in the safe state begins a
restart at stage 0 that keeps HBM (log entry 30). FIRMWARE_BOOT starts the acceptable slot of the higher SVN, slot A on a tie, and
loads the self-test into the TEST slot of every engine (R383), or fails with code 1 (R382). TRAINING_DONE, MEMORY_INIT_DONE,
FLASH_MAP_REBUILT and BRINGUP_FABRIC_END end stages 2, 3, 4 and 7 (Table 18.4), or fail with codes 2, 3 and 4. COMPLETES, with its
own effect, under hypotheses on the state and the operands alone: exec answers a next state for safeRestart, deviceReset,
pwrokAssert, firmwareBoot, trainingDone, bringupFabricEnd, memoryInitDone and flashMapRebuilt. -/
def Obligations.StartsProceed : Prop :=
  (∀ s : State, s.pwr.pwrok = false → exec .pwrokAssert s = .next ((s.coldStart 0).setNandPins true)) ∧
  (∀ s : State, s.mgmtUp = true →
    exec .deviceReset s = .next (((s.coldStart 1).setSafePin false).answered 0x09 0 [] .ok)) ∧
  (∀ (k : Nat) (s : State), let t := s.coldStart k
    t.pwr.stage = k ∧ t.pwr.pwrok = true ∧ t.regs = [] ∧ t.dir.sessions = [] ∧ t.eng = [] ∧ t.sec.keys = [] ∧ t.bind.image = none ∧
    t.sec.battery = s.sec.battery ∧ t.sec.uid = s.sec.uid ∧ t.sec.fusedSvn = s.sec.fusedSvn ∧
    t.now = (if s.sec.battery.formatted = true then s.pwr.rtc * 1000000000 / 32768 % two64 else 0)) ∧
  (∀ s : State, s.mgmtUp = true → s.flt.safe = true → Does .safeRestart s fun t => ∃ u : State, t = u.answered 0x08 0 [] .ok ∧
    u.pwr.stage = 0 ∧ u.pwr.kind = (if s.pwr.kind = 0 ∧ s.pwr.stage < 5 then 0 else 1) ∧ u.dir = s.dir ∧ u.fol = s.fol ∧ u.spn = s.spn ∧
    u.flt = s.flt ∧ u.sec = s.sec ∧ u.bind.image = none) ∧
  (∀ (slots : List FwSlot) (s : State), s.pwr.pwrok = true → s.pwr.stage ≤ 1 →
    let least := max s.sec.fusedSvn s.sec.battery.fwFloor
    (bootSlot least slots = none → exec (.firmwareBoot slots) s = .next (s.failStart 1)) ∧
    (∀ k f, bootSlot least slots = some (k, f) →
      slots[k]? = some f ∧ k < 2 ∧ f.sigOk = true ∧ least ≤ f.svn ∧
      (∀ j g, j < 2 → slots[j]? = some g → g.sigOk = true → least ≤ g.svn → g.svn < f.svn ∨ g.svn = f.svn ∧ k ≤ j) ∧
      Does (.firmwareBoot slots) s fun t => t.pwr.stage = 2 ∧ t.flt.safe = false ∧ t.sec.storageKey = true ∧ t.sec.fwDigest = f.digest ∧
        t.pwr.fwSlot = k ∧ t.pwr.fwSvn = f.svn ∧ t.pwr.safePin = false ∧ t.eng = (List.range Config.engines).map fun e =>
          (e, ({ running := 2, slots := [(2, newCtx none 2 { cmds := Config.selfTest } s.now)] } : Engine)))) ∧
  (∀ (r : TrainReport) (s : State), s.starting 2 = true →
    Does (.trainingDone r) s fun t => t.pwr.hbmFail = r.hbmFail ∧ t.pwr.engFail = r.engFail ∧ t.eng = [] ∧ t.pwr.nandHigh = false ∧
      (t.pwr.stage = 3 ∨ t.pwr.stage = 15 ∧ t.pwr.safePin = true) ∧
      (r.keyEngineOk = false → t.pwr.failCode = 2) ∧ (r.keyEngineOk = true → t.pwr.stage = 15 → t.pwr.failCode = 3) ∧
      t.hif.linkUp = (r.hostUp && !s.hif.perst)) ∧
  (∀ (ok : Bool) (s : State), s.starting 3 = true →
    (s.pwr.kind = 1 → exec (.memoryInitDone true) s = .next { s with pwr := { s.pwr with stage := 4 } }) ∧
    (s.pwr.kind = 1 → Does (.memoryInitDone false) s fun t => t.pwr.stage = 3 ∧ t.pwr.kind = 0 ∧ t.dir.sessions = [] ∧ t.now = s.now ∧
      t.sec.battery = s.sec.battery) ∧
    (s.pwr.kind ≠ 1 → Does (.memoryInitDone ok) s fun t => t.pwr.stage = 4 ∧ t.sec.auditWaiting = 0 ∧
      (s.sec.battery.formatted = true → ok = true → t.sec.battery = s.sec.battery) ∧
      (s.sec.battery.formatted = false ∨ ok = false → t.sec.battery = {} ∧ t.sec.batteryLost = true))) ∧
  (∀ (bad : List Nat) (s : State), s.starting 4 = true →
    (bad ≠ [] → exec (.flashMapRebuilt bad) s = .next (s.failStart 4)) ∧
    (bad = [] → Does (.flashMapRebuilt bad) s fun t => t.pwr.stage = 5 ∧ (s.pwr.kind = 1 → t.nvf = s.nvf ∧ t.sec = s.sec) ∧
      (s.pwr.kind ≠ 1 → s.sec.battery.formatted = true → s.sec.battery.auditSeq < t.sec.battery.auditSeq))) ∧
  ∀ (im : Image) (s : State), s.starting 7 = true → s.bind.pendingImage = some im →
    (s.fabricSettled = false → s.now < s.bind.accepted + 20000000000 → exec .bringupFabricEnd s = .next s) ∧
    (s.fabricSettled = true ∨ s.bind.accepted + 20000000000 ≤ s.now →
      Does .bringupFabricEnd s fun t => t.pwr.stage = 8 ∧ t.pwr.priorImage = none ∧ t.bind.image = some im)

/-- Power and resets. POWER_DOWN leaves the battery-backed file, the real-time counter, the fuses and the flash; VBAT_LOSS, while
VDD_AON is absent, loses the file and the counter (R420); RTC_UPDATE writes the timebase into the counter. PERST_ASSERT takes the
host link down and the device into its safe state; PERST_DEASSERT begins to train it (log entry 31), and configuration space answers
with a retry until it is ready (R384). A function-level reset and D3hot act on their function alone (R396, R397). JTAG_INSTRUCTION
answers BYPASS for an instruction that is not answered while debug is locked, and is refused only while unlocked (R374). COMPLETES,
with its own effect, under hypotheses on the state and the operands alone: exec answers a next state for vfFlr, pfFlr, d3hotEntry,
perstAssert, perstDeassert, powerDown, rtcUpdate, vbatLoss, jtagInstruction and configurationRequest. -/
def Obligations.PowerAndResets : Prop :=
  (∀ s : State, s.pwr.pwrok = true ∨ s.pwr.aon = true → Does .powerDown s fun t =>
    t.pwr.pwrok = false ∧ t.pwr.aon = false ∧ t.pwr.safePin = false ∧ t.regs = [] ∧ t.dir.sessions = [] ∧ t.fol.folios = [] ∧
    t.sec.keys = [] ∧ t.sec.battery = s.sec.battery ∧ t.sec.uid = s.sec.uid ∧ t.pwr.rtc = s.pwr.rtc ∧ t.sec.auditWaiting = 0 ∧
    t.sec.audit = s.sec.audit.take (s.sec.audit.length - s.sec.auditWaiting)) ∧
  (∀ s : State, s.pwr.aon = false → exec .vbatLoss s = .next
    { s with sec := { s.sec with battery := {} }, pwr := { s.pwr with rtc := 0, rtcFrac := 0 } }) ∧
  (∀ s : State, s.pwr.aon = true → exec .vbatLoss s = .next s) ∧
  (∀ s : State, s.firmwareUp = true → Does .rtcUpdate s fun t =>
    t = { s with pwr := { s.pwr with rtc := t.pwr.rtc, rtcFrac := t.pwr.rtcFrac } } ∧ t.pwr.rtc * 1000000000 + t.pwr.rtcFrac = s.now * 32768 ∧ t.pwr.rtcFrac < 1000000000) ∧
  (∀ s : State, s.hif.perst = false → Does .perstAssert s fun t => t.hif.perst = true ∧
    (s.pwr.pwrok = false → t = { s with hif := { s.hif with perst := true } }) ∧
    (s.pwr.pwrok = true → t.flt.safe = true ∧ t.hif.linkUp = false ∧ bit (t.reg .sysFaultStatus 2) 32 = true)) ∧
  (∀ s : State, s.hif.perst = true → Does .perstDeassert s fun t => t = { s with hif := { s.hif with
    perst := false, perstAt := s.now, cfgReady := false, linkUp := s.pwr.pwrok,
    linkSpeed := t.hif.linkSpeed, linkWidth := t.hif.linkWidth } } ∧ (s.pwr.pwrok = true → t.hif.linkSpeed = 6 ∧ t.hif.linkWidth = 16)) ∧
  (∀ (r : CfgReq) (s : State), s.pwr.pwrok = true → s.hif.perst = false → s.hif.linkUp = true →
    (s.hif.cfgReady = false → s.now < s.hif.perstAt + 1000000000 → exec (.configurationRequest r) s = .next (s.emit .cfgRetry)) ∧
    (s.hif.cfgReady = true → exec (.configurationRequest r) s = .next ((s.configure r).emit .cfgDone)) ∧
    (s.hif.cfgReady = false → s.hif.perstAt + 1000000000 ≤ s.now → exec (.configurationRequest r) s = .next
      ((({ s with hif := { s.hif with cfgReady := true } } : State).configure r).emit .cfgDone))) ∧
  (∀ (p : Nat) (s : State), s.pwr.pwrok = true → s.hif.linkUp = true → p < Config.partitions → (s.vf p).enabled = true →
    Does (.vfFlr p) s fun t => (t.vf p).sqEnable = false ∧ (t.vf p).cqEnable = false ∧ (t.vf p).msix = [] ∧ (t.vf p).d3hot = false ∧
      (t.vf p).tdi = .unlocked ∧ (t.vf p).enabled = true ∧ (t.vf p).waiting = (s.vf p).waiting ∧
      (t.verbs p).map (·.id) = (s.verbs p).map (·.id) ∧ tget t.hif.accessErr (fnNum (.vf p)) = none ∧
      (∀ q, q ≠ p → t.vf q = s.vf q ∧ t.verbs q = s.verbs q) ∧ t = { s with hif := t.hif }) ∧
  (∀ s : State, s.pwr.pwrok = true → s.hif.linkUp = true → Does .pfFlr s fun t =>
    t.hif.pfMsix = [] ∧ t.hif.pfD3hot = false ∧ t.reg .hifEventMask = regReset .hifEventMask 0 ∧ t.hif.vfs = s.hif.vfs ∧
    t.hif.verbs = s.hif.verbs ∧ t = { s with hif := t.hif, regs := t.regs }) ∧
  (∀ (p : Nat) (s : State), s.pwr.pwrok = true → s.hif.linkUp = true →
    exec (.d3hotEntry .pf) s = .next { s with hif := { s.hif with pfD3hot := true } } ∧
    (p < Config.partitions → (s.vf p).enabled = true → exec (.d3hotEntry (.vf p)) s = .next (s.setVf p { s.vf p with d3hot := true }))) ∧
  ∀ (j : JtagInstr) (s : State),
    (s.sec.battery.debugUnlocked = false → exec (.jtagInstruction j) s = .next (s.emit (.jtag (s.jtagAnswer j)))) ∧
    (s.sec.battery.debugUnlocked = true → (∀ k, j ≠ .other k) → exec (.jtagInstruction j) s = .next (s.emit (.jtag j))) ∧
    ∀ k, s.jtagAnswer (.other k) = .bypass ∧
      (s.sec.battery.debugUnlocked = true → exec (.jtagInstruction (.other k)) s = .refused (.scanUnspecified k))

/-- Clocks, power and heat. A clock domain that loses lock raises the source of Table 1.4, takes the links of a quad down, or puts the
timebase into HOLDOVER, and is noted until it locks again (R380). Above 97 % of CAP_W or above 105 °C the pacer paces, at a duty
that the rules leave open (Config.paceStep, log entry 31); below 95 % and 102 °C it lets go step by step (R387). TEMP_THRESHOLD
moves a stack's refresh rate and hold at 85/82 and 95/92 °C, and a temperature above its limit for 1 ms raises 0xF2 (R389).
THERMTRIP asserts its pin (R419). COMPLETES, with its own effect, under hypotheses on the state and the operands alone: exec answers
a next state for pacerTick, tempThreshold, thermtrip, clockLoss and clockRelock. -/
def Obligations.ClocksPowerAndHeat : Prop :=
  (∀ (k : Nat) (s : State), s.pwr.pwrok = true → k ∉ s.pwr.clockLost → k < 40 →
    let t : State := { s with pwr := { s.pwr with clockLost := s.pwr.clockLost ++ [k] } }
    (k < 8 → exec (.clockLoss k) s = .next (t.raise (0x50 + k))) ∧
    (8 ≤ k → k < 32 → Does (.clockLoss k) s fun u => u.pwr.clockLost = t.pwr.clockLost ∧
      ∀ i, i < 4 → (u.linkOf (4 * (k - 8) + i)).state ∉ [LinkState.up, .authenticating, .training, .mismatch]) ∧
    (32 ≤ k → k < 36 → exec (.clockLoss k) s = .next (t.raise (0x80 + (k - 32)))) ∧
    (k = 36 → exec (.clockLoss k) s = .next (t.raise 0xA0)) ∧
    (k = 37 → exec (.clockLoss k) s = .next (t.setSync 2)) ∧
    (37 < k → exec (.clockLoss k) s = .next t)) ∧
  (∀ (k : Nat) (s : State), s.pwr.pwrok = true → k ∈ s.pwr.clockLost →
    let t : State := { s with pwr := { s.pwr with clockLost := s.pwr.clockLost.filter (· != k) } }
    exec (.clockRelock k) s = .next (if k = 37 ∧ s.fab.hasParent = true then t.setSync 0 else t)) ∧
  (∀ (watts tj hbm : Nat) (s : State), s.firmwareUp = true →
    Does (.pacerTick watts tj hbm) s fun t => ∃ u : State, (u.pwr.powerW = min watts 2047 ∧ u.pwr.tj = tj ∧ u.pwr.thbm = hbm ∧
        u.pwr.peakNew = max s.pwr.peakNew (min watts 2047) ∧ u = { s with pwr := u.pwr } ∧
        (97 * s.capW < 100 * watts ∨ 105 < tj → u.pwr.pacing = true ∧ u.pwr.pace ≤ max 1 s.pwr.pace - 1) ∧
        (100 * watts ≤ 97 * s.capW → tj ≤ 105 → s.pwr.pacing = false → u.pwr.pacing = false ∧ u.pwr.pace = s.pwr.pace) ∧
        (95 * s.capW ≤ 100 * watts ∨ 102 ≤ tj → s.pwr.pacing = true → u.pwr.pacing = true ∧ u.pwr.pace ≤ max s.pwr.pace 1) ∧
        (100 * watts < 95 * s.capW → tj < 102 → s.pwr.pacing = true → s.pwr.pace < 1000 → s.pwr.pace < u.pwr.pace)) ∧
      t = (if u.pwr.pacing = true ∧ s.pwr.pacing = false then u.cause causeThermal else u)) ∧
  (∀ (k c : Nat) (s : State), s.firmwareUp = true → k < 8 →
    Does (.tempThreshold (some k) c) s fun t => (85 < c → k ∈ t.pwr.refreshDouble) ∧ (c ≤ 82 → k ∉ t.pwr.refreshDouble) ∧
      (95 < c → k ∈ t.pwr.hbmHold) ∧ (c ≤ 92 → k ∉ t.pwr.hbmHold) ∧
      (82 < c → c ≤ 85 → (k ∈ t.pwr.refreshDouble ↔ k ∈ s.pwr.refreshDouble)) ∧
      (92 < c → c ≤ 95 → (k ∈ t.pwr.hbmHold ↔ k ∈ s.pwr.hbmHold)) ∧
      t = { s with pwr := t.pwr, flt := t.flt } ∧ (t.flt = s.flt ∨ t.flt = (s.raise 0xF2).flt)) ∧
  (∀ (c : Nat) (s : State), s.firmwareUp = true →
    Does (.tempThreshold none c) s fun t => t.pwr.tj = c ∧ (105 < c → t.pwr.pacing = true) ∧
      (c ≤ 105 → t.pwr.pacing = s.pwr.pacing)) ∧
  (∀ s : State, s.pwr.aon = true → s.pwr.thermtrip = false →
    exec .thermtrip s = .next (({ s with pwr := { s.pwr with thermtrip := true } } : State).emit (.pin "THERMTRIP#" true)))
end

