-- ==== Sys2Proof/Laws/Anchor.lean ====
section
/-!
SUPPORT. Sys2Proof/Laws/Anchor.lean: the parts of State that almost no command touches, as one value,
    and how it passes through updates,
branches and folds.
-/
namespace Sys2Proof
namespace Machine

/-- The parts of State that almost no command touches. -/
@[ext] structure Anchor where
  now : Nat
  pending : List Instr
  uid : Nat
  fusedSvn : Nat
  keyHash : Option Bytes
  bindFloor : Nat
  fwFloor : Nat
  debugUnlocked : Bool
  pwrok : Bool
  stage : Nat
  thermtrip : Bool
  perst : Bool
  safe : Bool
  safePin : Bool

def State.anchor (s : State) : Anchor :=
  { now := s.now, pending := s.pending, uid := s.sec.uid, fusedSvn := s.sec.fusedSvn, keyHash := s.sec.battery.keyHash,
    bindFloor := s.sec.battery.bindFloor, fwFloor := s.sec.battery.fwFloor, debugUnlocked := s.sec.battery.debugUnlocked,
    pwrok := s.pwr.pwrok, stage := s.pwr.stage, thermtrip := s.pwr.thermtrip, perst := s.hif.perst,
    safe := s.flt.safe, safePin := s.pwr.safePin }

theorem anchor_mk (now : Nat) (frac : Int) (free : Nat) (regs : Tab W64) (stamps : Tab Nat) (pending : List Instr) (out : List Out)
    (hif : HifState) (dir : DirState) (fol : FolState) (spn : Tab SpnPart) (eng : Tab Engine) (txt : TxtState) (rcl : RclState)
    (shp : ShpState) (ckp : CkpState) (bind : BindState) (flt : FltState) (sec : SecState) (pwr : PwrState) (fab : FabState)
    (ho : HoState) (nvf : NvfState) :
    (State.mk now frac free regs stamps pending out hif dir fol spn eng txt rcl shp ckp bind flt sec pwr fab ho nvf).anchor =
      Anchor.mk now pending sec.uid sec.fusedSvn sec.battery.keyHash sec.battery.bindFloor sec.battery.fwFloor
        sec.battery.debugUnlocked pwr.pwrok pwr.stage pwr.thermtrip hif.perst flt.safe pwr.safePin := (rfl)

theorem anchor_fold (t : State) :
    Anchor.mk t.now t.pending t.sec.uid t.sec.fusedSvn t.sec.battery.keyHash t.sec.battery.bindFloor t.sec.battery.fwFloor
        t.sec.battery.debugUnlocked t.pwr.pwrok t.pwr.stage t.pwr.thermtrip t.hif.perst t.flt.safe t.pwr.safePin =
      t.anchor := (rfl)

theorem State.setFab_anchor (s : State) (x : FabState) : ({ s with fab := x } : State).anchor = s.anchor := rfl

theorem State.setTxt_anchor (s : State) (x : TxtState) : ({ s with txt := x } : State).anchor = s.anchor := rfl

theorem anchor_ite (c : Prop) [Decidable c] (s t : State) : (if c then s else t).anchor = if c then s.anchor else t.anchor := by
  split <;> rfl

theorem anchor_foldl {α : Type} (g : State → α → State) (h : ∀ s a, (g s a).anchor = s.anchor) (l : List α) (s : State) :
    (l.foldl g s).anchor = s.anchor := by
  induction l generalizing s with
  | nil => rfl
  | cons a l ih => rw [List.foldl_cons, ih, h]

theorem anchor_foldl_fst {α β : Type} (g : State × β → α → State × β) (h : ∀ x a, (g x a).1.anchor = x.1.anchor) (l : List α)
    (x : State × β) : (l.foldl g x).1.anchor = x.1.anchor := by
  induction l generalizing x with
  | nil => rfl
  | cons a l ih => rw [List.foldl_cons, ih, h]

theorem anchor_foldl_snd {α β : Type} (g : β × State → α → β × State) (h : ∀ x a, (g x a).2.anchor = x.2.anchor) (l : List α)
    (x : β × State) : (l.foldl g x).2.anchor = x.2.anchor := by
  induction l generalizing x with
  | nil => rfl
  | cons a l ih => rw [List.foldl_cons, ih, h]

theorem anchor_of_fst {β : Type} {x : State × β} {t : State} {b : β} {a : Anchor} (h : x = (t, b)) (e : x.1.anchor = a) :
    t.anchor = a := by
  subst h; exact e
theorem anchor_of_snd {β : Type} {x : β × State} {t : State} {b : β} {a : Anchor} (h : x = (b, t)) (e : x.2.anchor = a) :
    t.anchor = a := by
  subst h; exact e
theorem anchor_of_third {β γ : Type} {x : β × γ × State} {t : State} {b : β} {c : γ} {a : Anchor} (h : x = (b, c, t))
    (e : x.2.2.anchor = a) : t.anchor = a := by
  subst h; exact e

theorem snd_ite {α β : Type} (c : Prop) [Decidable c] (x y : α × β) : (if c then x else y).2 = if c then x.2 else y.2 := by
  split <;> rfl
theorem fst_ite {α β : Type} (c : Prop) [Decidable c] (x y : α × β) : (if c then x else y).1 = if c then x.1 else y.1 := by
  split <;> rfl

end Machine
end Sys2Proof
end

