-- ==== Sys2Proof/Laws/AnchorOps.lean ====
section
/-!
SUPPORT. Sys2Proof/Laws/AnchorOps.lean: what the shared operations, the shaper, frames and rings leave of the anchor.
-/
namespace Sys2Proof
namespace Machine

theorem State.setReg_anchor (s : State) (r : RegName) (i j : Nat) (v : W64) :
    (State.setReg s r i j v).anchor = s.anchor := by
  unfold State.setReg
  simp only [anchor_mk, anchor_fold]

theorem State.count_anchor (s : State) (r : RegName) (i : Nat) (n : Nat) (j : Nat) :
    (State.count s r i n j).anchor = s.anchor := by
  unfold State.count
  simp only [State.setReg_anchor]

theorem State.raise_anchor (s : State) (src : Nat) (d : FaultDetail) :
    (State.raise s src d).anchor = s.anchor := by
  unfold State.raise
  simp only [anchor_mk, anchor_fold]

theorem State.stampAdd_anchor (s : State) (k n : Nat) :
    (State.stampAdd s k n).anchor = s.anchor := by
  unfold State.stampAdd
  simp only [anchor_mk, anchor_fold]

theorem State.stampSet_anchor (s : State) (k w : Nat) :
    (State.stampSet s k w).anchor = s.anchor := by
  unfold State.stampSet
  simp only [anchor_mk, anchor_fold]

theorem State.countSat_anchor (s : State) (r : RegName) (i : Nat) (n : Nat) :
    (State.countSat s r i n).anchor = s.anchor := by
  unfold State.countSat
  simp only [anchor_ite, ite_self, State.setReg_anchor, State.raise_anchor, State.stampAdd_anchor]

theorem State.setField_anchor (s : State) (r : RegName) (i hi lo v : Nat) :
    (State.setField s r i hi lo v).anchor = s.anchor := by
  unfold State.setField
  simp only [State.setReg_anchor]

theorem State.emit_anchor (s : State) (o : Out) :
    (State.emit s o).anchor = s.anchor := by
  unfold State.emit
  simp only [anchor_mk, anchor_fold]

theorem State.drawn_anchor (s : State) :
    (State.drawn s).2.anchor = s.anchor := by
  unfold State.drawn
  simp only [anchor_mk, anchor_fold]

theorem State.drawn_out {s : State} {x0 : Nat} {t : State}
    (h : State.drawn s = (x0, t)) : t.anchor = s.anchor := by
  have e := State.drawn_anchor s
  rw [h] at e
  exact e

theorem State.setVf_anchor (s : State) (p : Nat) (v : Vf) :
    (State.setVf s p v).anchor = s.anchor := by
  unfold State.setVf
  simp only [anchor_mk, anchor_fold]

theorem State.setVerbs_anchor (s : State) (p : Nat) (l : List Verb) :
    (State.setVerbs s p l).anchor = s.anchor := by
  unfold State.setVerbs
  simp only [anchor_mk, anchor_fold]

theorem State.modVerb_anchor (s : State) (p vid : Nat) (f : Verb → Verb) :
    (State.modVerb s p vid f).anchor = s.anchor := by
  unfold State.modVerb
  simp only [State.setVerbs_anchor]

theorem State.setRec_anchor (s : State) (d : Nat) (r : DirRec) :
    (State.setRec s d r).anchor = s.anchor := by
  unfold State.setRec
  simp only [anchor_mk, anchor_fold]

theorem State.setSession_anchor (s : State) (d : Nat) (x : Session) :
    (State.setSession s d x).anchor = s.anchor := by
  unfold State.setSession
  simp only [anchor_mk, anchor_fold]

theorem State.dropSession_anchor (s : State) (d : Nat) :
    (State.dropSession s d).anchor = s.anchor := by
  unfold State.dropSession
  simp only [anchor_mk, anchor_fold]

theorem State.modSession_anchor (s : State) (d : Nat) (f : Session → Session) :
    (State.modSession s d f).anchor = s.anchor := by
  unfold State.modSession
  split <;> simp only [State.setSession_anchor]

theorem State.modSeq_anchor (s : State) (d n : Nat) (f : Seq → Seq) :
    (State.modSeq s d n f).anchor = s.anchor := by
  unfold State.modSeq
  split <;> simp only [State.modSession_anchor]

theorem State.modSeqs_anchor (s : State) (d : Nat) (f : Seq → Seq) :
    (State.modSeqs s d f).anchor = s.anchor := by
  unfold State.modSeqs
  simp only [State.modSession_anchor]

theorem State.setFolio_anchor (s : State) (i : Nat) (f : Folio) :
    (State.setFolio s i f).anchor = s.anchor := by
  unfold State.setFolio
  simp only [anchor_mk, anchor_fold]

theorem State.modFolio_anchor (s : State) (i : Nat) (f : Folio → Folio) :
    (State.modFolio s i f).anchor = s.anchor := by
  unfold State.modFolio
  split <;> simp only [State.setFolio_anchor]

theorem State.setFolPart_anchor (s : State) (p : Nat) (x : FolPart) :
    (State.setFolPart s p x).anchor = s.anchor := by
  unfold State.setFolPart
  simp only [anchor_mk, anchor_fold]

theorem State.modFolPart_anchor (s : State) (p : Nat) (f : FolPart → FolPart) :
    (State.modFolPart s p f).anchor = s.anchor := by
  unfold State.modFolPart
  simp only [State.setFolPart_anchor]

theorem State.setSpn_anchor (s : State) (p : Nat) (x : SpnPart) :
    (State.setSpn s p x).anchor = s.anchor := by
  unfold State.setSpn
  simp only [anchor_mk, anchor_fold]

theorem State.modSpn_anchor (s : State) (p : Nat) (f : SpnPart → SpnPart) :
    (State.modSpn s p f).anchor = s.anchor := by
  unfold State.modSpn
  simp only [State.setSpn_anchor]

theorem State.setEng_anchor (s : State) (e : Nat) (x : Engine) :
    (State.setEng s e x).anchor = s.anchor := by
  unfold State.setEng
  simp only [anchor_mk, anchor_fold]

theorem State.modEng_anchor (s : State) (e : Nat) (f : Engine → Engine) :
    (State.modEng s e f).anchor = s.anchor := by
  unfold State.modEng
  simp only [State.setEng_anchor]

theorem State.setTxtPart_anchor (s : State) (p : Nat) (x : TxtPart) :
    (State.setTxtPart s p x).anchor = s.anchor := by
  unfold State.setTxtPart
  simp only [anchor_mk, anchor_fold]

theorem State.setCkp_anchor (s : State) (p : Nat) (x : CkpPart) :
    (State.setCkp s p x).anchor = s.anchor := by
  unfold State.setCkp
  simp only [anchor_mk, anchor_fold]

theorem State.modCkp_anchor (s : State) (p : Nat) (f : CkpPart → CkpPart) :
    (State.modCkp s p f).anchor = s.anchor := by
  unfold State.modCkp
  simp only [State.setCkp_anchor]

theorem State.setRecPart_anchor (s : State) (p : Nat) (x : RecPart) :
    (State.setRecPart s p x).anchor = s.anchor := by
  unfold State.setRecPart
  simp only [anchor_mk, anchor_fold]

theorem State.setLink_anchor (s : State) (l : Nat) (x : Link) :
    (State.setLink s l x).anchor = s.anchor := by
  unfold State.setLink
  simp only [anchor_mk, anchor_fold]

theorem State.modLink_anchor (s : State) (l : Nat) (f : Link → Link) :
    (State.modLink s l f).anchor = s.anchor := by
  unfold State.modLink
  simp only [State.setLink_anchor]

theorem State.setChan_anchor (s : State) (c : Nat) (x : Chan) :
    (State.setChan s c x).anchor = s.anchor := by
  unfold State.setChan
  simp only [anchor_mk, anchor_fold]

theorem State.modChan_anchor (s : State) (c : Nat) (f : Chan → Chan) :
    (State.modChan s c f).anchor = s.anchor := by
  unfold State.modChan
  simp only [State.setChan_anchor]

theorem State.setKeys_anchor (s : State) (p : Nat) (k : PartKeys) :
    (State.setKeys s p k).anchor = s.anchor := by
  unfold State.setKeys
  simp only [anchor_mk, anchor_fold]

theorem State.setIndexes_anchor (s : State) (p : Nat) (t : Tab RIndex) :
    (State.setIndexes s p t).anchor = s.anchor := by
  unfold State.setIndexes
  simp only [anchor_mk, anchor_fold]

theorem State.setQueries_anchor (s : State) (p : Nat) (l : List QueryOp) :
    (State.setQueries s p l).anchor = s.anchor := by
  unfold State.setQueries
  simp only [anchor_mk, anchor_fold]

theorem State.giveSpine_anchor (s : State) (d n i : Nat) :
    (State.giveSpine s d n i).anchor = s.anchor := by
  unfold State.giveSpine
  simp only [anchor_mk, anchor_fold, State.modSeq_anchor]

theorem State.dropSpine_anchor (s : State) (d n : Nat) :
    (State.dropSpine s d n).anchor = s.anchor := by
  unfold State.dropSpine
  repeat' first
    | with_reducible rfl
    | (simp only [anchor_mk, anchor_fold, State.modSeq_anchor]; done)
    | split

theorem State.cause_anchor (s : State) (n : Nat) :
    (State.cause s n).anchor = s.anchor := by
  unfold State.cause
  simp only [anchor_mk, anchor_fold, anchor_ite, ite_self, State.setReg_anchor, State.stampSet_anchor, State.emit_anchor]

theorem State.setPhase_anchor (s : State) (ph : BindPhase) :
    (State.setPhase s ph).anchor = s.anchor := by
  unfold State.setPhase
  simp only [anchor_mk, anchor_fold, anchor_ite, ite_self, State.cause_anchor]

theorem State.setPartMode_anchor (s : State) (p : Nat) (m : PartMode) :
    (State.setPartMode s p m).anchor = s.anchor := by
  unfold State.setPartMode
  simp only [anchor_ite, ite_self, State.setRecPart_anchor, State.cause_anchor]

theorem State.accessErr_anchor (s : State) (fn : Fn) :
    (State.accessErr s fn).anchor = s.anchor := by
  unfold State.accessErr
  simp only [anchor_mk, anchor_fold, anchor_ite, ite_self, State.raise_anchor, State.stampAdd_anchor]

theorem State.audit_anchor (s : State) (port kind result code value : Nat) (arg : Bytes) :
    (State.audit s port kind result code value arg).anchor = s.anchor := by
  unfold State.audit
  simp only [anchor_mk, anchor_fold]

theorem State.post_anchor (s : State) (p : Nat) (r : Rec) :
    (State.post s p r).anchor = s.anchor := by
  unfold State.post
  simp only [State.setVf_anchor]

theorem State.notice_anchor (s : State) (p d h : Nat) (st : Status) :
    (State.notice s p d h st).anchor = s.anchor := by
  unfold State.notice
  simp only [State.setVf_anchor]

theorem State.releaseSlot_anchor (s : State) (p vid : Nat) :
    (State.releaseSlot s p vid).anchor = s.anchor := by
  unfold State.releaseSlot
  repeat' first
    | with_reducible rfl
    | (simp only [State.setVf_anchor, State.modVerb_anchor]; done)
    | split

theorem State.dropVerb_anchor (s : State) (p vid : Nat) :
    (State.dropVerb s p vid).anchor = s.anchor := by
  unfold State.dropVerb
  simp only [State.setVerbs_anchor, State.releaseSlot_anchor]

theorem State.complete_anchor (s : State) (p vid : Nat) (st : Status) (flags : Nat) (body : RecBody) (handle : Option Nat) :
    (State.complete s p vid st flags body handle).anchor = s.anchor := by
  unfold State.complete
  split <;> simp only [State.post_anchor, State.dropVerb_anchor]

theorem State.completeAll_anchor (s : State) (p : Nat) (vids : List Nat) (st : Status) :
    (State.completeAll s p vids st).anchor = s.anchor := by
  unfold State.completeAll
  repeat' first
    | with_reducible rfl
    | (simp only [State.complete_anchor]; done)
    | with_reducible refine (anchor_foldl _ (fun _ _ => ?_) _ _).trans ?_
    | split
    | dsimp only

theorem State.runVerb_anchor (s : State) (p vid : Nat) :
    (State.runVerb s p vid).anchor = s.anchor := by
  unfold State.runVerb
  simp only [State.modVerb_anchor]

theorem State.setPolicer_anchor (s : State) (q : Nat) (x : Policer) :
    (State.setPolicer s q x).anchor = s.anchor := by
  unfold State.setPolicer
  simp only [anchor_mk, anchor_fold]

theorem State.fullBuckets_anchor (s : State) (q : Nat) :
    (State.fullBuckets s q).anchor = s.anchor := by
  unfold State.fullBuckets
  simp only [State.setPolicer_anchor]

theorem State.colour_anchor (s : State) (q len : Nat) (pre : Colour) :
    (State.colour s q len pre).2.anchor = s.anchor := by
  unfold State.colour
  simp only [State.setPolicer_anchor]

theorem State.colour_out {s : State} {q len : Nat} {pre : Colour} {x0 : Colour} {t : State}
    (h : State.colour s q len pre = (x0, t)) : t.anchor = s.anchor := by
  have e := State.colour_anchor s q len pre
  rw [h] at e
  exact e

theorem State.countColour_anchor (s : State) (q : Nat) (c : Colour) :
    (State.countColour s q c).anchor = s.anchor := by
  unfold State.countColour
  repeat' first
    | with_reducible rfl
    | (simp only [anchor_ite, State.count_anchor]; done)
    | split

theorem State.enterQueue_anchor (s : State) (p vid : Nat) :
    (State.enterQueue s p vid).anchor = s.anchor := by
  unfold State.enterQueue
  split <;> simp only [anchor_ite, ite_self, State.modVerb_anchor, State.releaseSlot_anchor]

theorem State.releaseHeld_anchor (s : State) (p : Nat) :
    (State.releaseHeld s p).anchor = s.anchor := by
  unfold State.releaseHeld
  repeat' first
    | with_reducible rfl
    | (simp only [State.enterQueue_anchor]; done)
    | with_reducible refine (anchor_foldl _ (fun _ _ => ?_) _ _).trans ?_
    | split
    | dsimp only

theorem State.colourVerb_anchor (s : State) (p : Nat) (v : Verb) :
    (State.colourVerb s p v).2.anchor = s.anchor := by
  unfold State.colourVerb
  simp only [anchor_ite, ite_self, State.modVerb_anchor, State.colour_anchor, State.countColour_anchor]

theorem State.colourVerb_out {s : State} {p : Nat} {v : Verb} {x0 : Colour} {t : State}
    (h : State.colourVerb s p v = (x0, t)) : t.anchor = s.anchor := by
  have e := State.colourVerb_anchor s p v
  rw [h] at e
  exact e

theorem State.policeVerb_anchor (s : State) (p : Nat) (v : Verb) :
    (State.policeVerb s p v).2.anchor = s.anchor := by
  unfold State.policeVerb
  repeat' first
    | with_reducible rfl
    | (simp only [anchor_ite, ite_self, snd_ite, State.count_anchor, State.modVerb_anchor, State.complete_anchor,
        State.enterQueue_anchor]; done)
    | exact State.colourVerb_out (by assumption)
    | split
    | with_reducible refine (anchor_foldl _ (fun _ _ => ?_) _ _).trans ?_
    | simp only [State.count_anchor, State.modVerb_anchor, State.complete_anchor, State.enterQueue_anchor]

theorem State.policeVerb_out {s : State} {p : Nat} {v : Verb} {x0 : Bool} {t : State}
    (h : State.policeVerb s p v = (x0, t)) : t.anchor = s.anchor := by
  have e := State.policeVerb_anchor s p v
  rw [h] at e
  exact e

theorem State.retryQueue_anchor (s : State) (p : Nat) (a0 : List Verb) :
    (State.retryQueue s p a0).anchor = s.anchor := by
  induction a0 generalizing s p with
  | nil =>
    unfold State.retryQueue
    repeat' first
      | with_reducible rfl
      | (simp only [anchor_mk, anchor_fold, anchor_ite, ite_self, snd_ite, fst_ite, State.policeVerb_anchor]; done)
      | (simp only [State.policeVerb_out (by assumption), anchor_mk, anchor_fold, anchor_ite, ite_self, snd_ite, fst_ite,
          State.policeVerb_anchor]; done)
      | exact State.policeVerb_out (by assumption)
      | split
      | with_reducible refine (anchor_foldl _ (fun _ _ => ?_) _ _).trans ?_
      | with_reducible refine (anchor_foldl_fst _ (fun _ _ => ?_) _ _).trans ?_
      | with_reducible refine (anchor_foldl_snd _ (fun _ _ => ?_) _ _).trans ?_
      | simp only [anchor_mk, anchor_fold, anchor_ite, ite_self, snd_ite, fst_ite, State.policeVerb_anchor]
      | simp only [State.policeVerb_out (by assumption), anchor_mk, anchor_fold, anchor_ite, ite_self, snd_ite, fst_ite,
          State.policeVerb_anchor]
      | dsimp only
      | refine anchor_of_fst (by assumption) ?_
      | refine anchor_of_snd (by assumption) ?_
      | refine anchor_of_third (by assumption) ?_
  | cons b bs ih =>
    unfold State.retryQueue
    repeat' first
      | with_reducible rfl
      | (simp only [anchor_ite, ite_self, State.policeVerb_anchor, ih]; done)
      | (simp only [State.policeVerb_out (by assumption), anchor_mk, anchor_fold, anchor_ite, ite_self, snd_ite, fst_ite,
          State.policeVerb_anchor, ih]; done)
      | exact State.policeVerb_out (by assumption)
      | split
      | with_reducible refine (anchor_foldl _ (fun _ _ => ?_) _ _).trans ?_
      | with_reducible refine (anchor_foldl_fst _ (fun _ _ => ?_) _ _).trans ?_
      | with_reducible refine (anchor_foldl_snd _ (fun _ _ => ?_) _ _).trans ?_
      | simp only [anchor_mk, anchor_fold, anchor_ite, ite_self, snd_ite, fst_ite, State.policeVerb_anchor, ih]
      | simp only [State.policeVerb_out (by assumption), anchor_mk, anchor_fold, anchor_ite, ite_self, snd_ite, fst_ite,
          State.policeVerb_anchor, ih]
      | dsimp only
      | refine anchor_of_fst (by assumption) ?_
      | refine anchor_of_snd (by assumption) ?_
      | refine anchor_of_third (by assumption) ?_

theorem State.ingress_anchor (s : State) (p vid : Nat) :
    (State.ingress s p vid).anchor = s.anchor := by
  unfold State.ingress
  split <;> simp only [anchor_ite, ite_self, State.count_anchor, State.modVerb_anchor, State.policeVerb_anchor]

theorem doDeferredAdmit_anchor (p q : Nat) (s : State) :
    (doDeferredAdmit p q s).anchor = s.anchor := by
  unfold doDeferredAdmit
  simp only [anchor_ite, ite_self, State.retryQueue_anchor]

theorem State.clampBuckets_anchor (s : State) (q : Nat) :
    (State.clampBuckets s q).anchor = s.anchor := by
  unfold State.clampBuckets
  simp only [State.setPolicer_anchor]

theorem State.policerWrite_anchor (s : State) (q : Nat) (r : RegName) (v : W64) :
    (State.policerWrite s q r v).anchor = s.anchor := by
  unfold State.policerWrite
  repeat' first
    | with_reducible rfl
    | (simp only [State.setReg_anchor, State.setPolicer_anchor, State.retryQueue_anchor, State.clampBuckets_anchor]; done)
    | with_reducible refine (anchor_foldl _ (fun _ _ => ?_) _ _).trans ?_
    | split
    | dsimp only

theorem State.rateCharge_anchor (s : State) (q u : Nat) :
    (State.rateCharge s q u).anchor = s.anchor := by
  unfold State.rateCharge
  simp only [anchor_mk, anchor_fold, anchor_ite, ite_self]

theorem State.turnWheel_anchor (s : State) :
    (State.turnWheel s).anchor = s.anchor := by
  unfold State.turnWheel
  simp only [anchor_mk, anchor_fold]

theorem State.setSched_anchor (s : State) (id : SchedId) (x : Sched) :
    (State.setSched s id x).anchor = s.anchor := by
  unfold State.setSched
  split <;> simp only [anchor_mk, anchor_fold]

theorem State.charge_anchor (s : State) (id : SchedId) (q u : Nat) (work : List Nat) :
    (State.charge s id q u work).anchor = s.anchor := by
  unfold State.charge
  repeat' first
    | with_reducible rfl
    | (simp only [State.count_anchor, State.rateCharge_anchor, State.setSched_anchor]; done)
    | split

theorem State.setPort_anchor (s : State) (id : PortId) (x : Port) :
    (State.setPort s id x).anchor = s.anchor := by
  unfold State.setPort
  simp only [anchor_mk, anchor_fold]

theorem State.dropIdle_anchor (s : State) (id : SchedId) (work : List Nat) :
    (State.dropIdle s id work).anchor = s.anchor := by
  unfold State.dropIdle
  simp only [State.setSched_anchor]

theorem State.drrRound_anchor (s : State) (id : SchedId) (work : List Nat) :
    (State.drrRound s id work).anchor = s.anchor := by
  unfold State.drrRound
  simp only [State.setSched_anchor]

theorem State.sampleBin_anchor (s : State) (r : RegName) (q k satLo : Nat) :
    (State.sampleBin s r q k satLo).anchor = s.anchor := by
  unfold State.sampleBin
  simp only [anchor_ite, ite_self, State.setReg_anchor, State.raise_anchor, State.stampAdd_anchor]

theorem State.sampleQueue_anchor (s : State) (p q : Nat) :
    (State.sampleQueue s p q).anchor = s.anchor := by
  unfold State.sampleQueue
  simp only [State.sampleBin_anchor]

theorem doHistSample_anchor (s : State) :
    (doHistSample s).anchor = s.anchor := by
  unfold doHistSample
  repeat' first
    | with_reducible rfl
    | (simp only [anchor_ite, State.sampleQueue_anchor]; done)
    | with_reducible refine (anchor_foldl _ (fun _ _ => ?_) _ _).trans ?_
    | split

theorem State.request_anchor (s : State) (id : PortId) (r : PortReq) :
    (State.request s id r).anchor = s.anchor := by
  unfold State.request
  simp only [State.setPort_anchor]

theorem State.reclass_anchor (s : State) (o : PortOwner) (cls : ArbClass) :
    (State.reclass s o cls).anchor = s.anchor := by
  unfold State.reclass
  simp only [anchor_mk, anchor_fold]

theorem State.carry_anchor (s : State) (l : List (PortId × Nat)) (cls : ArbClass) (o : PortOwner) :
    (State.carry s l cls o).anchor = s.anchor := by
  unfold State.carry
  repeat' first
    | with_reducible rfl
    | (simp only [State.request_anchor]; done)
    | with_reducible refine (anchor_foldl _ (fun _ _ => ?_) _ _).trans ?_
    | split
    | dsimp only

theorem State.endGrant_anchor (s : State) (id : PortId) (work : List PortReq) :
    (State.endGrant s id work).anchor = s.anchor := by
  unfold State.endGrant
  repeat' first
    | with_reducible rfl
    | (simp only [State.setSched_anchor, State.charge_anchor, State.dropIdle_anchor]; done)
    | split

theorem State.grantOf_anchor (s : State) (id : PortId) (open_ : List PortReq) :
    (State.grantOf s id open_).anchor = s.anchor := by
  unfold State.grantOf
  repeat' first
    | with_reducible rfl
    | (simp only [State.setPort_anchor]; done)
    | with_reducible refine (anchor_foldl _ (fun _ _ => ?_) _ _).trans ?_
    | split
    | dsimp only

theorem State.tidyPort_anchor (s : State) (id : PortId) :
    (State.tidyPort s id).anchor = s.anchor := by
  unfold State.tidyPort
  simp only [State.setPort_anchor]

theorem State.grantNext_anchor (s : State) (id : PortId) :
    (State.grantNext s id).anchor = s.anchor := by
  unfold State.grantNext
  simp only [State.endGrant_anchor, State.grantOf_anchor, State.tidyPort_anchor]

theorem State.queueFrame_anchor (s : State) (l : Nat) (f : Frame) (ing : Option Nat) :
    (State.queueFrame s l f ing).anchor = s.anchor := by
  unfold State.queueFrame
  simp only [State.request_anchor]

theorem State.returnCredit_anchor (s : State) (ing : Option Nat) (f : Frame) :
    (State.returnCredit s ing f).anchor = s.anchor := by
  unfold State.returnCredit
  split <;> simp only [State.emit_anchor]

theorem State.arrive_anchor (s : State) (f : Frame) :
    (State.arrive s f).anchor = s.anchor := by
  unfold State.arrive
  simp only [anchor_mk, anchor_fold]

theorem State.sendFrame_anchor (s : State) (f : Frame) (ing : Option Nat) :
    (State.sendFrame s f ing).anchor = s.anchor := by
  unfold State.sendFrame
  repeat' first
    | with_reducible rfl
    | (simp only [anchor_ite, State.queueFrame_anchor, State.returnCredit_anchor, State.arrive_anchor]; done)
    | with_reducible refine (anchor_foldl _ (fun _ _ => ?_) _ _).trans ?_
    | split
    | dsimp only

theorem State.respond_anchor (s : State) (f : Frame) (type : Nat) (payload : Bytes) (error : Nat) :
    (State.respond s f type payload error).anchor = s.anchor := by
  unfold State.respond
  simp only [State.sendFrame_anchor]

theorem State.sendNext_anchor (s : State) (tag : Nat) :
    (State.sendNext s tag).anchor = s.anchor := by
  unfold State.sendNext
  repeat' first
    | with_reducible rfl
    | (simp only [anchor_mk, anchor_fold, State.sendFrame_anchor]; done)
    | split

theorem State.pump_anchor (s : State) (dev : Nat) (a0 : Nat) :
    (State.pump s dev a0).anchor = s.anchor := by
  induction a0 generalizing s dev with
  | zero =>
    unfold State.pump
    repeat' first
      | with_reducible rfl
  | succ b ih =>
    unfold State.pump
    repeat' first
      | with_reducible rfl
      | (simp only [anchor_ite, State.sendNext_anchor, ih]; done)
      | split

theorem State.startRequest_anchor (s : State) (asker : Asker) (type p : Nat) (cls : ArbClass) (dst : Nat × Nat) (offset addr len : Nat) (data : Bytes) :
    (State.startRequest s asker type p cls dst offset addr len data).2.anchor = s.anchor := by
  unfold State.startRequest
  simp only [anchor_mk, anchor_fold, State.pump_anchor]

theorem State.startRequest_out {s : State} {asker : Asker} {type p : Nat} {cls : ArbClass} {dst : Nat × Nat}
    {offset addr len : Nat} {data : Bytes} {x0 : Nat} {t : State}
    (h : State.startRequest s asker type p cls dst offset addr len data = (x0, t)) : t.anchor = s.anchor := by
  have e := State.startRequest_anchor s asker type p cls dst offset addr len data
  rw [h] at e
  exact e

theorem State.dbErr_anchor (s : State) (p : Nat) :
    (State.dbErr s p).anchor = s.anchor := by
  unfold State.dbErr
  simp only [State.countSat_anchor]

theorem doSqDoorbell_anchor (p tail : Nat) (s : State) :
    (doSqDoorbell p tail s).anchor = s.anchor := by
  unfold doSqDoorbell
  simp only [anchor_ite, ite_self, State.setVf_anchor, State.dbErr_anchor]

theorem doCqDoorbell_anchor (p head : Nat) (s : State) :
    (doCqDoorbell p head s).anchor = s.anchor := by
  unfold doCqDoorbell
  simp only [anchor_ite, ite_self, State.setVf_anchor, State.dbErr_anchor]

theorem doSqEnable_anchor (p base log2 : Nat) (s : State) :
    (doSqEnable p base log2 s).anchor = s.anchor := by
  unfold doSqEnable
  simp only [anchor_ite, ite_self, State.setVf_anchor, State.accessErr_anchor]

theorem doSqDisable_anchor (p : Nat) (s : State) :
    (doSqDisable p s).anchor = s.anchor := by
  unfold doSqDisable
  simp only [anchor_ite, ite_self, State.setVf_anchor, State.setVerbs_anchor]

theorem doCqEnable_anchor (p base log2 : Nat) (s : State) :
    (doCqEnable p base log2 s).anchor = s.anchor := by
  unfold doCqEnable
  simp only [anchor_ite, ite_self, State.setVf_anchor, State.accessErr_anchor]

theorem doCqDisable_anchor (p : Nat) (s : State) :
    (doCqDisable p s).anchor = s.anchor := by
  unfold doCqDisable
  simp only [anchor_ite, ite_self, State.setVf_anchor]

theorem State.markStopping_anchor (s : State) (v : Verb) :
    (State.markStopping s v).anchor = s.anchor := by
  unfold State.markStopping
  simp only [anchor_ite, ite_self, State.modSeq_anchor, State.modSeqs_anchor]

theorem State.accept_anchor (s : State) (p : Nat) (b : Bytes) (v : Verb) :
    (State.accept s p b v).anchor = s.anchor := by
  unfold State.accept
  simp only [anchor_ite, ite_self, State.modVerb_anchor, State.releaseSlot_anchor, State.complete_anchor, State.ingress_anchor,
      State.markStopping_anchor]

theorem State.takeEntry_anchor (s : State) (p : Nat) (v : Verb) :
    (State.takeEntry s p v).anchor = s.anchor := by
  unfold State.takeEntry
  simp only [anchor_mk, anchor_fold, State.setVf_anchor, State.setVerbs_anchor]

theorem doSqEntryRead_anchor (p : Nat) (data edits : Option Bytes) (s : State) :
    (doSqEntryRead p data edits s).anchor = s.anchor := by
  unfold doSqEntryRead
  repeat' first
    | with_reducible rfl
    | (simp only [anchor_ite, State.complete_anchor, State.dbErr_anchor, State.accept_anchor, State.takeEntry_anchor]; done)
    | split

theorem doVerbBegin_anchor (p vid : Nat) (s : State) :
    (doVerbBegin p vid s).anchor = s.anchor := by
  unfold doVerbBegin
  repeat' first
    | with_reducible rfl
    | (simp only [anchor_ite, State.modVerb_anchor, State.complete_anchor]; done)
    | split

theorem State.signal_anchor (s : State) (p : Nat) :
    (State.signal s p).anchor = s.anchor := by
  unfold State.signal
  simp only [State.emit_anchor, State.setVf_anchor]

theorem State.coalesce_anchor (s : State) (p : Nat) :
    (State.coalesce s p).anchor = s.anchor := by
  unfold State.coalesce
  simp only [anchor_ite, ite_self, State.setVf_anchor, State.signal_anchor]

theorem doCqRecordWrite_anchor (p : Nat) (s : State) :
    (doCqRecordWrite p s).anchor = s.anchor := by
  unfold doCqRecordWrite
  repeat' first
    | with_reducible rfl
    | (simp only [anchor_ite, ite_self, State.emit_anchor, State.setVf_anchor, State.modSeq_anchor, State.coalesce_anchor]; done)
    | with_reducible refine (anchor_foldl _ (fun _ _ => ?_) _ _).trans ?_
    | split
    | dsimp only

theorem doCoalTimerExpire_anchor (p : Nat) (s : State) :
    (doCoalTimerExpire p s).anchor = s.anchor := by
  unfold doCoalTimerExpire
  simp only [anchor_ite, ite_self, State.signal_anchor]

end Machine
end Sys2Proof
end

