-- ==== Sys2Proof/Laws/AnchorFolios.lean ====
section
/-!
SUPPORT. Sys2Proof/Laws/AnchorFolios.lean: what folios, tiers and execution contexts leave of the anchor.
-/
namespace Sys2Proof
namespace Machine

theorem State.allocT4_out {s : State} {p : Nat} {x0 : Nat} {t : State}
    (h : State.allocT4 s p = some (x0, t)) : t.anchor = s.anchor := by
  revert h
  unfold State.allocT4
  repeat' first
    | (intro h; cases h)
    | (simp only [State.setFolPart_anchor, State.modChan_anchor]; done)
    | split
    | with_reducible refine (anchor_foldl _ (fun _ _ => ?_) _ _).trans ?_
    | simp only [State.setFolPart_anchor]

theorem State.freeT4_anchor (s : State) (p loc : Nat) :
    (State.freeT4 s p loc).anchor = s.anchor := by
  unfold State.freeT4
  repeat' first
    | with_reducible rfl
    | (simp only [State.modFolPart_anchor, State.modChan_anchor]; done)
    | split
    | with_reducible refine (anchor_foldl _ (fun _ _ => ?_) _ _).trans ?_
    | simp only [State.modFolPart_anchor]

theorem State.allocT3_out {s : State} {p : Nat} {x0 : Nat} {t : State}
    (h : State.allocT3 s p = some (x0, t)) : t.anchor = s.anchor := by
  revert h
  unfold State.allocT3
  repeat' first
    | (intro h; cases h)
    | (simp only [State.setFolPart_anchor]; done)
    | split
    | with_reducible refine (anchor_foldl _ (fun _ _ => ?_) _ _).trans ?_
    | simp only []

theorem State.freeT3_anchor (s : State) (p f : Nat) :
    (State.freeT3 s p f).anchor = s.anchor := by
  unfold State.freeT3
  simp only [State.modFolPart_anchor]

theorem State.allocTier_out {s : State} {p tier : Nat} {x0 : Nat} {t : State}
    (h : State.allocTier s p tier = some (x0, t)) : t.anchor = s.anchor := by
  revert h
  unfold State.allocTier
  repeat' first
    | (intro h; cases h)
    | (intro h; rw [State.allocT4_out h])
    | (intro h; rw [State.allocT3_out h])
    | split

theorem State.freeTier_anchor (s : State) (p tier loc : Nat) :
    (State.freeTier s p tier loc).anchor = s.anchor := by
  unfold State.freeTier
  simp only [anchor_ite, ite_self, State.freeT4_anchor, State.freeT3_anchor]

theorem State.countRead_anchor (s : State) (p tier : Nat) :
    (State.countRead s p tier).anchor = s.anchor := by
  unfold State.countRead
  simp only [anchor_ite, ite_self, State.count_anchor]

theorem State.countWrite_anchor (s : State) (p tier : Nat) :
    (State.countWrite s p tier).anchor = s.anchor := by
  unfold State.countWrite
  simp only [anchor_ite, ite_self, State.count_anchor]

theorem State.allocFirst_out {s : State} {p : Nat} {a0 : List Nat} {x0 : Nat} {x1 : Nat} {t : State}
    (h : State.allocFirst s p a0 = some (x0, x1, t)) : t.anchor = s.anchor := by
  revert h
  induction a0 generalizing s p x0 x1 t with
  | nil =>
    unfold State.allocFirst
    repeat' first
      | (intro h; cases h)
      | (intro h; rw [State.allocTier_out h])
      | (simp only [anchor_mk, anchor_fold, anchor_ite, ite_self, snd_ite, fst_ite]; done)
      | (simp only [State.allocTier_out (by assumption), anchor_mk, anchor_fold, anchor_ite, ite_self, snd_ite, fst_ite]; done)
      | split
      | with_reducible refine (anchor_foldl _ (fun _ _ => ?_) _ _).trans ?_
      | simp only [anchor_mk, anchor_fold, anchor_ite, ite_self, snd_ite, fst_ite]
      | simp only [State.allocTier_out (by assumption), anchor_mk, anchor_fold, anchor_ite, ite_self, snd_ite, fst_ite]
      | dsimp only
  | cons b bs ih =>
    unfold State.allocFirst
    repeat' first
      | (intro h; cases h)
      | (intro h; rw [ih h])
      | (intro h; rw [State.allocTier_out h])
      | (simp only [anchor_mk, anchor_fold, anchor_ite, ite_self, snd_ite, fst_ite]; done)
      | (simp only [State.allocTier_out (by assumption)]; done)
      | split
      | with_reducible refine (anchor_foldl _ (fun _ _ => ?_) _ _).trans ?_
      | simp only [anchor_mk, anchor_fold, anchor_ite, ite_self, snd_ite, fst_ite]
      | simp only [State.allocTier_out (by assumption), anchor_mk, anchor_fold, anchor_ite, ite_self, snd_ite, fst_ite]
      | dsimp only

theorem State.startDemotion_anchor (s : State) (p i : Nat) (cls : ArbClass) (tiers : List Nat) :
    (State.startDemotion s p i cls tiers).anchor = s.anchor := by
  unfold State.startDemotion
  repeat' first
    | with_reducible rfl
    | (simp only [State.modFolio_anchor, State.carry_anchor]; done)
    | exact State.allocFirst_out (by assumption)
    | split
    | with_reducible refine (anchor_foldl _ (fun _ _ => ?_) _ _).trans ?_
    | simp only [State.modFolio_anchor, State.carry_anchor]

theorem State.pressureStep_anchor (s : State) (p : Nat) :
    (State.pressureStep s p).anchor = s.anchor := by
  unfold State.pressureStep
  repeat' first
    | with_reducible rfl
    | (simp only [anchor_ite, ite_self, State.setFolPart_anchor, State.startDemotion_anchor]; done)
    | split

theorem State.checkPressure_anchor (s : State) (p : Nat) :
    (State.checkPressure s p).anchor = s.anchor := by
  unfold State.checkPressure
  simp only [anchor_ite, ite_self, State.modFolPart_anchor, State.pressureStep_anchor]

theorem State.forcePressure_anchor (s : State) (p : Nat) :
    (State.forcePressure s p).anchor = s.anchor := by
  unfold State.forcePressure
  simp only [anchor_ite, ite_self, State.modFolPart_anchor, State.pressureStep_anchor]

theorem State.allocFolio_out {s : State} {p : Nat} {kind : FolioKind} {fmt : KvFmt} {layer h : Nat} {x0 : Nat} {t : State}
    (h : State.allocFolio s p kind fmt layer h = some (x0, t)) : t.anchor = s.anchor := by
  revert h
  unfold State.allocFolio
  repeat' first
    | (intro h; cases h)
    | (simp only [State.setFolio_anchor, State.modFolPart_anchor, State.checkPressure_anchor]; done)
    | split

theorem State.leavePrefix_anchor (s : State) (p i : Nat) :
    (State.leavePrefix s p i).anchor = s.anchor := by
  unfold State.leavePrefix
  repeat' first
    | with_reducible rfl
    | (simp only [State.modFolio_anchor, State.setFolPart_anchor]; done)
    | with_reducible refine (anchor_foldl _ (fun _ _ => ?_) _ _).trans ?_

theorem State.reapFolio_anchor (s : State) (i : Nat) :
    (State.reapFolio s i).anchor = s.anchor := by
  unfold State.reapFolio
  repeat' first
    | with_reducible rfl
    | (simp only [anchor_ite, State.setFolio_anchor, State.modFolPart_anchor, State.freeTier_anchor,
        State.pressureStep_anchor]; done)
    | split
    | with_reducible refine (anchor_foldl _ (fun _ _ => ?_) _ _).trans ?_
    | simp only [State.setFolio_anchor, State.modFolPart_anchor, State.pressureStep_anchor]

theorem State.dropRef_anchor (s : State) (i : Nat) :
    (State.dropRef s i).anchor = s.anchor := by
  unfold State.dropRef
  split <;> simp only [anchor_ite, ite_self, State.setFolio_anchor, State.leavePrefix_anchor, State.reapFolio_anchor]

theorem State.addRef_anchor (s : State) (i : Nat) :
    (State.addRef s i).anchor = s.anchor := by
  unfold State.addRef
  simp only [State.modFolio_anchor]

theorem State.pin_anchor (s : State) (i : Nat) :
    (State.pin s i).anchor = s.anchor := by
  unfold State.pin
  split <;> simp only [anchor_ite, ite_self, State.setFolio_anchor, State.freeTier_anchor, State.pressureStep_anchor]

theorem State.unpin_anchor (s : State) (i : Nat) :
    (State.unpin s i).anchor = s.anchor := by
  unfold State.unpin
  split <;> simp only [anchor_ite, ite_self, State.setFolio_anchor, State.pressureStep_anchor, State.reapFolio_anchor]

theorem State.dropRefs_anchor (s : State) (l : List Nat) :
    (State.dropRefs s l).anchor = s.anchor := by
  unfold State.dropRefs
  repeat' first
    | with_reducible rfl
    | (simp only [State.dropRef_anchor]; done)
    | with_reducible refine (anchor_foldl _ (fun _ _ => ?_) _ _).trans ?_
    | split
    | dsimp only

theorem State.addRefs_anchor (s : State) (l : List Nat) :
    (State.addRefs s l).anchor = s.anchor := by
  unfold State.addRefs
  repeat' first
    | with_reducible rfl
    | (simp only [State.addRef_anchor]; done)
    | with_reducible refine (anchor_foldl _ (fun _ _ => ?_) _ _).trans ?_
    | split
    | dsimp only

theorem State.pins_anchor (s : State) (l : List Nat) :
    (State.pins s l).anchor = s.anchor := by
  unfold State.pins
  repeat' first
    | with_reducible rfl
    | (simp only [State.pin_anchor]; done)
    | with_reducible refine (anchor_foldl _ (fun _ _ => ?_) _ _).trans ?_
    | split
    | dsimp only

theorem State.copyFolio_out {s : State} {i h : Nat} {x0 : Nat} {t : State}
    (h : State.copyFolio s i h = some (x0, t)) : t.anchor = s.anchor := by
  revert h
  unfold State.copyFolio
  repeat' first
    | (intro h; cases h)
    | (intro h; rw [State.allocFolio_out h])
    | (simp only [State.modFolio_anchor]; done)
    | (simp only [State.allocFolio_out (by assumption), State.modFolio_anchor]; done)
    | split
    | with_reducible refine (anchor_foldl _ (fun _ _ => ?_) _ _).trans ?_
    | simp only [anchor_mk, anchor_fold, anchor_ite, ite_self, snd_ite, fst_ite, State.modFolio_anchor]
    | simp only [State.allocFolio_out (by assumption), anchor_mk, anchor_fold, anchor_ite, ite_self, snd_ite, fst_ite,
        State.modFolio_anchor]
    | dsimp only

theorem State.addPt_anchor (s : State) (p n : Nat) :
    (State.addPt s p n).anchor = s.anchor := by
  unfold State.addPt
  simp only [State.modFolPart_anchor]

theorem State.subPt_anchor (s : State) (p n : Nat) :
    (State.subPt s p n).anchor = s.anchor := by
  unfold State.subPt
  simp only [State.modFolPart_anchor]

theorem State.releaseSources_anchor (s : State) (l : List Nat) :
    (State.releaseSources s l).anchor = s.anchor := by
  unfold State.releaseSources
  repeat' first
    | with_reducible rfl
    | (simp only [anchor_ite, State.setFolio_anchor, State.freeTier_anchor]; done)
    | with_reducible refine (anchor_foldl _ (fun _ _ => ?_) _ _).trans ?_
    | split

theorem State.pteFault_anchor (s : State) (p d n : Nat) :
    (State.pteFault s p d n).anchor = s.anchor := by
  unfold State.pteFault
  simp only [State.raise_anchor]

theorem State.stageIn_anchor (s : State) (l : List Nat) :
    (State.stageIn s l).anchor = s.anchor := by
  unfold State.stageIn
  repeat' first
    | with_reducible rfl
    | (simp only [State.modFolio_anchor]; done)
    | with_reducible refine (anchor_foldl _ (fun _ _ => ?_) _ _).trans ?_
    | split
    | dsimp only

theorem State.unstage_anchor (s : State) (l : List Nat) :
    (State.unstage s l).anchor = s.anchor := by
  unfold State.unstage
  repeat' first
    | with_reducible rfl
    | (simp only [State.modFolio_anchor]; done)
    | with_reducible refine (anchor_foldl _ (fun _ _ => ?_) _ _).trans ?_
    | split
    | dsimp only

theorem State.dropStage_anchor (s : State) (l : List Nat) :
    (State.dropStage s l).anchor = s.anchor := by
  unfold State.dropStage
  repeat' first
    | with_reducible rfl
    | (simp only [State.modFolio_anchor]; done)
    | with_reducible refine (anchor_foldl _ (fun _ _ => ?_) _ _).trans ?_
    | split
    | dsimp only

theorem State.writeT3_anchor (s : State) (f : Sealed) (frame : Nat) (parked : Bool) :
    (State.writeT3 s f frame parked).anchor = s.anchor := by
  unfold State.writeT3
  simp only [anchor_ite, ite_self, State.emit_anchor]

theorem State.writeQuire_anchor (s : State) (p tier : Nat) (l : List Sealed) :
    (State.writeQuire s p tier l).anchor = s.anchor := by
  unfold State.writeQuire
  repeat' first
    | with_reducible rfl
    | (simp only [anchor_ite, State.count_anchor, State.writeT3_anchor]; done)
    | with_reducible refine (anchor_foldl _ (fun _ _ => ?_) _ _).trans ?_
    | split

theorem State.enterPrefix_anchor (s : State) (p : Nat) (earlier : List (List Nat)) (span : Span) :
    (State.enterPrefix s p earlier span).anchor = s.anchor := by
  unfold State.enterPrefix
  repeat' first
    | with_reducible rfl
    | (simp only [anchor_ite, State.modFolio_anchor, State.setFolPart_anchor]; done)
    | with_reducible refine (anchor_foldl _ (fun _ _ => ?_) _ _).trans ?_
    | split
    | dsimp only

theorem State.startPromotion_anchor (s : State) (i : Nat) (cls : ArbClass) :
    (State.startPromotion s i cls).anchor = s.anchor := by
  unfold State.startPromotion
  split <;> simp only [anchor_ite, ite_self, State.modFolio_anchor, State.modFolPart_anchor, State.carry_anchor,
      State.checkPressure_anchor, State.pin_anchor]

theorem doPrefetchStart_anchor (i : Nat) (s : State) :
    (doPrefetchStart i s).anchor = s.anchor := by
  unfold doPrefetchStart
  split <;> simp only [anchor_ite, ite_self, State.startPromotion_anchor]

theorem State.subDemand_anchor (s : State) (p tier n : Nat) :
    (State.subDemand s p tier n).anchor = s.anchor := by
  unfold State.subDemand
  simp only [State.modFolPart_anchor]

theorem State.addDemand_anchor (s : State) (p tier n : Nat) :
    (State.addDemand s p tier n).anchor = s.anchor := by
  unfold State.addDemand
  simp only [State.modFolPart_anchor]

theorem State.placeStep_anchor (s : State) (p : Nat) (o : PlaceOp) :
    (State.placeStep s p o).anchor = s.anchor := by
  unfold State.placeStep
  repeat' first
    | with_reducible rfl
    | (simp only [anchor_ite, ite_self, State.modFolPart_anchor, State.complete_anchor, State.startDemotion_anchor,
        State.startPromotion_anchor]; done)
    | split

theorem State.placeAll_anchor (s : State) (p : Nat) :
    (State.placeAll s p).anchor = s.anchor := by
  unfold State.placeAll
  repeat' first
    | with_reducible rfl
    | (simp only [State.placeStep_anchor]; done)
    | with_reducible refine (anchor_foldl _ (fun _ _ => ?_) _ _).trans ?_
    | split
    | dsimp only

theorem State.unpins_anchor (s : State) (l : List Nat) :
    (State.unpins s l).anchor = s.anchor := by
  unfold State.unpins
  repeat' first
    | with_reducible rfl
    | (simp only [State.unpin_anchor, State.placeAll_anchor]; done)
    | with_reducible refine (anchor_foldl _ (fun _ _ => ?_) _ _).trans ?_

theorem State.landed_anchor (s : State) (p : Nat) :
    (State.landed s p).anchor = s.anchor := by
  unfold State.landed
  simp only [anchor_mk, anchor_fold]

theorem doPromotionCommit_anchor (i : Nat) (s : State) :
    (doPromotionCommit i s).anchor = s.anchor := by
  unfold doPromotionCommit
  split <;> simp only [anchor_ite, ite_self, State.setFolio_anchor, State.freeTier_anchor, State.countRead_anchor,
      State.subDemand_anchor, State.placeAll_anchor, State.unpins_anchor, State.landed_anchor]

theorem doDemotionCommit_anchor (i : Nat) (s : State) :
    (doDemotionCommit i s).anchor = s.anchor := by
  unfold doDemotionCommit
  split <;> simp only [anchor_ite, ite_self, State.drawn_anchor, State.setFolio_anchor, State.modFolPart_anchor,
      State.freeTier_anchor, State.countWrite_anchor, State.pressureStep_anchor, State.writeT3_anchor, State.placeAll_anchor]

theorem doEagerDemotion_anchor (i : Nat) (s : State) :
    (doEagerDemotion i s).anchor = s.anchor := by
  unfold doEagerDemotion
  split <;> simp only [anchor_ite, ite_self, State.startDemotion_anchor]

theorem State.observe_anchor (s : State) (p tier latNs bytes ns : Nat) :
    (State.observe s p tier latNs bytes ns).anchor = s.anchor := by
  unfold State.observe
  simp only [State.modFolPart_anchor]

theorem State.chargeDebt_anchor (s : State) (p ns : Nat) (g : Gather) :
    (State.chargeDebt s p ns g).anchor = s.anchor := by
  unfold State.chargeDebt
  repeat' first
    | with_reducible rfl
    | (simp only [anchor_ite, ite_self, State.charge_anchor]; done)
    | with_reducible refine (anchor_foldl _ (fun _ _ => ?_) _ _).trans ?_

theorem State.writeSpace_anchor (s : State) (p e slot a : Nat) (b : Bytes) :
    (State.writeSpace s p e slot a b).anchor = s.anchor := by
  unfold State.writeSpace
  split <;> simp only [anchor_ite, ite_self, State.modSpn_anchor, State.modEng_anchor, State.setRecPart_anchor]

theorem State.smear_anchor (s : State) (p e slot a n : Nat) :
    (State.smear s p e slot a n).anchor = s.anchor := by
  unfold State.smear
  simp only [anchor_mk, anchor_fold, State.writeSpace_anchor]

theorem State.modCtx_anchor (s : State) (e slot : Nat) (f : Ctx → Ctx) :
    (State.modCtx s e slot f).anchor = s.anchor := by
  unfold State.modCtx
  simp only [State.modEng_anchor]

theorem State.grantRounds_anchor (s : State) (e : Nat) :
    (State.grantRounds s e).anchor = s.anchor := by
  unfold State.grantRounds
  repeat' first
    | with_reducible rfl
    | (simp only [State.modCtx_anchor]; done)
    | with_reducible refine (anchor_foldl _ (fun _ _ => ?_) _ _).trans ?_
    | split
    | dsimp only

theorem State.leaveCtx_anchor (s : State) (p e : Nat) :
    (State.leaveCtx s p e).anchor = s.anchor := by
  unfold State.leaveCtx
  repeat' first
    | with_reducible rfl
    | (simp only [anchor_ite, State.count_anchor, State.modEng_anchor, State.chargeDebt_anchor, State.modCtx_anchor]; done)
    | with_reducible refine (anchor_foldl _ (fun _ _ => ?_) _ _).trans ?_
    | split
    | dsimp only

theorem State.payRunning_anchor (s : State) (e : Nat) :
    (State.payRunning s e).anchor = s.anchor := by
  unfold State.payRunning
  simp only [anchor_ite, ite_self, State.modCtx_anchor]

theorem State.beginSwitch_anchor (s : State) (p e k : Nat) :
    (State.beginSwitch s p e k).anchor = s.anchor := by
  unfold State.beginSwitch
  simp only [State.modEng_anchor, State.carry_anchor, State.leaveCtx_anchor]

theorem State.choose_anchor (s : State) (p e : Nat) :
    (State.choose s p e).anchor = s.anchor := by
  unfold State.choose
  simp only [anchor_ite, ite_self, State.modEng_anchor, State.modCtx_anchor, State.grantRounds_anchor, State.payRunning_anchor,
      State.beginSwitch_anchor]

theorem State.rechoose_anchor (s : State) (p e : Nat) :
    (State.rechoose s p e).anchor = s.anchor := by
  unfold State.rechoose
  simp only [anchor_ite, ite_self, State.choose_anchor]

theorem State.advanceCtx_anchor (s : State) (p e slot : Nat) :
    (State.advanceCtx s p e slot).anchor = s.anchor := by
  unfold State.advanceCtx
  simp only [State.count_anchor, State.modCtx_anchor]

theorem State.finishCmd_anchor (s : State) (e : Nat) (i : Inst) :
    (State.finishCmd s e i).anchor = s.anchor := by
  unfold State.finishCmd
  simp only [State.choose_anchor, State.advanceCtx_anchor]

theorem State.block_anchor (s : State) (e : Nat) (i : Inst) (why tag : Nat) :
    (State.block s e i why tag).anchor = s.anchor := by
  unfold State.block
  simp only [State.modCtx_anchor, State.choose_anchor]

theorem State.stopCtx_anchor (s : State) (e slot : Nat) :
    (State.stopCtx s e slot).anchor = s.anchor := by
  unfold State.stopCtx
  simp only [State.modEng_anchor, State.modCtx_anchor]

theorem State.malformed_anchor (s : State) (e : Nat) (i : Inst) :
    (State.malformed s e i).anchor = s.anchor := by
  unfold State.malformed
  simp only [State.raise_anchor, State.stopCtx_anchor]

theorem State.runCmd_anchor (s : State) (e : Nat) (is : Cmd → Bool) (eff : Inst → State → State) (h : ∀ i t,
    (eff i t).anchor = t.anchor) :
    (State.runCmd s e is eff).anchor = s.anchor := by
  unfold State.runCmd
  split <;> simp only [anchor_ite, ite_self, State.malformed_anchor, h]

theorem State.bumpNumeric_anchor (s : State) (e lo sat : Nat) (hit : Bool) :
    (State.bumpNumeric s e lo sat hit).anchor = s.anchor := by
  unfold State.bumpNumeric
  simp only [anchor_ite, ite_self, State.setReg_anchor, State.raise_anchor, State.stampAdd_anchor]

theorem State.countClip_anchor (s : State) (e : Nat) (hit : Bool) :
    (State.countClip s e hit).anchor = s.anchor := by
  unfold State.countClip
  simp only [State.bumpNumeric_anchor]

theorem State.countNan_anchor (s : State) (e : Nat) (hit : Bool) :
    (State.countNan s e hit).anchor = s.anchor := by
  unfold State.countNan
  simp only [State.bumpNumeric_anchor]

theorem State.countDegen_anchor (s : State) (e : Nat) (hit : Bool) :
    (State.countDegen s e hit).anchor = s.anchor := by
  unfold State.countDegen
  simp only [State.bumpNumeric_anchor]

end Machine
end Sys2Proof
end

