-- ==== Sys2Proof/Laws/AnchorFabric.lean ====
section
/-!
SUPPORT. Sys2Proof/Laws/AnchorFabric.lean: what links, routes and requests leave of the anchor.
-/
namespace Sys2Proof
namespace Machine

theorem State.sendCtrlNow_anchor (s : State) (l : Nat) (c : Ctrl) :
    (State.sendCtrlNow s l c).anchor = s.anchor := by
  unfold State.sendCtrlNow
  simp only [State.emit_anchor, State.setLink_anchor]

theorem State.drainCtrl_anchor (s : State) (l : Nat) (a0 : Nat) :
    (State.drainCtrl s l a0).anchor = s.anchor := by
  induction a0 generalizing s l with
  | zero =>
    unfold State.drainCtrl
    repeat' first
      | with_reducible rfl
      | (simp only [anchor_mk, anchor_fold, anchor_ite, ite_self, snd_ite, fst_ite, State.modLink_anchor,
          State.sendCtrlNow_anchor]; done)
      | split
      | with_reducible refine (anchor_foldl _ (fun _ _ => ?_) _ _).trans ?_
      | with_reducible refine (anchor_foldl_fst _ (fun _ _ => ?_) _ _).trans ?_
      | with_reducible refine (anchor_foldl_snd _ (fun _ _ => ?_) _ _).trans ?_
      | simp only [anchor_mk, anchor_fold, anchor_ite, ite_self, snd_ite, fst_ite, State.modLink_anchor, State.sendCtrlNow_anchor]
      | dsimp only
      | refine anchor_of_fst (by assumption) ?_
      | refine anchor_of_snd (by assumption) ?_
      | refine anchor_of_third (by assumption) ?_
  | succ b ih =>
    unfold State.drainCtrl
    repeat' first
      | with_reducible rfl
      | (simp only [anchor_ite, ite_self, State.modLink_anchor, State.sendCtrlNow_anchor, ih]; done)
      | split
      | with_reducible refine (anchor_foldl _ (fun _ _ => ?_) _ _).trans ?_
      | with_reducible refine (anchor_foldl_fst _ (fun _ _ => ?_) _ _).trans ?_
      | with_reducible refine (anchor_foldl_snd _ (fun _ _ => ?_) _ _).trans ?_
      | simp only [anchor_mk, anchor_fold, anchor_ite, ite_self, snd_ite, fst_ite, State.modLink_anchor,
          State.sendCtrlNow_anchor, ih]
      | dsimp only
      | refine anchor_of_fst (by assumption) ?_
      | refine anchor_of_snd (by assumption) ?_
      | refine anchor_of_third (by assumption) ?_

theorem State.sendCtrl_anchor (s : State) (l : Nat) (c : Ctrl) :
    (State.sendCtrl s l c).anchor = s.anchor := by
  unfold State.sendCtrl
  simp only [State.modLink_anchor, State.drainCtrl_anchor]

theorem State.sendLsa_anchor (s : State) (m : LsaMsg) (l : Nat) :
    (State.sendLsa s m l).anchor = s.anchor := by
  unfold State.sendLsa
  simp only [anchor_mk, anchor_fold, State.sendCtrl_anchor]

theorem State.noteSwitch_anchor (s : State) (at_ : Nat) :
    (State.noteSwitch s at_).anchor = s.anchor := by
  unfold State.noteSwitch
  simp only [anchor_mk, anchor_fold]

theorem State.flood_anchor (s : State) :
    (State.flood s).anchor = s.anchor := by
  unfold State.flood
  repeat' first
    | with_reducible rfl
    | (simp only [anchor_mk, anchor_fold, State.sendLsa_anchor, State.noteSwitch_anchor]; done)
    | with_reducible refine (anchor_foldl _ (fun _ _ => ?_) _ _).trans ?_

theorem State.setTree_anchor (s : State) :
    (State.setTree s).anchor = s.anchor := by
  unfold State.setTree
  simp only [anchor_mk, anchor_fold]

theorem State.setSync_anchor (s : State) (v : Nat) :
    (State.setSync s v).anchor = s.anchor := by
  unfold State.setSync
  simp only [anchor_mk, anchor_fold, anchor_ite, ite_self, State.raise_anchor]

theorem State.orphan_anchor (s : State) :
    (State.orphan s).anchor = s.anchor := by
  unfold State.orphan
  simp only [anchor_mk, anchor_fold, anchor_ite, ite_self, State.setSync_anchor]

theorem State.resend_anchor (s : State) (tag : Nat) (f : Frame) :
    (State.resend s tag f).anchor = s.anchor := by
  unfold State.resend
  simp only [anchor_mk, anchor_fold, State.sendFrame_anchor]

theorem State.switchFrame_anchor (s : State) (r : Request) (f : Frame) :
    (State.switchFrame s r f).anchor = s.anchor := by
  unfold State.switchFrame
  simp only [anchor_ite, ite_self, State.arrive_anchor, State.resend_anchor]

theorem State.checkBudgets_anchor (s : State) :
    (State.checkBudgets s).anchor = s.anchor := by
  unfold State.checkBudgets
  repeat' first
    | with_reducible rfl
    | (simp only [State.raise_anchor, State.countSat_anchor]; done)
    | with_reducible refine (anchor_foldl _ (fun _ _ => ?_) _ _).trans ?_

theorem State.trackOld_anchor (s : State) :
    (State.trackOld s).anchor = s.anchor := by
  unfold State.trackOld
  simp only [anchor_mk, anchor_fold, anchor_ite, ite_self]

theorem State.switchRoutes_anchor (s : State) :
    (State.switchRoutes s).anchor = s.anchor := by
  unfold State.switchRoutes
  repeat' first
    | with_reducible rfl
    | (simp only [anchor_mk, anchor_fold, State.count_anchor, State.setTree_anchor, State.orphan_anchor,
        State.switchFrame_anchor, State.checkBudgets_anchor, State.trackOld_anchor]; done)
    | split
    | with_reducible refine (anchor_foldl _ (fun _ _ => ?_) _ _).trans ?_
    | simp only [State.checkBudgets_anchor, State.trackOld_anchor]

theorem doRouteSwitch_anchor (s : State) :
    (doRouteSwitch s).anchor = s.anchor := by
  unfold doRouteSwitch
  simp only [anchor_ite, ite_self, State.switchRoutes_anchor]

theorem doRouteTableRetire_anchor (s : State) :
    (doRouteTableRetire s).anchor = s.anchor := by
  unfold doRouteTableRetire
  split <;> simp only [anchor_mk, anchor_fold, anchor_ite, ite_self]

theorem doLsa_anchor (l : Nat) (m : LsaMsg) (s : State) :
    (doLsa l m s).anchor = s.anchor := by
  unfold doLsa
  repeat' first
    | with_reducible rfl
    | (simp only [anchor_mk, anchor_fold, anchor_ite, State.sendCtrl_anchor, State.sendLsa_anchor, State.noteSwitch_anchor,
        doRouteSwitch_anchor]; done)
    | with_reducible refine (anchor_foldl _ (fun _ _ => ?_) _ _).trans ?_
    | split
    | dsimp only

theorem doLsaAck_anchor (l origin seq : Nat) (s : State) :
    (doLsaAck l origin seq s).anchor = s.anchor := by
  unfold doLsaAck
  simp only [anchor_mk, anchor_fold]

theorem doLsaResend_anchor (l origin : Nat) (s : State) :
    (doLsaResend l origin s).anchor = s.anchor := by
  unfold doLsaResend
  split <;> simp only [anchor_ite, ite_self, State.sendLsa_anchor]

theorem State.transmit_anchor (s : State) (l : Nat) (r : PortReq) (f : Frame) :
    (State.transmit s l r f).anchor = s.anchor := by
  unfold State.transmit
  repeat' first
    | with_reducible rfl
    | (simp only [anchor_ite, State.count_anchor, State.emit_anchor, State.setLink_anchor, State.returnCredit_anchor,
        State.trackOld_anchor]; done)
    | with_reducible refine (anchor_foldl _ (fun _ _ => ?_) _ _).trans ?_
    | split
    | dsimp only

theorem State.grantLink_anchor (s : State) (l : Nat) :
    (State.grantLink s l).anchor = s.anchor := by
  unfold State.grantLink
  repeat' first
    | with_reducible rfl
    | (simp only [State.modLink_anchor, State.endGrant_anchor, State.grantOf_anchor, State.transmit_anchor]; done)
    | with_reducible refine (anchor_foldl _ (fun _ _ => ?_) _ _).trans ?_
    | split
    | dsimp only

theorem doPortGrantEnd_anchor (port : PortId) (s : State) :
    (doPortGrantEnd port s).anchor = s.anchor := by
  unfold doPortGrantEnd
  repeat' first
    | with_reducible rfl
    | (simp only [anchor_ite, State.grantNext_anchor, State.grantLink_anchor]; done)
    | split

theorem State.takeFrame_anchor (s : State) (l : Nat) (f : Frame) :
    (State.takeFrame s l f).anchor = s.anchor := by
  unfold State.takeFrame
  repeat' first
    | with_reducible rfl
    | (simp only [anchor_ite, ite_self, State.count_anchor, State.countSat_anchor, State.returnCredit_anchor,
        State.arrive_anchor, State.sendFrame_anchor, State.trackOld_anchor]; done)
    | split

theorem State.discover_anchor (s : State) (l : Nat) :
    (State.discover s l).anchor = s.anchor := by
  unfold State.discover
  simp only [State.modLink_anchor, State.sendCtrl_anchor]

theorem State.rescue_anchor (s : State) (l : Nat) (f : Frame) (resent : Bool) (ing : Option Nat) :
    (State.rescue s l f resent ing).anchor = s.anchor := by
  unfold State.rescue
  repeat' first
    | with_reducible rfl
    | (simp only [State.queueFrame_anchor, State.sendFrame_anchor]; done)
    | with_reducible refine (anchor_foldl _ (fun _ _ => ?_) _ _).trans ?_
    | split
    | dsimp only

theorem State.leaveLink_anchor (s : State) (l : Nat) (dest : LinkState) :
    (State.leaveLink s l dest).anchor = s.anchor := by
  unfold State.leaveLink
  repeat' first
    | with_reducible rfl
    | (simp only [anchor_mk, anchor_fold, anchor_ite, ite_self, State.setLink_anchor, State.setPort_anchor, State.flood_anchor,
        State.trackOld_anchor, State.rescue_anchor]; done)
    | split
    | with_reducible refine (anchor_foldl _ (fun _ _ => ?_) _ _).trans ?_
    | simp only [anchor_ite, ite_self, State.flood_anchor, State.trackOld_anchor]

theorem State.downLink_anchor (s : State) (l : Nat) :
    (State.downLink s l).anchor = s.anchor := by
  unfold State.downLink
  simp only [State.count_anchor, State.raise_anchor, State.leaveLink_anchor]

theorem State.takeFrames_anchor (s : State) (l : Nat) (a0 : List (Frame × Bool)) :
    (State.takeFrames s l a0).anchor = s.anchor := by
  induction a0 generalizing s l with
  | nil =>
    unfold State.takeFrames
    repeat' first
      | with_reducible rfl
      | (simp only [anchor_mk, anchor_fold, anchor_ite, ite_self, snd_ite, fst_ite, State.countSat_anchor, State.setLink_anchor,
          State.takeFrame_anchor, State.discover_anchor, State.downLink_anchor]; done)
      | split
      | with_reducible refine (anchor_foldl _ (fun _ _ => ?_) _ _).trans ?_
      | with_reducible refine (anchor_foldl_fst _ (fun _ _ => ?_) _ _).trans ?_
      | with_reducible refine (anchor_foldl_snd _ (fun _ _ => ?_) _ _).trans ?_
      | simp only [anchor_mk, anchor_fold, anchor_ite, ite_self, snd_ite, fst_ite, State.countSat_anchor, State.setLink_anchor,
          State.takeFrame_anchor, State.discover_anchor, State.downLink_anchor]
      | dsimp only
      | refine anchor_of_fst (by assumption) ?_
      | refine anchor_of_snd (by assumption) ?_
      | refine anchor_of_third (by assumption) ?_
  | cons b bs ih =>
    unfold State.takeFrames
    repeat' first
      | with_reducible rfl
      | (simp only [anchor_ite, ite_self, State.countSat_anchor, State.setLink_anchor, State.takeFrame_anchor,
          State.discover_anchor, State.downLink_anchor, ih]; done)
      | split
      | with_reducible refine (anchor_foldl _ (fun _ _ => ?_) _ _).trans ?_
      | with_reducible refine (anchor_foldl_fst _ (fun _ _ => ?_) _ _).trans ?_
      | with_reducible refine (anchor_foldl_snd _ (fun _ _ => ?_) _ _).trans ?_
      | simp only [anchor_mk, anchor_fold, anchor_ite, ite_self, snd_ite, fst_ite, State.countSat_anchor, State.setLink_anchor,
          State.takeFrame_anchor, State.discover_anchor, State.downLink_anchor, ih]
      | dsimp only
      | refine anchor_of_fst (by assumption) ?_
      | refine anchor_of_snd (by assumption) ?_
      | refine anchor_of_third (by assumption) ?_

theorem State.takeCtrls_anchor (s : State) (l : Nat) (a0 : List (Nat × Bool)) :
    (State.takeCtrls s l a0).anchor = s.anchor := by
  induction a0 generalizing s l with
  | nil =>
    unfold State.takeCtrls
    repeat' first
      | with_reducible rfl
      | (simp only [anchor_mk, anchor_fold, anchor_ite, ite_self, snd_ite, fst_ite, State.countSat_anchor, State.emit_anchor,
          State.setLink_anchor, State.discover_anchor, State.downLink_anchor]; done)
      | split
      | with_reducible refine (anchor_foldl _ (fun _ _ => ?_) _ _).trans ?_
      | with_reducible refine (anchor_foldl_fst _ (fun _ _ => ?_) _ _).trans ?_
      | with_reducible refine (anchor_foldl_snd _ (fun _ _ => ?_) _ _).trans ?_
      | simp only [anchor_mk, anchor_fold, anchor_ite, ite_self, snd_ite, fst_ite, State.countSat_anchor, State.emit_anchor,
          State.setLink_anchor, State.discover_anchor, State.downLink_anchor]
      | dsimp only
      | refine anchor_of_fst (by assumption) ?_
      | refine anchor_of_snd (by assumption) ?_
      | refine anchor_of_third (by assumption) ?_
  | cons b bs ih =>
    unfold State.takeCtrls
    repeat' first
      | with_reducible rfl
      | (simp only [anchor_ite, ite_self, State.countSat_anchor, State.emit_anchor, State.setLink_anchor, State.discover_anchor,
          State.downLink_anchor, ih]; done)
      | split
      | with_reducible refine (anchor_foldl _ (fun _ _ => ?_) _ _).trans ?_
      | with_reducible refine (anchor_foldl_fst _ (fun _ _ => ?_) _ _).trans ?_
      | with_reducible refine (anchor_foldl_snd _ (fun _ _ => ?_) _ _).trans ?_
      | simp only [anchor_mk, anchor_fold, anchor_ite, ite_self, snd_ite, fst_ite, State.countSat_anchor, State.emit_anchor,
          State.setLink_anchor, State.discover_anchor, State.downLink_anchor, ih]
      | dsimp only
      | refine anchor_of_fst (by assumption) ?_
      | refine anchor_of_snd (by assumption) ?_
      | refine anchor_of_third (by assumption) ?_

theorem State.takeHeader_anchor (s : State) (l : Nat) (f : Flit) :
    (State.takeHeader s l f).anchor = s.anchor := by
  unfold State.takeHeader
  simp only [anchor_ite, ite_self, State.count_anchor, State.emit_anchor, State.setLink_anchor, State.drainCtrl_anchor]

theorem doFlitRx_anchor (l : Nat) (f : Flit) (s : State) :
    (doFlitRx l f s).anchor = s.anchor := by
  unfold doFlitRx
  simp only [anchor_ite, ite_self, State.countSat_anchor, State.emit_anchor, State.modLink_anchor, State.takeFrames_anchor,
      State.takeCtrls_anchor, State.takeHeader_anchor]

theorem doLinkDown_anchor (l : Nat) (s : State) :
    (doLinkDown l s).anchor = s.anchor := by
  unfold doLinkDown
  simp only [anchor_ite, ite_self, State.downLink_anchor]

theorem doLinkRetry_anchor (l : Nat) (s : State) :
    (doLinkRetry l s).anchor = s.anchor := by
  unfold doLinkRetry
  simp only [anchor_ite, ite_self, State.setLink_anchor]

theorem doLinkTrained_anchor (l : Nat) (s : State) :
    (doLinkTrained l s).anchor = s.anchor := by
  unfold doLinkTrained
  simp only [anchor_ite, ite_self, State.discover_anchor]

theorem doHello_anchor (l : Nat) (m : HelloMsg) (s : State) :
    (doHello l m s).anchor = s.anchor := by
  unfold doHello
  simp only [anchor_ite, ite_self, State.setLink_anchor, State.sendCtrl_anchor]

theorem doAuth_anchor (l uid : Nat) (secret : BitVec 384) (ok : Bool) (s : State) :
    (doAuth l uid secret ok s).anchor = s.anchor := by
  unfold doAuth
  simp only [anchor_ite, ite_self, State.setLink_anchor, State.sendCtrl_anchor]

theorem doKeyUpdate_anchor (l : Nat) (phase : Bool) (s : State) :
    (doKeyUpdate l phase s).anchor = s.anchor := by
  unfold doKeyUpdate
  simp only [anchor_ite, ite_self, State.setLink_anchor]

theorem doKeyUpdateSend_anchor (l : Nat) (s : State) :
    (doKeyUpdateSend l s).anchor = s.anchor := by
  unfold doKeyUpdateSend
  simp only [anchor_ite, ite_self, State.modLink_anchor, State.sendCtrlNow_anchor]

theorem doSyncTimer_anchor (s : State) :
    (doSyncTimer s).anchor = s.anchor := by
  unfold doSyncTimer
  split <;> simp only [anchor_mk, anchor_fold, anchor_ite, ite_self, State.sendCtrl_anchor]

theorem doSyncReq_anchor (l t1 t2 : Nat) (s : State) :
    (doSyncReq l t1 t2 s).anchor = s.anchor := by
  unfold doSyncReq
  simp only [anchor_ite, ite_self, State.sendCtrl_anchor]

theorem State.measureLink_anchor (s : State) (l t1 t2 t3 t4 : Nat) :
    (State.measureLink s l t1 t2 t3 t4).anchor = s.anchor := by
  unfold State.measureLink
  simp only [anchor_ite, ite_self, State.setLink_anchor, State.flood_anchor]

theorem State.setWindow_anchor (s : State) (dev : Nat) (w : DupWindow) :
    (State.setWindow s dev w).anchor = s.anchor := by
  unfold State.setWindow
  simp only [anchor_mk, anchor_fold]

theorem State.judge_anchor (s : State) (f : Frame) (exempt : Bool) :
    (State.judge s f exempt).2.anchor = s.anchor := by
  unfold State.judge
  repeat' first
    | with_reducible rfl
    | (simp only [anchor_ite, ite_self, snd_ite, State.count_anchor, State.setWindow_anchor]; done)
    | split

theorem State.judge_out {s : State} {f : Frame} {exempt : Bool} {x0 : Judged} {t : State}
    (h : State.judge s f exempt = (x0, t)) : t.anchor = s.anchor := by
  have e := State.judge_anchor s f exempt
  rw [h] at e
  exact e

theorem State.takeInbox_out {s : State} {f : Frame} {t : State}
    (h : State.takeInbox s f = some t) : t.anchor = s.anchor := by
  revert h
  unfold State.takeInbox
  repeat' first
    | (intro h; cases h)
    | (simp only [anchor_mk, anchor_fold]; done)
    | split

theorem State.refuseFrame_anchor (s : State) (f : Frame) (e : FabErr) :
    (State.refuseFrame s f e).anchor = s.anchor := by
  unfold State.refuseFrame
  simp only [State.respond_anchor]

theorem State.answerRead_anchor (s : State) (f : Frame) :
    (State.answerRead s f).anchor = s.anchor := by
  unfold State.answerRead
  simp only [State.respond_anchor]

theorem doReadReq_anchor (f : Frame) (s : State) :
    (doReadReq f s).anchor = s.anchor := by
  unfold doReadReq
  repeat' first
    | with_reducible rfl
    | (simp only [anchor_ite, ite_self, State.refuseFrame_anchor, State.answerRead_anchor]; done)
    | (simp only [State.judge_out (by assumption), anchor_ite, ite_self, State.refuseFrame_anchor, State.answerRead_anchor]; done)
    | (simp only [State.takeInbox_out (by assumption), anchor_ite, ite_self, State.refuseFrame_anchor,
        State.answerRead_anchor]; done)
    | exact State.judge_out (by assumption)
    | exact State.takeInbox_out (by assumption)
    | split
    | with_reducible refine (anchor_foldl _ (fun _ _ => ?_) _ _).trans ?_
    | with_reducible refine (anchor_foldl_fst _ (fun _ _ => ?_) _ _).trans ?_
    | with_reducible refine (anchor_foldl_snd _ (fun _ _ => ?_) _ _).trans ?_
    | simp only [State.refuseFrame_anchor, State.answerRead_anchor]
    | simp only [State.judge_out (by assumption)]

theorem State.touchSlots_anchor (s : State) (f : Frame) :
    (State.touchSlots s f).anchor = s.anchor := by
  unfold State.touchSlots
  split <;> simp only [anchor_mk, anchor_fold, anchor_ite, ite_self]

theorem doWriteReq_anchor (f : Frame) (s : State) :
    (doWriteReq f s).anchor = s.anchor := by
  unfold doWriteReq
  repeat' first
    | with_reducible rfl
    | (simp only [anchor_ite, State.modSpn_anchor, State.respond_anchor, State.refuseFrame_anchor, State.touchSlots_anchor]; done)
    | (simp only [State.judge_out (by assumption), State.modSpn_anchor, State.respond_anchor, State.refuseFrame_anchor,
        State.touchSlots_anchor]; done)
    | (simp only [State.takeInbox_out (by assumption), anchor_ite, State.modSpn_anchor, State.respond_anchor,
        State.refuseFrame_anchor, State.touchSlots_anchor]; done)
    | exact State.judge_out (by assumption)
    | exact State.takeInbox_out (by assumption)
    | split
    | with_reducible refine (anchor_foldl _ (fun _ _ => ?_) _ _).trans ?_
    | with_reducible refine (anchor_foldl_fst _ (fun _ _ => ?_) _ _).trans ?_
    | with_reducible refine (anchor_foldl_snd _ (fun _ _ => ?_) _ _).trans ?_
    | simp only [State.modSpn_anchor, State.respond_anchor, State.refuseFrame_anchor, State.touchSlots_anchor]
    | simp only [State.judge_out (by assumption)]

theorem State.keepCas_anchor (s : State) (f : Frame) (found : Nat) (done : Bool) :
    (State.keepCas s f found done).anchor = s.anchor := by
  unfold State.keepCas
  exact State.setFab_anchor _ _

theorem State.answerCas_anchor (s : State) (f : Frame) (found : Nat) (done : Bool) :
    (State.answerCas s f found done).anchor = s.anchor := by
  unfold State.answerCas
  simp only [State.respond_anchor]

theorem doCasReq_anchor (f : Frame) (s : State) :
    (doCasReq f s).anchor = s.anchor := by
  unfold doCasReq
  split
  · rfl
  · rename_i t h
    have e0 := State.takeInbox_out h
    rw [← e0]
    split
    · exact e0.symm
    · split
      · rw [State.refuseFrame_anchor]; exact State.judge_out (by assumption)
      · split
        · rw [State.answerCas_anchor]; exact State.judge_out (by assumption)
        · rw [State.refuseFrame_anchor]; exact State.judge_out (by assumption)
      · rename_i u e
        rw [← State.judge_out e]
        dsimp only
        split
        · rw [State.answerCas_anchor, State.keepCas_anchor, State.countSat_anchor]
        · split
          · rw [State.answerCas_anchor, State.keepCas_anchor, State.modSpn_anchor]
          · rw [State.answerCas_anchor, State.keepCas_anchor]

end Machine
end Sys2Proof
end

