-- ==== Sys2Proof/Laws/AnchorEngines.lean ====
section
/-!
SUPPORT. Sys2Proof/Laws/AnchorEngines.lean: what the attention unit, the text unit and tasks leave of the anchor.
-/
namespace Sys2Proof
namespace Machine

theorem State.putKv_anchor (s : State) (a : AttCtx) (at_ : Nat × Nat) (key val : Bytes) :
    (State.putKv s a at_ key val).anchor = s.anchor := by
  unfold State.putKv
  split <;> simp only [anchor_ite, ite_self, State.modFolio_anchor, State.setRecPart_anchor]

theorem State.putTree_anchor (s : State) (a : AttCtx) (n : Nat) (key val : Bytes) :
    (State.putTree s a n key val).anchor = s.anchor := by
  unfold State.putTree
  simp only [anchor_ite, ite_self, State.modSpn_anchor, State.setRecPart_anchor]

theorem State.writeKv_anchor (s : State) (a : AttCtx) (data : List Nat) :
    (State.writeKv s a data).1.anchor = s.anchor := by
  unfold State.writeKv
  repeat' first
    | with_reducible rfl
    | (simp only [anchor_ite, State.putKv_anchor, State.putTree_anchor]; done)
    | split
    | with_reducible refine (anchor_foldl _ (fun _ _ => ?_) _ _).trans ?_
    | with_reducible refine (anchor_foldl_fst _ (fun _ _ => ?_) _ _).trans ?_

theorem State.writeKv_out {s : State} {a : AttCtx} {data : List Nat} {t : State} {x1 : Bool} {x2 : Bool}
    (h : State.writeKv s a data = (t, x1, x2)) : t.anchor = s.anchor := by
  have e := State.writeKv_anchor s a data
  rw [h] at e
  exact e

theorem State.attend_anchor (s : State) (e : Nat) (i : Inst) (a : AttCtx) (freqs : List Nat) :
    (State.attend s e i a freqs).anchor = s.anchor := by
  unfold State.attend
  repeat' first
    | with_reducible rfl
    | (simp only [anchor_ite, snd_ite, fst_ite, State.count_anchor, State.writeSpace_anchor, State.finishCmd_anchor,
        State.countClip_anchor, State.countNan_anchor, State.writeKv_anchor]; done)
    | exact State.writeKv_out (by assumption)
    | split
    | with_reducible refine (anchor_foldl _ (fun _ _ => ?_) _ _).trans ?_
    | with_reducible refine (anchor_foldl_fst _ (fun _ _ => ?_) _ _).trans ?_
    | with_reducible refine (anchor_foldl_snd _ (fun _ _ => ?_) _ _).trans ?_
    | simp only [anchor_ite, snd_ite, fst_ite, State.count_anchor, State.finishCmd_anchor, State.countClip_anchor,
        State.countNan_anchor]

theorem State.lineFault_anchor (s : State) (e : Nat) (i : Inst) (x : Nat × Nat) :
    (State.lineFault s e i x).anchor = s.anchor := by
  unfold State.lineFault
  simp only [State.raise_anchor, State.stopCtx_anchor]

theorem State.ptFault_anchor (s : State) (e : Nat) (i : Inst) (a : AttCtx) :
    (State.ptFault s e i a).anchor = s.anchor := by
  unfold State.ptFault
  simp only [State.raise_anchor, State.stopCtx_anchor]

theorem State.bitmapRead_anchor (s : State) (p gid : Nat) (g : GrammarImage) (st : Nat) :
    (State.bitmapRead s p gid g st).anchor = s.anchor := by
  unfold State.bitmapRead
  simp only [anchor_ite, ite_self, State.count_anchor, State.setTxtPart_anchor]

theorem doGrammarLoad_anchor (p vid : Nat) (s : State) :
    (doGrammarLoad p vid s).anchor = s.anchor := by
  unfold doGrammarLoad
  split <;> simp only [anchor_ite, ite_self, State.complete_anchor, State.runVerb_anchor, State.request_anchor]

theorem doGrammarLoadDone_anchor (p vid : Nat) (img : Option GrammarImage) (s : State) :
    (doGrammarLoadDone p vid img s).anchor = s.anchor := by
  unfold doGrammarLoadDone
  repeat' first
    | with_reducible rfl
    | (simp only [anchor_ite, ite_self, State.setTxtPart_anchor, State.complete_anchor]; done)
    | split

theorem State.dropGrammar_anchor (s : State) (p gid vid : Nat) :
    (State.dropGrammar s p gid vid).anchor = s.anchor := by
  unfold State.dropGrammar
  simp only [State.setTxtPart_anchor, State.completeAll_anchor]

theorem doGrammarDrop_anchor (p vid : Nat) (s : State) :
    (doGrammarDrop p vid s).anchor = s.anchor := by
  unfold doGrammarDrop
  repeat' first
    | with_reducible rfl
    | (simp only [anchor_ite, ite_self, State.setTxtPart_anchor, State.complete_anchor, State.runVerb_anchor,
        State.dropGrammar_anchor]; done)
    | with_reducible refine (anchor_foldl _ (fun _ _ => ?_) _ _).trans ?_
    | split
    | dsimp only

theorem doGrammarDropEffect_anchor (p gid : Nat) (s : State) :
    (doGrammarDropEffect p gid s).anchor = s.anchor := by
  unfold doGrammarDropEffect
  repeat' first
    | with_reducible rfl
    | (simp only [anchor_ite, ite_self, State.dropGrammar_anchor]; done)
    | split

theorem State.endPipe_anchor (s : State) (id : SchedId) (q ns : Nat) (waits : List Nat) :
    (State.endPipe s id q ns waits).anchor = s.anchor := by
  unfold State.endPipe
  simp only [State.charge_anchor, State.dropIdle_anchor]

theorem State.freePipes_anchor (s : State) :
    (State.freePipes s).anchor = s.anchor := by
  unfold State.freePipes
  repeat' first
    | with_reducible rfl
    | (simp only [anchor_mk, anchor_fold, anchor_ite, ite_self, State.endPipe_anchor]; done)
    | with_reducible refine (anchor_foldl _ (fun _ _ => ?_) _ _).trans ?_

theorem State.fillPipes_anchor (s : State) (a0 : Nat) :
    (State.fillPipes s a0).anchor = s.anchor := by
  induction a0 generalizing s with
  | zero =>
    unfold State.fillPipes
    repeat' first
      | with_reducible rfl
  | succ b ih =>
    unfold State.fillPipes
    repeat' first
      | with_reducible rfl
      | (simp only [anchor_mk, anchor_fold, ih]; done)
      | split

theorem State.grantText_anchor (s : State) :
    (State.grantText s).anchor = s.anchor := by
  unfold State.grantText
  simp only [State.freePipes_anchor, State.fillPipes_anchor]

theorem State.detokenized_anchor (s : State) (q n : Nat) :
    (State.detokenized s q n).anchor = s.anchor := by
  unfold State.detokenized
  simp only [State.endPipe_anchor]

theorem State.release_anchor (s : State) (p d n : Nat) (b : Bytes) :
    (State.release s p d n b).anchor = s.anchor := by
  unfold State.release
  repeat' first
    | with_reducible rfl
    | (simp only [anchor_ite, State.count_anchor, State.emit_anchor, State.modSeq_anchor, State.detokenized_anchor]; done)
    | split

theorem State.partialRecord_anchor (s : State) (p d n : Nat) :
    (State.partialRecord s p d n).anchor = s.anchor := by
  unfold State.partialRecord
  repeat' first
    | with_reducible rfl
    | (simp only [State.modSeq_anchor, State.post_anchor]; done)
    | split

theorem State.unpay_anchor (s : State) (p d n : Nat) :
    (State.unpay s p d n).anchor = s.anchor := by
  unfold State.unpay
  simp only [State.modSpn_anchor]

theorem State.leaveNext_anchor (s : State) (p d n : Nat) :
    (State.leaveNext s p d n).anchor = s.anchor := by
  unfold State.leaveNext
  simp only [State.modSpn_anchor]

theorem State.endStep_anchor (s : State) (p d n : Nat) (st : Status) (outFull : Bool) (keep : Bool) :
    (State.endStep s p d n st outFull keep).anchor = s.anchor := by
  unfold State.endStep
  repeat' first
    | with_reducible rfl
    | (simp only [State.count_anchor, State.modSeq_anchor, State.complete_anchor, State.completeAll_anchor, State.release_anchor,
        State.unpay_anchor, State.leaveNext_anchor]; done)
    | with_reducible refine (anchor_foldl _ (fun _ _ => ?_) _ _).trans ?_
    | split
    | dsimp only

theorem State.endInput_anchor (s : State) (p d n : Nat) (st : Status) :
    (State.endInput s p d n st).anchor = s.anchor := by
  unfold State.endInput
  repeat' first
    | with_reducible rfl
    | (simp only [State.modSeq_anchor, State.complete_anchor, State.grantText_anchor, State.unpay_anchor,
        State.leaveNext_anchor]; done)
    | split

theorem State.endWork_anchor (s : State) (p d n : Nat) (st : Status) :
    (State.endWork s p d n st).anchor = s.anchor := by
  unfold State.endWork
  simp only [State.endStep_anchor, State.endInput_anchor]

theorem State.absorbed_anchor (s : State) (p d n : Nat) :
    (State.absorbed s p d n).anchor = s.anchor := by
  unfold State.absorbed
  repeat' first
    | with_reducible rfl
    | (simp only [anchor_ite, ite_self, State.endInput_anchor]; done)
    | split

theorem State.finishPiece_anchor (s : State) (p : Nat) (v : Verb) (rest : List Piece) (done : List Nat × Option Nat) :
    (State.finishPiece s p v rest done).anchor = s.anchor := by
  unfold State.finishPiece
  repeat' first
    | with_reducible rfl
    | (simp only [anchor_ite, State.modVerb_anchor, State.modSeq_anchor]; done)
    | with_reducible refine (anchor_foldl _ (fun _ _ => ?_) _ _).trans ?_
    | split

theorem doPieceTokenized_anchor (p vid : Nat) (read : Bool) (s : State) :
    (doPieceTokenized p vid read s).anchor = s.anchor := by
  unfold doPieceTokenized
  repeat' first
    | with_reducible rfl
    | (simp only [anchor_ite, ite_self, State.count_anchor, State.grantText_anchor, State.endInput_anchor, State.absorbed_anchor,
        State.finishPiece_anchor]; done)
    | split

theorem doDrrRoundStart_anchor (id : SchedId) (s : State) :
    (doDrrRoundStart id s).anchor = s.anchor := by
  unfold doDrrRoundStart
  simp only [anchor_ite, ite_self, State.drrRound_anchor, State.grantText_anchor]

theorem doWheelTick_anchor (s : State) :
    (doWheelTick s).anchor = s.anchor := by
  unfold doWheelTick
  simp only [anchor_ite, ite_self, State.turnWheel_anchor, State.grantText_anchor]

theorem State.product_anchor (s : State) (e : Nat) (i : Inst) :
    (State.product s e i).anchor = s.anchor := by
  unfold State.product
  repeat' first
    | with_reducible rfl
    | (simp only [State.writeSpace_anchor, State.finishCmd_anchor, State.countClip_anchor, State.countNan_anchor]; done)
    | split
    | with_reducible refine (anchor_foldl _ (fun _ _ => ?_) _ _).trans ?_
    | simp only [State.finishCmd_anchor, State.countClip_anchor, State.countNan_anchor]

theorem State.vector_anchor (s : State) (e : Nat) (i : Inst) :
    (State.vector s e i).anchor = s.anchor := by
  unfold State.vector
  repeat' first
    | with_reducible rfl
    | (simp only [State.modEng_anchor, State.finishCmd_anchor, State.countClip_anchor, State.countNan_anchor]; done)
    | split
    | with_reducible refine (anchor_foldl _ (fun _ _ => ?_) _ _).trans ?_
    | with_reducible refine (anchor_foldl_fst _ (fun _ _ => ?_) _ _).trans ?_
    | with_reducible refine (anchor_foldl_snd _ (fun _ _ => ?_) _ _).trans ?_
    | simp only [State.finishCmd_anchor, State.countClip_anchor, State.countNan_anchor]
    | dsimp only
    | refine anchor_of_fst (by assumption) ?_

theorem State.modEntry_anchor (s : State) (p slot k : Nat) (f : GEntry → GEntry) :
    (State.modEntry s p slot k f).anchor = s.anchor := by
  unfold State.modEntry
  simp only [anchor_ite, ite_self, State.modSpn_anchor, State.setRecPart_anchor]

theorem State.sampleEntry_anchor (s : State) (e : Nat) (i : Inst) (row k : Nat) (en : GEntry) :
    (State.sampleEntry s e i row k en).anchor = s.anchor := by
  unfold State.sampleEntry
  repeat' first
    | with_reducible rfl
    | (simp only [State.countDegen_anchor, State.modEntry_anchor]; done)
    | with_reducible refine (anchor_foldl _ (fun _ _ => ?_) _ _).trans ?_
    | split
    | dsimp only

theorem State.sampleTask_anchor (s : State) (e : Nat) (i : Inst) :
    (State.sampleTask s e i).anchor = s.anchor := by
  unfold State.sampleTask
  repeat' first
    | with_reducible rfl
    | (simp only [anchor_ite, ite_self, State.count_anchor, State.modCtx_anchor, State.finishCmd_anchor,
        State.sampleEntry_anchor]; done)
    | split
    | with_reducible refine (anchor_foldl _ (fun _ _ => ?_) _ _).trans ?_
    | simp only [anchor_ite, State.count_anchor, State.modCtx_anchor, State.finishCmd_anchor]

theorem State.runTask_anchor (s : State) (e kind : Nat) (eff : Inst → State → State) (h : ∀ i t, (eff i t).anchor = t.anchor) :
    (State.runTask s e kind eff).anchor = s.anchor := by
  unfold State.runTask
  refine State.runCmd_anchor _ _ _ _ (fun i t => ?_)
  split
  · rfl
  · exact h i t

theorem doTaskProduct_anchor (e : Nat) (s : State) :
    (doTaskProduct e s).anchor = s.anchor := by
  unfold doTaskProduct
  repeat' first
    | with_reducible rfl
    | (simp only [State.product_anchor]; done)
    | refine State.runTask_anchor _ _ _ _ (fun _ _ => ?_)
    | split
    | with_reducible refine (anchor_foldl _ (fun _ _ => ?_) _ _).trans ?_
    | with_reducible refine (anchor_foldl_fst _ (fun _ _ => ?_) _ _).trans ?_
    | with_reducible refine (anchor_foldl_snd _ (fun _ _ => ?_) _ _).trans ?_
    | simp only [anchor_mk, anchor_fold, anchor_ite, ite_self, snd_ite, fst_ite, State.product_anchor]
    | dsimp only
    | refine anchor_of_fst (by assumption) ?_
    | refine anchor_of_snd (by assumption) ?_
    | refine anchor_of_third (by assumption) ?_

theorem doTaskVector_anchor (e : Nat) (s : State) :
    (doTaskVector e s).anchor = s.anchor := by
  unfold doTaskVector
  repeat' first
    | with_reducible rfl
    | (simp only [State.vector_anchor]; done)
    | refine State.runTask_anchor _ _ _ _ (fun _ _ => ?_)
    | split
    | with_reducible refine (anchor_foldl _ (fun _ _ => ?_) _ _).trans ?_
    | with_reducible refine (anchor_foldl_fst _ (fun _ _ => ?_) _ _).trans ?_
    | with_reducible refine (anchor_foldl_snd _ (fun _ _ => ?_) _ _).trans ?_
    | simp only [anchor_mk, anchor_fold, anchor_ite, ite_self, snd_ite, fst_ite, State.vector_anchor]
    | dsimp only
    | refine anchor_of_fst (by assumption) ?_
    | refine anchor_of_snd (by assumption) ?_
    | refine anchor_of_third (by assumption) ?_

theorem doTaskSample_anchor (e : Nat) (s : State) :
    (doTaskSample e s).anchor = s.anchor := by
  unfold doTaskSample
  repeat' first
    | with_reducible rfl
    | (simp only [anchor_ite, ite_self, State.malformed_anchor, State.sampleTask_anchor]; done)
    | refine State.runTask_anchor _ _ _ _ (fun _ _ => ?_)
    | split
    | with_reducible refine (anchor_foldl _ (fun _ _ => ?_) _ _).trans ?_
    | with_reducible refine (anchor_foldl_fst _ (fun _ _ => ?_) _ _).trans ?_
    | with_reducible refine (anchor_foldl_snd _ (fun _ _ => ?_) _ _).trans ?_
    | simp only [anchor_mk, anchor_fold, anchor_ite, ite_self, snd_ite, fst_ite, State.malformed_anchor, State.sampleTask_anchor]
    | dsimp only
    | refine anchor_of_fst (by assumption) ?_
    | refine anchor_of_snd (by assumption) ?_
    | refine anchor_of_third (by assumption) ?_

theorem doTaskMove_anchor (e : Nat) (s : State) :
    (doTaskMove e s).anchor = s.anchor := by
  unfold doTaskMove
  repeat' first
    | with_reducible rfl
    | (simp only [State.writeSpace_anchor, State.finishCmd_anchor]; done)
    | refine State.runTask_anchor _ _ _ _ (fun _ _ => ?_)
    | split
    | with_reducible refine (anchor_foldl _ (fun _ _ => ?_) _ _).trans ?_
    | with_reducible refine (anchor_foldl_fst _ (fun _ _ => ?_) _ _).trans ?_
    | with_reducible refine (anchor_foldl_snd _ (fun _ _ => ?_) _ _).trans ?_
    | simp only [anchor_mk, anchor_fold, anchor_ite, ite_self, snd_ite, fst_ite, State.writeSpace_anchor, State.finishCmd_anchor]
    | dsimp only
    | refine anchor_of_fst (by assumption) ?_
    | refine anchor_of_snd (by assumption) ?_
    | refine anchor_of_third (by assumption) ?_

theorem doTaskAttention_anchor (e : Nat) (s : State) :
    (doTaskAttention e s).anchor = s.anchor := by
  unfold doTaskAttention
  refine State.runTask_anchor _ _ _ _ (fun i t => ?_)
  repeat' first
    | with_reducible rfl
    | with_reducible exact State.malformed_anchor ..
    | with_reducible exact State.finishCmd_anchor ..
    | with_reducible exact State.ptFault_anchor ..
    | with_reducible exact State.lineFault_anchor ..
    | with_reducible exact State.attend_anchor ..
    | split
    | dsimp only

theorem State.smearKv_anchor (s : State) (e : Nat) (i : Inst) :
    (State.smearKv s e i).anchor = s.anchor := by
  unfold State.smearKv
  repeat' first
    | with_reducible rfl
    | (simp only [anchor_mk, anchor_fold, anchor_ite, State.putKv_anchor, State.putTree_anchor]; done)
    | with_reducible refine (anchor_foldl _ (fun _ _ => ?_) _ _).trans ?_
    | split

theorem State.cutSamples_anchor (s : State) (e : Nat) (i : Inst) :
    (State.cutSamples s e i).anchor = s.anchor := by
  unfold State.cutSamples
  repeat' first
    | with_reducible rfl
    | (simp only [anchor_mk, anchor_fold, State.modEntry_anchor]; done)
    | with_reducible refine (anchor_foldl _ (fun _ _ => ?_) _ _).trans ?_
    | split

theorem State.incomplete_anchor (s : State) (e : Nat) (i : Inst) :
    (State.incomplete s e i).anchor = s.anchor := by
  unfold State.incomplete
  repeat' first
    | with_reducible rfl
    | (simp only [anchor_ite, ite_self, State.smear_anchor, State.smearKv_anchor, State.cutSamples_anchor]; done)
    | split
    | with_reducible refine (anchor_foldl _ (fun _ _ => ?_) _ _).trans ?_
    | simp only [State.smearKv_anchor, State.cutSamples_anchor]

theorem doBudgetFault_anchor (e unit : Nat) (s : State) :
    (doBudgetFault e unit s).anchor = s.anchor := by
  unfold doBudgetFault
  repeat' first
    | with_reducible rfl
    | (simp only [anchor_ite, ite_self, State.count_anchor, State.raise_anchor, State.modEng_anchor, State.stopCtx_anchor,
        State.incomplete_anchor]; done)
    | refine State.runCmd_anchor _ _ _ _ (fun _ _ => ?_)

theorem State.issue_anchor (s : State) (e : Nat) (i : Inst) (type : Nat) (data : Bytes) :
    (State.issue s e i type data).anchor = s.anchor := by
  unfold State.issue
  simp only [State.startRequest_anchor, State.modCtx_anchor]

theorem State.takeReply_anchor (s : State) (p n : Nat) :
    (State.takeReply s p n).anchor = s.anchor := by
  unfold State.takeReply
  simp only [State.modSpn_anchor]

theorem doIssueRead_anchor (e : Nat) (s : State) :
    (doIssueRead e s).anchor = s.anchor := by
  unfold doIssueRead
  repeat' first
    | with_reducible rfl
    | (simp only [anchor_ite, ite_self, State.modCtx_anchor, State.finishCmd_anchor, State.block_anchor, State.issue_anchor,
        State.takeReply_anchor]; done)
    | refine State.runCmd_anchor _ _ _ _ (fun _ _ => ?_)

theorem doIssueWrite_anchor (e : Nat) (s : State) :
    (doIssueWrite e s).anchor = s.anchor := by
  unfold doIssueWrite
  repeat' first
    | with_reducible rfl
    | (simp only [anchor_ite, ite_self, State.finishCmd_anchor, State.issue_anchor]; done)
    | refine State.runCmd_anchor _ _ _ _ (fun _ _ => ?_)
    | split
    | with_reducible refine (anchor_foldl _ (fun _ _ => ?_) _ _).trans ?_
    | with_reducible refine (anchor_foldl_fst _ (fun _ _ => ?_) _ _).trans ?_
    | with_reducible refine (anchor_foldl_snd _ (fun _ _ => ?_) _ _).trans ?_
    | simp only [anchor_mk, anchor_fold, anchor_ite, ite_self, snd_ite, fst_ite, State.finishCmd_anchor, State.issue_anchor]
    | dsimp only
    | refine anchor_of_fst (by assumption) ?_
    | refine anchor_of_snd (by assumption) ?_
    | refine anchor_of_third (by assumption) ?_

theorem State.wakeResv_anchor (s : State) (p : Nat) :
    (State.wakeResv s p).anchor = s.anchor := by
  unfold State.wakeResv
  repeat' first
    | with_reducible rfl
    | (simp only [State.modEng_anchor]; done)
    | with_reducible refine (anchor_foldl _ (fun _ _ => ?_) _ _).trans ?_

theorem doAwait_anchor (e : Nat) (s : State) :
    (doAwait e s).anchor = s.anchor := by
  unfold doAwait
  refine State.runCmd_anchor _ _ _ _ (fun i t => ?_)
  dsimp only
  split
  · rw [State.raise_anchor, State.stopCtx_anchor]
  · split
    · rw [State.block_anchor]
    · rw [State.finishCmd_anchor, State.modCtx_anchor, State.wakeResv_anchor, State.modSpn_anchor]
      refine (anchor_foldl _ (fun _ _ => ?_) _ _).trans ?_
      · rw [State.smear_anchor]
      · exact anchor_foldl _ (fun _ _ => State.writeSpace_anchor ..) _ _

theorem State.engineReply_anchor (s : State) (r : Request) (e slot tag : Nat) :
    (State.engineReply s r e slot tag).anchor = s.anchor := by
  unfold State.engineReply
  repeat' first
    | with_reducible rfl
    | (simp only [anchor_ite, State.writeSpace_anchor, State.modCtx_anchor]; done)
    | with_reducible refine (anchor_foldl _ (fun _ _ => ?_) _ _).trans ?_
    | split
    | dsimp only

theorem State.nextStream_anchor (s : State) (p e : Nat) (y : Ctx) :
    (State.nextStream s p e y).anchor = s.anchor := by
  unfold State.nextStream
  repeat' first
    | with_reducible rfl
    | (simp only [anchor_ite, ite_self, State.count_anchor, State.modEng_anchor, State.setRecPart_anchor,
        State.modCtx_anchor]; done)
    | with_reducible refine (anchor_foldl _ (fun _ _ => ?_) _ _).trans ?_
    | split
    | dsimp only

theorem doBarrier_anchor (e : Nat) (s : State) :
    (doBarrier e s).anchor = s.anchor := by
  unfold doBarrier
  repeat' first
    | with_reducible rfl
    | (simp only [anchor_ite, ite_self, State.choose_anchor, State.advanceCtx_anchor, State.block_anchor,
        State.nextStream_anchor]; done)
    | refine State.runCmd_anchor _ _ _ _ (fun _ _ => ?_)
    | split
    | with_reducible refine (anchor_foldl _ (fun _ _ => ?_) _ _).trans ?_
    | with_reducible refine (anchor_foldl_fst _ (fun _ _ => ?_) _ _).trans ?_
    | with_reducible refine (anchor_foldl_snd _ (fun _ _ => ?_) _ _).trans ?_
    | simp only [anchor_ite, State.block_anchor]

theorem doEndStream_anchor (e : Nat) (s : State) :
    (doEndStream e s).anchor = s.anchor := by
  unfold doEndStream
  repeat' first
    | with_reducible rfl
    | (simp only [anchor_ite, ite_self, State.count_anchor, State.modCtx_anchor, State.choose_anchor,
        State.nextStream_anchor]; done)
    | refine State.runCmd_anchor _ _ _ _ (fun _ _ => ?_)

theorem doContextSwitchDone_anchor (e : Nat) (s : State) :
    (doContextSwitchDone e s).anchor = s.anchor := by
  unfold doContextSwitchDone
  repeat' first
    | with_reducible rfl
    | (simp only [State.count_anchor, State.setEng_anchor, State.modEng_anchor]; done)
    | with_reducible refine (anchor_foldl _ (fun _ _ => ?_) _ _).trans ?_
    | split
    | dsimp only

theorem doAwaitSwitchTimeout_anchor (e target : Nat) (s : State) :
    (doAwaitSwitchTimeout e target s).anchor = s.anchor := by
  unfold doAwaitSwitchTimeout
  split <;> simp only [anchor_ite, ite_self, State.choose_anchor]

theorem doStepSliceExpire_anchor (e : Nat) (s : State) :
    (doStepSliceExpire e s).anchor = s.anchor := by
  unfold doStepSliceExpire
  repeat' first
    | with_reducible rfl
    | (simp only [anchor_ite, ite_self, State.modEng_anchor, State.grantRounds_anchor, State.choose_anchor]; done)
    | split

theorem State.loadTest_anchor (s : State) (p e : Nat) (prog : List Cmd) :
    (State.loadTest s p e prog).anchor = s.anchor := by
  unfold State.loadTest
  simp only [State.modEng_anchor, State.rechoose_anchor]

theorem doTestContextLoad_anchor (e : Nat) (signed : Bool) (prog : List Cmd) (s : State) :
    (doTestContextLoad e signed prog s).anchor = s.anchor := by
  unfold doTestContextLoad
  split <;> simp only [anchor_ite, ite_self, State.loadTest_anchor]

end Machine
end Sys2Proof
end

