-- ==== Sys2Proof/Laws/AnchorSessions.lean ====
section
/-!
SUPPORT. Sys2Proof/Laws/AnchorSessions.lean: what sessions, their verbs and their input leave of the anchor.
-/
namespace Sys2Proof
namespace Machine

theorem State.draw_anchor (s : State) (n : Nat) :
    (State.draw s n).2.anchor = s.anchor := by
  unfold State.draw
  simp only [anchor_mk, anchor_fold]

theorem State.draw_out {s : State} {n : Nat} {x0 : Nat} {t : State}
    (h : State.draw s n = (x0, t)) : t.anchor = s.anchor := by
  have e := State.draw_anchor s n
  rw [h] at e
  exact e

theorem State.setDirFree_anchor (s : State) (p : Nat) (f : FreeList) :
    (State.setDirFree s p f).anchor = s.anchor := by
  unfold State.setDirFree
  simp only [anchor_mk, anchor_fold]

theorem State.freeRecord_anchor (s : State) (p d : Nat) :
    (State.freeRecord s p d).anchor = s.anchor := by
  unfold State.freeRecord
  simp only [anchor_ite, ite_self, State.countSat_anchor, State.setRec_anchor, State.setDirFree_anchor]

theorem State.growPt_out {s : State} {d : Nat} {a0 : Nat} {t : State}
    (h : State.growPt s d a0 = some t) : t.anchor = s.anchor := by
  revert h
  induction a0 generalizing s d t with
  | zero =>
    unfold State.growPt
    repeat' first
      | (intro h; cases h)
      | (intro h; rw [State.allocFolio_out h])
      | (simp only []; done)
      | (simp only [State.allocFolio_out (by assumption), anchor_mk, anchor_fold, anchor_ite, ite_self, snd_ite, fst_ite,
          State.modSession_anchor]; done)
      | split
      | with_reducible refine (anchor_foldl _ (fun _ _ => ?_) _ _).trans ?_
      | simp only [anchor_mk, anchor_fold, anchor_ite, ite_self, snd_ite, fst_ite, State.modSession_anchor]
      | simp only [State.allocFolio_out (by assumption), anchor_mk, anchor_fold, anchor_ite, ite_self, snd_ite, fst_ite,
          State.modSession_anchor]
      | dsimp only
  | succ b ih =>
    unfold State.growPt
    repeat' first
      | (intro h; cases h)
      | (intro h; rw [ih h])
      | (intro h; rw [State.allocFolio_out h])
      | (simp only [State.modSession_anchor]; done)
      | (simp only [State.allocFolio_out (by assumption), State.modSession_anchor]; done)
      | split
      | with_reducible refine (anchor_foldl _ (fun _ _ => ?_) _ _).trans ?_
      | simp only [anchor_mk, anchor_fold, anchor_ite, ite_self, snd_ite, fst_ite, State.modSession_anchor]
      | simp only [State.allocFolio_out (by assumption), anchor_mk, anchor_fold, anchor_ite, ite_self, snd_ite, fst_ite,
          State.modSession_anchor]
      | dsimp only

theorem State.reservePt_out {s : State} {d more : Nat} {t : State}
    (h : State.reservePt s d more = some t) : t.anchor = s.anchor := by
  revert h
  unfold State.reservePt
  repeat' first
    | (intro h; cases h)
    | (intro h; rw [State.growPt_out h])
    | split

theorem State.freeQuire_anchor (s : State) (p : Nat) (q : Quire) :
    (State.freeQuire s p q).anchor = s.anchor := by
  unfold State.freeQuire
  repeat' first
    | with_reducible rfl
    | (simp only [anchor_ite, State.modCkp_anchor, State.freeTier_anchor]; done)
    | with_reducible refine (anchor_foldl _ (fun _ _ => ?_) _ _).trans ?_
    | split

theorem State.abandonPark_anchor (s : State) (d : Nat) :
    (State.abandonPark s d).anchor = s.anchor := by
  unfold State.abandonPark
  repeat' first
    | with_reducible rfl
    | (simp only [State.modSession_anchor, State.freeTier_anchor, State.releaseSources_anchor, State.unpins_anchor]; done)
    | split
    | with_reducible refine (anchor_foldl _ (fun _ _ => ?_) _ _).trans ?_
    | simp only [State.modSession_anchor, State.releaseSources_anchor, State.unpins_anchor]

theorem State.abandonRevive_anchor (s : State) (d : Nat) :
    (State.abandonRevive s d).anchor = s.anchor := by
  unfold State.abandonRevive
  repeat' first
    | with_reducible rfl
    | (simp only [State.modSession_anchor, State.modFolPart_anchor, State.dropSpine_anchor, State.dropRef_anchor,
        State.unpin_anchor, State.subPt_anchor]; done)
    | split
    | with_reducible refine (anchor_foldl _ (fun _ _ => ?_) _ _).trans ?_
    | simp only [State.modSession_anchor, State.modFolPart_anchor, State.subPt_anchor]

theorem State.dropSeq_anchor (s : State) (d n : Nat) :
    (State.dropSeq s d n).anchor = s.anchor := by
  unfold State.dropSeq
  repeat' first
    | with_reducible rfl
    | (simp only [anchor_ite, ite_self, State.modSeq_anchor, State.dropSpine_anchor, State.dropRefs_anchor,
        State.subPt_anchor]; done)
    | split

theorem State.erase_anchor (s : State) (d : Nat) :
    (State.erase s d).anchor = s.anchor := by
  unfold State.erase
  repeat' first
    | with_reducible rfl
    | (simp only [State.setRec_anchor, State.modSession_anchor, State.dropRef_anchor, State.dropRefs_anchor,
        State.freeQuire_anchor, State.abandonPark_anchor, State.abandonRevive_anchor, State.dropSeq_anchor]; done)
    | split
    | with_reducible refine (anchor_foldl _ (fun _ _ => ?_) _ _).trans ?_
    | simp only [State.setRec_anchor, State.modSession_anchor, State.dropRef_anchor, State.dropRefs_anchor,
        State.freeQuire_anchor]

theorem State.endSession_anchor (s : State) (d : Nat) :
    (State.endSession s d).anchor = s.anchor := by
  unfold State.endSession
  split <;> simp only [State.dropSession_anchor, State.freeRecord_anchor, State.erase_anchor]

theorem doOpen_anchor (p vid : Nat) (s : State) :
    (doOpen p vid s).anchor = s.anchor := by
  unfold doOpen
  repeat' first
    | with_reducible rfl
    | (simp only [anchor_ite, State.drawn_anchor, State.setRec_anchor, State.setSession_anchor, State.giveSpine_anchor,
        State.complete_anchor, State.draw_anchor, State.setDirFree_anchor]; done)
    | (simp only [State.allocFolio_out (by assumption), State.drawn_anchor, State.setRec_anchor, State.setSession_anchor,
        State.giveSpine_anchor, State.complete_anchor, State.draw_anchor, State.setDirFree_anchor]; done)
    | exact State.drawn_out (by assumption)
    | exact State.allocFolio_out (by assumption)
    | exact State.draw_out (by assumption)
    | split
    | with_reducible refine (anchor_foldl _ (fun _ _ => ?_) _ _).trans ?_
    | with_reducible refine (anchor_foldl_fst _ (fun _ _ => ?_) _ _).trans ?_
    | with_reducible refine (anchor_foldl_snd _ (fun _ _ => ?_) _ _).trans ?_
    | simp only [State.drawn_anchor, State.setRec_anchor, State.setSession_anchor, State.giveSpine_anchor, State.complete_anchor,
        State.draw_anchor, State.setDirFree_anchor]
    | simp only [State.drawn_out (by assumption), anchor_mk, anchor_fold, anchor_ite, ite_self, snd_ite, fst_ite,
        State.drawn_anchor, State.setRec_anchor, State.setSession_anchor, State.giveSpine_anchor, State.complete_anchor,
        State.draw_anchor, State.setDirFree_anchor]
    | simp only [State.allocFolio_out (by assumption)]

theorem State.allocQuire_out {s : State} {p h : Nat} {a0 : List Sealed} {a1 : List Nat} {x0 : List Nat} {t : State}
    (h : State.allocQuire s p h a0 a1 = some (x0, t)) : t.anchor = s.anchor := by
  revert h
  induction a0 generalizing s p h a1 x0 t with
  | nil =>
    unfold State.allocQuire
    repeat' first
      | (intro h; cases h)
      | (intro h; rw [State.allocFolio_out h])
      | (simp only []; done)
      | (simp only [State.allocFolio_out (by assumption), anchor_mk, anchor_fold, anchor_ite, ite_self, snd_ite, fst_ite,
          State.pin_anchor]; done)
      | split
      | with_reducible refine (anchor_foldl _ (fun _ _ => ?_) _ _).trans ?_
      | simp only [anchor_mk, anchor_fold, anchor_ite, ite_self, snd_ite, fst_ite, State.pin_anchor]
      | simp only [State.allocFolio_out (by assumption), anchor_mk, anchor_fold, anchor_ite, ite_self, snd_ite, fst_ite,
          State.pin_anchor]
      | dsimp only
  | cons b bs ih =>
    unfold State.allocQuire
    repeat' first
      | (intro h; cases h)
      | (intro h; rw [ih h])
      | (intro h; rw [State.allocFolio_out h])
      | (simp only [State.pin_anchor]; done)
      | (simp only [State.allocFolio_out (by assumption), State.pin_anchor]; done)
      | split
      | with_reducible refine (anchor_foldl _ (fun _ _ => ?_) _ _).trans ?_
      | simp only []
      | simp only [State.allocFolio_out (by assumption), anchor_mk, anchor_fold, anchor_ite, ite_self, snd_ite, fst_ite,
          State.pin_anchor]
      | dsimp only

theorem State.giveSpines_out {s : State} {p d : Nat} {a0 : List Nat} {t : State}
    (h : State.giveSpines s p d a0 = some t) : t.anchor = s.anchor := by
  revert h
  induction a0 generalizing s p d t with
  | nil =>
    unfold State.giveSpines
    repeat' first
      | (intro h; cases h)
      | (simp only []; done)
      | split
      | with_reducible refine (anchor_foldl _ (fun _ _ => ?_) _ _).trans ?_
      | simp only [anchor_mk, anchor_fold, anchor_ite, ite_self, snd_ite, fst_ite, State.giveSpine_anchor]
      | dsimp only
  | cons b bs ih =>
    unfold State.giveSpines
    repeat' first
      | (intro h; cases h)
      | (intro h; rw [ih h])
      | (simp only [State.giveSpine_anchor]; done)
      | split
      | with_reducible refine (anchor_foldl _ (fun _ _ => ?_) _ _).trans ?_
      | simp only [anchor_mk, anchor_fold, anchor_ite, ite_self, snd_ite, fst_ite, State.giveSpine_anchor]
      | dsimp only

theorem State.startRevive_out {s : State} {d : Nat} {cause : Option Nat} {wake : Bool} {t : State}
    (h : State.startRevive s d cause wake = some t) : t.anchor = s.anchor := by
  revert h
  unfold State.startRevive
  repeat' first
    | (intro h; cases h)
    | (simp only [State.modSession_anchor, State.modSeqs_anchor, State.modFolPart_anchor, State.carry_anchor,
        State.addPt_anchor]; done)
    | (simp only [State.allocQuire_out (by assumption), State.modSession_anchor, State.modSeqs_anchor, State.modFolPart_anchor,
        State.carry_anchor, State.addPt_anchor]; done)
    | (simp only [State.giveSpines_out (by assumption), State.modSession_anchor, State.modSeqs_anchor, State.modFolPart_anchor,
        State.carry_anchor, State.addPt_anchor]; done)
    | split
    | with_reducible refine (anchor_foldl _ (fun _ _ => ?_) _ _).trans ?_
    | simp only [State.modSession_anchor, State.modSeqs_anchor, State.modFolPart_anchor, State.carry_anchor, State.addPt_anchor]
    | simp only [State.allocQuire_out (by assumption)]

theorem State.resident_anchor (s : State) (p : Nat) (v : Verb) :
    (State.resident s p v).2.anchor = s.anchor := by
  unfold State.resident
  repeat' first
    | with_reducible rfl
    | (simp only [anchor_ite, snd_ite, State.complete_anchor]; done)
    | exact State.startRevive_out (by assumption)
    | split

theorem State.resident_out {s : State} {p : Nat} {v : Verb} {x0 : Bool} {t : State}
    (h : State.resident s p v = (x0, t)) : t.anchor = s.anchor := by
  have e := State.resident_anchor s p v
  rw [h] at e
  exact e

theorem State.failRevive_anchor (s : State) (d : Nat) (st : Status) :
    (State.failRevive s d st).anchor = s.anchor := by
  unfold State.failRevive
  repeat' first
    | with_reducible rfl
    | (simp only [anchor_ite, ite_self, State.modSeqs_anchor, State.notice_anchor, State.completeAll_anchor,
        State.abandonRevive_anchor]; done)
    | split

theorem doRevive_anchor (p vid : Nat) (s : State) :
    (doRevive p vid s).anchor = s.anchor := by
  unfold doRevive
  repeat' first
    | with_reducible rfl
    | (simp only [anchor_ite, State.modSession_anchor, State.complete_anchor, State.runVerb_anchor]; done)
    | exact State.startRevive_out (by assumption)
    | split
    | with_reducible refine (anchor_foldl _ (fun _ _ => ?_) _ _).trans ?_
    | simp only [State.runVerb_anchor]

theorem doReviveDone_anchor (d latNs ns : Nat) (s : State) :
    (doReviveDone d latNs ns s).anchor = s.anchor := by
  unfold doReviveDone
  repeat' first
    | with_reducible rfl
    | (simp only [anchor_ite, ite_self, State.count_anchor, State.setRec_anchor, State.modSession_anchor, State.modFolio_anchor,
        State.modFolPart_anchor, State.completeAll_anchor, State.unpins_anchor, State.observe_anchor, State.freeQuire_anchor,
        State.failRevive_anchor]; done)
    | split
    | with_reducible refine (anchor_foldl _ (fun _ _ => ?_) _ _).trans ?_
    | simp only [State.count_anchor, State.setRec_anchor, State.modSession_anchor, State.modFolPart_anchor,
        State.completeAll_anchor, State.unpins_anchor, State.observe_anchor, State.freeQuire_anchor]

theorem State.allocMany_out {s : State} {p tier : Nat} {a0 : Nat} {a1 : List Nat} {x0 : List Nat} {t : State}
    (h : State.allocMany s p tier a0 a1 = some (x0, t)) : t.anchor = s.anchor := by
  revert h
  induction a0 generalizing s p tier a1 x0 t with
  | zero =>
    unfold State.allocMany
    repeat' first
      | (intro h; cases h)
      | (intro h; rw [State.allocTier_out h])
      | (simp only []; done)
      | (simp only [State.allocTier_out (by assumption), anchor_mk, anchor_fold, anchor_ite, ite_self, snd_ite, fst_ite]; done)
      | split
      | with_reducible refine (anchor_foldl _ (fun _ _ => ?_) _ _).trans ?_
      | simp only [anchor_mk, anchor_fold, anchor_ite, ite_self, snd_ite, fst_ite]
      | simp only [State.allocTier_out (by assumption), anchor_mk, anchor_fold, anchor_ite, ite_self, snd_ite, fst_ite]
      | dsimp only
  | succ b ih =>
    unfold State.allocMany
    repeat' first
      | (intro h; cases h)
      | (intro h; rw [ih h])
      | (intro h; rw [State.allocTier_out h])
      | (simp only [anchor_mk, anchor_fold, anchor_ite, ite_self, snd_ite, fst_ite]; done)
      | (simp only [State.allocTier_out (by assumption)]; done)
      | split
      | with_reducible refine (anchor_foldl _ (fun _ _ => ?_) _ _).trans ?_
      | simp only [anchor_mk, anchor_fold, anchor_ite, ite_self, snd_ite, fst_ite]
      | simp only [State.allocTier_out (by assumption), anchor_mk, anchor_fold, anchor_ite, ite_self, snd_ite, fst_ite]
      | dsimp only

theorem State.allocQuireTier_out {s : State} {p n : Nat} {a0 : List Nat} {x0 : Nat} {x1 : List Nat} {t : State}
    (h : State.allocQuireTier s p n a0 = some (x0, x1, t)) : t.anchor = s.anchor := by
  revert h
  induction a0 generalizing s p n x0 x1 t with
  | nil =>
    unfold State.allocQuireTier
    repeat' first
      | (intro h; cases h)
      | (intro h; rw [State.allocMany_out h])
      | (simp only [anchor_mk, anchor_fold, anchor_ite, ite_self, snd_ite, fst_ite]; done)
      | (simp only [State.allocMany_out (by assumption), anchor_mk, anchor_fold, anchor_ite, ite_self, snd_ite, fst_ite]; done)
      | split
      | with_reducible refine (anchor_foldl _ (fun _ _ => ?_) _ _).trans ?_
      | simp only [anchor_mk, anchor_fold, anchor_ite, ite_self, snd_ite, fst_ite]
      | simp only [State.allocMany_out (by assumption), anchor_mk, anchor_fold, anchor_ite, ite_self, snd_ite, fst_ite]
      | dsimp only
  | cons b bs ih =>
    unfold State.allocQuireTier
    repeat' first
      | (intro h; cases h)
      | (intro h; rw [ih h])
      | (intro h; rw [State.allocMany_out h])
      | (simp only [anchor_mk, anchor_fold, anchor_ite, ite_self, snd_ite, fst_ite]; done)
      | (simp only [State.allocMany_out (by assumption)]; done)
      | split
      | with_reducible refine (anchor_foldl _ (fun _ _ => ?_) _ _).trans ?_
      | simp only [anchor_mk, anchor_fold, anchor_ite, ite_self, snd_ite, fst_ite]
      | simp only [State.allocMany_out (by assumption), anchor_mk, anchor_fold, anchor_ite, ite_self, snd_ite, fst_ite]
      | dsimp only

theorem doPark_anchor (p vid : Nat) (s : State) :
    (doPark p vid s).anchor = s.anchor := by
  unfold doPark
  repeat' first
    | with_reducible rfl
    | (simp only [anchor_ite, State.modSession_anchor, State.modSeqs_anchor, State.complete_anchor, State.runVerb_anchor,
        State.carry_anchor, State.pins_anchor, State.pteFault_anchor, State.draw_anchor]; done)
    | exact State.draw_out (by assumption)
    | exact State.allocQuireTier_out (by assumption)
    | split
    | with_reducible refine (anchor_foldl _ (fun _ _ => ?_) _ _).trans ?_
    | simp only [State.modSession_anchor, State.modSeqs_anchor, State.runVerb_anchor, State.carry_anchor, State.pins_anchor,
        State.draw_anchor]

theorem State.sealAll_anchor (s : State) (parkId key : Nat) (a0 : List (Nat × Sealed)) :
    (State.sealAll s parkId key a0).1.anchor = s.anchor := by
  induction a0 generalizing s parkId key with
  | nil =>
    unfold State.sealAll
    repeat' first
      | with_reducible rfl
      | (simp only [anchor_mk, anchor_fold, anchor_ite, ite_self, snd_ite, fst_ite, State.drawn_anchor]; done)
      | (simp only [State.drawn_out (by assumption), anchor_mk, anchor_fold, anchor_ite, ite_self, snd_ite, fst_ite,
          State.drawn_anchor]; done)
      | exact State.drawn_out (by assumption)
      | split
      | with_reducible refine (anchor_foldl _ (fun _ _ => ?_) _ _).trans ?_
      | with_reducible refine (anchor_foldl_fst _ (fun _ _ => ?_) _ _).trans ?_
      | with_reducible refine (anchor_foldl_snd _ (fun _ _ => ?_) _ _).trans ?_
      | simp only [anchor_mk, anchor_fold, anchor_ite, ite_self, snd_ite, fst_ite, State.drawn_anchor]
      | simp only [State.drawn_out (by assumption), anchor_mk, anchor_fold, anchor_ite, ite_self, snd_ite, fst_ite,
          State.drawn_anchor]
      | dsimp only
      | refine anchor_of_fst (by assumption) ?_
      | refine anchor_of_snd (by assumption) ?_
      | refine anchor_of_third (by assumption) ?_
  | cons b bs ih =>
    unfold State.sealAll
    repeat' first
      | with_reducible rfl
      | (simp only [State.drawn_anchor, ih]; done)
      | (simp only [State.drawn_out (by assumption), anchor_mk, anchor_fold, anchor_ite, ite_self, snd_ite, fst_ite,
          State.drawn_anchor, ih]; done)
      | exact State.drawn_out (by assumption)
      | split
      | with_reducible refine (anchor_foldl _ (fun _ _ => ?_) _ _).trans ?_
      | with_reducible refine (anchor_foldl_fst _ (fun _ _ => ?_) _ _).trans ?_
      | with_reducible refine (anchor_foldl_snd _ (fun _ _ => ?_) _ _).trans ?_
      | simp only [anchor_mk, anchor_fold, anchor_ite, ite_self, snd_ite, fst_ite, State.drawn_anchor, ih]
      | simp only [State.drawn_out (by assumption), anchor_mk, anchor_fold, anchor_ite, ite_self, snd_ite, fst_ite,
          State.drawn_anchor, ih]
      | dsimp only
      | refine anchor_of_fst (by assumption) ?_
      | refine anchor_of_snd (by assumption) ?_
      | refine anchor_of_third (by assumption) ?_

theorem State.sealAll_out {s : State} {parkId key : Nat} {a0 : List (Nat × Sealed)} {t : State} {x1 : List Sealed}
    (h : State.sealAll s parkId key a0 = (t, x1)) : t.anchor = s.anchor := by
  have e := State.sealAll_anchor s parkId key a0
  rw [h] at e
  exact e

theorem State.expire_anchor (s : State) (d : Nat) :
    (State.expire s d).anchor = s.anchor := by
  unfold State.expire
  split <;> simp only [State.setRec_anchor, State.modSeqs_anchor, State.notice_anchor, State.erase_anchor]

theorem doParkDone_anchor (d : Nat) (s : State) :
    (doParkDone d s).anchor = s.anchor := by
  unfold doParkDone
  repeat' first
    | with_reducible rfl
    | (simp only [anchor_ite, ite_self, State.count_anchor, State.setRec_anchor, State.modSession_anchor, State.dropSpine_anchor,
        State.complete_anchor, State.dropRef_anchor, State.dropRefs_anchor, State.subPt_anchor, State.releaseSources_anchor,
        State.writeQuire_anchor, State.unpins_anchor, State.abandonPark_anchor, State.sealAll_anchor, State.expire_anchor]; done)
    | exact State.sealAll_out (by assumption)
    | split
    | with_reducible refine (anchor_foldl _ (fun _ _ => ?_) _ _).trans ?_
    | simp only [anchor_ite, ite_self, State.count_anchor, State.setRec_anchor, State.modSession_anchor, State.complete_anchor,
        State.writeQuire_anchor, State.expire_anchor]

theorem State.expireDue_anchor (s : State) (p : Nat) :
    (State.expireDue s p).anchor = s.anchor := by
  unfold State.expireDue
  repeat' first
    | with_reducible rfl
    | (simp only [anchor_ite, ite_self, State.expire_anchor]; done)
    | with_reducible refine (anchor_foldl _ (fun _ _ => ?_) _ _).trans ?_

theorem doTtlExpire_anchor (d : Nat) (s : State) :
    (doTtlExpire d s).anchor = s.anchor := by
  unfold doTtlExpire
  split <;> simp only [anchor_ite, ite_self, State.expire_anchor]

theorem doWakeAheadStart_anchor (d : Nat) (s : State) :
    (doWakeAheadStart d s).anchor = s.anchor := by
  unfold doWakeAheadStart
  repeat' first
    | with_reducible rfl
    | (simp only [anchor_ite, State.count_anchor, State.modSession_anchor, State.notice_anchor]; done)
    | (simp only [State.startRevive_out (by assumption), State.count_anchor, State.modSession_anchor]; done)
    | exact State.startRevive_out (by assumption)
    | split
    | with_reducible refine (anchor_foldl _ (fun _ _ => ?_) _ _).trans ?_
    | simp only [anchor_ite]
    | dsimp only

theorem State.shareRefs_out {s : State} {h : Nat} {a0 : List Pte} {a1 : List Pte} {x0 : List Pte} {t : State}
    (h : State.shareRefs s h a0 a1 = some (x0, t)) : t.anchor = s.anchor := by
  revert h
  induction a0 generalizing s h a1 x0 t with
  | nil =>
    unfold State.shareRefs
    repeat' first
      | (intro h; cases h)
      | (intro h; rw [State.copyFolio_out h])
      | (simp only []; done)
      | (simp only [State.copyFolio_out (by assumption), anchor_mk, anchor_fold, anchor_ite, ite_self, snd_ite, fst_ite,
          State.countSat_anchor, State.addRef_anchor]; done)
      | split
      | with_reducible refine (anchor_foldl _ (fun _ _ => ?_) _ _).trans ?_
      | simp only [anchor_mk, anchor_fold, anchor_ite, ite_self, snd_ite, fst_ite, State.countSat_anchor, State.addRef_anchor]
      | simp only [State.copyFolio_out (by assumption), anchor_mk, anchor_fold, anchor_ite, ite_self, snd_ite, fst_ite,
          State.countSat_anchor, State.addRef_anchor]
      | dsimp only
  | cons b bs ih =>
    unfold State.shareRefs
    repeat' first
      | (intro h; cases h)
      | (intro h; rw [ih h])
      | (intro h; rw [State.copyFolio_out h])
      | (simp only [State.countSat_anchor, State.addRef_anchor]; done)
      | (simp only [State.copyFolio_out (by assumption), State.countSat_anchor]; done)
      | split
      | with_reducible refine (anchor_foldl _ (fun _ _ => ?_) _ _).trans ?_
      | simp only [anchor_mk, anchor_fold, anchor_ite, ite_self, snd_ite, fst_ite, State.countSat_anchor, State.addRef_anchor]
      | simp only [State.copyFolio_out (by assumption), anchor_mk, anchor_fold, anchor_ite, ite_self, snd_ite, fst_ite,
          State.countSat_anchor, State.addRef_anchor]
      | dsimp only

theorem State.shareSpans_out {s : State} {h : Nat} {a0 : List Span} {a1 : List Span} {x0 : List Span} {t : State}
    (h : State.shareSpans s h a0 a1 = some (x0, t)) : t.anchor = s.anchor := by
  revert h
  induction a0 generalizing s h a1 x0 t with
  | nil =>
    unfold State.shareSpans
    repeat' first
      | (intro h; cases h)
      | (intro h; rw [State.shareRefs_out h])
      | (simp only []; done)
      | (simp only [State.shareRefs_out (by assumption), anchor_mk, anchor_fold, anchor_ite, ite_self, snd_ite, fst_ite]; done)
      | split
      | with_reducible refine (anchor_foldl _ (fun _ _ => ?_) _ _).trans ?_
      | simp only [anchor_mk, anchor_fold, anchor_ite, ite_self, snd_ite, fst_ite]
      | simp only [State.shareRefs_out (by assumption), anchor_mk, anchor_fold, anchor_ite, ite_self, snd_ite, fst_ite]
      | dsimp only
  | cons b bs ih =>
    unfold State.shareSpans
    repeat' first
      | (intro h; cases h)
      | (intro h; rw [ih h])
      | (intro h; rw [State.shareRefs_out h])
      | (simp only [anchor_mk, anchor_fold, anchor_ite, ite_self, snd_ite, fst_ite]; done)
      | (simp only [State.shareRefs_out (by assumption)]; done)
      | split
      | with_reducible refine (anchor_foldl _ (fun _ _ => ?_) _ _).trans ?_
      | simp only [anchor_mk, anchor_fold, anchor_ite, ite_self, snd_ite, fst_ite]
      | simp only [State.shareRefs_out (by assumption), anchor_mk, anchor_fold, anchor_ite, ite_self, snd_ite, fst_ite]
      | dsimp only

theorem doFork_anchor (p vid : Nat) (s : State) :
    (doFork p vid s).anchor = s.anchor := by
  unfold doFork
  repeat' first
    | with_reducible rfl
    | (simp only [anchor_ite, State.setRec_anchor, State.modSession_anchor, State.giveSpine_anchor, State.complete_anchor,
        State.addPt_anchor, State.pteFault_anchor, State.resident_anchor]; done)
    | (simp only [State.reservePt_out (by assumption), State.setRec_anchor, State.modSession_anchor, State.giveSpine_anchor,
        State.complete_anchor, State.addPt_anchor]; done)
    | (simp only [State.resident_out (by assumption), anchor_ite, State.setRec_anchor, State.modSession_anchor,
        State.giveSpine_anchor, State.complete_anchor, State.addPt_anchor, State.pteFault_anchor]; done)
    | (simp only [State.shareSpans_out (by assumption), State.setRec_anchor, State.modSession_anchor, State.giveSpine_anchor,
        State.complete_anchor, State.addPt_anchor]; done)
    | exact State.reservePt_out (by assumption)
    | exact State.resident_out (by assumption)
    | exact State.shareSpans_out (by assumption)
    | split
    | with_reducible refine (anchor_foldl _ (fun _ _ => ?_) _ _).trans ?_
    | with_reducible refine (anchor_foldl_fst _ (fun _ _ => ?_) _ _).trans ?_
    | with_reducible refine (anchor_foldl_snd _ (fun _ _ => ?_) _ _).trans ?_
    | simp only [State.setRec_anchor, State.modSession_anchor, State.giveSpine_anchor, State.complete_anchor, State.addPt_anchor]
    | simp only [State.reservePt_out (by assumption), anchor_mk, anchor_fold, anchor_ite, ite_self, snd_ite, fst_ite,
        State.setRec_anchor, State.modSession_anchor, State.giveSpine_anchor, State.complete_anchor, State.addPt_anchor,
        State.pteFault_anchor, State.resident_anchor]
    | simp only [State.resident_out (by assumption), anchor_mk, anchor_fold, anchor_ite, ite_self, snd_ite, fst_ite,
        State.setRec_anchor, State.modSession_anchor, State.giveSpine_anchor, State.complete_anchor, State.addPt_anchor,
        State.pteFault_anchor, State.resident_anchor]
    | simp only [State.shareSpans_out (by assumption)]

theorem doPlace_anchor (p vid : Nat) (s : State) :
    (doPlace p vid s).anchor = s.anchor := by
  unfold doPlace
  repeat' first
    | with_reducible rfl
    | (simp only [anchor_ite, ite_self, State.modFolPart_anchor, State.complete_anchor, State.runVerb_anchor,
        State.pteFault_anchor, State.placeStep_anchor]; done)
    | exact State.resident_out (by assumption)
    | split
    | with_reducible refine (anchor_foldl _ (fun _ _ => ?_) _ _).trans ?_
    | simp only [anchor_ite, State.complete_anchor]

theorem doPlaceDone_anchor (p vid : Nat) (s : State) :
    (doPlaceDone p vid s).anchor = s.anchor := by
  unfold doPlaceDone
  split <;> simp only [anchor_ite, ite_self, State.setFolPart_anchor, State.complete_anchor]

theorem State.takeInput_anchor (s : State) (p : Nat) (v : Verb) (before : Option Nat) (a0 : Input) :
    (State.takeInput s p v before a0).anchor = s.anchor := by
  unfold State.takeInput
  split <;> simp only [anchor_ite, ite_self, State.modVerb_anchor, State.modSeq_anchor]

theorem State.markBound_anchor (s : State) (p vid total : Nat) :
    (State.markBound s p vid total).anchor = s.anchor := by
  unfold State.markBound
  simp only [anchor_ite, ite_self, State.modVerb_anchor]

theorem State.beginInput_anchor (s : State) (p : Nat) (v : Verb) :
    (State.beginInput s p v).anchor = s.anchor := by
  unfold State.beginInput
  simp only [State.modSeq_anchor, State.runVerb_anchor]

theorem doAppend_anchor (p vid : Nat) (data : Option Bytes) (s : State) :
    (doAppend p vid data s).anchor = s.anchor := by
  unfold doAppend
  repeat' first
    | with_reducible rfl
    | (simp only [anchor_ite, ite_self, State.complete_anchor, State.grantText_anchor, State.resident_anchor,
        State.takeInput_anchor, State.markBound_anchor, State.beginInput_anchor]; done)
    | exact State.resident_out (by assumption)
    | split

theorem State.splice_anchor (s : State) (p : Nat) (v : Verb) (q : Seq) (edits : List (Edit × Input)) :
    (State.splice s p v q edits).anchor = s.anchor := by
  unfold State.splice
  repeat' first
    | with_reducible rfl
    | (simp only [anchor_ite, State.modSeq_anchor, State.complete_anchor, State.dropRefs_anchor, State.subPt_anchor,
        State.grantText_anchor, State.takeInput_anchor, State.markBound_anchor, State.beginInput_anchor]; done)
    | split
    | with_reducible refine (anchor_foldl _ (fun _ _ => ?_) _ _).trans ?_
    | simp only [anchor_ite, State.modSeq_anchor, State.complete_anchor, State.dropRefs_anchor, State.subPt_anchor,
        State.grantText_anchor]

theorem doSplice_anchor (p vid : Nat) (inputs : List (Option Bytes)) (s : State) :
    (doSplice p vid inputs s).anchor = s.anchor := by
  unfold doSplice
  repeat' first
    | with_reducible rfl
    | (simp only [anchor_ite, ite_self, State.complete_anchor, State.pteFault_anchor, State.resident_anchor,
        State.splice_anchor]; done)
    | split

theorem State.feedOverhang_anchor (s : State) (p d n : Nat) (r : StepRun) (q : Seq) :
    (State.feedOverhang s p d n r q).anchor = s.anchor := by
  unfold State.feedOverhang
  simp only [anchor_ite, ite_self, State.modSeq_anchor, State.release_anchor, State.endStep_anchor]

theorem doStepGen_anchor (p vid : Nat) (stops : Option Bytes) (s : State) :
    (doStepGen p vid stops s).anchor = s.anchor := by
  unfold doStepGen
  repeat' first
    | with_reducible rfl
    | (simp only [anchor_ite, ite_self, State.modSeq_anchor, State.complete_anchor, State.runVerb_anchor, State.endStep_anchor,
        State.resident_anchor, State.feedOverhang_anchor]; done)
    | split

theorem doStepStop_anchor (p vid : Nat) (s : State) :
    (doStepStop p vid s).anchor = s.anchor := by
  unfold doStepStop
  repeat' first
    | with_reducible rfl
    | (simp only [anchor_ite, ite_self, State.modSeq_anchor, State.complete_anchor, State.runVerb_anchor, State.leaveNext_anchor,
        State.endStep_anchor]; done)
    | split

end Machine
end Sys2Proof
end

