-- ==== Sys2Proof/Laws/AnchorSteps.lean ====
section
/-!
SUPPORT. Sys2Proof/Laws/AnchorSteps.lean: what gatherings and step boundaries leave of the anchor.
-/
namespace Sys2Proof
namespace Machine

theorem State.absorbHit_anchor (s : State) (p d n : Nat) :
    (State.absorbHit s p d n).2.anchor = s.anchor := by
  have room : ∀ {c : Bool} {u : State}, (if c then s.reservePt d 1 else none) = some u → u.anchor = s.anchor := by
    intro c u h
    split at h
    · exact State.reservePt_out h
    · cases h
  unfold State.absorbHit
  repeat' first
    | with_reducible rfl
    | (simp only [State.countSat_anchor]; done)
    | exact room (by assumption)
    | split
    | simp only [State.modSeq_anchor, State.addPt_anchor, State.addRefs_anchor]

theorem State.absorbHit_out {s : State} {p d n : Nat} {x0 : Bool} {t : State}
    (h : State.absorbHit s p d n = (x0, t)) : t.anchor = s.anchor := by
  have e := State.absorbHit_anchor s p d n
  rw [h] at e
  exact e

theorem State.absorbHits_anchor (s : State) (p d n : Nat) (a0 : Nat) :
    (State.absorbHits s p d n a0).2.anchor = s.anchor := by
  induction a0 generalizing s p d n with
  | zero =>
    unfold State.absorbHits
    repeat' first
      | with_reducible rfl
      | (simp only [anchor_mk, anchor_fold, anchor_ite, ite_self, snd_ite, fst_ite, State.absorbHit_anchor]; done)
      | (simp only [State.absorbHit_out (by assumption), anchor_mk, anchor_fold, anchor_ite, ite_self, snd_ite, fst_ite,
          State.absorbHit_anchor]; done)
      | exact State.absorbHit_out (by assumption)
      | split
      | with_reducible refine (anchor_foldl _ (fun _ _ => ?_) _ _).trans ?_
      | with_reducible refine (anchor_foldl_fst _ (fun _ _ => ?_) _ _).trans ?_
      | with_reducible refine (anchor_foldl_snd _ (fun _ _ => ?_) _ _).trans ?_
      | simp only [anchor_mk, anchor_fold, anchor_ite, ite_self, snd_ite, fst_ite, State.absorbHit_anchor]
      | simp only [State.absorbHit_out (by assumption), anchor_mk, anchor_fold, anchor_ite, ite_self, snd_ite, fst_ite,
          State.absorbHit_anchor]
      | dsimp only
      | refine anchor_of_fst (by assumption) ?_
      | refine anchor_of_snd (by assumption) ?_
      | refine anchor_of_third (by assumption) ?_
  | succ b ih =>
    unfold State.absorbHits
    repeat' first
      | with_reducible rfl
      | (simp only [ih]; done)
      | (simp only [State.absorbHit_out (by assumption), ih]; done)
      | exact State.absorbHit_out (by assumption)
      | split
      | with_reducible refine (anchor_foldl _ (fun _ _ => ?_) _ _).trans ?_
      | with_reducible refine (anchor_foldl_fst _ (fun _ _ => ?_) _ _).trans ?_
      | with_reducible refine (anchor_foldl_snd _ (fun _ _ => ?_) _ _).trans ?_
      | simp only [anchor_mk, anchor_fold, anchor_ite, ite_self, snd_ite, fst_ite, State.absorbHit_anchor, ih]
      | simp only [State.absorbHit_out (by assumption), anchor_mk, anchor_fold, anchor_ite, ite_self, snd_ite, fst_ite,
          State.absorbHit_anchor, ih]
      | dsimp only
      | refine anchor_of_fst (by assumption) ?_
      | refine anchor_of_snd (by assumption) ?_
      | refine anchor_of_third (by assumption) ?_

theorem State.absorbHits_out {s : State} {p d n : Nat} {a0 : Nat} {x0 : Bool} {t : State}
    (h : State.absorbHits s p d n a0 = (x0, t)) : t.anchor = s.anchor := by
  have e := State.absorbHits_anchor s p d n a0
  rw [h] at e
  exact e

theorem fillOne_anchor (p : Nat) (cfg : SchedCfg) (k : Nat) (x : Fill) (c : Cand) :
    (fillOne p cfg k x c).s.anchor = x.s.anchor := by
  unfold fillOne
  repeat' first
    | with_reducible rfl
    | (simp only [State.absorbHits_anchor]; done)
    | split
    | dsimp only
    | exact State.absorbHits_out (by assumption)
    | refine anchor_of_snd (by assumption) ?_

theorem fillAll_anchor (p : Nat) (cfg : SchedCfg) (k : Nat) (l : List Cand) (x : Fill) :
    (l.foldl (fillOne p cfg k) x).s.anchor = x.s.anchor := by
  induction l generalizing x with
  | nil => rfl
  | cons c l ih => rw [List.foldl_cons, ih, fillOne_anchor]

theorem State.completeHit_anchor (s : State) (p vid : Nat) :
    (State.completeHit s p vid).anchor = s.anchor := by
  unfold State.completeHit
  split <;> simp only [State.endInput_anchor]

theorem State.retryStalled_anchor (s : State) (p : Nat) :
    (State.retryStalled s p).anchor = s.anchor := by
  unfold State.retryStalled
  repeat' first
    | with_reducible rfl
    | (simp only [anchor_ite, ite_self, State.modSeq_anchor, State.startPromotion_anchor, State.landed_anchor]; done)
    | split
    | with_reducible refine (anchor_foldl _ (fun _ _ => ?_) _ _).trans ?_
    | simp only [State.modSeq_anchor, State.landed_anchor]

theorem doSelection_anchor (p : Nat) (s : State) :
    (doSelection p s).anchor = s.anchor := by
  unfold doSelection
  repeat' first
    | with_reducible rfl
    | (simp only [anchor_ite, State.modSpn_anchor, State.completeHit_anchor, State.retryStalled_anchor, fillAll_anchor]; done)
    | with_reducible refine (anchor_foldl _ (fun _ _ => ?_) _ _).trans ?_
    | split
    | dsimp only

theorem State.countMiss_anchor (s : State) (p cls : Nat) (k : MissKind) (tier : Nat) :
    (State.countMiss s p cls k tier).anchor = s.anchor := by
  unfold State.countMiss
  simp only [State.count_anchor]

theorem State.promoteC_anchor (s : State) (p : Nat) (miss : List Nat) :
    (State.promoteC s p miss).anchor = s.anchor := by
  unfold State.promoteC
  repeat' first
    | with_reducible rfl
    | (simp only [anchor_ite, ite_self, State.startPromotion_anchor]; done)
    | with_reducible refine (anchor_foldl _ (fun _ _ => ?_) _ _).trans ?_
    | split
    | dsimp only

theorem State.stall_anchor (s : State) (d n : Nat) (room : Bool) :
    (State.stall s d n room).anchor = s.anchor := by
  unfold State.stall
  simp only [State.modSeq_anchor]

theorem State.recompute_anchor (s : State) (d n : Nat) (miss : List Nat) :
    (State.recompute s d n miss).anchor = s.anchor := by
  unfold State.recompute
  simp only [State.modSeq_anchor]

theorem State.miss_anchor (s : State) (p : Nat) (q : Seq) (k : MissKind) (tier est : Nat) (miss : List Nat) (en : GEntry) :
    (State.miss s p q k tier est miss en).1.anchor = s.anchor := by
  unfold State.miss
  repeat' first
    | with_reducible rfl
    | (simp only [anchor_ite, ite_self, fst_ite, State.forcePressure_anchor, State.endWork_anchor, State.countMiss_anchor,
        State.promoteC_anchor, State.stall_anchor, State.recompute_anchor]; done)
    | with_reducible refine (anchor_foldl _ (fun _ _ => ?_) _ _).trans ?_
    | split
    | dsimp only

theorem State.miss_out {s : State} {p : Nat} {q : Seq} {k : MissKind} {tier est : Nat} {miss : List Nat} {en : GEntry}
    {t : State} {x1 : Option GEntry}
    (h : State.miss s p q k tier est miss en = (t, x1)) : t.anchor = s.anchor := by
  have e := State.miss_anchor s p q k tier est miss en
  rw [h] at e
  exact e

theorem State.demand_anchor (s : State) (p i : Nat) :
    (State.demand s p i).anchor = s.anchor := by
  unfold State.demand
  split <;> simp only [anchor_ite, ite_self, State.setFolio_anchor, State.reclass_anchor, State.startPromotion_anchor,
      State.addDemand_anchor]

theorem State.ask_anchor (s : State) (p : Nat) (en : GEntry) :
    (State.ask s p en).1.anchor = s.anchor := by
  unfold State.ask
  repeat' first
    | with_reducible rfl
    | (simp only [anchor_ite, ite_self, fst_ite, State.pteFault_anchor, State.endWork_anchor, State.recompute_anchor,
        State.miss_anchor, State.demand_anchor]; done)
    | with_reducible refine (anchor_foldl _ (fun _ _ => ?_) _ _).trans ?_
    | split
    | dsimp only

theorem State.ask_out {s : State} {p : Nat} {en : GEntry} {t : State} {x1 : Option GEntry}
    (h : State.ask s p en = (t, x1)) : t.anchor = s.anchor := by
  have e := State.ask_anchor s p en
  rw [h] at e
  exact e

theorem State.askAll_anchor (s : State) (p : Nat) (a0 : List GEntry) :
    (State.askAll s p a0).1.anchor = s.anchor := by
  induction a0 generalizing s p with
  | nil =>
    unfold State.askAll
    repeat' first
      | with_reducible rfl
      | (simp only [anchor_mk, anchor_fold, anchor_ite, ite_self, snd_ite, fst_ite, State.ask_anchor]; done)
      | (simp only [State.ask_out (by assumption), anchor_mk, anchor_fold, anchor_ite, ite_self, snd_ite, fst_ite,
          State.ask_anchor]; done)
      | exact State.ask_out (by assumption)
      | split
      | with_reducible refine (anchor_foldl _ (fun _ _ => ?_) _ _).trans ?_
      | with_reducible refine (anchor_foldl_fst _ (fun _ _ => ?_) _ _).trans ?_
      | with_reducible refine (anchor_foldl_snd _ (fun _ _ => ?_) _ _).trans ?_
      | simp only [anchor_mk, anchor_fold, anchor_ite, ite_self, snd_ite, fst_ite, State.ask_anchor]
      | simp only [State.ask_out (by assumption), anchor_mk, anchor_fold, anchor_ite, ite_self, snd_ite, fst_ite,
          State.ask_anchor]
      | dsimp only
      | refine anchor_of_fst (by assumption) ?_
      | refine anchor_of_snd (by assumption) ?_
      | refine anchor_of_third (by assumption) ?_
  | cons b bs ih =>
    unfold State.askAll
    repeat' first
      | with_reducible rfl
      | (simp only [anchor_ite, ite_self, fst_ite, State.ask_anchor, ih]; done)
      | (simp only [State.ask_out (by assumption), anchor_mk, anchor_fold, anchor_ite, ite_self, snd_ite, fst_ite,
          State.ask_anchor, ih]; done)
      | exact State.ask_out (by assumption)
      | split
      | with_reducible refine (anchor_foldl _ (fun _ _ => ?_) _ _).trans ?_
      | with_reducible refine (anchor_foldl_fst _ (fun _ _ => ?_) _ _).trans ?_
      | with_reducible refine (anchor_foldl_snd _ (fun _ _ => ?_) _ _).trans ?_
      | simp only [anchor_mk, anchor_fold, anchor_ite, ite_self, snd_ite, fst_ite, State.ask_anchor, ih]
      | simp only [State.ask_out (by assumption), anchor_mk, anchor_fold, anchor_ite, ite_self, snd_ite, fst_ite,
          State.ask_anchor, ih]
      | dsimp only
      | refine anchor_of_fst (by assumption) ?_
      | refine anchor_of_snd (by assumption) ?_
      | refine anchor_of_third (by assumption) ?_

theorem State.askAll_out {s : State} {p : Nat} {a0 : List GEntry} {t : State} {x1 : List GEntry}
    (h : State.askAll s p a0 = (t, x1)) : t.anchor = s.anchor := by
  have e := State.askAll_anchor s p a0
  rw [h] at e
  exact e

theorem State.allocKv_out {s : State} {p h layersPer : Nat} {a0 : Nat} {a1 : List Pte} {x0 : List Pte} {t : State}
    (h : State.allocKv s p h layersPer a0 a1 = some (x0, t)) : t.anchor = s.anchor := by
  revert h
  induction a0 generalizing s p h layersPer a1 x0 t with
  | zero =>
    unfold State.allocKv
    repeat' first
      | (intro h; cases h)
      | (intro h; rw [State.allocFolio_out h])
      | (simp only []; done)
      | (simp only [State.allocFolio_out (by assumption), anchor_mk, anchor_fold, anchor_ite, ite_self, snd_ite, fst_ite]; done)
      | split
      | with_reducible refine (anchor_foldl _ (fun _ _ => ?_) _ _).trans ?_
      | simp only [anchor_mk, anchor_fold, anchor_ite, ite_self, snd_ite, fst_ite]
      | simp only [State.allocFolio_out (by assumption), anchor_mk, anchor_fold, anchor_ite, ite_self, snd_ite, fst_ite]
      | dsimp only
  | succ b ih =>
    unfold State.allocKv
    repeat' first
      | (intro h; cases h)
      | (intro h; rw [ih h])
      | (intro h; rw [State.allocFolio_out h])
      | (simp only [anchor_mk, anchor_fold, anchor_ite, ite_self, snd_ite, fst_ite]; done)
      | (simp only [State.allocFolio_out (by assumption)]; done)
      | split
      | with_reducible refine (anchor_foldl _ (fun _ _ => ?_) _ _).trans ?_
      | simp only [anchor_mk, anchor_fold, anchor_ite, ite_self, snd_ite, fst_ite]
      | simp only [State.allocFolio_out (by assumption), anchor_mk, anchor_fold, anchor_ite, ite_self, snd_ite, fst_ite]
      | dsimp only

theorem State.cowEntries_out {s : State} {p h : Nat} {replaced : List Nat} {a0 : List Pte} {a1 : List Pte} {x0 : List Pte}
    {t : State}
    (h : State.cowEntries s p h replaced a0 a1 = some (x0, t)) : t.anchor = s.anchor := by
  revert h
  induction a0 generalizing s p h replaced a1 x0 t with
  | nil =>
    unfold State.cowEntries
    repeat' first
      | (intro h; cases h)
      | (intro h; rw [State.copyFolio_out h])
      | (simp only []; done)
      | (simp only [State.copyFolio_out (by assumption), anchor_mk, anchor_fold, anchor_ite, ite_self, snd_ite, fst_ite,
          State.dropRef_anchor]; done)
      | split
      | with_reducible refine (anchor_foldl _ (fun _ _ => ?_) _ _).trans ?_
      | simp only [anchor_mk, anchor_fold, anchor_ite, ite_self, snd_ite, fst_ite, State.dropRef_anchor]
      | simp only [State.copyFolio_out (by assumption), anchor_mk, anchor_fold, anchor_ite, ite_self, snd_ite, fst_ite,
          State.dropRef_anchor]
      | dsimp only
  | cons b bs ih =>
    unfold State.cowEntries
    repeat' first
      | (intro h; cases h)
      | (intro h; rw [ih h])
      | (intro h; rw [State.copyFolio_out h])
      | (simp only [State.dropRef_anchor]; done)
      | (simp only [State.copyFolio_out (by assumption), State.dropRef_anchor]; done)
      | split
      | with_reducible refine (anchor_foldl _ (fun _ _ => ?_) _ _).trans ?_
      | simp only [anchor_mk, anchor_fold, anchor_ite, ite_self, snd_ite, fst_ite, State.dropRef_anchor]
      | simp only [State.copyFolio_out (by assumption), anchor_mk, anchor_fold, anchor_ite, ite_self, snd_ite, fst_ite,
          State.dropRef_anchor]
      | dsimp only

theorem State.landRecomputed_out {s : State} {p i : Nat} {t : State}
    (h : State.landRecomputed s p i = some t) : t.anchor = s.anchor := by
  revert h
  unfold State.landRecomputed
  repeat' first
    | (intro h; cases h)
    | (simp only [State.setFolio_anchor, State.modFolPart_anchor, State.freeTier_anchor, State.unpin_anchor]; done)
    | split
    | with_reducible refine (anchor_foldl _ (fun _ _ => ?_) _ _).trans ?_
    | simp only [anchor_mk, anchor_fold, anchor_ite, ite_self, snd_ite, fst_ite, State.setFolio_anchor, State.modFolPart_anchor,
        State.freeTier_anchor, State.unpin_anchor]
    | dsimp only

theorem State.landAll_out {s : State} {p : Nat} {a0 : List Nat} {t : State}
    (h : State.landAll s p a0 = some t) : t.anchor = s.anchor := by
  revert h
  induction a0 generalizing s p t with
  | nil =>
    unfold State.landAll
    repeat' first
      | (intro h; cases h)
      | (intro h; rw [State.landRecomputed_out h])
      | (simp only []; done)
      | (simp only [State.landRecomputed_out (by assumption), anchor_mk, anchor_fold, anchor_ite, ite_self, snd_ite,
          fst_ite]; done)
      | split
      | with_reducible refine (anchor_foldl _ (fun _ _ => ?_) _ _).trans ?_
      | simp only [anchor_mk, anchor_fold, anchor_ite, ite_self, snd_ite, fst_ite]
      | simp only [State.landRecomputed_out (by assumption), anchor_mk, anchor_fold, anchor_ite, ite_self, snd_ite, fst_ite]
      | dsimp only
  | cons b bs ih =>
    unfold State.landAll
    repeat' first
      | (intro h; cases h)
      | (intro h; rw [ih h])
      | (intro h; rw [State.landRecomputed_out h])
      | (simp only [anchor_mk, anchor_fold, anchor_ite, ite_self, snd_ite, fst_ite]; done)
      | (simp only [State.landRecomputed_out (by assumption)]; done)
      | split
      | with_reducible refine (anchor_foldl _ (fun _ _ => ?_) _ _).trans ?_
      | simp only [anchor_mk, anchor_fold, anchor_ite, ite_self, snd_ite, fst_ite]
      | simp only [State.landRecomputed_out (by assumption), anchor_mk, anchor_fold, anchor_ite, ite_self, snd_ite, fst_ite]
      | dsimp only

theorem State.ensureSpan_out {s : State} {p d n : Nat} {replaced : List Nat} {i : Nat} {t : State}
    (h : State.ensureSpan s p d n replaced i = some t) : t.anchor = s.anchor := by
  revert h
  unfold State.ensureSpan
  repeat' first
    | (intro h; cases h)
    | (simp only [State.modSeq_anchor, State.addPt_anchor]; done)
    | (simp only [State.allocKv_out (by assumption), State.modSeq_anchor, State.addPt_anchor]; done)
    | (simp only [State.cowEntries_out (by assumption), State.modSeq_anchor]; done)
    | (simp only [State.landAll_out (by assumption), State.modSeq_anchor]; done)
    | split
    | with_reducible refine (anchor_foldl _ (fun _ _ => ?_) _ _).trans ?_
    | simp only [State.modSeq_anchor]
    | simp only [State.allocKv_out (by assumption), anchor_mk, anchor_fold, anchor_ite, ite_self, snd_ite, fst_ite,
        State.modSeq_anchor, State.addPt_anchor]
    | simp only [State.cowEntries_out (by assumption)]

theorem State.ensureSpans_out {s : State} {p d n : Nat} {replaced : List Nat} {a0 : List Nat} {t : State}
    (h : State.ensureSpans s p d n replaced a0 = some t) : t.anchor = s.anchor := by
  revert h
  induction a0 generalizing s p d n replaced t with
  | nil =>
    unfold State.ensureSpans
    repeat' first
      | (intro h; cases h)
      | (intro h; rw [State.ensureSpan_out h])
      | (simp only []; done)
      | (simp only [State.ensureSpan_out (by assumption), anchor_mk, anchor_fold, anchor_ite, ite_self, snd_ite, fst_ite]; done)
      | split
      | with_reducible refine (anchor_foldl _ (fun _ _ => ?_) _ _).trans ?_
      | simp only [anchor_mk, anchor_fold, anchor_ite, ite_self, snd_ite, fst_ite]
      | simp only [State.ensureSpan_out (by assumption), anchor_mk, anchor_fold, anchor_ite, ite_self, snd_ite, fst_ite]
      | dsimp only
  | cons b bs ih =>
    unfold State.ensureSpans
    repeat' first
      | (intro h; cases h)
      | (intro h; rw [ih h])
      | (intro h; rw [State.ensureSpan_out h])
      | (simp only [anchor_mk, anchor_fold, anchor_ite, ite_self, snd_ite, fst_ite]; done)
      | (simp only [State.ensureSpan_out (by assumption)]; done)
      | split
      | with_reducible refine (anchor_foldl _ (fun _ _ => ?_) _ _).trans ?_
      | simp only [anchor_mk, anchor_fold, anchor_ite, ite_self, snd_ite, fst_ite]
      | simp only [State.ensureSpan_out (by assumption), anchor_mk, anchor_fold, anchor_ite, ite_self, snd_ite, fst_ite]
      | dsimp only

theorem State.shiftRuns_anchor (s : State) (p d n i0 m : Nat) :
    (State.shiftRuns s p d n i0 m).anchor = s.anchor := by
  unfold State.shiftRuns
  repeat' first
    | with_reducible rfl
    | (simp only [anchor_ite, State.modVerb_anchor, State.modSeq_anchor]; done)
    | split

theorem State.prepWith_out {s : State} {p : Nat} {en : GEntry} {t : State} {x1 : GEntry}
    (h : State.prepWith s p en = some (t, x1)) : t.anchor = s.anchor := by
  revert h
  unfold State.prepWith
  repeat' first
    | (intro h; cases h)
    | (simp only [anchor_mk, anchor_fold, snd_ite, fst_ite]; done)
    | (simp only [State.reservePt_out (by assumption), anchor_mk, anchor_fold]; done)
    | (simp only [State.ensureSpans_out (by assumption), anchor_mk, anchor_fold, State.modSeq_anchor,
        State.shiftRuns_anchor]; done)
    | split
    | with_reducible refine (anchor_foldl _ (fun _ _ => ?_) _ _).trans ?_
    | simp only [anchor_mk, anchor_fold, snd_ite, fst_ite]
    | simp only [State.reservePt_out (by assumption), anchor_mk, anchor_fold, anchor_ite, ite_self, snd_ite, fst_ite,
        State.modSeq_anchor, State.pins_anchor, State.shiftRuns_anchor]
    | simp only [State.ensureSpans_out (by assumption), State.modSeq_anchor, State.shiftRuns_anchor]

theorem State.prep_anchor (s : State) (p : Nat) (en : GEntry) :
    (State.prep s p en).1.anchor = s.anchor := by
  unfold State.prep
  repeat' first
    | with_reducible rfl
    | (simp only [State.modSeq_anchor, State.forcePressure_anchor, State.endWork_anchor, State.countMiss_anchor]; done)
    | exact State.prepWith_out (by assumption)
    | split
    | with_reducible refine (anchor_foldl _ (fun _ _ => ?_) _ _).trans ?_
    | simp only [State.modSeq_anchor, State.forcePressure_anchor, State.countMiss_anchor]

theorem State.prep_out {s : State} {p : Nat} {en : GEntry} {t : State} {x1 : Option GEntry}
    (h : State.prep s p en = (t, x1)) : t.anchor = s.anchor := by
  have e := State.prep_anchor s p en
  rw [h] at e
  exact e

theorem State.prepAll_anchor (s : State) (p : Nat) (a0 : List GEntry) :
    (State.prepAll s p a0).1.anchor = s.anchor := by
  induction a0 generalizing s p with
  | nil =>
    unfold State.prepAll
    repeat' first
      | with_reducible rfl
      | (simp only [anchor_mk, anchor_fold, anchor_ite, ite_self, snd_ite, fst_ite, State.prep_anchor]; done)
      | (simp only [State.prep_out (by assumption), anchor_mk, anchor_fold, anchor_ite, ite_self, snd_ite, fst_ite,
          State.prep_anchor]; done)
      | exact State.prep_out (by assumption)
      | split
      | with_reducible refine (anchor_foldl _ (fun _ _ => ?_) _ _).trans ?_
      | with_reducible refine (anchor_foldl_fst _ (fun _ _ => ?_) _ _).trans ?_
      | with_reducible refine (anchor_foldl_snd _ (fun _ _ => ?_) _ _).trans ?_
      | simp only [anchor_mk, anchor_fold, anchor_ite, ite_self, snd_ite, fst_ite, State.prep_anchor]
      | simp only [State.prep_out (by assumption), anchor_mk, anchor_fold, anchor_ite, ite_self, snd_ite, fst_ite,
          State.prep_anchor]
      | dsimp only
      | refine anchor_of_fst (by assumption) ?_
      | refine anchor_of_snd (by assumption) ?_
      | refine anchor_of_third (by assumption) ?_
  | cons b bs ih =>
    unfold State.prepAll
    repeat' first
      | with_reducible rfl
      | (simp only [State.prep_anchor, ih]; done)
      | (simp only [State.prep_out (by assumption), anchor_mk, anchor_fold, anchor_ite, ite_self, snd_ite, fst_ite,
          State.prep_anchor, ih]; done)
      | exact State.prep_out (by assumption)
      | split
      | with_reducible refine (anchor_foldl _ (fun _ _ => ?_) _ _).trans ?_
      | with_reducible refine (anchor_foldl_fst _ (fun _ _ => ?_) _ _).trans ?_
      | with_reducible refine (anchor_foldl_snd _ (fun _ _ => ?_) _ _).trans ?_
      | simp only [anchor_mk, anchor_fold, anchor_ite, ite_self, snd_ite, fst_ite, State.prep_anchor, ih]
      | simp only [State.prep_out (by assumption), anchor_mk, anchor_fold, anchor_ite, ite_self, snd_ite, fst_ite,
          State.prep_anchor, ih]
      | dsimp only
      | refine anchor_of_fst (by assumption) ?_
      | refine anchor_of_snd (by assumption) ?_
      | refine anchor_of_third (by assumption) ?_

theorem State.prepAll_out {s : State} {p : Nat} {a0 : List GEntry} {t : State} {x1 : List GEntry}
    (h : State.prepAll s p a0 = (t, x1)) : t.anchor = s.anchor := by
  have e := State.prepAll_anchor s p a0
  rw [h] at e
  exact e

theorem State.stage_anchor (s : State) (p : Nat) (l : List Nat) :
    (State.stage s p l).anchor = s.anchor := by
  unfold State.stage
  repeat' first
    | with_reducible rfl
    | (simp only [State.count_anchor, State.modFolio_anchor, State.modCkp_anchor]; done)
    | split
    | with_reducible refine (anchor_foldl _ (fun _ _ => ?_) _ _).trans ?_
    | simp only [State.count_anchor, State.modCkp_anchor]

theorem State.chargeEntries_anchor (s : State) (p : Nat) (l : List GEntry) :
    (State.chargeEntries s p l).anchor = s.anchor := by
  unfold State.chargeEntries
  repeat' first
    | with_reducible rfl
    | (simp only [State.modSpn_anchor, State.charge_anchor, State.dropIdle_anchor]; done)
    | split
    | with_reducible refine (anchor_foldl _ (fun _ _ => ?_) _ _).trans ?_
    | simp only [State.modSpn_anchor, State.dropIdle_anchor]

theorem State.startEngines_anchor (s : State) (p : Nat) (g : Gather) :
    (State.startEngines s p g).anchor = s.anchor := by
  unfold State.startEngines
  repeat' first
    | with_reducible rfl
    | (simp only [anchor_ite, ite_self, State.modEng_anchor, State.choose_anchor]; done)
    | with_reducible refine (anchor_foldl _ (fun _ _ => ?_) _ _).trans ?_

theorem doGatheringRelease_anchor (p : Nat) (s : State) :
    (doGatheringRelease p s).anchor = s.anchor := by
  unfold doGatheringRelease
  repeat' first
    | with_reducible rfl
    | (simp only [anchor_ite, ite_self, State.modFolio_anchor, State.modSpn_anchor, State.modCkp_anchor, State.carry_anchor,
        State.pins_anchor, State.stageIn_anchor, State.completeHit_anchor, State.askAll_anchor, State.stage_anchor,
        State.chargeEntries_anchor, State.startEngines_anchor]; done)
    | (simp only [State.askAll_out (by assumption), anchor_ite, ite_self, State.modSpn_anchor, State.modCkp_anchor,
        State.carry_anchor, State.stage_anchor, State.chargeEntries_anchor, State.startEngines_anchor]; done)
    | (simp only [State.prepAll_out (by assumption), anchor_ite, State.modSpn_anchor, State.modCkp_anchor, State.carry_anchor,
        State.stage_anchor, State.chargeEntries_anchor, State.startEngines_anchor]; done)
    | exact State.askAll_out (by assumption)
    | exact State.prepAll_out (by assumption)
    | split
    | with_reducible refine (anchor_foldl _ (fun _ _ => ?_) _ _).trans ?_
    | with_reducible refine (anchor_foldl_fst _ (fun _ _ => ?_) _ _).trans ?_
    | with_reducible refine (anchor_foldl_snd _ (fun _ _ => ?_) _ _).trans ?_
    | simp only [anchor_ite, State.modSpn_anchor, State.modCkp_anchor, State.carry_anchor, State.stage_anchor,
        State.chargeEntries_anchor, State.startEngines_anchor]
    | simp only [State.askAll_out (by assumption), anchor_mk, anchor_fold, anchor_ite, ite_self, snd_ite, fst_ite,
        State.modFolio_anchor, State.modSpn_anchor, State.modCkp_anchor, State.carry_anchor, State.pins_anchor,
        State.stageIn_anchor, State.completeHit_anchor, State.askAll_anchor, State.prepAll_anchor, State.stage_anchor,
        State.chargeEntries_anchor, State.startEngines_anchor]
    | simp only [State.prepAll_out (by assumption)]

theorem doMaskReady_anchor (p entry node : Nat) (s : State) :
    (doMaskReady p entry node s).anchor = s.anchor := by
  unfold doMaskReady
  repeat' first
    | with_reducible rfl
    | (simp only [anchor_ite, State.count_anchor, State.bitmapRead_anchor, State.modEntry_anchor]; done)
    | split

theorem State.settleSeq_anchor (s : State) (d n : Nat) :
    (State.settleSeq s d n).anchor = s.anchor := by
  unfold State.settleSeq
  repeat' first
    | with_reducible rfl
    | (simp only [State.modSeq_anchor, State.modFolio_anchor]; done)
    | with_reducible refine (anchor_foldl _ (fun _ _ => ?_) _ _).trans ?_
    | split
    | dsimp only

theorem State.enterFull_anchor (s : State) (p : Nat) (spans : List Span) (was : List Nat) :
    (State.enterFull s p spans was).anchor = s.anchor := by
  unfold State.enterFull
  repeat' first
    | with_reducible rfl
    | (simp only [anchor_ite, ite_self, State.enterPrefix_anchor]; done)
    | with_reducible refine (anchor_foldl _ (fun _ _ => ?_) _ _).trans ?_

theorem State.trimSpans_anchor (s : State) (p d n : Nat) :
    (State.trimSpans s p d n).anchor = s.anchor := by
  unfold State.trimSpans
  split <;> simp only [anchor_ite, ite_self, State.modSeq_anchor, State.dropRefs_anchor, State.subPt_anchor]

theorem State.insertGoesOn_anchor (s : State) (p : Nat) (en : GEntry) (last : Nat) :
    (State.insertGoesOn s p en last).anchor = s.anchor := by
  unfold State.insertGoesOn
  repeat' first
    | with_reducible rfl
    | (simp only [State.modVerb_anchor, State.modSeq_anchor]; done)
    | split

theorem State.absorbEntry_anchor (s : State) (p : Nat) (en : GEntry) :
    (State.absorbEntry s p en).anchor = s.anchor := by
  unfold State.absorbEntry
  split <;> simp only [anchor_ite, ite_self, State.modSeq_anchor, State.absorbed_anchor, State.settleSeq_anchor,
      State.enterFull_anchor, State.trimSpans_anchor, State.insertGoesOn_anchor]

theorem State.keepNode_anchor (s : State) (p : Nat) (en : GEntry) (entryNo node : Nat) (at_ : Nat × Nat) :
    (State.keepNode s p en entryNo node at_).anchor = s.anchor := by
  unfold State.keepNode
  repeat' first
    | with_reducible rfl
    | (simp only [anchor_ite, ite_self, State.modSeq_anchor, State.modFolio_anchor, State.pteFault_anchor]; done)
    | with_reducible refine (anchor_foldl _ (fun _ _ => ?_) _ _).trans ?_
    | split

theorem State.commitToken_anchor (s : State) (p : Nat) (en : GEntry) (tok : Nat) :
    (State.commitToken s p en tok).1.anchor = s.anchor := by
  unfold State.commitToken
  repeat' first
    | with_reducible rfl
    | (simp only [State.count_anchor, State.modSeq_anchor, State.release_anchor]; done)
    | with_reducible refine (anchor_foldl _ (fun _ _ => ?_) _ _).trans ?_
    | split
    | dsimp only

theorem State.commitToken_out {s : State} {p : Nat} {en : GEntry} {tok : Nat} {t : State} {x1 : Option Status} {x2 : Bool}
    (h : State.commitToken s p en tok = (t, x1, x2)) : t.anchor = s.anchor := by
  have e := State.commitToken_anchor s p en tok
  rw [h] at e
  exact e

theorem State.verify_anchor (s : State) (p : Nat) (en : GEntry) (k : Nat) (places l : List (Nat × Nat)) (x : Commit) :
    (s.verify p en k places l x).s.anchor = x.s.anchor := by
  induction l generalizing x with
  | nil =>
    unfold State.verify
    repeat' first
      | with_reducible rfl
      | (simp only [State.modSeq_anchor, State.keepNode_anchor]; done)
      | split
      | dsimp only
  | cons b l ih =>
    unfold State.verify
    repeat' first
      | with_reducible rfl
      | (simp only [ih, State.modSeq_anchor, State.keepNode_anchor, State.commitToken_anchor, anchor_ite, ite_self]; done)
      | split

theorem State.countSlo_anchor (s : State) (d n committed : Nat) :
    (State.countSlo s d n committed).anchor = s.anchor := by
  unfold State.countSlo
  repeat' first
    | with_reducible rfl
    | (simp only [anchor_ite, ite_self, State.count_anchor, State.modSeq_anchor]; done)
    | with_reducible refine (anchor_foldl _ (fun _ _ => ?_) _ _).trans ?_
    | split
    | dsimp only

theorem State.decodeEntry_anchor (s : State) (p entryNo : Nat) (en : GEntry) :
    (State.decodeEntry s p entryNo en).anchor = s.anchor := by
  unfold State.decodeEntry
  repeat' first
    | with_reducible rfl
    | (simp only [anchor_ite, ite_self, State.modSeq_anchor, State.partialRecord_anchor, State.endStep_anchor,
        State.settleSeq_anchor, State.enterFull_anchor, State.trimSpans_anchor, State.countSlo_anchor, State.verify_anchor]; done)
    | with_reducible refine (anchor_foldl _ (fun _ _ => ?_) _ _).trans ?_
    | split
    | dsimp only

theorem State.endRetired_anchor (s : State) (p : Nat) :
    (State.endRetired s p).anchor = s.anchor := by
  unfold State.endRetired
  repeat' first
    | with_reducible rfl
    | (simp only [anchor_ite, ite_self, State.modSeq_anchor, State.endStep_anchor, State.trimSpans_anchor]; done)
    | with_reducible refine (anchor_foldl _ (fun _ _ => ?_) _ _).trans ?_
    | split
    | dsimp only

theorem doStepBoundary_anchor (p : Nat) (s : State) :
    (doStepBoundary p s).anchor = s.anchor := by
  unfold doStepBoundary
  repeat' first
    | with_reducible rfl
    | (simp only [anchor_ite, ite_self, State.count_anchor, State.modSpn_anchor, State.unstage_anchor, State.unpins_anchor,
        State.completeHit_anchor, State.absorbEntry_anchor, State.decodeEntry_anchor, State.endRetired_anchor]; done)
    | split
    | with_reducible refine (anchor_foldl _ (fun _ _ => ?_) _ _).trans ?_
    | simp only [State.count_anchor, State.modSpn_anchor, State.endRetired_anchor]

theorem State.abandonPromotion_anchor (s : State) (i : Nat) :
    (State.abandonPromotion s i).anchor = s.anchor := by
  unfold State.abandonPromotion
  split <;> simp only [anchor_ite, ite_self, State.setFolio_anchor, State.modFolPart_anchor, State.unpin_anchor,
      State.subDemand_anchor]

theorem State.failPlace_anchor (s : State) (p i : Nat) :
    (State.failPlace s p i).anchor = s.anchor := by
  unfold State.failPlace
  split <;> simp only [State.modFolPart_anchor, State.complete_anchor]

theorem State.failedRead_anchor (s : State) (p i tier : Nat) :
    (State.failedRead s p i tier).anchor = s.anchor := by
  unfold State.failedRead
  repeat' first
    | with_reducible rfl
    | (simp only [anchor_ite, ite_self, State.modSpn_anchor, State.miss_anchor]; done)
    | with_reducible refine (anchor_foldl _ (fun _ _ => ?_) _ _).trans ?_

theorem State.folioFailed_anchor (s : State) (i : Nat) :
    (State.folioFailed s i).anchor = s.anchor := by
  unfold State.folioFailed
  split <;> simp only [anchor_ite, ite_self, State.count_anchor, State.setFolio_anchor, State.freeTier_anchor,
      State.pressureStep_anchor, State.abandonPromotion_anchor, State.failPlace_anchor, State.failedRead_anchor]

theorem State.quireFailed_anchor (s : State) (d : Nat) :
    (State.quireFailed s d).anchor = s.anchor := by
  unfold State.quireFailed
  repeat' first
    | with_reducible rfl
    | (simp only [anchor_ite, ite_self, State.modSession_anchor, State.complete_anchor, State.abandonPark_anchor,
        State.failRevive_anchor]; done)
    | split

theorem State.tierFail_anchor (s : State) (x : TierTarget) :
    (State.tierFail s x).anchor = s.anchor := by
  unfold State.tierFail
  split <;> simp only [State.setQueries_anchor, State.folioFailed_anchor, State.quireFailed_anchor]

theorem State.countT3_anchor (s : State) (p tier : Nat) (tag : Bool) :
    (State.countT3 s p tier tag).anchor = s.anchor := by
  unfold State.countT3
  simp only [anchor_ite, ite_self, State.raise_anchor, State.countSat_anchor]

theorem doTierFailure_anchor (x : TierTarget) (tag : Bool) (s : State) :
    (doTierFailure x tag s).anchor = s.anchor := by
  unfold doTierFailure
  split <;> simp only [anchor_ite, ite_self, State.tierFail_anchor, State.countT3_anchor]

theorem doT3Timeout_anchor (x : TierTarget) (s : State) :
    (doT3Timeout x s).anchor = s.anchor := by
  unfold doT3Timeout
  split <;> simp only [anchor_ite, ite_self, State.tierFail_anchor, State.countT3_anchor]

end Machine
end Sys2Proof
end

