-- ==== Sys2Proof/Laws/AnchorPool.lean ====
section
/-!
SUPPORT. Sys2Proof/Laws/AnchorPool.lean: what hand-off, recall, engine replies and closing leave of the anchor.
-/
namespace Sys2Proof
namespace Machine

theorem State.askRecord_anchor (s : State) (who : Asker) (p : Nat) (r : XRegion) (i : Nat) :
    (State.askRecord s who p r i).2.anchor = s.anchor := by
  unfold State.askRecord
  simp only [State.startRequest_anchor]

theorem State.askRecord_out {s : State} {who : Asker} {p : Nat} {r : XRegion} {i : Nat} {x0 : Nat} {t : State}
    (h : State.askRecord s who p r i = (x0, t)) : t.anchor = s.anchor := by
  have e := State.askRecord_anchor s who p r i
  rw [h] at e
  exact e

theorem State.askCas_anchor (s : State) (who : Asker) (p : Nat) (r : XRegion) (i a b : Nat) :
    (State.askCas s who p r i a b).2.anchor = s.anchor := by
  unfold State.askCas
  simp only [State.startRequest_anchor]

theorem State.askCas_out {s : State} {who : Asker} {p : Nat} {r : XRegion} {i a b : Nat} {x0 : Nat} {t : State}
    (h : State.askCas s who p r i a b = (x0, t)) : t.anchor = s.anchor := by
  have e := State.askCas_anchor s who p r i a b
  rw [h] at e
  exact e

theorem State.askSlot_anchor (s : State) (who : Asker) (type p : Nat) (r : XRegion) (i off len : Nat) (data : Bytes) :
    (State.askSlot s who type p r i off len data).2.anchor = s.anchor := by
  unfold State.askSlot
  simp only [State.startRequest_anchor]

theorem State.askSlot_out {s : State} {who : Asker} {type p : Nat} {r : XRegion} {i off len : Nat} {data : Bytes} {x0 : Nat}
    {t : State}
    (h : State.askSlot s who type p r i off len data = (x0, t)) : t.anchor = s.anchor := by
  have e := State.askSlot_anchor s who type p r i off len data
  rw [h] at e
  exact e

theorem State.modSend_anchor (s : State) (d : Nat) (f : SendOp → SendOp) :
    (State.modSend s d f).anchor = s.anchor := by
  unfold State.modSend
  simp only [State.modSession_anchor]

theorem State.waitSend_anchor (s : State) (d : Nat) (f : SendOp → SendOp) (x : Nat × State) :
    (s.waitSend d f x).anchor = x.2.anchor := by
  unfold State.waitSend
  simp only [State.modSend_anchor]

theorem State.slotForm_anchor (s : State) (x : Session) (e : Nat) :
    (State.slotForm s x e).1.anchor = s.anchor := by
  unfold State.slotForm
  split <;> simp only [State.sealAll_anchor]

theorem State.slotForm_out {s : State} {x : Session} {e : Nat} {t : State} {x1 : Session} {x2 : List Sealed}
    (h : State.slotForm s x e = (t, x1, x2)) : t.anchor = s.anchor := by
  have e := State.slotForm_anchor s x e
  rw [h] at e
  exact e

theorem State.drainSession_anchor (s : State) (d : Nat) :
    (State.drainSession s d).anchor = s.anchor := by
  unfold State.drainSession
  split <;> simp only [State.modSeqs_anchor]

theorem State.undrainSession_anchor (s : State) (d : Nat) :
    (State.undrainSession s d).anchor = s.anchor := by
  unfold State.undrainSession
  split <;> simp only [anchor_ite, ite_self, State.modSeqs_anchor, State.expire_anchor]

theorem State.finishSend_anchor (s : State) (d : Nat) (st : Status) :
    (State.finishSend s d st).anchor = s.anchor := by
  unfold State.finishSend
  repeat' first
    | with_reducible rfl
    | (simp only [anchor_ite, ite_self, State.modSession_anchor, State.complete_anchor, State.undrainSession_anchor]; done)
    | split

theorem State.writeSlot_anchor (s : State) (d : Nat) :
    (State.writeSlot s d).anchor = s.anchor := by
  unfold State.writeSlot
  repeat' first
    | with_reducible rfl
    | (simp only [anchor_mk, anchor_fold, State.askSlot_anchor, State.modSend_anchor]; done)
    | exact State.askSlot_out (by assumption)
    | exact State.slotForm_out (by assumption)
    | split
    | with_reducible refine (anchor_foldl _ (fun _ _ => ?_) _ _).trans ?_
    | simp only [anchor_mk, anchor_fold, State.askSlot_anchor, State.modSend_anchor]

theorem State.sendAct_anchor (s : State) (d : Nat) (ph : SendPhase) :
    (State.sendAct s d ph).anchor = s.anchor := by
  unfold State.sendAct
  repeat' first
    | with_reducible rfl
    | (simp only [anchor_mk, anchor_fold, State.askRecord_anchor, State.askCas_anchor, State.askSlot_anchor,
        State.waitSend_anchor, State.writeSlot_anchor]; done)
    | split

theorem State.failSend_anchor (s : State) (d : Nat) (st : Status) :
    (State.failSend s d st).anchor = s.anchor := by
  unfold State.failSend
  simp only [State.modSend_anchor, State.sendAct_anchor]

theorem State.claimedSend_anchor (s : State) (d : Nat) :
    (State.claimedSend s d).anchor = s.anchor := by
  unfold State.claimedSend
  repeat' first
    | with_reducible rfl
    | (simp only [State.count_anchor, State.endSession_anchor]; done)
    | split

theorem State.reclaimed_anchor (s : State) (d : Nat) :
    (State.reclaimed s d).anchor = s.anchor := by
  unfold State.reclaimed
  repeat' first
    | with_reducible rfl
    | (simp only [anchor_ite, ite_self, State.count_anchor, State.notice_anchor, State.modSend_anchor,
        State.undrainSession_anchor, State.sendAct_anchor]; done)
    | split

theorem State.retrySend_anchor (s : State) (d : Nat) :
    (State.retrySend s d).anchor = s.anchor := by
  unfold State.retrySend
  simp only [State.modSend_anchor]

theorem State.sendReply_anchor (s : State) (d : Nat) (r : Request) :
    (State.sendReply s d r).anchor = s.anchor := by
  unfold State.sendReply
  repeat' first
    | with_reducible rfl
    | (simp only [anchor_ite, ite_self, State.count_anchor, State.complete_anchor, State.modSend_anchor,
        State.drainSession_anchor, State.finishSend_anchor, State.sendAct_anchor, State.failSend_anchor,
        State.claimedSend_anchor, State.reclaimed_anchor, State.retrySend_anchor]; done)
    | with_reducible refine (anchor_foldl _ (fun _ _ => ?_) _ _).trans ?_
    | split
    | dsimp only

theorem doHandoffSend_anchor (p vid : Nat) (s : State) :
    (doHandoffSend p vid s).anchor = s.anchor := by
  unfold doHandoffSend
  repeat' first
    | with_reducible rfl
    | (simp only [anchor_ite, ite_self, State.modSession_anchor, State.complete_anchor, State.runVerb_anchor,
        State.sendAct_anchor]; done)
    | split

theorem doHandoffPoll_anchor (d : Nat) (s : State) :
    (doHandoffPoll d s).anchor = s.anchor := by
  unfold doHandoffPoll
  split <;> simp only [anchor_ite, ite_self, State.sendAct_anchor]

theorem doHandoffReclaim_anchor (d : Nat) (s : State) :
    (doHandoffReclaim d s).anchor = s.anchor := by
  unfold doHandoffReclaim
  split <;> simp only [anchor_ite, ite_self, State.sendAct_anchor]

theorem State.abandonSend_anchor (s : State) (d : Nat) (closing : Option Nat) (st : Status) :
    (State.abandonSend s d closing st).anchor = s.anchor := by
  unfold State.abandonSend
  repeat' first
    | with_reducible rfl
    | (simp only [anchor_ite, ite_self, State.modSend_anchor, State.finishSend_anchor, State.sendAct_anchor]; done)
    | split

theorem State.modClaim_anchor (s : State) (p vid : Nat) (f : ClaimOp → ClaimOp) :
    (State.modClaim s p vid f).anchor = s.anchor := by
  unfold State.modClaim
  simp only [anchor_mk, anchor_fold]

theorem State.dropClaim_anchor (s : State) (p vid : Nat) :
    (State.dropClaim s p vid).anchor = s.anchor := by
  unfold State.dropClaim
  simp only [anchor_mk, anchor_fold]

theorem State.unreserve_anchor (s : State) (o : ClaimOp) :
    (State.unreserve s o).anchor = s.anchor := by
  unfold State.unreserve
  repeat' first
    | with_reducible rfl
    | (simp only [anchor_ite, State.dropSession_anchor, State.freeTier_anchor, State.setDirFree_anchor,
        State.abandonRevive_anchor]; done)
    | split
    | with_reducible refine (anchor_foldl _ (fun _ _ => ?_) _ _).trans ?_
    | simp only [State.dropSession_anchor, State.setDirFree_anchor]

theorem State.failClaim_anchor (s : State) (p vid : Nat) (st : Status) :
    (State.failClaim s p vid st).anchor = s.anchor := by
  unfold State.failClaim
  split <;> simp only [anchor_ite, ite_self, State.count_anchor, State.complete_anchor, State.dropClaim_anchor,
      State.unreserve_anchor]

theorem State.claimAct_anchor (s : State) (p vid ph : Nat) :
    (State.claimAct s p vid ph).anchor = s.anchor := by
  unfold State.claimAct
  repeat' first
    | with_reducible rfl
    | (simp only [anchor_mk, anchor_fold, State.askRecord_anchor, State.askCas_anchor, State.askSlot_anchor,
        State.modClaim_anchor]; done)
    | exact State.askRecord_out (by assumption)
    | exact State.askCas_out (by assumption)
    | exact State.askSlot_out (by assumption)
    | split
    | with_reducible refine (anchor_foldl _ (fun _ _ => ?_) _ _).trans ?_
    | simp only [State.modClaim_anchor]

theorem doHandoffClaim_anchor (p vid : Nat) (s : State) :
    (doHandoffClaim p vid s).anchor = s.anchor := by
  unfold doHandoffClaim
  repeat' first
    | with_reducible rfl
    | (simp only [anchor_mk, anchor_fold, anchor_ite, ite_self, State.complete_anchor, State.runVerb_anchor,
        State.claimAct_anchor]; done)
    | split

theorem State.claimReserve_out {s : State} {o : ClaimOp} {x : Slot} {t : State}
    (h : State.claimReserve s o x = some t) : t.anchor = s.anchor := by
  revert h
  unfold State.claimReserve
  repeat' first
    | (intro h; cases h)
    | (intro h; rw [State.allocQuire_out h])
    | (intro h; rw [State.giveSpines_out h])
    | (intro h; rw [State.allocQuireTier_out h])
    | (simp only [State.modSession_anchor, State.addPt_anchor, State.modClaim_anchor]; done)
    | (simp only [State.allocQuire_out (by assumption), State.modSession_anchor, State.addPt_anchor, State.modClaim_anchor]; done)
    | (simp only [State.giveSpines_out (by assumption), State.setSession_anchor, State.modSession_anchor, State.addPt_anchor,
        State.setDirFree_anchor, State.modClaim_anchor]; done)
    | (simp only [State.allocQuireTier_out (by assumption), State.setSession_anchor, State.modSession_anchor,
        State.setDirFree_anchor, State.modClaim_anchor]; done)
    | split
    | with_reducible refine (anchor_foldl _ (fun _ _ => ?_) _ _).trans ?_
    | simp only [State.modSession_anchor, State.addPt_anchor, State.modClaim_anchor]
    | simp only [State.allocQuire_out (by assumption)]
    | simp only [State.giveSpines_out (by assumption), anchor_mk, anchor_fold, anchor_ite, ite_self, snd_ite, fst_ite,
        State.setSession_anchor, State.modSession_anchor, State.cause_anchor, State.addPt_anchor, State.landed_anchor,
        State.setDirFree_anchor, State.modClaim_anchor]
    | simp only [State.allocQuireTier_out (by assumption), anchor_mk, anchor_fold, anchor_ite, ite_self, snd_ite, fst_ite,
        State.setSession_anchor, State.modSession_anchor, State.cause_anchor, State.addPt_anchor, State.landed_anchor,
        State.setDirFree_anchor, State.modClaim_anchor]
    | dsimp only

theorem State.land_anchor (s : State) (o : ClaimOp) :
    (State.land s o).anchor = s.anchor := by
  unfold State.land
  repeat' first
    | with_reducible rfl
    | (simp only [State.count_anchor, State.setRec_anchor, State.modSession_anchor, State.modFolio_anchor, State.complete_anchor,
        State.unpin_anchor, State.writeQuire_anchor, State.sealAll_anchor, State.claimAct_anchor]; done)
    | (simp only [State.draw_out (by assumption), State.count_anchor, State.setRec_anchor, State.modSession_anchor,
        State.complete_anchor, State.writeQuire_anchor, State.sealAll_anchor, State.claimAct_anchor]; done)
    | exact State.draw_out (by assumption)
    | exact State.sealAll_out (by assumption)
    | split
    | with_reducible refine (anchor_foldl _ (fun _ _ => ?_) _ _).trans ?_
    | with_reducible refine (anchor_foldl_fst _ (fun _ _ => ?_) _ _).trans ?_
    | with_reducible refine (anchor_foldl_snd _ (fun _ _ => ?_) _ _).trans ?_
    | simp only [State.count_anchor, State.setRec_anchor, State.modSession_anchor, State.complete_anchor,
        State.writeQuire_anchor, State.sealAll_anchor, State.claimAct_anchor]
    | simp only [State.draw_out (by assumption)]

theorem State.retryClaim_anchor (s : State) (p vid : Nat) :
    (State.retryClaim s p vid).anchor = s.anchor := by
  unfold State.retryClaim
  simp only [State.modClaim_anchor]

theorem State.headerRead_anchor (s : State) (o : ClaimOp) (b : Bytes) :
    (State.headerRead s o b).anchor = s.anchor := by
  unfold State.headerRead
  repeat' first
    | with_reducible rfl
    | (simp only [anchor_ite, ite_self, State.failClaim_anchor, State.claimAct_anchor]; done)
    | exact State.claimReserve_out (by assumption)
    | split
    | with_reducible refine (anchor_foldl _ (fun _ _ => ?_) _ _).trans ?_
    | simp only [State.failClaim_anchor, State.claimAct_anchor]

theorem State.claimReply_anchor (s : State) (p vid : Nat) (r : Request) :
    (State.claimReply s p vid r).anchor = s.anchor := by
  unfold State.claimReply
  repeat' first
    | with_reducible rfl
    | (simp only [anchor_ite, ite_self, State.modClaim_anchor, State.dropClaim_anchor, State.failClaim_anchor,
        State.claimAct_anchor, State.land_anchor, State.retryClaim_anchor, State.headerRead_anchor]; done)
    | split

theorem doRecordRetry_anchor (d : Nat) (s : State) :
    (doRecordRetry d s).anchor = s.anchor := by
  unfold doRecordRetry
  repeat' first
    | with_reducible rfl
    | (simp only [anchor_ite, ite_self, State.sendAct_anchor, State.claimAct_anchor]; done)
    | with_reducible refine (anchor_foldl _ (fun _ _ => ?_) _ _).trans ?_
    | split

theorem State.setIndex_anchor (s : State) (p i : Nat) (x : RIndex) :
    (State.setIndex s p i x).anchor = s.anchor := by
  unfold State.setIndex
  simp only [State.setIndexes_anchor]

theorem State.takeT4_out {s : State} {p : Nat} {a0 : Nat} {a1 : List Nat} {x0 : List Nat} {t : State}
    (h : State.takeT4 s p a0 a1 = some (x0, t)) : t.anchor = s.anchor := by
  revert h
  induction a0 generalizing s p a1 x0 t with
  | zero =>
    unfold State.takeT4
    repeat' first
      | (intro h; cases h)
      | (intro h; rw [State.allocT4_out h])
      | (simp only []; done)
      | (simp only [State.allocT4_out (by assumption), anchor_mk, anchor_fold, anchor_ite, ite_self, snd_ite, fst_ite]; done)
      | split
      | with_reducible refine (anchor_foldl _ (fun _ _ => ?_) _ _).trans ?_
      | simp only [anchor_mk, anchor_fold, anchor_ite, ite_self, snd_ite, fst_ite]
      | simp only [State.allocT4_out (by assumption), anchor_mk, anchor_fold, anchor_ite, ite_self, snd_ite, fst_ite]
      | dsimp only
  | succ b ih =>
    unfold State.takeT4
    repeat' first
      | (intro h; cases h)
      | (intro h; rw [ih h])
      | (intro h; rw [State.allocT4_out h])
      | (simp only [anchor_mk, anchor_fold, anchor_ite, ite_self, snd_ite, fst_ite]; done)
      | (simp only [State.allocT4_out (by assumption)]; done)
      | split
      | with_reducible refine (anchor_foldl _ (fun _ _ => ?_) _ _).trans ?_
      | simp only [anchor_mk, anchor_fold, anchor_ite, ite_self, snd_ite, fst_ite]
      | simp only [State.allocT4_out (by assumption), anchor_mk, anchor_fold, anchor_ite, ite_self, snd_ite, fst_ite]
      | dsimp only

theorem State.freeGen_anchor (s : State) (p : Nat) (g : IndexGen) :
    (State.freeGen s p g).anchor = s.anchor := by
  unfold State.freeGen
  repeat' first
    | with_reducible rfl
    | (simp only [State.modFolPart_anchor, State.freeT4_anchor, State.pressureStep_anchor]; done)
    | split
    | with_reducible refine (anchor_foldl _ (fun _ _ => ?_) _ _).trans ?_
    | simp only [State.modFolPart_anchor, State.pressureStep_anchor]

theorem State.setLoads_anchor (s : State) (l : List LoadOp) :
    (State.setLoads s l).anchor = s.anchor := by
  unfold State.setLoads
  simp only [anchor_mk, anchor_fold]

theorem State.endLoad_anchor (s : State) (p vid : Nat) (kept : Bool) :
    (State.endLoad s p vid kept).anchor = s.anchor := by
  unfold State.endLoad
  repeat' first
    | with_reducible rfl
    | (simp only [anchor_ite, State.modFolPart_anchor, State.freeT4_anchor, State.pressureStep_anchor, State.setIndex_anchor,
        State.setLoads_anchor]; done)
    | split
    | with_reducible refine (anchor_foldl _ (fun _ _ => ?_) _ _).trans ?_
    | simp only [State.modFolPart_anchor, State.pressureStep_anchor]

theorem doIndexLoad_anchor (p vid : Nat) (head : Option Bytes) (s : State) :
    (doIndexLoad p vid head s).anchor = s.anchor := by
  unfold doIndexLoad
  repeat' first
    | with_reducible rfl
    | (simp only [anchor_ite, ite_self, State.modFolPart_anchor, State.complete_anchor, State.runVerb_anchor,
        State.request_anchor, State.checkPressure_anchor, State.setIndex_anchor, State.setLoads_anchor]; done)
    | exact State.takeT4_out (by assumption)
    | split
    | with_reducible refine (anchor_foldl _ (fun _ _ => ?_) _ _).trans ?_
    | simp only [anchor_ite, State.modFolPart_anchor, State.complete_anchor, State.runVerb_anchor, State.request_anchor,
        State.checkPressure_anchor, State.setIndex_anchor, State.setLoads_anchor]

theorem doIndexSwitch_anchor (p vid : Nat) (img : Option Bytes) (stored : Bool) (s : State) :
    (doIndexSwitch p vid img stored s).anchor = s.anchor := by
  unfold doIndexSwitch
  repeat' first
    | with_reducible rfl
    | (simp only [anchor_ite, ite_self, State.complete_anchor, State.setIndex_anchor, State.endLoad_anchor]; done)
    | split

theorem doGenerationRelease_anchor (p i gen : Nat) (s : State) :
    (doGenerationRelease p i gen s).anchor = s.anchor := by
  unfold doGenerationRelease
  repeat' first
    | with_reducible rfl
    | (simp only [anchor_ite, ite_self, State.setIndexes_anchor, State.completeAll_anchor, State.setIndex_anchor,
        State.freeGen_anchor]; done)
    | split

theorem doDelete_anchor (p vid : Nat) (nodes : Option Bytes) (s : State) :
    (doDelete p vid nodes s).anchor = s.anchor := by
  unfold doDelete
  repeat' first
    | with_reducible rfl
    | (simp only [anchor_ite, ite_self, State.complete_anchor, State.setIndex_anchor]; done)
    | with_reducible refine (anchor_foldl _ (fun _ _ => ?_) _ _).trans ?_
    | split
    | dsimp only

theorem doIndexDrop_anchor (p vid : Nat) (s : State) :
    (doIndexDrop p vid s).anchor = s.anchor := by
  unfold doIndexDrop
  repeat' first
    | with_reducible rfl
    | (simp only [anchor_ite, State.setIndexes_anchor, State.complete_anchor, State.runVerb_anchor, State.setIndex_anchor,
        State.freeGen_anchor]; done)
    | split
    | with_reducible refine (anchor_foldl _ (fun _ _ => ?_) _ _).trans ?_
    | simp only [State.setIndexes_anchor, State.complete_anchor]

theorem State.modQuery_anchor (s : State) (p vid : Nat) (f : QueryOp → QueryOp) :
    (State.modQuery s p vid f).anchor = s.anchor := by
  unfold State.modQuery
  simp only [State.setQueries_anchor]

theorem State.useGen_anchor (s : State) (p i gen vid : Nat) (on : Bool) :
    (State.useGen s p i gen vid on).anchor = s.anchor := by
  unfold State.useGen
  split <;> simp only [State.setIndex_anchor]

theorem State.askShards_anchor (s : State) (p vid : Nat) (i : Nat) (prm : SearchPrm) (vec : Bytes) (a0 : List (Nat × Nat × Nat)) :
    (State.askShards s p vid i prm vec a0).anchor = s.anchor := by
  induction a0 generalizing s p vid i prm vec with
  | nil =>
    unfold State.askShards
    repeat' first
      | with_reducible rfl
      | (simp only [anchor_mk, anchor_fold, anchor_ite, ite_self, snd_ite, fst_ite, State.startRequest_anchor]; done)
      | (simp only [State.startRequest_out (by assumption), anchor_mk, anchor_fold, anchor_ite, ite_self, snd_ite, fst_ite,
          State.startRequest_anchor]; done)
      | exact State.startRequest_out (by assumption)
      | split
      | with_reducible refine (anchor_foldl _ (fun _ _ => ?_) _ _).trans ?_
      | with_reducible refine (anchor_foldl_fst _ (fun _ _ => ?_) _ _).trans ?_
      | with_reducible refine (anchor_foldl_snd _ (fun _ _ => ?_) _ _).trans ?_
      | simp only [anchor_mk, anchor_fold, anchor_ite, ite_self, snd_ite, fst_ite, State.startRequest_anchor]
      | simp only [State.startRequest_out (by assumption), anchor_mk, anchor_fold, anchor_ite, ite_self, snd_ite, fst_ite,
          State.startRequest_anchor]
      | dsimp only
      | refine anchor_of_fst (by assumption) ?_
      | refine anchor_of_snd (by assumption) ?_
      | refine anchor_of_third (by assumption) ?_
  | cons b bs ih =>
    unfold State.askShards
    repeat' first
      | with_reducible rfl
      | (simp only [State.startRequest_anchor, ih]; done)
      | (simp only [State.startRequest_out (by assumption), anchor_mk, anchor_fold, anchor_ite, ite_self, snd_ite, fst_ite,
          State.startRequest_anchor, ih]; done)
      | exact State.startRequest_out (by assumption)
      | split
      | with_reducible refine (anchor_foldl _ (fun _ _ => ?_) _ _).trans ?_
      | with_reducible refine (anchor_foldl_fst _ (fun _ _ => ?_) _ _).trans ?_
      | with_reducible refine (anchor_foldl_snd _ (fun _ _ => ?_) _ _).trans ?_
      | simp only [anchor_mk, anchor_fold, anchor_ite, ite_self, snd_ite, fst_ite, State.startRequest_anchor, ih]
      | simp only [State.startRequest_out (by assumption), anchor_mk, anchor_fold, anchor_ite, ite_self, snd_ite, fst_ite,
          State.startRequest_anchor, ih]
      | dsimp only
      | refine anchor_of_fst (by assumption) ?_
      | refine anchor_of_snd (by assumption) ?_
      | refine anchor_of_third (by assumption) ?_

theorem State.startWalk_anchor (s : State) (p vid : Nat) (prm : SearchPrm) (g : IndexGen) (epoch : Nat) (vec : Bytes) (base : QueryOp) :
    (State.startWalk s p vid prm g epoch vec base).anchor = s.anchor := by
  unfold State.startWalk
  simp only [State.setQueries_anchor, State.useGen_anchor]

theorem State.endQuery_anchor (s : State) (p vid : Nat) :
    (State.endQuery s p vid).anchor = s.anchor := by
  unfold State.endQuery
  split <;> simp only [anchor_ite, ite_self, State.count_anchor, State.emit_anchor, State.setQueries_anchor,
      State.complete_anchor, State.endPipe_anchor, State.useGen_anchor]

theorem State.endEarly_anchor (s : State) (p vid : Nat) (st : Status) :
    (State.endEarly s p vid st).anchor = s.anchor := by
  unfold State.endEarly
  simp only [State.count_anchor, State.complete_anchor]

theorem doQuery_anchor (p vid : Nat) (vec : Option Bytes) (s : State) :
    (doQuery p vid vec s).anchor = s.anchor := by
  unfold doQuery
  repeat' first
    | with_reducible rfl
    | (simp only [anchor_ite, ite_self, State.setQueries_anchor, State.runVerb_anchor, State.askShards_anchor,
        State.startWalk_anchor, State.endQuery_anchor, State.endEarly_anchor]; done)
    | with_reducible refine (anchor_foldl _ (fun _ _ => ?_) _ _).trans ?_
    | split
    | dsimp only

theorem State.endRemote_anchor (s : State) (p : Nat) (q : QueryOp) (f : Frame) (ok : Bool) (hits : List HitRec) :
    (State.endRemote s p q f ok hits).anchor = s.anchor := by
  unfold State.endRemote
  repeat' first
    | with_reducible rfl
    | (simp only [anchor_ite, ite_self, State.count_anchor, State.setQueries_anchor, State.respond_anchor,
        State.refuseFrame_anchor, State.endPipe_anchor, State.useGen_anchor]; done)
    | with_reducible refine (anchor_foldl _ (fun _ _ => ?_) _ _).trans ?_
    | split

theorem State.dropRemote_anchor (s : State) (p : Nat) :
    (State.dropRemote s p).anchor = s.anchor := by
  unfold State.dropRemote
  repeat' first
    | with_reducible rfl
    | (simp only [State.setQueries_anchor, State.refuseFrame_anchor, State.useGen_anchor]; done)
    | with_reducible refine (anchor_foldl _ (fun _ _ => ?_) _ _).trans ?_
    | split

theorem doQueryDone_anchor (p vid : Nat) (t4Ok : Bool) (pipe : Nat) (s : State) :
    (doQueryDone p vid t4Ok pipe s).anchor = s.anchor := by
  unfold doQueryDone
  repeat' first
    | with_reducible rfl
    | (simp only [anchor_ite, State.count_anchor, State.modQuery_anchor, State.endQuery_anchor, State.endRemote_anchor]; done)
    | split

theorem doMergeDeadlineExpire_anchor (p vid : Nat) (s : State) :
    (doMergeDeadlineExpire p vid s).anchor = s.anchor := by
  unfold doMergeDeadlineExpire
  split <;> simp only [anchor_ite, ite_self, State.modQuery_anchor, State.endQuery_anchor]

theorem State.judgeShard_anchor (s : State) (f : Frame) :
    (State.judgeShard s f).2.anchor = s.anchor := by
  unfold State.judgeShard
  simp only [anchor_ite, ite_self, snd_ite, State.count_anchor, State.setWindow_anchor]

theorem State.judgeShard_out {s : State} {f : Frame} {x0 : Judged} {t : State}
    (h : State.judgeShard s f = (x0, t)) : t.anchor = s.anchor := by
  have e := State.judgeShard_anchor s f
  rw [h] at e
  exact e

theorem State.shardSearch_anchor (s : State) (f : Frame) (b : Bytes) :
    (State.shardSearch s f b).anchor = s.anchor := by
  unfold State.shardSearch
  repeat' first
    | with_reducible rfl
    | (simp only [anchor_mk, anchor_fold, anchor_ite, ite_self, State.refuseFrame_anchor, State.startWalk_anchor]; done)
    | with_reducible refine (anchor_foldl _ (fun _ _ => ?_) _ _).trans ?_
    | split
    | dsimp only

theorem State.judgeAll_anchor (s : State) (l : List Frame) :
    (State.judgeAll s l).2.anchor = s.anchor := by
  unfold State.judgeAll
  repeat' first
    | with_reducible rfl
    | (simp only [State.judgeShard_anchor]; done)
    | exact State.judgeShard_out (by assumption)
    | split
    | with_reducible refine (anchor_foldl _ (fun _ _ => ?_) _ _).trans ?_
    | with_reducible refine (anchor_foldl_fst _ (fun _ _ => ?_) _ _).trans ?_
    | with_reducible refine (anchor_foldl_snd _ (fun _ _ => ?_) _ _).trans ?_

theorem State.judgeAll_out {s : State} {l : List Frame} {x0 : Judged} {t : State}
    (h : State.judgeAll s l = (x0, t)) : t.anchor = s.anchor := by
  have e := State.judgeAll_anchor s l
  rw [h] at e
  exact e

theorem doShardReq_anchor (f : Frame) (s : State) :
    (doShardReq f s).anchor = s.anchor := by
  unfold doShardReq
  repeat' first
    | with_reducible rfl
    | (simp only [anchor_ite, State.refuseFrame_anchor, State.shardSearch_anchor]; done)
    | (simp only [State.judgeAll_out (by assumption), anchor_mk, anchor_fold, State.refuseFrame_anchor,
        State.shardSearch_anchor]; done)
    | exact State.judgeAll_out (by assumption)
    | split
    | with_reducible refine (anchor_foldl _ (fun _ _ => ?_) _ _).trans ?_
    | simp only []
    | dsimp only

theorem State.shardReply_anchor (s : State) (p vid k : Nat) (r : Request) :
    (State.shardReply s p vid k r).anchor = s.anchor := by
  unfold State.shardReply
  split <;> simp only [anchor_ite, ite_self, State.modQuery_anchor, State.endQuery_anchor]

theorem State.dispatchReply_anchor (s : State) (r : Request) :
    (State.dispatchReply s r).anchor = s.anchor := by
  unfold State.dispatchReply
  split <;> simp only [State.engineReply_anchor, State.sendReply_anchor, State.claimReply_anchor, State.shardReply_anchor]

theorem State.takeResponse_anchor (s : State) (f : Frame) (type : Nat) (data : List (Nat × Bytes)) :
    (State.takeResponse s f type data).anchor = s.anchor := by
  unfold State.takeResponse
  repeat' first
    | with_reducible rfl
    | (simp only [anchor_mk, anchor_fold, anchor_ite, ite_self, State.countSat_anchor, State.pump_anchor,
        State.dispatchReply_anchor]; done)
    | exact State.takeInbox_out (by assumption)
    | split
    | with_reducible refine (anchor_foldl _ (fun _ _ => ?_) _ _).trans ?_
    | simp only [anchor_mk, anchor_fold, State.countSat_anchor, State.pump_anchor, State.dispatchReply_anchor]

theorem doReadRsp_anchor (f : Frame) (s : State) :
    (doReadRsp f s).anchor = s.anchor := by
  unfold doReadRsp
  simp only [State.takeResponse_anchor]

theorem doWriteAck_anchor (f : Frame) (s : State) :
    (doWriteAck f s).anchor = s.anchor := by
  unfold doWriteAck
  simp only [State.takeResponse_anchor]

theorem doCasRsp_anchor (f : Frame) (s : State) :
    (doCasRsp f s).anchor = s.anchor := by
  unfold doCasRsp
  simp only [State.takeResponse_anchor]

theorem doShardRsp_anchor (f : Frame) (s : State) :
    (doShardRsp f s).anchor = s.anchor := by
  unfold doShardRsp
  simp only [State.takeResponse_anchor]

theorem doErrorRsp_anchor (f : Frame) (s : State) :
    (doErrorRsp f s).anchor = s.anchor := by
  unfold doErrorRsp
  simp only [State.takeResponse_anchor]

theorem State.cancelVerb_anchor (s : State) (p : Nat) (w : Verb) :
    (State.cancelVerb s p w).anchor = s.anchor := by
  unfold State.cancelVerb
  repeat' first
    | with_reducible rfl
    | (simp only [anchor_ite, State.modFolPart_anchor, State.complete_anchor, State.endStep_anchor, State.endInput_anchor,
        State.abandonPark_anchor, State.abandonRevive_anchor]; done)
    | split

theorem State.closeSeq_anchor (s : State) (p d n : Nat) :
    (State.closeSeq s p d n).anchor = s.anchor := by
  unfold State.closeSeq
  simp only [State.setRec_anchor, State.modSeq_anchor, State.leaveNext_anchor, State.dropSeq_anchor]

theorem State.unsuspect_anchor (s : State) (p d : Nat) (n : Option Nat) :
    (State.unsuspect s p d n).anchor = s.anchor := by
  unfold State.unsuspect
  simp only [State.setRecPart_anchor]

theorem State.closeNow_anchor (s : State) (p : Nat) (v : Verb) (x : Session) :
    (State.closeNow s p v x).anchor = s.anchor := by
  unfold State.closeNow
  repeat' first
    | with_reducible rfl
    | (simp only [anchor_ite, State.complete_anchor, State.leaveNext_anchor, State.endStep_anchor, State.endInput_anchor,
        State.endSession_anchor, State.cancelVerb_anchor, State.closeSeq_anchor, State.unsuspect_anchor]; done)
    | split
    | with_reducible refine (anchor_foldl _ (fun _ _ => ?_) _ _).trans ?_
    | simp only [State.complete_anchor, State.endSession_anchor, State.closeSeq_anchor, State.unsuspect_anchor]

theorem doClose_anchor (p vid : Nat) (s : State) :
    (doClose p vid s).anchor = s.anchor := by
  unfold doClose
  repeat' first
    | with_reducible rfl
    | (simp only [anchor_ite, ite_self, State.complete_anchor, State.abandonSend_anchor, State.closeNow_anchor]; done)
    | split

end Machine
end Sys2Proof
end

