-- ==== Sys2Proof/Laws/AnchorCheckpoint.lean ====
section
/-!
SUPPORT. Sys2Proof/Laws/AnchorCheckpoint.lean: what checkpoints, the audit log, flash and recovery leave of the anchor.
-/
namespace Sys2Proof
namespace Machine

theorem State.tellMember_anchor (s : State) (p m : Nat) (msg : CkptMsg) :
    (State.tellMember s p m msg).anchor = s.anchor := by
  unfold State.tellMember
  repeat' first
    | with_reducible rfl
    | (simp only [anchor_mk, anchor_fold, anchor_ite, ite_self, State.emit_anchor]; done)
    | split

theorem State.releaseOwed_anchor (s : State) (p : Nat) :
    (State.releaseOwed s p).anchor = s.anchor := by
  unfold State.releaseOwed
  repeat' first
    | with_reducible rfl
    | (simp only [State.modFolio_anchor, State.modCkp_anchor, State.freeTier_anchor, State.reapFolio_anchor]; done)
    | split
    | with_reducible refine (anchor_foldl _ (fun _ _ => ?_) _ _).trans ?_
    | simp only [State.modCkp_anchor]

theorem State.endMember_anchor (s : State) (p : Nat) (st : Status) :
    (State.endMember s p st).anchor = s.anchor := by
  unfold State.endMember
  repeat' first
    | with_reducible rfl
    | (simp only [anchor_ite, State.setCkp_anchor, State.complete_anchor, State.releaseHeld_anchor,
        State.releaseOwed_anchor]; done)
    | with_reducible refine (anchor_foldl _ (fun _ _ => ?_) _ _).trans ?_
    | split
    | dsimp only

theorem State.endAll_anchor (s : State) (p : Nat) (st : Status) :
    (State.endAll s p st).anchor = s.anchor := by
  unfold State.endAll
  repeat' first
    | with_reducible rfl
    | (simp only [anchor_ite, ite_self, State.emit_anchor, State.endMember_anchor]; done)
    | with_reducible refine (anchor_foldl _ (fun _ _ => ?_) _ _).trans ?_
    | split

theorem State.abortCkpt_anchor (s : State) (p : Nat) (st : Status) :
    (State.abortCkpt s p st).anchor = s.anchor := by
  unfold State.abortCkpt
  repeat' first
    | with_reducible rfl
    | (simp only [anchor_ite, ite_self, State.tellMember_anchor, State.endMember_anchor, State.endAll_anchor]; done)
    | split

theorem State.takeRequest_anchor (s : State) (p seq tc : Nat) :
    (State.takeRequest s p seq tc).anchor = s.anchor := by
  unfold State.takeRequest
  simp only [anchor_ite, ite_self, State.modCkp_anchor]

theorem doCkptTake_anchor (p vid : Nat) (others : Bool) (s : State) :
    (doCkptTake p vid others s).anchor = s.anchor := by
  unfold doCkptTake
  repeat' first
    | with_reducible rfl
    | (simp only [anchor_ite, ite_self, State.modCkp_anchor, State.complete_anchor, State.runVerb_anchor,
        State.tellMember_anchor, State.takeRequest_anchor]; done)
    | with_reducible refine (anchor_foldl _ (fun _ _ => ?_) _ _).trans ?_
    | split
    | dsimp only

theorem doCkptRequest_anchor (p seq tc : Nat) (s : State) :
    (doCkptRequest p seq tc s).anchor = s.anchor := by
  unfold doCkptRequest
  simp only [anchor_ite, ite_self, State.takeRequest_anchor]

theorem doConsistencyPoint_anchor (p : Nat) (s : State) :
    (doConsistencyPoint p s).anchor = s.anchor := by
  unfold doConsistencyPoint
  repeat' first
    | with_reducible rfl
    | (simp only [anchor_mk, anchor_fold, anchor_ite, State.modSession_anchor, State.modFolio_anchor, State.modCkp_anchor,
        State.releaseHeld_anchor]; done)
    | split
    | with_reducible refine (anchor_foldl _ (fun _ _ => ?_) _ _).trans ?_
    | simp only [State.modCkp_anchor, State.releaseHeld_anchor]

theorem State.announce_anchor (s : State) (p : Nat) (x : ShardContent) (dg : Bytes) :
    (State.announce s p x dg).anchor = s.anchor := by
  unfold State.announce
  split <;> simp only [State.modCkp_anchor, State.tellMember_anchor]

theorem State.jobDone_anchor (s : State) (p : Nat) (j : CkptJob) :
    (State.jobDone s p j).anchor = s.anchor := by
  unfold State.jobDone
  repeat' first
    | with_reducible rfl
    | (simp only [anchor_ite, ite_self, State.modSession_anchor, State.modFolio_anchor, State.modCkp_anchor,
        State.freeTier_anchor, State.reapFolio_anchor]; done)
    | split
    | with_reducible refine (anchor_foldl _ (fun _ _ => ?_) _ _).trans ?_
    | simp only [State.modCkp_anchor]

theorem State.sendReport_anchor (s : State) (p : Nat) :
    (State.sendReport s p).anchor = s.anchor := by
  unfold State.sendReport
  split <;> simp only [State.modCkp_anchor, State.tellMember_anchor]

theorem State.advanceCkpt_anchor (s : State) (p : Nat) :
    (State.advanceCkpt s p).anchor = s.anchor := by
  unfold State.advanceCkpt
  repeat' first
    | with_reducible rfl
    | (simp only [anchor_ite, ite_self, State.modCkp_anchor, State.announce_anchor, State.sendReport_anchor]; done)
    | with_reducible refine (anchor_foldl _ (fun _ _ => ?_) _ _).trans ?_
    | split
    | dsimp only

theorem State.readForCkpt_anchor (s : State) (p : Nat) (j : CkptJob) (l : List (ShardContent × Bytes)) :
    (State.readForCkpt s p j l).anchor = s.anchor := by
  unfold State.readForCkpt
  repeat' first
    | with_reducible rfl
    | (simp only [anchor_ite, ite_self, State.setFolio_anchor, State.pin_anchor, State.unpins_anchor]; done)
    | split

theorem State.copyOne_anchor (s : State) (p : Nat) :
    (State.copyOne s p).anchor = s.anchor := by
  unfold State.copyOne
  repeat' first
    | with_reducible rfl
    | (simp only [anchor_ite, State.modCkp_anchor, State.announce_anchor, State.jobDone_anchor, State.advanceCkpt_anchor,
        State.readForCkpt_anchor]; done)
    | split
    | with_reducible refine (anchor_foldl _ (fun _ _ => ?_) _ _).trans ?_
    | simp only [State.jobDone_anchor]

theorem State.writeUnit_anchor (s : State) (p r : Nat) (u : StripeUnit) :
    (State.writeUnit s p r u).anchor = s.anchor := by
  unfold State.writeUnit
  simp only [anchor_ite, ite_self, State.count_anchor, State.setCkp_anchor, State.sendReport_anchor]

theorem State.answerDigest_anchor (s : State) (p src : Nat) (dg : Bytes) :
    (State.answerDigest s p src dg).anchor = s.anchor := by
  unfold State.answerDigest
  repeat' first
    | with_reducible rfl
    | (simp only [State.setCkp_anchor, State.tellMember_anchor]; done)
    | with_reducible refine (anchor_foldl _ (fun _ _ => ?_) _ _).trans ?_
    | split
    | dsimp only

theorem State.storeShard_anchor (s : State) (p src : Nat) (x : ShardContent) :
    (State.storeShard s p src x).anchor = s.anchor := by
  unfold State.storeShard
  repeat' first
    | with_reducible rfl
    | (simp only [State.tellMember_anchor, State.abortCkpt_anchor, State.writeUnit_anchor, State.answerDigest_anchor]; done)
    | with_reducible refine (anchor_foldl _ (fun _ _ => ?_) _ _).trans ?_
    | split
    | dsimp only

theorem State.foldParity_anchor (s : State) (p r j : Nat) (delta : Bytes) :
    (State.foldParity s p r j delta).anchor = s.anchor := by
  unfold State.foldParity
  split <;> simp only [anchor_ite, ite_self, State.writeUnit_anchor]

theorem State.takeAnswer_anchor (s : State) (p : Nat) (dg : Bytes) (row : Option Nat) :
    (State.takeAnswer s p dg row).anchor = s.anchor := by
  unfold State.takeAnswer
  repeat' first
    | with_reducible rfl
    | (simp only [State.count_anchor, State.setCkp_anchor, State.tellMember_anchor, State.advanceCkpt_anchor]; done)
    | with_reducible refine (anchor_foldl _ (fun _ _ => ?_) _ _).trans ?_
    | split
    | dsimp only

theorem State.takeReport_anchor (s : State) (p src : Nat) (r : CommitReport) :
    (State.takeReport s p src r).anchor = s.anchor := by
  unfold State.takeReport
  split <;> simp only [anchor_ite, ite_self, State.setCkp_anchor]

theorem State.takeColophon_anchor (s : State) (p : Nat) (c : Colophon) :
    (State.takeColophon s p c).anchor = s.anchor := by
  unfold State.takeColophon
  simp only [anchor_ite, ite_self, State.setCkp_anchor, State.releaseOwed_anchor]

theorem doCkptCommit_anchor (p : Nat) (ok : Bool) (s : State) :
    (doCkptCommit p ok s).anchor = s.anchor := by
  unfold doCkptCommit
  repeat' first
    | with_reducible rfl
    | (simp only [anchor_ite, ite_self, State.complete_anchor, State.tellMember_anchor, State.endAll_anchor,
        State.takeColophon_anchor]; done)
    | with_reducible refine (anchor_foldl _ (fun _ _ => ?_) _ _).trans ?_
    | split
    | dsimp only

theorem State.chainStep_anchor (s : State) (p r target : Nat) (lost remaining : List Nat) (data : Bytes) :
    (State.chainStep s p r target lost remaining data).anchor = s.anchor := by
  unfold State.chainStep
  repeat' first
    | with_reducible rfl
    | (simp only [anchor_ite, ite_self, State.countSat_anchor, State.modCkp_anchor, State.tellMember_anchor]; done)
    | split

theorem State.startChain_anchor (s : State) (p : Nat) :
    (State.startChain s p).anchor = s.anchor := by
  unfold State.startChain
  repeat' first
    | with_reducible rfl
    | (simp only [State.setCkp_anchor, State.tellMember_anchor]; done)
    | with_reducible refine (anchor_foldl _ (fun _ _ => ?_) _ _).trans ?_
    | split
    | dsimp only

theorem State.takeMessage_anchor (s : State) (p : Nat) (m : CkptMsg) :
    (State.takeMessage s p m).anchor = s.anchor := by
  unfold State.takeMessage
  repeat' first
    | with_reducible rfl
    | (simp only [anchor_ite, ite_self, State.modCkp_anchor, State.endMember_anchor, State.endAll_anchor,
        State.takeRequest_anchor, State.answerDigest_anchor, State.storeShard_anchor, State.foldParity_anchor,
        State.takeAnswer_anchor, State.takeReport_anchor, State.takeColophon_anchor, State.chainStep_anchor]; done)
    | split

theorem doShardTransfer_anchor (p : Nat) (m : CkptMsg) (s : State) :
    (doShardTransfer p m s).anchor = s.anchor := by
  unfold doShardTransfer
  simp only [State.takeMessage_anchor]

theorem State.ckptTick_anchor (s : State) :
    (State.ckptTick s).anchor = s.anchor := by
  unfold State.ckptTick
  repeat' first
    | with_reducible rfl
    | (simp only [anchor_mk, anchor_fold, anchor_ite, ite_self, State.endAll_anchor, State.copyOne_anchor,
        State.startChain_anchor, State.takeMessage_anchor]; done)
    | with_reducible refine (anchor_foldl _ (fun _ _ => ?_) _ _).trans ?_
    | split
    | dsimp only

theorem State.pfWrite_anchor (s : State) (off : Nat) (v : W64) (eff : State → State) (h : ∀ t, (eff t).anchor = t.anchor) :
    (State.pfWrite s off v eff).anchor = s.anchor := by
  unfold State.pfWrite
  simp only [anchor_ite, ite_self, State.accessErr_anchor, State.audit_anchor, h]

theorem State.mgmtCommand_anchor (s : State) (opcode value : Nat) (arg : Bytes) (eff : State → MgmtCode × State) (h : ∀ t,
    (eff t).2.anchor = t.anchor) :
    (State.mgmtCommand s opcode value arg eff).anchor = s.anchor := by
  unfold State.mgmtCommand
  simp only [anchor_ite, ite_self, snd_ite, fst_ite, State.emit_anchor, State.audit_anchor, h]

theorem State.settleChan_anchor (s : State) (c : Nat) :
    (State.settleChan s c).anchor = s.anchor := by
  unfold State.settleChan
  simp only [anchor_ite, ite_self, State.modChan_anchor]

theorem State.relocate_anchor (s : State) (c k : Nat) (cls : ArbClass) :
    (State.relocate s c k cls).anchor = s.anchor := by
  unfold State.relocate
  repeat' first
    | with_reducible rfl
    | (simp only [State.setChan_anchor, State.request_anchor]; done)
    | with_reducible refine (anchor_foldl _ (fun _ _ => ?_) _ _).trans ?_
    | split
    | dsimp only

theorem State.retireBlock_anchor (s : State) (c k : Nat) :
    (State.retireBlock s c k).anchor = s.anchor := by
  unfold State.retireBlock
  simp only [anchor_ite, ite_self, State.setChan_anchor, State.settleChan_anchor, State.relocate_anchor]

theorem doNandReadDone_anchor (c unit worst retries : Nat) (ok : Bool) (s : State) :
    (doNandReadDone c unit worst retries ok s).anchor = s.anchor := by
  unfold doNandReadDone
  repeat' first
    | with_reducible rfl
    | (simp only [anchor_ite, ite_self, State.count_anchor, State.raise_anchor, State.countSat_anchor, State.setChan_anchor,
        State.modChan_anchor, State.tierFail_anchor, State.relocate_anchor]; done)
    | with_reducible refine (anchor_foldl _ (fun _ _ => ?_) _ _).trans ?_
    | split
    | dsimp only

theorem doNandProgramDone_anchor (c unit block : Nat) (ok : Bool) (s : State) :
    (doNandProgramDone c unit block ok s).anchor = s.anchor := by
  unfold doNandProgramDone
  simp only [anchor_ite, ite_self, State.count_anchor, State.raise_anchor, State.countSat_anchor, State.setChan_anchor,
      State.settleChan_anchor, State.retireBlock_anchor]

theorem doNandEraseDone_anchor (c block : Nat) (ok : Bool) (s : State) :
    (doNandEraseDone c block ok s).anchor = s.anchor := by
  unfold doNandEraseDone
  simp only [anchor_ite, ite_self, State.count_anchor, State.raise_anchor, State.countSat_anchor, State.setChan_anchor,
      State.settleChan_anchor, State.retireBlock_anchor]

theorem doRelocationCommit_anchor (c unit : Nat) (s : State) :
    (doRelocationCommit c unit s).anchor = s.anchor := by
  unfold doRelocationCommit
  repeat' first
    | with_reducible rfl
    | (simp only [anchor_ite, ite_self, State.count_anchor, State.setChan_anchor, State.settleChan_anchor]; done)
    | with_reducible refine (anchor_foldl _ (fun _ _ => ?_) _ _).trans ?_
    | split
    | dsimp only

theorem doGcStart_anchor (c : Nat) (s : State) :
    (doGcStart c s).anchor = s.anchor := by
  unfold doGcStart
  repeat' first
    | with_reducible rfl
    | (simp only [anchor_ite, ite_self, State.modChan_anchor, State.relocate_anchor]; done)
    | with_reducible refine (anchor_foldl _ (fun _ _ => ?_) _ _).trans ?_
    | split
    | dsimp only

theorem doStaticLevel_anchor (c block : Nat) (s : State) :
    (doStaticLevel c block s).anchor = s.anchor := by
  unfold doStaticLevel
  simp only [anchor_ite, ite_self, State.relocate_anchor]

theorem doReadRefresh_anchor (c block : Nat) (s : State) :
    (doReadRefresh c block s).anchor = s.anchor := by
  unfold doReadRefresh
  repeat' first
    | with_reducible rfl
    | (simp only [State.setChan_anchor, State.relocate_anchor]; done)
    | with_reducible refine (anchor_foldl _ (fun _ _ => ?_) _ _).trans ?_
    | split
    | dsimp only

theorem doPatrolRead_anchor (c block worst : Nat) (s : State) :
    (doPatrolRead c block worst s).anchor = s.anchor := by
  unfold doPatrolRead
  simp only [anchor_ite, ite_self, State.setChan_anchor]

theorem State.t3Write_anchor (s : State) (r : RegName) (v : W64) :
    (State.t3Write s r v).anchor = s.anchor := by
  unfold State.t3Write
  simp only [anchor_mk, anchor_fold, anchor_ite, ite_self, State.setReg_anchor, State.stampSet_anchor]

theorem doHifT3Write_anchor (which : Nat) (v : W64) (s : State) :
    (doHifT3Write which v s).anchor = s.anchor := by
  unfold doHifT3Write
  repeat' first
    | with_reducible rfl
    | (simp only [anchor_ite, State.t3Write_anchor]; done)
    | refine State.pfWrite_anchor _ _ _ _ (fun _ => ?_)
    | split

theorem State.dropRequests_anchor (s : State) (p slot : Nat) :
    (State.dropRequests s p slot).anchor = s.anchor := by
  unfold State.dropRequests
  repeat' first
    | with_reducible rfl
    | (simp only [anchor_mk, anchor_fold, State.pump_anchor]; done)
    | with_reducible refine (anchor_foldl _ (fun _ _ => ?_) _ _).trans ?_

theorem State.stopSteps_anchor (s : State) (p : Nat) :
    (State.stopSteps s p).anchor = s.anchor := by
  unfold State.stopSteps
  repeat' first
    | with_reducible rfl
    | (simp only [State.modSpn_anchor, State.modEng_anchor, State.dropRequests_anchor]; done)
    | with_reducible refine (anchor_foldl _ (fun _ _ => ?_) _ _).trans ?_
    | split

theorem State.stopReplay_anchor (s : State) (p : Nat) :
    (State.stopReplay s p).anchor = s.anchor := by
  unfold State.stopReplay
  repeat' first
    | with_reducible rfl
    | (simp only [State.modSpn_anchor, State.modEng_anchor, State.setRecPart_anchor, State.rechoose_anchor,
        State.dropRequests_anchor]; done)
    | split
    | with_reducible refine (anchor_foldl _ (fun _ _ => ?_) _ _).trans ?_
    | simp only [State.setRecPart_anchor]

theorem State.undoInsert_anchor (s : State) (p : Nat) (en : GEntry) :
    (State.undoInsert s p en).anchor = s.anchor := by
  unfold State.undoInsert
  repeat' first
    | with_reducible rfl
    | (simp only [anchor_ite, ite_self, State.modVerb_anchor, State.modSeq_anchor, State.dropRefs_anchor,
        State.subPt_anchor]; done)
    | split

theorem State.requeue_anchor (s : State) (p : Nat) (en : GEntry) :
    (State.requeue s p en).anchor = s.anchor := by
  unfold State.requeue
  simp only [State.modSeq_anchor, State.trimSpans_anchor, State.undoInsert_anchor]

theorem State.rollback_anchor (s : State) (p : Nat) (held : List (Nat × Nat)) :
    (State.rollback s p held).anchor = s.anchor := by
  unfold State.rollback
  repeat' first
    | with_reducible rfl
    | (simp only [State.modSpn_anchor, State.dropStage_anchor, State.unpins_anchor, State.stopSteps_anchor,
        State.requeue_anchor]; done)
    | split
    | with_reducible refine (anchor_foldl _ (fun _ _ => ?_) _ _).trans ?_
    | simp only [State.modSpn_anchor]

theorem State.abandonVerb_anchor (s : State) (p : Nat) (v : Verb) (st : Status) :
    (State.abandonVerb s p v st).anchor = s.anchor := by
  unfold State.abandonVerb
  split <;> simp only [State.modSeqs_anchor, State.modFolPart_anchor, State.complete_anchor, State.abandonPark_anchor,
      State.abandonRevive_anchor, State.endLoad_anchor]

theorem State.failVerb_anchor (s : State) (p : Nat) (v : Verb) :
    (State.failVerb s p v).anchor = s.anchor := by
  unfold State.failVerb
  repeat' first
    | with_reducible rfl
    | (simp only [anchor_ite, ite_self, State.endStep_anchor, State.endInput_anchor, State.abandonSend_anchor,
        State.abandonVerb_anchor]; done)
    | split

theorem State.damage_anchor (s : State) (d : Nat) :
    (State.damage s d).anchor = s.anchor := by
  unfold State.damage
  repeat' first
    | with_reducible rfl
    | (simp only [anchor_ite, State.setRec_anchor, State.notice_anchor, State.failRevive_anchor, State.failVerb_anchor]; done)
    | split
    | with_reducible refine (anchor_foldl _ (fun _ _ => ?_) _ _).trans ?_
    | simp only [anchor_ite, State.notice_anchor]

theorem State.loseFolio_anchor (s : State) (i stack : Nat) :
    (State.loseFolio s i stack).anchor = s.anchor := by
  unfold State.loseFolio
  repeat' first
    | with_reducible rfl
    | (simp only [anchor_ite, ite_self, State.setFolio_anchor, State.modSpn_anchor, State.freeTier_anchor,
        State.leavePrefix_anchor, State.quireFailed_anchor, State.damage_anchor]; done)
    | with_reducible refine (anchor_foldl _ (fun _ _ => ?_) _ _).trans ?_
    | split

theorem State.endSuspect_anchor (s : State) (p : Nat) (base : Option Gather) (e : Nat × Nat) (st : Status) :
    (State.endSuspect s p base e st).anchor = s.anchor := by
  unfold State.endSuspect
  repeat' first
    | with_reducible rfl
    | (simp only [State.modSeq_anchor, State.endWork_anchor, State.requeue_anchor]; done)
    | split
    | with_reducible refine (anchor_foldl _ (fun _ _ => ?_) _ _).trans ?_
    | simp only [State.modSeq_anchor, State.endWork_anchor]

theorem State.startReplay_anchor (s : State) (p : Nat) :
    (State.startReplay s p).anchor = s.anchor := by
  unfold State.startReplay
  repeat' first
    | with_reducible rfl
    | (simp only [State.modEng_anchor, State.setRecPart_anchor, State.rechoose_anchor]; done)
    | with_reducible refine (anchor_foldl _ (fun _ _ => ?_) _ _).trans ?_
    | split
    | dsimp only

theorem State.endSearch_anchor (s : State) (p : Nat) :
    (State.endSearch s p).anchor = s.anchor := by
  unfold State.endSearch
  simp only [State.setRecPart_anchor, State.setPartMode_anchor, State.stopReplay_anchor]

theorem State.startSearch_anchor (s : State) (p : Nat) (d : FaultDetail) (g : Option Gather) (sus : List (Nat × Nat)) :
    (State.startSearch s p d g sus).anchor = s.anchor := by
  unfold State.startSearch
  repeat' first
    | with_reducible rfl
    | (simp only [anchor_ite, State.modSeq_anchor, State.setRecPart_anchor, State.setPartMode_anchor, State.endSuspect_anchor,
        State.startReplay_anchor]; done)
    | split
    | with_reducible refine (anchor_foldl _ (fun _ _ => ?_) _ _).trans ?_
    | simp only [State.setPartMode_anchor, State.startReplay_anchor]

theorem State.poison_anchor (s : State) (p : Nat) (e : Nat × Nat) :
    (State.poison s p e).anchor = s.anchor := by
  unfold State.poison
  split <;> simp only [State.count_anchor, State.modSeq_anchor]

theorem State.verdict_anchor (s : State) (p : Nat) :
    (State.verdict s p).anchor = s.anchor := by
  unfold State.verdict
  repeat' first
    | with_reducible rfl
    | (simp only [State.endSuspect_anchor, State.endSearch_anchor, State.poison_anchor]; done)
    | split
    | with_reducible refine (anchor_foldl _ (fun _ _ => ?_) _ _).trans ?_
    | simp only [State.endSearch_anchor]

theorem doReplayEnd_anchor (p : Nat) (hit : Bool) (s : State) :
    (doReplayEnd p hit s).anchor = s.anchor := by
  unfold doReplayEnd
  repeat' first
    | with_reducible rfl
    | (simp only [anchor_ite, ite_self, State.setRecPart_anchor, State.stopReplay_anchor, State.requeue_anchor,
        State.startReplay_anchor, State.verdict_anchor]; done)
    | split
    | with_reducible refine (anchor_foldl _ (fun _ _ => ?_) _ _).trans ?_
    | simp only [State.startReplay_anchor, State.verdict_anchor]

theorem State.fenceVerb_anchor (s : State) (p : Nat) (sus : List (Nat × Nat)) (w : Verb) :
    (State.fenceVerb s p sus w).anchor = s.anchor := by
  unfold State.fenceVerb
  repeat' first
    | with_reducible rfl
    | (simp only [anchor_ite, ite_self, State.complete_anchor, State.endStep_anchor, State.endInput_anchor,
        State.abandonSend_anchor, State.failClaim_anchor, State.abandonVerb_anchor]; done)
    | split

theorem State.modPart_anchor (s : State) (p : Nat) (f : Session → Session) :
    (State.modPart s p f).anchor = s.anchor := by
  unfold State.modPart
  simp only [anchor_mk, anchor_fold]

theorem State.fencePart_anchor (s : State) (p : Nat) :
    (State.fencePart s p).anchor = s.anchor := by
  unfold State.fencePart
  repeat' first
    | with_reducible rfl
    | (simp only [anchor_ite, ite_self, State.count_anchor, State.modSeqs_anchor, State.modSpn_anchor, State.setRecPart_anchor,
        State.setPartMode_anchor, State.abandonRevive_anchor, State.expireDue_anchor, State.abandonSend_anchor,
        State.abortCkpt_anchor, State.stopReplay_anchor, State.requeue_anchor, State.rollback_anchor, State.fenceVerb_anchor,
        State.modPart_anchor]; done)
    | split
    | with_reducible refine (anchor_foldl _ (fun _ _ => ?_) _ _).trans ?_
    | simp only [State.modSpn_anchor, State.setRecPart_anchor, State.expireDue_anchor, State.modPart_anchor]

theorem State.zeroEngine_anchor (s : State) (e : Nat) :
    (State.zeroEngine s e).anchor = s.anchor := by
  unfold State.zeroEngine
  simp only [State.setReg_anchor, State.setEng_anchor]

theorem doPartitionDrainEnd_anchor (p : Nat) (s : State) :
    (doPartitionDrainEnd p s).anchor = s.anchor := by
  unfold doPartitionDrainEnd
  repeat' first
    | with_reducible rfl
    | (simp only [anchor_mk, anchor_fold, anchor_ite, ite_self, State.modSpn_anchor, State.modChan_anchor,
        State.setPartMode_anchor, State.loadTest_anchor, State.dropRequests_anchor, State.zeroEngine_anchor]; done)
    | split
    | with_reducible refine (anchor_foldl _ (fun _ _ => ?_) _ _).trans ?_
    | simp only [anchor_mk, anchor_fold, anchor_ite, ite_self, State.modSpn_anchor]

theorem doPartResetDone_anchor (p : Nat) (ok : Bool) (s : State) :
    (doPartResetDone p ok s).anchor = s.anchor := by
  unfold doPartResetDone
  repeat' first
    | with_reducible rfl
    | (simp only [anchor_ite, State.raise_anchor, State.modSpn_anchor, State.modChan_anchor, State.setPartMode_anchor,
        State.expireDue_anchor, State.modPart_anchor, State.zeroEngine_anchor]; done)
    | split
    | with_reducible refine (anchor_foldl _ (fun _ _ => ?_) _ _).trans ?_
    | simp only [State.modSpn_anchor, State.setPartMode_anchor, State.expireDue_anchor, State.modPart_anchor]

end Machine
end Sys2Proof
end

