-- ==== Sys2Proof/Laws/AnchorFaults.lean ====
section
/-!
SUPPORT. Sys2Proof/Laws/AnchorFaults.lean: what the fault collector and the entry to the safe state leave of the anchor.
-/
namespace Sys2Proof
namespace Machine

theorem State.logOne_anchor (s : State) (e : LogEntry) :
    (State.logOne s e).anchor = s.anchor := by
  unfold State.logOne
  simp only [anchor_mk, anchor_fold, anchor_ite, ite_self, State.setReg_anchor, State.stampAdd_anchor, State.cause_anchor]

theorem State.setFaultBit_anchor (s : State) (k : Nat) :
    (State.setFaultBit s k).anchor = s.anchor := by
  unfold State.setFaultBit
  simp only [State.setReg_anchor, State.stampSet_anchor]

theorem State.ownSat_anchor (s : State) :
    (State.ownSat s).anchor = s.anchor := by
  unfold State.ownSat
  simp only [State.cause_anchor, State.logOne_anchor, State.setFaultBit_anchor]

theorem State.logFault_anchor (s : State) (e : LogEntry) :
    (State.logFault s e).anchor = s.anchor := by
  unfold State.logFault
  simp only [anchor_ite, ite_self, State.logOne_anchor, State.ownSat_anchor]

theorem State.classify_anchor (s : State) (k : Nat) (r : FaultRow) :
    (State.classify s k r).2.2.anchor = s.anchor := by
  unfold State.classify
  simp only [anchor_mk, anchor_fold, anchor_ite, ite_self, snd_ite]

theorem State.classify_out {s : State} {k : Nat} {r : FaultRow} {x0 : Severity} {x1 : Bool} {t : State}
    (h : State.classify s k r = (x0, x1, t)) : t.anchor = s.anchor := by
  have e := State.classify_anchor s k r
  rw [h] at e
  exact e

theorem State.clearDrops_anchor (s : State) (p : Nat) :
    (State.clearDrops s p).anchor = s.anchor := by
  unfold State.clearDrops
  simp only [State.setTxtPart_anchor, State.setIndexes_anchor]

theorem State.safeVerb_anchor (s : State) (p : Nat) (w : Verb) :
    (State.safeVerb s p w).anchor = s.anchor := by
  unfold State.safeVerb
  repeat' first
    | with_reducible rfl
    | (simp only [anchor_ite, ite_self, State.modSeq_anchor, State.setQueries_anchor, State.complete_anchor,
        State.endStep_anchor, State.endInput_anchor, State.failClaim_anchor, State.useGen_anchor, State.abandonVerb_anchor]; done)
    | split

theorem State.safeRings_anchor (s : State) (p : Nat) :
    (State.safeRings s p).anchor = s.anchor := by
  unfold State.safeRings
  simp only [anchor_mk, anchor_fold, anchor_ite, ite_self, State.setVf_anchor]

theorem State.safePart_anchor (s : State) (p : Nat) :
    (State.safePart s p).anchor = s.anchor := by
  unfold State.safePart
  repeat' first
    | with_reducible rfl
    | (simp only [anchor_ite, ite_self, State.modSeqs_anchor, State.modFolPart_anchor, State.modSpn_anchor,
        State.setRecPart_anchor, State.setQueries_anchor, State.setPartMode_anchor, State.grantText_anchor,
        State.abandonRevive_anchor, State.endMember_anchor, State.stopReplay_anchor, State.rollback_anchor, State.modPart_anchor,
        State.clearDrops_anchor, State.safeVerb_anchor, State.safeRings_anchor]; done)
    | split
    | with_reducible refine (anchor_foldl _ (fun _ _ => ?_) _ _).trans ?_
    | simp only [State.modFolPart_anchor, State.modSpn_anchor, State.setQueries_anchor, State.setPartMode_anchor,
        State.grantText_anchor, State.modPart_anchor, State.clearDrops_anchor, State.safeRings_anchor]

theorem State.dropMove_anchor (s : State) (i : Nat) (f : Folio) :
    (State.dropMove s i f).anchor = s.anchor := by
  unfold State.dropMove
  simp only [anchor_ite, ite_self, State.modFolio_anchor, State.freeTier_anchor, State.abandonPromotion_anchor]

theorem State.loseLine_anchor (s : State) (k : Nat) (d : FaultDetail) :
    (State.loseLine s k d).anchor = s.anchor := by
  unfold State.loseLine
  repeat' first
    | with_reducible rfl
    | (simp only [State.modSpn_anchor, State.damage_anchor, State.loseFolio_anchor]; done)
    | split

theorem State.completeOwed_anchor (s : State) (p : Nat) :
    (State.completeOwed s p).anchor = s.anchor := by
  unfold State.completeOwed
  repeat' first
    | with_reducible rfl
    | (simp only [anchor_ite, State.modSpn_anchor, State.completeHit_anchor]; done)
    | with_reducible refine (anchor_foldl _ (fun _ _ => ?_) _ _).trans ?_
    | split
    | dsimp only

theorem State.contStep_anchor (s : State) (p k : Nat) (d : FaultDetail) :
    (State.contStep s p k d).anchor = s.anchor := by
  unfold State.contStep
  repeat' first
    | with_reducible rfl
    | (simp only [anchor_ite, ite_self, State.setRecPart_anchor, State.setPartMode_anchor, State.rollback_anchor,
        State.damage_anchor, State.startSearch_anchor, State.loseLine_anchor, State.completeOwed_anchor]; done)
    | split

theorem State.contQuery_anchor (s : State) (p vid : Nat) :
    (State.contQuery s p vid).anchor = s.anchor := by
  unfold State.contQuery
  repeat' first
    | with_reducible rfl
    | (simp only [State.modQuery_anchor, State.endQuery_anchor, State.endRemote_anchor]; done)
    | split

theorem State.contReact_anchor (s : State) (p k : Nat) (d : FaultDetail) :
    (State.contReact s p k d).anchor = s.anchor := by
  unfold State.contReact
  repeat' first
    | with_reducible rfl
    | (simp only [anchor_ite, ite_self, State.setRecPart_anchor, State.loseLine_anchor, State.contStep_anchor,
        State.contQuery_anchor]; done)
    | split

theorem State.endTest_anchor (s : State) (e : Nat) :
    (State.endTest s e).anchor = s.anchor := by
  unfold State.endTest
  split <;> simp only [State.emit_anchor, State.modEng_anchor, State.rechoose_anchor]

theorem State.record_anchor (s : State) (k : Nat) (d : FaultDetail) (ps : List Nat) (sev : Severity) (esc : Bool) :
    (State.record s k d ps sev esc).anchor = s.anchor := by
  unfold State.record
  split <;> simp only [anchor_mk, anchor_fold, anchor_ite, ite_self, State.cause_anchor, State.logFault_anchor]

theorem State.countFault_anchor (s : State) (k : Nat) :
    (State.countFault s k).2.anchor = s.anchor := by
  unfold State.countFault
  simp only [State.setReg_anchor, State.stampAdd_anchor, State.setFaultBit_anchor]

theorem State.countFault_out {s : State} {k : Nat} {x0 : Bool} {t : State}
    (h : State.countFault s k = (x0, t)) : t.anchor = s.anchor := by
  have e := State.countFault_anchor s k
  rw [h] at e
  exact e

theorem State.hostReset_anchor (s : State) :
    (State.hostReset s).anchor = s.anchor := by
  unfold State.hostReset
  simp only [anchor_mk, anchor_fold]

theorem doFaultCfg_anchor (k threshold windowS : Nat) (s : State) :
    (doFaultCfg k threshold windowS s).anchor = s.anchor := by
  unfold doFaultCfg
  repeat' first
    | with_reducible rfl
    | (simp only [anchor_mk, anchor_fold, anchor_ite, ite_self, snd_ite]; done)
    | refine State.mgmtCommand_anchor _ _ _ _ _ (fun _ => ?_)
    | split

theorem doScrubRead_anchor (line : Nat) (corrected uncorrectable : Bool) (s : State) :
    (doScrubRead line corrected uncorrectable s).anchor = s.anchor := by
  unfold doScrubRead
  repeat' first
    | with_reducible rfl
    | (simp only [anchor_ite, ite_self, State.raise_anchor, State.emit_anchor]; done)
    | with_reducible refine (anchor_foldl _ (fun _ _ => ?_) _ _).trans ?_
    | split
    | dsimp only

/-- What the fault collector may do to the anchor: nothing, or the entry to the safe state. -/
def Anchor.safed (a : Anchor) : Anchor := { a with safe := true, safePin := true }
def Anchor.Drift (a b : Anchor) : Prop := b = a ∨ b = a.safed

theorem Anchor.Drift.of_eq {a b : Anchor} (h : b = a) : Anchor.Drift a b := .inl h
theorem Anchor.Drift.refl (a : Anchor) : Anchor.Drift a a := .inl rfl
theorem Anchor.Drift.trans {a b c : Anchor} (h : Anchor.Drift a b) (k : Anchor.Drift b c) : Anchor.Drift a c := by
  rcases h with rfl | rfl
  · exact k
  · rcases k with rfl | rfl
    · exact .inr rfl
    · exact .inr rfl

theorem State.enterSafe_anchor (s : State) (k : Nat) : (s.enterSafe k).anchor = s.anchor.safed := by
  unfold State.enterSafe
  extract_lets f0 s1 b last b' x0 s2 s3 h0 s4 s5 p0 s6 s7 s8 change prior y1 y2 y3 y4 y5 y6 y7 s9 y8
  have e1 : s1.anchor = { s.anchor with safe := true } := rfl
  have e2 : s2.anchor = { s.anchor with safe := true } := rfl
  have e3 : s3.anchor = { s.anchor with safe := true } := State.audit_anchor ..
  have e4 : s4.anchor = { s.anchor with safe := true } := e3
  have e5 : s5.anchor = { s.anchor with safe := true } := by
    rw [← e4]; unfold s5; split
    · rw [State.emit_anchor]
    · rfl
  have e6 : s6.anchor = s.anchor.safed := by
    have e : s6.anchor = { s5.anchor with safePin := true } := State.emit_anchor ..
    rw [e, e5]; rfl
  have e7 : s7.anchor = s.anchor.safed := by
    rw [← e6]; exact anchor_foldl _ (fun _ _ => State.dropMove_anchor ..) _ _
  have e8 : s8.anchor = s.anchor.safed := by
    rw [← e7]; exact anchor_foldl _ State.safePart_anchor _ _
  clear_value s8
  have e9 : s9.anchor = s.anchor.safed := e8
  rw [← e9]
  split
  · exact State.setPhase_anchor ..
  · rfl

theorem State.react_drift (s : State) (k : Nat) (d : FaultDetail) (ps : List Nat) (sev : Severity) :
    Anchor.Drift s.anchor (s.react k d ps sev).anchor := by
  unfold State.react
  extract_lets free t u v
  clear_value free
  have et : t.anchor = s.anchor := by
    unfold t; split
    · split
      · rw [State.abortCkpt_anchor]
      · rfl
    · exact anchor_foldl _ (fun _ _ => State.contReact_anchor ..) _ _
  have eu : u.anchor = s.anchor := anchor_foldl _ State.fencePart_anchor _ _
  have ev : v.anchor = s.anchor := by
    rw [← eu]; unfold v; split
    · rw [State.loseLine_anchor]
    · rfl
  clear_value t v
  split
  · refine .of_eq ?_
    split
    · rw [State.endTest_anchor]
    · rfl
  · refine .of_eq ?_
    split
    · rw [State.loseLine_anchor, et]
    · exact et
  · refine .of_eq ?_
    split
    · rw [← ev]; exact anchor_foldl _ (fun _ _ => State.modSpn_anchor ..) _ _
    · exact ev
  · split
    · exact .refl _
    · exact .inr (State.enterSafe_anchor ..)

/-- The end of an event: its log entry, the saturation of its counter, its reaction. -/
theorem event_end (s u : State) (k : Nat) (d : FaultDetail) (ps : List Nat) (sev : Severity) (esc hit safe : Bool)
    (e : u.anchor = s.anchor) :
    Anchor.Drift s.anchor (if safe = true then (if hit = true then (u.record k d ps sev esc).ownSat else u.record k d ps sev esc)
      else (if hit = true then (u.record k d ps sev esc).ownSat else u.record k d ps sev esc).react k d ps sev).anchor := by
  have h : (if hit = true then (u.record k d ps sev esc).ownSat else u.record k d ps sev esc).anchor = s.anchor := by
    rw [← e]; split
    · rw [State.ownSat_anchor, State.record_anchor]
    · rw [State.record_anchor]
  generalize (if hit = true then (u.record k d ps sev esc).ownSat else u.record k d ps sev esc) = w at h
  rw [← h]
  split
  · exact .refl _
  · exact State.react_drift ..

theorem State.oneEvent_drift (s : State) (k : Nat) (d : FaultDetail) (force : Option Severity) :
    Anchor.Drift s.anchor (s.oneEvent k d force).anchor := by
  unfold State.oneEvent
  have e := State.countFault_anchor s k
  rcases force with _ | v
  · split
    · exact .refl _
    · exact event_end _ _ _ _ _ _ _ _ _ ((State.classify_anchor ..).trans e)
  · split
    · exact .refl _
    · exact event_end _ _ _ _ _ _ _ _ _ e

theorem State.event_drift (s : State) (k : Nat) (d : FaultDetail) (force : Option Severity) :
    Anchor.Drift s.anchor (s.event k d force).anchor := by
  unfold State.event
  dsimp only
  split
  · exact (State.oneEvent_drift ..).trans (State.oneEvent_drift ..)
  · exact State.oneEvent_drift ..

theorem doFaultEvent_drift (k : Nat) (d : FaultDetail) (s : State) : Anchor.Drift s.anchor (doFaultEvent k d s).anchor := by
  unfold doFaultEvent
  split
  · exact .refl _
  · extract_lets f0 t u v x0 y0
    have e0 : t.anchor = s.anchor := rfl
    have e : u.anchor = s.anchor := by
      rw [← e0]; unfold u; split
      · rw [State.hostReset_anchor]
      · rfl
    split
    · have e' : v.anchor = s.anchor := by rw [← e]; exact State.setFaultBit_anchor ..
      clear_value v
      split
      · exact .of_eq e'
      · exact .inr ((State.enterSafe_anchor ..).trans (by rw [e']))
    · rw [← e]; exact State.event_drift ..

/-- A management command changes the anchor only as its effect does. -/
theorem State.mgmtCommand_cases (s : State) (opcode value : Nat) (arg : Bytes) (eff : State → MgmtCode × State) :
    (s.mgmtCommand opcode value arg eff).anchor = s.anchor ∨ (s.mgmtCommand opcode value arg eff).anchor = (eff s).2.anchor := by
  unfold State.mgmtCommand
  split
  · exact .inl rfl
  · split
    · exact .inl (State.emit_anchor ..)
    · split
      rename_i r t h
      split at h
      · cases h
        exact .inl (by rw [State.emit_anchor, State.audit_anchor])
      · exact .inr (by rw [State.emit_anchor, State.audit_anchor, h])

theorem doPartReset_drift (p : Nat) (s : State) : Anchor.Drift s.anchor (doPartReset p s).anchor := by
  unfold doPartReset
  rcases State.mgmtCommand_cases s 0x07 p [] _ with h | h
  · exact .of_eq h
  · rw [h]
    split
    · exact .refl _
    · exact State.event_drift ..

end Machine
end Sys2Proof
end

