-- ==== Sys2Proof/Laws/AnchorBinding.lean ====
section
/-!
SUPPORT. Sys2Proof/Laws/AnchorBinding.lean: what binding images, restores and key messages leave of the anchor.
-/
namespace Sys2Proof
namespace Machine

theorem State.loadQueue_anchor (s : State) (x : QueueSec) :
    (State.loadQueue s x).anchor = s.anchor := by
  unfold State.loadQueue
  simp only [State.setReg_anchor, State.fullBuckets_anchor]

theorem State.loadPart_anchor (s : State) (p : Nat) (old : Option PartImage) (x : PartImage) :
    (State.loadPart s p old x).anchor = s.anchor := by
  unfold State.loadPart
  extract_lets b1 t1 b2 t2 t3 t4 t5 b6 more
  have h1 : t1.anchor = s.anchor := by
    unfold t1; split
    · rfl
    · rw [State.setField_anchor, State.setField_anchor]; exact State.setReg_anchor ..
  have h2 : t2.anchor = s.anchor := by
    rw [← h1]; unfold t2; split
    · rfl
    · refine (anchor_foldl _ (fun _ _ => State.setReg_anchor ..) _ _).trans ?_
      exact State.setReg_anchor ..
  have h3 : t3.anchor = s.anchor := by
    rw [← h2]; unfold t3; split
    · rfl
    · rw [State.modFolPart_anchor]
  have h4 : t4.anchor = s.anchor := by
    rw [← h3]; unfold t4; split
    · rfl
    · refine (anchor_foldl _ (fun _ _ => State.loadQueue_anchor ..) _ _).trans ?_
      rw [State.setReg_anchor, State.setReg_anchor]
  have h5 : t5.anchor = s.anchor := by
    rw [← h4]; unfold t5; split
    · rfl
    · exact State.setReg_anchor ..
  rw [← h5]
  split
  · rfl
  · refine (anchor_foldl _ (fun _ _ => ?_) _ _).trans (State.setReg_anchor ..)
    dsimp only
    split
    · rfl
    · rw [State.modLink_anchor]

theorem State.clearPart_anchor (s : State) (p : Nat) :
    (State.clearPart s p).anchor = s.anchor := by
  unfold State.clearPart
  repeat' first
    | with_reducible rfl
    | (simp only [State.setReg_anchor]; done)
    | with_reducible refine (anchor_foldl _ (fun _ _ => ?_) _ _).trans ?_

theorem State.loadLinks_anchor (s : State) :
    (State.loadLinks s).anchor = s.anchor := by
  unfold State.loadLinks
  repeat' first
    | with_reducible rfl
    | (simp only [anchor_ite, ite_self, State.setLink_anchor, State.leaveLink_anchor]; done)
    | with_reducible refine (anchor_foldl _ (fun _ _ => ?_) _ _).trans ?_

theorem State.loadDev_anchor (s : State) (old : Option DeviceSec) (x : DeviceSec) :
    (State.loadDev s old x).anchor = s.anchor := by
  unfold State.loadDev
  repeat' first
    | with_reducible rfl
    | (simp only [anchor_mk, anchor_fold, anchor_ite, ite_self, State.setReg_anchor]; done)
    | with_reducible refine (anchor_foldl _ (fun _ _ => ?_) _ _).trans ?_
    | split

theorem State.loadImage_anchor (s : State) (old : Option Image) (im : Image) :
    (State.loadImage s old im).anchor = s.anchor := by
  unfold State.loadImage
  repeat' first
    | with_reducible rfl
    | (simp only [anchor_mk, anchor_fold, State.loadPart_anchor, State.clearPart_anchor, State.loadDev_anchor]; done)
    | split
    | with_reducible refine (anchor_foldl _ (fun _ _ => ?_) _ _).trans ?_
    | simp only [anchor_mk, anchor_fold]

theorem State.measure_anchor (s : State) (im : Image) :
    (State.measure s im).anchor = s.anchor := by
  unfold State.measure
  simp only [anchor_mk, anchor_fold]

theorem State.enforce_anchor (s : State) (im : Image) :
    (State.enforce s im).anchor = s.anchor := by
  unfold State.enforce
  simp only [anchor_mk, anchor_fold, State.setPhase_anchor, State.measure_anchor]

theorem State.reformPart_anchor (s : State) (p : Nat) (im : Image) :
    (State.reformPart s p im).anchor = s.anchor := by
  unfold State.reformPart
  repeat' first
    | with_reducible rfl
    | (simp only [anchor_mk, anchor_fold, anchor_ite, ite_self, State.setVf_anchor, State.modFolPart_anchor, State.setSpn_anchor,
        State.setTxtPart_anchor, State.setRecPart_anchor, State.setIndexes_anchor, State.setQueries_anchor,
        State.grantText_anchor, State.setDirFree_anchor, State.endSession_anchor, State.freeGen_anchor, State.setLoads_anchor,
        State.dropRemote_anchor]; done)
    | split
    | with_reducible refine (anchor_foldl _ (fun _ _ => ?_) _ _).trans ?_
    | simp only [anchor_mk, anchor_fold, anchor_ite, ite_self, State.setVf_anchor, State.modFolPart_anchor, State.setSpn_anchor,
        State.setTxtPart_anchor, State.setRecPart_anchor, State.setIndexes_anchor, State.setQueries_anchor,
        State.grantText_anchor, State.setDirFree_anchor, State.setLoads_anchor]

theorem State.resizePart_anchor (s : State) (p : Nat) (im : Image) :
    (State.resizePart s p im).anchor = s.anchor := by
  unfold State.resizePart
  split <;> simp only [State.modFolPart_anchor]

theorem State.commitChange_anchor (s : State) (old im : Image) (deadline : Nat) :
    (State.commitChange s old im deadline).anchor = s.anchor := by
  unfold State.commitChange
  simp only [anchor_mk, anchor_fold, State.setPhase_anchor]

theorem State.dropRevive_anchor (s : State) (p d : Nat) :
    (State.dropRevive s p d).anchor = s.anchor := by
  unfold State.dropRevive
  repeat' first
    | with_reducible rfl
    | (simp only [anchor_ite, ite_self, State.modSeqs_anchor, State.abandonRevive_anchor]; done)
    | split

theorem State.retireVerb_anchor (s : State) (p : Nat) (w : Verb) :
    (State.retireVerb s p w).anchor = s.anchor := by
  unfold State.retireVerb
  repeat' first
    | with_reducible rfl
    | (simp only [anchor_ite, ite_self, State.modSeq_anchor, State.complete_anchor, State.endStep_anchor,
        State.abandonVerb_anchor, State.dropRevive_anchor]; done)
    | split

theorem State.dropNext_anchor (s : State) (p : Nat) :
    (State.dropNext s p).anchor = s.anchor := by
  unfold State.dropNext
  simp only [State.modSpn_anchor]

theorem State.settleDrains_anchor (s : State) :
    (State.settleDrains s).anchor = s.anchor := by
  unfold State.settleDrains
  repeat' first
    | with_reducible rfl
    | (simp only [anchor_mk, anchor_fold, anchor_ite, ite_self, State.setPhase_anchor, State.modPart_anchor]; done)
    | split
    | with_reducible refine (anchor_foldl _ (fun _ _ => ?_) _ _).trans ?_
    | simp only [anchor_mk, anchor_fold, anchor_ite, ite_self, State.setPhase_anchor]

theorem doDrainDeadline_anchor (s : State) :
    (doDrainDeadline s).anchor = s.anchor := by
  unfold doDrainDeadline
  repeat' first
    | with_reducible rfl
    | (simp only [anchor_mk, anchor_fold, anchor_ite, State.expireDue_anchor, State.retireVerb_anchor, State.dropNext_anchor,
        State.settleDrains_anchor]; done)
    | split
    | with_reducible refine (anchor_foldl _ (fun _ _ => ?_) _ _).trans ?_
    | simp only [anchor_mk, anchor_fold, State.expireDue_anchor, State.dropNext_anchor, State.settleDrains_anchor]

theorem State.retireInput_anchor (s : State) (p : Nat) :
    (State.retireInput s p).anchor = s.anchor := by
  unfold State.retireInput
  repeat' first
    | with_reducible rfl
    | (simp only [anchor_ite, ite_self, State.complete_anchor, State.endInput_anchor]; done)
    | with_reducible refine (anchor_foldl _ (fun _ _ => ?_) _ _).trans ?_
    | split
    | dsimp only

theorem State.createRegions_anchor (s : State) (old im : Image) :
    (State.createRegions s old im).anchor = s.anchor := by
  unfold State.createRegions
  repeat' first
    | with_reducible rfl
    | (simp only [State.modSpn_anchor]; done)
    | with_reducible refine (anchor_foldl _ (fun _ _ => ?_) _ _).trans ?_
    | split
    | dsimp only

theorem State.switchTo_anchor (s : State) (old im : Image) :
    (State.switchTo s old im).anchor = s.anchor := by
  unfold State.switchTo
  repeat' first
    | with_reducible rfl
    | (simp only [State.modSpn_anchor, State.releaseHeld_anchor, State.expireDue_anchor, State.abortCkpt_anchor,
        State.modPart_anchor, State.zeroEngine_anchor, State.loadLinks_anchor, State.loadImage_anchor, State.enforce_anchor,
        State.reformPart_anchor, State.resizePart_anchor, State.retireInput_anchor, State.createRegions_anchor]; done)
    | split
    | with_reducible refine (anchor_foldl _ (fun _ _ => ?_) _ _).trans ?_
    | simp only [State.loadLinks_anchor, State.loadImage_anchor, State.enforce_anchor, State.createRegions_anchor]

theorem doCompositionSwitch_anchor (s : State) :
    (doCompositionSwitch s).anchor = s.anchor := by
  unfold doCompositionSwitch
  repeat' first
    | with_reducible rfl
    | (simp only [anchor_ite, ite_self, State.settleDrains_anchor, State.switchTo_anchor]; done)
    | with_reducible refine (anchor_foldl _ (fun _ _ => ?_) _ _).trans ?_
    | split
    | dsimp only

theorem State.settlePhase_anchor (s : State) :
    (State.settlePhase s).anchor = s.anchor := by
  unfold State.settlePhase
  simp only [anchor_ite, ite_self, State.setPhase_anchor]

theorem doKeyAuthSet_anchor (p : Nat) (hash : Bytes) (mctpOk : Bool) (s : State) :
    (doKeyAuthSet p hash mctpOk s).anchor = s.anchor := by
  unfold doKeyAuthSet
  repeat' first
    | with_reducible rfl
    | (simp only [anchor_mk, anchor_fold, anchor_ite, ite_self, snd_ite]; done)
    | refine State.mgmtCommand_anchor _ _ _ _ _ (fun _ => ?_)

theorem State.loadProgram_anchor (s : State) (p : Nat) (g : Program) :
    (State.loadProgram s p g).anchor = s.anchor := by
  unfold State.loadProgram
  simp only [anchor_mk, anchor_fold, State.modSpn_anchor]

theorem doProgramLoad_anchor (p vid : Nat) (s : State) :
    (doProgramLoad p vid s).anchor = s.anchor := by
  unfold doProgramLoad
  split <;> simp only [anchor_ite, ite_self, State.complete_anchor, State.runVerb_anchor, State.request_anchor]

theorem doProgramLoadDone_anchor (p vid : Nat) (prog : Option Program) (s : State) :
    (doProgramLoadDone p vid prog s).anchor = s.anchor := by
  unfold doProgramLoadDone
  repeat' first
    | with_reducible rfl
    | (simp only [anchor_ite, ite_self, State.complete_anchor, State.loadProgram_anchor]; done)
    | split

theorem doProgramFetch_anchor (p : Nat) (prog : Option Program) (s : State) :
    (doProgramFetch p prog s).anchor = s.anchor := by
  unfold doProgramFetch
  split <;> simp only [anchor_ite, ite_self, State.modSpn_anchor, State.post_anchor, State.loadProgram_anchor]

theorem doCkptRestore_anchor (p vid : Nat) (others : Bool) (seen : List (Nat × Colophon)) (s : State) :
    (doCkptRestore p vid others seen s).anchor = s.anchor := by
  unfold doCkptRestore
  repeat' first
    | with_reducible rfl
    | (simp only [anchor_ite, ite_self, State.modCkp_anchor, State.complete_anchor, State.runVerb_anchor,
        State.tellMember_anchor]; done)
    | with_reducible refine (anchor_foldl _ (fun _ _ => ?_) _ _).trans ?_
    | split
    | dsimp only

theorem State.restoreFolio_out {s : State} {p : Nat} {f : Folio} {x0 : Nat} {t : State}
    (h : State.restoreFolio s p f = some (x0, t)) : t.anchor = s.anchor := by
  revert h
  unfold State.restoreFolio
  repeat' first
    | (intro h; cases h)
    | (simp only [anchor_mk, anchor_fold, anchor_ite, ite_self, State.modFolio_anchor, State.modFolPart_anchor,
        State.countWrite_anchor, State.writeT3_anchor]; done)
    | (simp only [State.allocFirst_out (by assumption), anchor_mk, anchor_fold, anchor_ite, ite_self, State.modFolio_anchor,
        State.modFolPart_anchor, State.countWrite_anchor, State.writeT3_anchor]; done)
    | (simp only [State.allocFolio_out (by assumption), anchor_mk, anchor_fold, anchor_ite, ite_self, State.modFolio_anchor,
        State.modFolPart_anchor, State.countWrite_anchor, State.writeT3_anchor]; done)
    | split
    | with_reducible refine (anchor_foldl _ (fun _ _ => ?_) _ _).trans ?_
    | simp only [anchor_mk, anchor_fold, State.modFolio_anchor, State.modFolPart_anchor, State.countWrite_anchor,
        State.writeT3_anchor]
    | simp only [State.drawn_out (by assumption), anchor_mk, anchor_fold, anchor_ite, ite_self, snd_ite, fst_ite,
        State.drawn_anchor, State.modFolio_anchor, State.modFolPart_anchor, State.countWrite_anchor, State.pin_anchor,
        State.writeT3_anchor]
    | simp only [State.allocFirst_out (by assumption), anchor_mk, anchor_fold, anchor_ite, ite_self, snd_ite, fst_ite,
        State.drawn_anchor, State.modFolio_anchor, State.modFolPart_anchor, State.countWrite_anchor, State.pin_anchor,
        State.writeT3_anchor]
    | simp only [State.allocFolio_out (by assumption)]

theorem State.restoreFolios_out {s : State} {p : Nat} {a0 : List (Nat × Folio)} {a1 : Tab Nat} {x0 : Tab Nat} {t : State}
    (h : State.restoreFolios s p a0 a1 = some (x0, t)) : t.anchor = s.anchor := by
  revert h
  induction a0 generalizing s p a1 x0 t with
  | nil =>
    unfold State.restoreFolios
    repeat' first
      | (intro h; cases h)
      | (intro h; rw [State.restoreFolio_out h])
      | (simp only []; done)
      | (simp only [State.restoreFolio_out (by assumption), anchor_mk, anchor_fold, anchor_ite, ite_self, snd_ite, fst_ite]; done)
      | split
      | with_reducible refine (anchor_foldl _ (fun _ _ => ?_) _ _).trans ?_
      | simp only [anchor_mk, anchor_fold, anchor_ite, ite_self, snd_ite, fst_ite]
      | simp only [State.restoreFolio_out (by assumption), anchor_mk, anchor_fold, anchor_ite, ite_self, snd_ite, fst_ite]
      | dsimp only
  | cons b bs ih =>
    unfold State.restoreFolios
    repeat' first
      | (intro h; cases h)
      | (intro h; rw [ih h])
      | (intro h; rw [State.restoreFolio_out h])
      | (simp only [anchor_mk, anchor_fold, anchor_ite, ite_self, snd_ite, fst_ite]; done)
      | (simp only [State.restoreFolio_out (by assumption)]; done)
      | split
      | with_reducible refine (anchor_foldl _ (fun _ _ => ?_) _ _).trans ?_
      | simp only [anchor_mk, anchor_fold, anchor_ite, ite_self, snd_ite, fst_ite]
      | simp only [State.restoreFolio_out (by assumption), anchor_mk, anchor_fold, anchor_ite, ite_self, snd_ite, fst_ite]
      | dsimp only

theorem State.restoreQuires_out {s : State} {p : Nat} {a0 : List (Nat × Session)} {t : State}
    (h : State.restoreQuires s p a0 = some t) : t.anchor = s.anchor := by
  revert h
  induction a0 generalizing s p t with
  | nil =>
    unfold State.restoreQuires
    repeat' first
      | (intro h; cases h)
      | (intro h; rw [State.allocQuireTier_out h])
      | (simp only []; done)
      | (simp only [State.allocQuireTier_out (by assumption), anchor_mk, anchor_fold, anchor_ite, ite_self, snd_ite, fst_ite,
          State.setRec_anchor, State.modSession_anchor, State.writeQuire_anchor]; done)
      | split
      | with_reducible refine (anchor_foldl _ (fun _ _ => ?_) _ _).trans ?_
      | simp only [anchor_mk, anchor_fold, anchor_ite, ite_self, snd_ite, fst_ite, State.setRec_anchor, State.modSession_anchor,
          State.writeQuire_anchor]
      | simp only [State.allocQuireTier_out (by assumption), anchor_mk, anchor_fold, anchor_ite, ite_self, snd_ite, fst_ite,
          State.setRec_anchor, State.modSession_anchor, State.writeQuire_anchor]
      | dsimp only
  | cons b bs ih =>
    unfold State.restoreQuires
    repeat' first
      | (intro h; cases h)
      | (intro h; rw [ih h])
      | (intro h; rw [State.allocQuireTier_out h])
      | (simp only [State.setRec_anchor, State.modSession_anchor, State.writeQuire_anchor]; done)
      | (simp only [State.allocQuireTier_out (by assumption), State.setRec_anchor, State.modSession_anchor,
          State.writeQuire_anchor]; done)
      | split
      | with_reducible refine (anchor_foldl _ (fun _ _ => ?_) _ _).trans ?_
      | simp only [anchor_mk, anchor_fold, anchor_ite, ite_self, snd_ite, fst_ite, State.setRec_anchor, State.modSession_anchor,
          State.writeQuire_anchor]
      | simp only [State.allocQuireTier_out (by assumption), anchor_mk, anchor_fold, anchor_ite, ite_self, snd_ite, fst_ite,
          State.setRec_anchor, State.modSession_anchor, State.writeQuire_anchor]
      | dsimp only

theorem State.restoreSessions_out {s : State} {p : Nat} {m : Tab Nat} {a0 : List (Nat × Session)} {t : State}
    (h : State.restoreSessions s p m a0 = some t) : t.anchor = s.anchor := by
  revert h
  induction a0 generalizing s p m t with
  | nil =>
    unfold State.restoreSessions
    repeat' first
      | (intro h; cases h)
      | (simp only []; done)
      | split
      | with_reducible refine (anchor_foldl _ (fun _ _ => ?_) _ _).trans ?_
      | simp only [anchor_mk, anchor_fold, anchor_ite, ite_self, snd_ite, fst_ite, State.setRec_anchor, State.modSession_anchor,
          State.addRefs_anchor, State.addPt_anchor]
      | dsimp only
  | cons b bs ih =>
    unfold State.restoreSessions
    repeat' first
      | (intro h; cases h)
      | (intro h; rw [ih h])
      | (simp only [State.setRec_anchor, State.modSession_anchor, State.addRefs_anchor, State.addPt_anchor]; done)
      | split
      | with_reducible refine (anchor_foldl _ (fun _ _ => ?_) _ _).trans ?_
      | simp only []
      | dsimp only

theorem State.restoreSpines_out {s : State} {p : Nat} {a0 : List (Nat × Nat)} {t : State}
    (h : State.restoreSpines s p a0 = some t) : t.anchor = s.anchor := by
  revert h
  induction a0 generalizing s p t with
  | nil =>
    unfold State.restoreSpines
    repeat' first
      | (intro h; cases h)
      | (simp only []; done)
      | split
      | with_reducible refine (anchor_foldl _ (fun _ _ => ?_) _ _).trans ?_
      | simp only [anchor_mk, anchor_fold, anchor_ite, ite_self, snd_ite, fst_ite, State.giveSpine_anchor]
      | dsimp only
  | cons b bs ih =>
    unfold State.restoreSpines
    repeat' first
      | (intro h; cases h)
      | (intro h; rw [ih h])
      | (simp only [State.giveSpine_anchor]; done)
      | split
      | with_reducible refine (anchor_foldl _ (fun _ _ => ?_) _ _).trans ?_
      | simp only [anchor_mk, anchor_fold, anchor_ite, ite_self, snd_ite, fst_ite, State.giveSpine_anchor]
      | dsimp only

theorem State.restoreNotices_anchor (s : State) (p d : Nat) (r : DirRec) :
    (State.restoreNotices s p d r).anchor = s.anchor := by
  unfold State.restoreNotices
  simp only [State.setVf_anchor]

theorem State.install_out {s : State} {p : Nat} {k : Capture} {t : State}
    (h : State.install s p k = some t) : t.anchor = s.anchor := by
  revert h
  unfold State.install
  dsimp only
  have start := anchor_foldl (fun (t : State) e => t.setSession e.1 { e.2 with part := p }) (fun _ _ => State.setSession_anchor ..)
    k.sessions ((k.dir.foldl (fun (t : State) e => t.setRec e.1 { e.2 with held := [] }) s).setDirFree p k.free)
  rw [State.setDirFree_anchor, anchor_foldl _ (fun _ _ => State.setRec_anchor ..)] at start
  split
  · intro h; cases h
  · rename_i m t1 h1
    have e1 := State.restoreFolios_out h1
    split
    · intro h; cases h
    · rename_i t2 h2
      have e2 : t2.anchor = t1.anchor := by
        obtain ⟨u, hu, h2⟩ := Option.bind_eq_some_iff.mp h2
        exact (State.restoreSpines_out h2).trans (State.restoreSessions_out hu)
      split
      · intro h; cases h
      · rename_i t3 h3
        have e3 := State.restoreQuires_out h3
        intro h
        rw [← Option.some.inj h, State.expireDue_anchor]
        refine (anchor_foldl _ (fun _ _ => State.restoreNotices_anchor ..) _ _).trans ?_
        rw [State.setTxtPart_anchor]
        refine Eq.trans ?_ (e3.trans (e2.trans (e1.trans start)))
        split
        · exact State.loadProgram_anchor ..
        · rfl

theorem doCkptRestoreDone_anchor (p : Nat) (ok : Bool) (s : State) :
    (doCkptRestoreDone p ok s).anchor = s.anchor := by
  unfold doCkptRestoreDone
  repeat' first
    | with_reducible rfl
    | (simp only [anchor_ite, ite_self, State.modCkp_anchor, State.complete_anchor, State.abortCkpt_anchor]; done)
    | exact State.install_out (by assumption)
    | split
    | with_reducible refine (anchor_foldl _ (fun _ _ => ?_) _ _).trans ?_
    | simp only [anchor_ite, State.modCkp_anchor, State.complete_anchor]

theorem State.setEpochs_anchor (s : State) (p : Nat) (v : Nat × Nat × Bytes) :
    (State.setEpochs s p v).anchor = s.anchor := by
  unfold State.setEpochs
  simp only [anchor_mk, anchor_fold]

theorem State.keyMessage_anchor (s : State) (code : Nat) (m : KeyMsg) (eff : Nat → State → KeyResult × Bytes × State) (h : ∀ k t,
    (eff k t).2.2.anchor = t.anchor) :
    (State.keyMessage s code m eff).anchor = s.anchor := by
  unfold State.keyMessage
  simp only [anchor_ite, ite_self, snd_ite, fst_ite, State.emit_anchor, State.audit_anchor, h]

theorem State.returnSessions_anchor (s : State) (p : Nat) :
    (State.returnSessions s p).anchor = s.anchor := by
  unfold State.returnSessions
  repeat' first
    | with_reducible rfl
    | (simp only [anchor_mk, anchor_fold, anchor_ite, ite_self, State.setVf_anchor, State.setSession_anchor,
        State.expireDue_anchor, State.damage_anchor]; done)
    | split
    | with_reducible refine (anchor_foldl _ (fun _ _ => ?_) _ _).trans ?_
    | simp only [State.expireDue_anchor]

theorem doPkeySet_anchor (m : KeyMsg) (s : State) :
    (doPkeySet m s).anchor = s.anchor := by
  unfold doPkeySet
  repeat' first
    | with_reducible rfl
    | (simp only [anchor_ite, ite_self, snd_ite, State.setKeys_anchor, State.setEpochs_anchor, State.returnSessions_anchor]; done)
    | refine State.keyMessage_anchor _ _ _ _ (fun _ _ => ?_)

theorem doPoolKeySet_anchor (m : KeyMsg) (s : State) :
    (doPoolKeySet m s).anchor = s.anchor := by
  unfold doPoolKeySet
  repeat' first
    | with_reducible rfl
    | (simp only [anchor_ite, ite_self, snd_ite, State.setKeys_anchor, State.setEpochs_anchor]; done)
    | refine State.keyMessage_anchor _ _ _ _ (fun _ _ => ?_)

theorem doCkSet_anchor (m : KeyMsg) (s : State) :
    (doCkSet m s).anchor = s.anchor := by
  unfold doCkSet
  repeat' first
    | with_reducible rfl
    | (simp only [anchor_ite, ite_self, snd_ite, State.setKeys_anchor]; done)
    | refine State.keyMessage_anchor _ _ _ _ (fun _ _ => ?_)

theorem doKeyStatus_anchor (m : KeyMsg) (s : State) :
    (doKeyStatus m s).anchor = s.anchor := by
  unfold doKeyStatus
  repeat' first
    | with_reducible rfl
    | (simp only []; done)
    | refine State.keyMessage_anchor _ _ _ _ (fun _ _ => ?_)

theorem doSpdmRequest_anchor (m : Bytes) (blocks : List Nat) (s : State) :
    (doSpdmRequest m blocks s).anchor = s.anchor := by
  unfold doSpdmRequest
  simp only [anchor_mk, anchor_fold, anchor_ite, ite_self, State.emit_anchor]

theorem doTdispRequest_anchor (p : Nat) (m : TdispMsg) (stream : Nat) (s : State) :
    (doTdispRequest p m stream s).anchor = s.anchor := by
  unfold doTdispRequest
  repeat' first
    | with_reducible rfl
    | (simp only [anchor_ite, ite_self, State.emit_anchor, State.setVf_anchor]; done)
    | split

theorem doIdeKm_anchor (stream : Nat) (on : Bool) (s : State) :
    (doIdeKm stream on s).anchor = s.anchor := by
  unfold doIdeKm
  simp only [anchor_mk, anchor_fold, anchor_ite, ite_self, State.emit_anchor]

theorem doAuditRead_anchor (seq count : Nat) (s : State) :
    (doAuditRead seq count s).anchor = s.anchor := by
  unfold doAuditRead
  simp only [anchor_ite, ite_self, State.emit_anchor]

theorem doAuditAck_anchor (seq : Nat) (s : State) :
    (doAuditAck seq s).anchor = s.anchor := by
  unfold doAuditAck
  repeat' first
    | with_reducible rfl
    | (simp only [anchor_mk, anchor_fold, anchor_ite, ite_self, snd_ite]; done)
    | refine State.mgmtCommand_anchor _ _ _ _ _ (fun _ => ?_)

theorem doAuditFlush_anchor (s : State) :
    (doAuditFlush s).anchor = s.anchor := by
  unfold doAuditFlush
  simp only [anchor_mk, anchor_fold, anchor_ite, ite_self]

theorem State.zeroizeAll_anchor (s : State) :
    (State.zeroizeAll s).anchor = s.anchor := by
  unfold State.zeroizeAll
  repeat' first
    | with_reducible rfl
    | (simp only [anchor_mk, anchor_fold, State.discover_anchor, State.leaveLink_anchor]; done)
    | with_reducible refine (anchor_foldl _ (fun _ _ => ?_) _ _).trans ?_

end Machine
end Sys2Proof
end

