-- ==== Sys2Proof/Laws/AnchorStarts.lean ====
section
/-!
SUPPORT. Sys2Proof/Laws/AnchorStarts.lean: what starts, power, register accesses and ticks leave of the anchor.
-/
namespace Sys2Proof
namespace Machine

theorem State.dropWaiting_anchor (s : State) :
    (State.dropWaiting s).anchor = s.anchor := by
  unfold State.dropWaiting
  simp only [anchor_mk, anchor_fold]

theorem State.setNandPins_anchor (s : State) (on : Bool) :
    (State.setNandPins s on).anchor = s.anchor := by
  unfold State.setNandPins
  simp only [anchor_mk, anchor_fold, anchor_ite, ite_self, State.emit_anchor]

theorem State.testEngines_anchor (s : State) :
    (State.testEngines s).anchor = s.anchor := by
  unfold State.testEngines
  simp only [anchor_mk, anchor_fold]

theorem State.recoverHead_anchor (s : State) :
    (State.recoverHead s).anchor = s.anchor := by
  unfold State.recoverHead
  simp only [anchor_mk, anchor_fold, anchor_ite, ite_self, State.audit_anchor]

theorem State.setupPart_anchor (s : State) (im : Image) (p : Nat) :
    (State.setupPart s im p).anchor = s.anchor := by
  unfold State.setupPart
  split <;> simp only [State.modFolPart_anchor, State.setDirFree_anchor]

theorem State.returnPart_anchor (s : State) (old im : Image) (p : Nat) :
    (State.returnPart s old im p).anchor = s.anchor := by
  unfold State.returnPart
  simp only [anchor_mk, anchor_fold, anchor_ite, ite_self, State.reformPart_anchor, State.resizePart_anchor,
      State.returnSessions_anchor]

theorem doClockLoss_anchor (dom : Nat) (s : State) :
    (doClockLoss dom s).anchor = s.anchor := by
  unfold doClockLoss
  repeat' first
    | with_reducible rfl
    | (simp only [anchor_mk, anchor_fold, anchor_ite, ite_self, State.raise_anchor, State.setSync_anchor,
        State.downLink_anchor]; done)
    | with_reducible refine (anchor_foldl _ (fun _ _ => ?_) _ _).trans ?_
    | split
    | dsimp only

theorem doClockRelock_anchor (dom : Nat) (s : State) :
    (doClockRelock dom s).anchor = s.anchor := by
  unfold doClockRelock
  simp only [anchor_mk, anchor_fold, anchor_ite, ite_self, State.setSync_anchor]

theorem doRtcUpdate_anchor (s : State) :
    (doRtcUpdate s).anchor = s.anchor := by
  unfold doRtcUpdate
  simp only [anchor_mk, anchor_fold, anchor_ite, ite_self]

theorem paced_keep (w : PwrState) (cap watts tj : Nat) :
    (paced w cap watts tj).pwrok = w.pwrok ∧ (paced w cap watts tj).stage = w.stage ∧
    (paced w cap watts tj).thermtrip = w.thermtrip ∧ (paced w cap watts tj).safePin = w.safePin := by
  unfold paced
  dsimp only
  repeat' split
  all_goals exact ⟨rfl, rfl, rfl, rfl⟩

theorem doPacerTick_anchor (watts tj hbmMax : Nat) (s : State) :
    (doPacerTick watts tj hbmMax s).anchor = s.anchor := by
  unfold doPacerTick
  split
  · rfl
  · dsimp only
    have h := fun w c => paced_keep w c watts tj
    split <;> simp only [State.cause_anchor, anchor_mk, h, anchor_fold]

theorem State.checkHot_anchor (s : State) :
    (State.checkHot s).anchor = s.anchor := by
  unfold State.checkHot
  simp only [anchor_mk, anchor_fold, anchor_ite, ite_self, State.raise_anchor]

theorem doTempThreshold_anchor (stack : Option Nat) (celsius : Nat) (s : State) :
    (doTempThreshold stack celsius s).anchor = s.anchor := by
  unfold doTempThreshold
  repeat' first
    | with_reducible rfl
    | (simp only [anchor_mk, anchor_fold, anchor_ite, ite_self, State.cause_anchor, State.checkHot_anchor]; done)
    | split

theorem State.settleConfig_anchor (s : State) :
    (State.settleConfig s).anchor = s.anchor := by
  unfold State.settleConfig
  simp only [anchor_mk, anchor_fold, anchor_ite, ite_self]

theorem State.noAnswer_anchor (s : State) :
    (State.noAnswer s).anchor = s.anchor := by
  unfold State.noAnswer
  simp only [anchor_ite, ite_self, State.emit_anchor]

theorem State.take_anchor (s : State) (fn : Fn) (block : Nat) :
    (State.take s fn block).anchor = s.anchor := by
  unfold State.take
  simp only [anchor_mk, anchor_fold]

theorem State.snapWrite_anchor (s : State) (fn : Fn) (block : Nat) (v : W64) :
    (State.snapWrite s fn block v).anchor = s.anchor := by
  unfold State.snapWrite
  repeat' first
    | with_reducible rfl
    | (simp only [anchor_mk, anchor_fold, anchor_ite, ite_self, State.take_anchor]; done)
    | refine State.pfWrite_anchor _ _ _ _ (fun _ => ?_)
    | split
    | with_reducible refine (anchor_foldl _ (fun _ _ => ?_) _ _).trans ?_
    | with_reducible refine (anchor_foldl_fst _ (fun _ _ => ?_) _ _).trans ?_
    | with_reducible refine (anchor_foldl_snd _ (fun _ _ => ?_) _ _).trans ?_
    | simp only [anchor_mk, anchor_fold, anchor_ite, State.take_anchor]

theorem State.clearSat_anchor (s : State) (r : RegName) (i : Nat) :
    (State.clearSat s r i).anchor = s.anchor := by
  unfold State.clearSat
  simp only [State.setReg_anchor]

theorem State.clearNumeric_anchor (s : State) (e k : Nat) :
    (State.clearNumeric s e k).anchor = s.anchor := by
  unfold State.clearNumeric
  simp only [State.setReg_anchor]

theorem State.clearBin_anchor (s : State) (q k : Nat) :
    (State.clearBin s q k).anchor = s.anchor := by
  unfold State.clearBin
  simp only [State.setReg_anchor]

theorem State.satWrite_anchor (s : State) (fn : Fn) (r : RegName) (i : Nat) (v : W64) :
    (State.satWrite s fn r i v).anchor = s.anchor := by
  unfold State.satWrite
  repeat' first
    | with_reducible rfl
    | (simp only [anchor_mk, anchor_fold, anchor_ite, ite_self, State.clearSat_anchor, State.clearNumeric_anchor,
        State.clearBin_anchor]; done)
    | with_reducible refine (anchor_foldl _ (fun _ _ => ?_) _ _).trans ?_
    | split

theorem State.causeWrite_anchor (s : State) (v : W64) :
    (State.causeWrite s v).anchor = s.anchor := by
  unfold State.causeWrite
  repeat' first
    | with_reducible rfl
    | (simp only [anchor_mk, anchor_fold, State.setReg_anchor, State.emit_anchor]; done)
    | with_reducible refine (anchor_foldl _ (fun _ _ => ?_) _ _).trans ?_

theorem State.tailWrite_anchor (s : State) (n : Nat) :
    (State.tailWrite s n).anchor = s.anchor := by
  unfold State.tailWrite
  simp only [anchor_mk, anchor_fold]

theorem State.vfEffect_anchor (s : State) (p : Nat) (r : RegName) (i : Nat) (v : W64) :
    (State.vfEffect s p r i v).anchor = s.anchor := by
  unfold State.vfEffect
  simp only [anchor_ite, ite_self, State.accessErr_anchor, State.snapWrite_anchor, State.satWrite_anchor]

theorem State.ringCount_anchor (s : State) (p : Nat) (changed : Bool) :
    (State.ringCount s p changed).anchor = s.anchor := by
  unfold State.ringCount
  simp only [anchor_ite, ite_self, State.accessErr_anchor]

theorem State.ringWrite_anchor (s : State) (p off : Nat) (v lanes : W64) :
    (State.ringWrite s p off v lanes).anchor = s.anchor := by
  unfold State.ringWrite
  simp only [anchor_ite, ite_self, State.setVf_anchor, doSqDoorbell_anchor, doCqDoorbell_anchor, doSqEnable_anchor,
      doSqDisable_anchor, doCqEnable_anchor, doCqDisable_anchor, State.ringCount_anchor]

theorem doRcRead_anchor (fn : Fn) (off width : Nat) (s : State) :
    (doRcRead fn off width s).anchor = s.anchor := by
  unfold doRcRead
  repeat' first
    | with_reducible rfl
    | (simp only [anchor_mk, anchor_fold, anchor_ite, State.emit_anchor, State.accessErr_anchor, State.noAnswer_anchor]; done)
    | split

theorem State.clearBanks_anchor (s : State) (fn : Fn) :
    (State.clearBanks s fn).anchor = s.anchor := by
  unfold State.clearBanks
  simp only [anchor_mk, anchor_fold]

theorem doVfFlr_anchor (p : Nat) (s : State) :
    (doVfFlr p s).anchor = s.anchor := by
  unfold doVfFlr
  simp only [anchor_ite, ite_self, State.setVf_anchor, State.setVerbs_anchor, State.clearBanks_anchor]

theorem doPfFlr_anchor (s : State) :
    (doPfFlr s).anchor = s.anchor := by
  unfold doPfFlr
  simp only [anchor_mk, anchor_fold, anchor_ite, ite_self, State.setReg_anchor, State.clearBanks_anchor]

theorem doD3hotEntry_anchor (fn : Fn) (s : State) :
    (doD3hotEntry fn s).anchor = s.anchor := by
  unfold doD3hotEntry
  repeat' first
    | with_reducible rfl
    | (simp only [anchor_mk, anchor_fold, anchor_ite, ite_self, State.setVf_anchor]; done)
    | split

theorem State.setVfs_anchor (s : State) (on : Bool) :
    (State.setVfs s on).anchor = s.anchor := by
  unfold State.setVfs
  repeat' first
    | with_reducible rfl
    | (simp only [anchor_ite, ite_self, State.setVf_anchor, doVfFlr_anchor]; done)
    | with_reducible refine (anchor_foldl _ (fun _ _ => ?_) _ _).trans ?_

theorem State.configure_anchor (s : State) (r : CfgReq) :
    (State.configure s r).anchor = s.anchor := by
  unfold State.configure
  split <;> simp only [anchor_mk, anchor_fold, anchor_ite, ite_self, State.emit_anchor, State.setVf_anchor, State.setVfs_anchor]

theorem doConfigurationRequest_anchor (r : CfgReq) (s : State) :
    (doConfigurationRequest r s).anchor = s.anchor := by
  unfold doConfigurationRequest
  simp only [anchor_ite, ite_self, State.emit_anchor, State.settleConfig_anchor, State.configure_anchor]

theorem State.newInstant_anchor (s : State) :
    (State.newInstant s).anchor = s.anchor := by
  unfold State.newInstant
  simp only [anchor_mk, anchor_fold]

theorem doSysHangReport_drift (v : W64) (s : State) : Anchor.Drift s.anchor (doSysHangReport v s).anchor := by
  unfold doSysHangReport
  split
  · exact .refl _
  · unfold State.pfWrite
    split
    · exact .of_eq (State.accessErr_anchor ..)
    · have e := State.audit_anchor s auditPf 0 0 (regAddr .sysHangReport 0 0) v.toNat
      rw [← e]; exact State.event_drift ..

theorem State.pfEffect_drift (s : State) (r : RegName) (i : Nat) (v lanes : W64) :
    Anchor.Drift s.anchor (s.pfEffect r i v lanes).anchor := by
  unfold State.pfEffect
  extract_lets off
  split
  case h_9 => exact doSysHangReport_drift ..
  all_goals refine .of_eq ?_
  all_goals repeat' first
    | with_reducible rfl
    | (simp only [anchor_mk, anchor_fold, State.snapWrite_anchor, State.t3Write_anchor, State.causeWrite_anchor,
        State.setReg_anchor, State.tailWrite_anchor, State.policerWrite_anchor, State.satWrite_anchor]; done)
    | split
    | refine State.pfWrite_anchor _ _ _ _ (fun _ => ?_)

theorem State.regWrite_drift (s : State) (fn : Fn) (off width : Nat) (v : W64) :
    Anchor.Drift s.anchor (s.regWrite fn off width v).anchor := by
  unfold State.regWrite
  split
  · exact .of_eq (State.noAnswer_anchor ..)
  · split
    · exact .of_eq (State.accessErr_anchor ..)
    · split
      · exact .refl _
      · extract_lets lanes v' at0
        split
        · split
          · exact State.pfEffect_drift ..
          · exact .refl _
        · exact .refl _
        · exact .of_eq (State.vfEffect_anchor ..)
        · split
          · exact .of_eq (State.ringWrite_anchor ..)
          · exact .refl _

theorem doRegisterWrite_drift (fn : Fn) (off width : Nat) (v : W64) (s : State) :
    Anchor.Drift s.anchor (doRegisterWrite fn off width v s).anchor := State.regWrite_drift ..
theorem doSnapTake_drift (fn : Fn) (block : BlockNum) (s : State) : Anchor.Drift s.anchor (doSnapTake fn block s).anchor := by
  unfold doSnapTake
  split
  · exact .refl _
  · exact State.regWrite_drift ..
theorem doSatClear_drift (fn : Fn) (off : Nat) (bits : W64) (s : State) : Anchor.Drift s.anchor (doSatClear fn off bits s).anchor := by
  unfold doSatClear
  split
  · split
    · exact State.regWrite_drift ..
    · exact .refl _
  · exact .refl _
theorem doPolicerWrite_drift (q which : Nat) (v : W64) (s : State) : Anchor.Drift s.anchor (doPolicerWrite q which v s).anchor := by
  unfold doPolicerWrite
  dsimp only
  split
  · exact State.regWrite_drift ..
  · exact .refl _

/-! What the commands that do change the anchor make of it. -/
def Anchor.atStage (a : Anchor) (k : Nat) : Anchor := { a with stage := k }
def Anchor.atTime (a : Anchor) (n : Nat) : Anchor := { a with now := n }
def Anchor.withPin (a : Anchor) (b : Bool) : Anchor := { a with safePin := b }
/-- The start has failed. -/
def Anchor.failed (a : Anchor) : Anchor := { a with stage := 15, safePin := true }
/-- Stages 0 and 1 have ended. -/
def Anchor.booted (a : Anchor) : Anchor := { a with stage := 2, safe := false, safePin := false }
/-- The battery-backed file is blank. -/
def Anchor.blank (a : Anchor) : Anchor := { a with keyHash := none, bindFloor := 0, fwFloor := 0, debugUnlocked := false }
/-- Power is lost. -/
def Anchor.off (a : Anchor) : Anchor :=
  { a with now := 0, pwrok := false, stage := 0, thermtrip := false, safe := false, safePin := false }
/-- A cold start begins at stage k and time n. -/
def Anchor.cold (a : Anchor) (n k : Nat) : Anchor := { a with now := n, pwrok := true, stage := k, safe := false }
def Anchor.tripped (a : Anchor) : Anchor := { a with thermtrip := true }
def Anchor.withPerst (a : Anchor) (b : Bool) : Anchor := { a with perst := b }
def Anchor.withFloor (a : Anchor) (v : Nat) : Anchor := { a with bindFloor := v }
def Anchor.withFwFloor (a : Anchor) (v : Nat) : Anchor := { a with fwFloor := v }
def Anchor.enrolled (a : Anchor) (hash : Bytes) (v : Nat) : Anchor := { a with keyHash := some hash, bindFloor := v }
def Anchor.withDebug (a : Anchor) (b : Bool) : Anchor := { a with debugUnlocked := b }

theorem State.powerLost_anchor (s : State) : s.powerLost.anchor =
    s.anchor.off := rfl

theorem State.coldStart_anchor (s : State) (k : Nat) : (s.coldStart k).anchor =
    s.anchor.cold (if s.sec.battery.formatted then rtcNs s.pwr.rtc % two64 else 0) k := rfl

theorem State.setSafePin_anchor (s : State) (on : Bool) : (s.setSafePin on).anchor = s.anchor.withPin on := by
  unfold State.setSafePin
  split
  · rename_i h
    have h : s.pwr.safePin = on := by simpa using h
    subst h; rfl
  · rw [State.emit_anchor]; rfl

theorem State.failStart_anchor (s : State) (code : Nat) :
    (s.failStart code).anchor = s.anchor.failed := by
  unfold State.failStart
  rw [State.setSafePin_anchor]; rfl

theorem doPwrokAssert_anchor (s : State) : (doPwrokAssert s).anchor = s.anchor ∨
    (s.pwr.pwrok = false ∧ ∃ n, (doPwrokAssert s).anchor = s.anchor.cold n 0) := by
  unfold doPwrokAssert
  split
  · exact .inl rfl
  · exact .inr ⟨by simp_all, _, (State.setNandPins_anchor ..).trans (State.coldStart_anchor ..)⟩

theorem doPowerDown_anchor (s : State) : (doPowerDown s).anchor = s.anchor ∨ (doPowerDown s).anchor =
    s.anchor.off := by
  unfold doPowerDown
  split
  · exact .inl rfl
  · extract_lets t
    have e : t.anchor = s.anchor := by
      unfold t; split
      · rw [State.emit_anchor]
      · rfl
    refine .inr ?_
    rw [State.dropWaiting_anchor, State.powerLost_anchor, State.setSafePin_anchor, e]
    rfl

theorem doFirmwareBoot_anchor (slots : List FwSlot) (s : State) : (doFirmwareBoot slots s).anchor = s.anchor ∨
    (doFirmwareBoot slots s).anchor = s.anchor.failed ∨
    (doFirmwareBoot slots s).anchor = s.anchor.booted := by
  unfold doFirmwareBoot
  split
  · exact .inl rfl
  · split
    · exact .inr (.inl (State.failStart_anchor ..))
    · exact .inr (.inr (by rw [State.setSafePin_anchor]; rfl))

theorem State.setHif_anchor (s : State) (h : HifState) (e : h.perst = s.hif.perst) : ({ s with hif := h } : State).anchor = s.anchor := by
  rw [anchor_mk, e]; rfl

theorem doTrainingDone_anchor (r : TrainReport) (s : State) : (doTrainingDone r s).anchor = s.anchor ∨
    (doTrainingDone r s).anchor = s.anchor.failed ∨
    (doTrainingDone r s).anchor = s.anchor.atStage 3 := by
  unfold doTrainingDone
  split
  · exact .inl rfl
  · extract_lets w t0 t1 t2 t3 up h t4 good
    have e0 : t0.anchor = s.anchor := rfl
    clear_value t0
    have e1 : t1.anchor = s.anchor := (State.setNandPins_anchor ..).trans e0
    clear_value t1
    have e2 : t2.anchor = s.anchor := by rw [← e1]; exact anchor_foldl _ (fun _ _ => State.modChan_anchor ..) _ _
    clear_value t2
    have e3 : t3.anchor = s.anchor := by rw [← e2]; exact anchor_foldl _ (fun _ _ => State.setLink_anchor ..) _ _
    clear_value t3
    have e4 : t4.anchor = s.anchor := (State.setHif_anchor t3 _ rfl).trans e3
    clear_value t4 good
    split
    · exact .inr (.inl (by rw [State.failStart_anchor, e4]))
    · split
      · exact .inr (.inl (by rw [State.failStart_anchor, e4]))
      · exact .inr (.inr (congrArg (Anchor.atStage · 3) e4))

theorem doMemoryInitDone_anchor (macOk : Bool) (s : State) : (doMemoryInitDone macOk s).anchor = s.anchor ∨
    (doMemoryInitDone macOk s).anchor = s.anchor.atStage 4 ∨
    (∃ n, (doMemoryInitDone macOk s).anchor =
      ((s.anchor.blank.atTime n).atStage 4)) := by
  unfold doMemoryInitDone
  split
  · exact .inl rfl
  · split
    · split
      · exact .inr (.inl rfl)
      · exact .inl rfl
    · extract_lets t u w
      have e : t.anchor = s.anchor := State.dropWaiting_anchor ..
      clear_value t
      by_cases h : (t.sec.battery.formatted && macOk) = true
      · refine .inr (.inl ?_)
        have e' : u.anchor = s.anchor := by unfold u; rw [if_pos h, e]
        clear_value u
        exact congrArg (Anchor.atStage · 4) e'
      · refine .inr (.inr ⟨t.now - t.pwr.startedAt, ?_⟩)
        have e' : u.anchor = s.anchor.blank.atTime (t.now - t.pwr.startedAt) := by
          unfold u; rw [if_neg h]
          exact congrArg (fun a => (Anchor.blank a).atTime (t.now - t.pwr.startedAt)) e
        clear_value u
        exact congrArg (Anchor.atStage · 4) e'

theorem doFlashMapRebuilt_anchor (bad : List Nat) (s : State) : (doFlashMapRebuilt bad s).anchor = s.anchor ∨
    (doFlashMapRebuilt bad s).anchor = s.anchor.failed ∨
    (doFlashMapRebuilt bad s).anchor = s.anchor.atStage 5 := by
  unfold doFlashMapRebuilt
  split
  · exact .inl rfl
  · split
    · exact .inr (.inl (State.failStart_anchor ..))
    · extract_lets t
      have e : t.anchor = s.anchor := by
        unfold t; split
        · rfl
        · rw [State.recoverHead_anchor]; rfl
      clear_value t
      refine .inr (.inr ?_)
      exact (State.settlePhase_anchor ..).trans (congrArg (Anchor.atStage · 5) e)

theorem doBringupFabricEnd_anchor (s : State) : (doBringupFabricEnd s).anchor = s.anchor ∨
    (doBringupFabricEnd s).anchor = s.anchor.atStage 8 := by
  unfold doBringupFabricEnd
  split
  · exact .inl rfl
  · split
    · exact .inl rfl
    · extract_lets parts t w u was v z
      refine .inr ?_
      have et : t.anchor = s.anchor := by
        unfold t; split
        · exact anchor_foldl _ (fun _ _ => State.returnPart_anchor ..) _ _
        · exact anchor_foldl _ (fun _ _ => State.setupPart_anchor ..) _ _
      clear_value t
      have eu : u.anchor = s.anchor.atStage 8 := congrArg (Anchor.atStage · 8) et
      clear_value u
      have ev : v.anchor = s.anchor.atStage 8 := by rw [← eu]; exact State.enforce_anchor ..
      clear_value v
      have ez : z.anchor = s.anchor.atStage 8 := by
        rw [← ev]; exact anchor_foldl _ State.zeroEngine_anchor _ _
      rw [← ez]
      refine anchor_foldl _ (fun _ _ => ?_) _ _
      split
      · rw [State.setPartMode_anchor]
      · rfl

theorem doSafeRestart_anchor (s : State) : (doSafeRestart s).anchor = s.anchor ∨
    (doSafeRestart s).anchor = s.anchor.atStage 0 := by
  unfold doSafeRestart
  rcases State.mgmtCommand_cases s 0x08 0 [] _ with h | h
  · exact .inl h
  · rw [h]
    split
    · exact .inl rfl
    · exact .inr ((State.setPhase_anchor ..).trans rfl)

theorem doDeviceReset_anchor (s : State) : (doDeviceReset s).anchor = s.anchor ∨
    ∃ n, (doDeviceReset s).anchor = (s.anchor.cold n 1).withPin false := by
  unfold doDeviceReset
  rcases State.mgmtCommand_cases s 0x09 0 [] _ with h | h
  · exact .inl h
  · rw [h]
    exact .inr ⟨_, by rw [State.setSafePin_anchor, State.coldStart_anchor]⟩

theorem doThermtrip_anchor (s : State) : (doThermtrip s).anchor = s.anchor ∨
    (doThermtrip s).anchor = s.anchor.tripped := by
  unfold doThermtrip
  split
  · exact .inl rfl
  · exact .inr ((State.emit_anchor ..).trans rfl)

theorem doVbatLoss_anchor (s : State) : (doVbatLoss s).anchor = s.anchor ∨
    (doVbatLoss s).anchor = s.anchor.blank := by
  unfold doVbatLoss
  split
  · exact .inl rfl
  · exact .inr rfl

theorem doPerstAssert_drift (s : State) : (doPerstAssert s).anchor = s.anchor ∨
    Anchor.Drift (s.anchor.withPerst true) (doPerstAssert s).anchor := by
  unfold doPerstAssert
  split
  · exact .inl rfl
  · extract_lets x t
    have e : t.anchor = (s.anchor.withPerst true) := rfl
    clear_value t
    refine .inr ?_
    rw [← e]
    split
    · exact .refl _
    · rw [← State.hostReset_anchor t]; exact State.event_drift ..

theorem doPerstDeassert_anchor (s : State) : (doPerstDeassert s).anchor = s.anchor ∨
    (doPerstDeassert s).anchor = (s.anchor.withPerst false) := by
  unfold doPerstDeassert
  split
  · exact .inl rfl
  · exact .inr rfl

theorem State.commitBringUp_anchor (s : State) (im : Image) : (s.commitBringUp im).anchor = s.anchor.atStage 7 := by
  unfold State.commitBringUp
  extract_lets b t w u v
  have eu : u.anchor = s.anchor.atStage 7 := rfl
  clear_value u
  have ev : v.anchor = s.anchor.atStage 7 := by
    rw [← eu]; exact (State.loadLinks_anchor ..).trans (State.loadImage_anchor ..)
  rw [← ev]
  refine anchor_foldl _ (fun _ _ => ?_) _ _
  split
  · rw [State.discover_anchor]
  · rfl

theorem doBindCommit_anchor (im : Image) (deadline : Nat) (s : State) : (doBindCommit im deadline s).anchor = s.anchor ∨
    (doBindCommit im deadline s).anchor = s.anchor.atStage 7 := by
  unfold doBindCommit
  rcases State.mgmtCommand_cases s 0x01 0 (sha384 im.bytes) _ with h | h
  · exact .inl h
  · rw [h]
    extract_lets r b t
    have e : t.anchor = s.anchor := rfl
    clear_value t r
    split
    · exact .inl e
    · split
      · refine .inr ?_
        rw [State.commitBringUp_anchor, e]
      · exact .inl ((State.commitChange_anchor ..).trans e)

theorem doFloorSet_anchor (v : Nat) (s : State) : (doFloorSet v s).anchor = s.anchor ∨
    (s.sec.battery.bindFloor ≤ v ∧ (doFloorSet v s).anchor = s.anchor.withFloor v) := by
  unfold doFloorSet
  rcases State.mgmtCommand_cases s 0x03 v [] _ with h | h
  · exact .inl h
  · rw [h]
    dsimp only
    split
    · exact .inl rfl
    · refine .inr ⟨?_, (State.settlePhase_anchor ..).trans rfl⟩
      simp_all

theorem doFwFloorSet_anchor (v : Nat) (s : State) : (doFwFloorSet v s).anchor = s.anchor ∨
    (s.sec.battery.fwFloor ≤ v ∧ (doFwFloorSet v s).anchor = s.anchor.withFwFloor v) := by
  unfold doFwFloorSet
  rcases State.mgmtCommand_cases s 0x04 v [] _ with h | h
  · exact .inl h
  · rw [h]
    dsimp only
    split
    · exact .inl rfl
    · refine .inr ⟨?_, rfl⟩
      simp_all

theorem doKeyEnroll_anchor (hash : Bytes) (floor : Option Nat) (s : State) : (doKeyEnroll hash floor s).anchor = s.anchor ∨
    ∃ f, s.sec.battery.bindFloor ≤ f ∧ (doKeyEnroll hash floor s).anchor = s.anchor.enrolled hash f := by
  unfold doKeyEnroll
  rcases State.mgmtCommand_cases s 0x02 (floor.getD 0) hash _ with h | h
  · exact .inl h
  · rw [h]
    clear h
    rcases floor with _ | f <;> dsimp only
    · split
      · exact .inl rfl
      · split
        · exact .inl rfl
        · exact .inr ⟨_, Nat.le_refl _, (State.settlePhase_anchor ..).trans rfl⟩
    · split
      · exact .inl rfl
      · rename_i h'
        split
        · exact .inl rfl
        · refine .inr ⟨f, ?_, (State.settlePhase_anchor ..).trans rfl⟩
          simp at h'; omega

theorem doDebugUnlock_anchor (token : DebugToken) (s : State) : (doDebugUnlock token s).anchor = s.anchor ∨
    (doDebugUnlock token s).anchor = s.anchor.withDebug true := by
  unfold doDebugUnlock
  rcases State.mgmtCommand_cases s 0x0A 0 [] _ with h | h
  · exact .inl h
  · rw [h]
    extract_lets ok n x t u v y z
    have e : u.anchor = s.anchor := (State.emit_anchor ..).trans rfl
    have e' : v.anchor = s.anchor := (State.zeroizeAll_anchor ..).trans e
    clear_value u v
    split
    · exact .inl e
    · exact .inr (congrArg (Anchor.withDebug · true) e')

theorem doDebugLock_anchor (s : State) : (doDebugLock s).anchor = s.anchor ∨
    (doDebugLock s).anchor = s.anchor.withDebug false := by
  unfold doDebugLock
  rcases State.mgmtCommand_cases s 0x0B 0 [] _ with h | h
  · exact .inl h
  · exact .inr h

theorem doSyncRsp_anchor (l t1 t2 t3 t4 : Nat) (s : State) :
    ∃ n, (doSyncRsp l t1 t2 t3 t4 s).anchor = s.anchor.atTime n := by
  unfold doSyncRsp
  have e := State.measureLink_anchor s l t1 t2 t3 t4
  generalize s.measureLink l t1 t2 t3 t4 = u at e
  rw [← e]
  unfold State.follow
  split
  · dsimp only
    split
    · exact ⟨_, (State.setSync_anchor ..).trans rfl⟩
    · exact ⟨u.now, (State.setSync_anchor ..).trans rfl⟩
  · exact ⟨u.now, rfl⟩

theorem PwrState.rtcTick_keep (w : PwrState) : w.rtcTick.pwrok = w.pwrok ∧ w.rtcTick.stage = w.stage ∧
    w.rtcTick.thermtrip = w.thermtrip ∧ w.rtcTick.safePin = w.safePin := by
  unfold PwrState.rtcTick; dsimp only; split <;> exact ⟨rfl, rfl, rfl, rfl⟩

theorem State.tick_anchor (s : State) : ∃ n, s.tick.anchor = s.anchor.atTime n := by
  unfold State.tick
  extract_lets t0 t
  have et : t.anchor = s.anchor := by
    rw [← State.newInstant_anchor s]
    unfold t t0
    simp only [anchor_mk, PwrState.rtcTick_keep, anchor_fold]
  clear_value t
  split
  · exact ⟨s.now, et⟩
  · split
    rename_i now frac _
    extract_lets u v w x
    have eu : u.anchor = s.anchor.atTime ((t.now + now) % two64) :=
      congrArg (Anchor.atTime · ((t.now + now) % two64)) et
    clear_value u
    have ev : v.anchor = s.anchor.atTime ((t.now + now) % two64) := by
      rw [← eu]; unfold v; split
      · rw [State.count_anchor]
      · rfl
    clear_value v
    have ew : w.anchor = s.anchor.atTime ((t.now + now) % two64) := by
      rw [← ev]; exact (State.settleConfig_anchor ..).trans (State.checkHot_anchor ..)
    clear_value w
    refine ⟨(t.now + now) % two64, ?_⟩
    rw [← ew]
    split
    · rfl
    · refine (State.ckptTick_anchor ..).trans ((State.settleDrains_anchor ..).trans ?_)
      refine anchor_foldl _ (fun _ _ => ?_) _ _
      split
      · rw [State.count_anchor]
      · rfl

end Machine
end Sys2Proof
end

