-- ==== Sys2Proof/Laws/Commands.lean ====
section
/-!
SUPPORT. Sys2Proof/Laws/Commands.lean: what each command makes of the anchor, and the case analysis of a step.
-/
namespace Sys2Proof
namespace Machine

/-- What a command makes of the anchor. -/
def Moves (c : Instr) (a b : Anchor) : Prop :=
  match c with
  | .bindCommit _ _ => b = a ∨ b = a.atStage 7
  | .keyEnroll hash _ => b = a ∨ ∃ f, a.bindFloor ≤ f ∧ b = a.enrolled hash f
  | .floorSet v => b = a ∨ (a.bindFloor ≤ v ∧ b = a.withFloor v)
  | .fwFloorSet v => b = a ∨ (a.fwFloor ≤ v ∧ b = a.withFwFloor v)
  | .safeRestart => b = a ∨ b = a.atStage 0
  | .deviceReset => b = a ∨ ∃ n, b = (a.cold n 1).withPin false
  | .debugUnlock _ => b = a ∨ b = a.withDebug true
  | .debugLock => b = a ∨ b = a.withDebug false
  | .syncRsp _ _ _ _ _ => ∃ n, b = a.atTime n
  | .perstAssert => b = a ∨ Anchor.Drift (a.withPerst true) b
  | .perstDeassert => b = a ∨ b = a.withPerst false
  | .pwrokAssert => b = a ∨ (a.pwrok = false ∧ ∃ n, b = a.cold n 0)
  | .powerDown => b = a ∨ b = a.off
  | .firmwareBoot _ => b = a ∨ b = a.failed ∨ b = a.booted
  | .trainingDone _ => b = a ∨ b = a.failed ∨ b = a.atStage 3
  | .bringupFabricEnd => b = a ∨ b = a.atStage 8
  | .thermtrip => b = a ∨ b = a.tripped
  | .vbatLoss => b = a ∨ b = a.blank
  | .memoryInitDone _ => b = a ∨ b = a.atStage 4 ∨ ∃ n, b = (a.blank.atTime n).atStage 4
  | .flashMapRebuilt _ => b = a ∨ b = a.failed ∨ b = a.atStage 5
  | _ => Anchor.Drift a b

theorem exec_moves (c : Instr) (s t : State) (e : exec c s = .next t) : Moves c s.anchor t.anchor := by
  cases c with
  | sqDoorbell p tail => obtain rfl := Host.Outcome.next.inj e; exact Anchor.Drift.of_eq (doSqDoorbell_anchor ..)
  | cqDoorbell p head => obtain rfl := Host.Outcome.next.inj e; exact Anchor.Drift.of_eq (doCqDoorbell_anchor ..)
  | sqEnable p base log2 => obtain rfl := Host.Outcome.next.inj e; exact Anchor.Drift.of_eq (doSqEnable_anchor ..)
  | sqDisable p => obtain rfl := Host.Outcome.next.inj e; exact Anchor.Drift.of_eq (doSqDisable_anchor ..)
  | cqEnable p base log2 => obtain rfl := Host.Outcome.next.inj e; exact Anchor.Drift.of_eq (doCqEnable_anchor ..)
  | cqDisable p => obtain rfl := Host.Outcome.next.inj e; exact Anchor.Drift.of_eq (doCqDisable_anchor ..)
  | sqEntryRead p data edits => obtain rfl := Host.Outcome.next.inj e; exact Anchor.Drift.of_eq (doSqEntryRead_anchor ..)
  | deferredAdmit p q => obtain rfl := Host.Outcome.next.inj e; exact Anchor.Drift.of_eq (doDeferredAdmit_anchor ..)
  | policerWrite q which v => obtain rfl := Host.Outcome.next.inj e; exact doPolicerWrite_drift ..
  | verbBegin p vid => obtain rfl := Host.Outcome.next.inj e; exact Anchor.Drift.of_eq (doVerbBegin_anchor ..)
  | openSession p vid => obtain rfl := Host.Outcome.next.inj e; exact Anchor.Drift.of_eq (doOpen_anchor ..)
  | append p vid data => obtain rfl := Host.Outcome.next.inj e; exact Anchor.Drift.of_eq (doAppend_anchor ..)
  | stepGen p vid stops => obtain rfl := Host.Outcome.next.inj e; exact Anchor.Drift.of_eq (doStepGen_anchor ..)
  | stepStop p vid => obtain rfl := Host.Outcome.next.inj e; exact Anchor.Drift.of_eq (doStepStop_anchor ..)
  | park p vid => obtain rfl := Host.Outcome.next.inj e; exact Anchor.Drift.of_eq (doPark_anchor ..)
  | revive p vid => obtain rfl := Host.Outcome.next.inj e; exact Anchor.Drift.of_eq (doRevive_anchor ..)
  | fork p vid => obtain rfl := Host.Outcome.next.inj e; exact Anchor.Drift.of_eq (doFork_anchor ..)
  | splice p vid inputs => obtain rfl := Host.Outcome.next.inj e; exact Anchor.Drift.of_eq (doSplice_anchor ..)
  | close p vid => obtain rfl := Host.Outcome.next.inj e; exact Anchor.Drift.of_eq (doClose_anchor ..)
  | place p vid => obtain rfl := Host.Outcome.next.inj e; exact Anchor.Drift.of_eq (doPlace_anchor ..)
  | grammarLoad p vid => obtain rfl := Host.Outcome.next.inj e; exact Anchor.Drift.of_eq (doGrammarLoad_anchor ..)
  | grammarDrop p vid => obtain rfl := Host.Outcome.next.inj e; exact Anchor.Drift.of_eq (doGrammarDrop_anchor ..)
  | grammarDropEffect p gid => obtain rfl := Host.Outcome.next.inj e; exact Anchor.Drift.of_eq (doGrammarDropEffect_anchor ..)
  | indexLoad p l => obtain rfl := Host.Outcome.next.inj e; exact Anchor.Drift.of_eq (doIndexLoad_anchor ..)
  | indexSwitch p vid img => obtain rfl := Host.Outcome.next.inj e; exact Anchor.Drift.of_eq (doIndexSwitch_anchor ..)
  | query p vid vec => obtain rfl := Host.Outcome.next.inj e; exact Anchor.Drift.of_eq (doQuery_anchor ..)
  | queryDone p vid t4Ok pipe => obtain rfl := Host.Outcome.next.inj e; exact Anchor.Drift.of_eq (doQueryDone_anchor ..)
  | mergeDeadlineExpire p vid => obtain rfl := Host.Outcome.next.inj e; exact Anchor.Drift.of_eq (doMergeDeadlineExpire_anchor ..)
  | generationRelease p idx gen => obtain rfl := Host.Outcome.next.inj e; exact Anchor.Drift.of_eq (doGenerationRelease_anchor ..)
  | delete p vid nodes => obtain rfl := Host.Outcome.next.inj e; exact Anchor.Drift.of_eq (doDelete_anchor ..)
  | indexDrop p vid => obtain rfl := Host.Outcome.next.inj e; exact Anchor.Drift.of_eq (doIndexDrop_anchor ..)
  | programLoad p vid => obtain rfl := Host.Outcome.next.inj e; exact Anchor.Drift.of_eq (doProgramLoad_anchor ..)
  | programFetch p prog => obtain rfl := Host.Outcome.next.inj e; exact Anchor.Drift.of_eq (doProgramFetch_anchor ..)
  | handoffSend p vid => obtain rfl := Host.Outcome.next.inj e; exact Anchor.Drift.of_eq (doHandoffSend_anchor ..)
  | handoffClaim p vid => obtain rfl := Host.Outcome.next.inj e; exact Anchor.Drift.of_eq (doHandoffClaim_anchor ..)
  | handoffPoll dir => obtain rfl := Host.Outcome.next.inj e; exact Anchor.Drift.of_eq (doHandoffPoll_anchor ..)
  | handoffReclaim dir => obtain rfl := Host.Outcome.next.inj e; exact Anchor.Drift.of_eq (doHandoffReclaim_anchor ..)
  | recordRetry dir => obtain rfl := Host.Outcome.next.inj e; exact Anchor.Drift.of_eq (doRecordRetry_anchor ..)
  | ckptTake p vid others => obtain rfl := Host.Outcome.next.inj e; exact Anchor.Drift.of_eq (doCkptTake_anchor ..)
  | ckptRequest p seq tc => obtain rfl := Host.Outcome.next.inj e; exact Anchor.Drift.of_eq (doCkptRequest_anchor ..)
  | consistencyPoint p => obtain rfl := Host.Outcome.next.inj e; exact Anchor.Drift.of_eq (doConsistencyPoint_anchor ..)
  | ckptCommit p ok => obtain rfl := Host.Outcome.next.inj e; exact Anchor.Drift.of_eq (doCkptCommit_anchor ..)
  | ckptRestore p vid others seen => obtain rfl := Host.Outcome.next.inj e; exact Anchor.Drift.of_eq (doCkptRestore_anchor ..)
  | ckptRestoreDone p ok => obtain rfl := Host.Outcome.next.inj e; exact Anchor.Drift.of_eq (doCkptRestoreDone_anchor ..)
  | selection p => obtain rfl := Host.Outcome.next.inj e; exact Anchor.Drift.of_eq (doSelection_anchor ..)
  | gatheringRelease p => obtain rfl := Host.Outcome.next.inj e; exact Anchor.Drift.of_eq (doGatheringRelease_anchor ..)
  | maskReady p entry node => obtain rfl := Host.Outcome.next.inj e; exact Anchor.Drift.of_eq (doMaskReady_anchor ..)
  | stepBoundary p => obtain rfl := Host.Outcome.next.inj e; exact Anchor.Drift.of_eq (doStepBoundary_anchor ..)
  | taskProduct e => obtain rfl := Host.Outcome.next.inj e; exact Anchor.Drift.of_eq (doTaskProduct_anchor ..)
  | taskVector e => obtain rfl := Host.Outcome.next.inj e; exact Anchor.Drift.of_eq (doTaskVector_anchor ..)
  | taskAttention e => obtain rfl := Host.Outcome.next.inj e; exact Anchor.Drift.of_eq (doTaskAttention_anchor ..)
  | taskSample e => obtain rfl := Host.Outcome.next.inj e; exact Anchor.Drift.of_eq (doTaskSample_anchor ..)
  | taskMove e => obtain rfl := Host.Outcome.next.inj e; exact Anchor.Drift.of_eq (doTaskMove_anchor ..)
  | issueRead e => obtain rfl := Host.Outcome.next.inj e; exact Anchor.Drift.of_eq (doIssueRead_anchor ..)
  | issueWrite e => obtain rfl := Host.Outcome.next.inj e; exact Anchor.Drift.of_eq (doIssueWrite_anchor ..)
  | await e => obtain rfl := Host.Outcome.next.inj e; exact Anchor.Drift.of_eq (doAwait_anchor ..)
  | barrier e => obtain rfl := Host.Outcome.next.inj e; exact Anchor.Drift.of_eq (doBarrier_anchor ..)
  | endStream e => obtain rfl := Host.Outcome.next.inj e; exact Anchor.Drift.of_eq (doEndStream_anchor ..)
  | budgetFault e unit => obtain rfl := Host.Outcome.next.inj e; exact Anchor.Drift.of_eq (doBudgetFault_anchor ..)
  | contextSwitchDone e => obtain rfl := Host.Outcome.next.inj e; exact Anchor.Drift.of_eq (doContextSwitchDone_anchor ..)
  | awaitSwitchTimeout e target => obtain rfl := Host.Outcome.next.inj e; exact Anchor.Drift.of_eq (doAwaitSwitchTimeout_anchor ..)
  | stepSliceExpire e => obtain rfl := Host.Outcome.next.inj e; exact Anchor.Drift.of_eq (doStepSliceExpire_anchor ..)
  | promotionCommit d => obtain rfl := Host.Outcome.next.inj e; exact Anchor.Drift.of_eq (doPromotionCommit_anchor ..)
  | demotionCommit d => obtain rfl := Host.Outcome.next.inj e; exact Anchor.Drift.of_eq (doDemotionCommit_anchor ..)
  | eagerDemotion d => obtain rfl := Host.Outcome.next.inj e; exact Anchor.Drift.of_eq (doEagerDemotion_anchor ..)
  | prefetchStart d => obtain rfl := Host.Outcome.next.inj e; exact Anchor.Drift.of_eq (doPrefetchStart_anchor ..)
  | parkDone dir => obtain rfl := Host.Outcome.next.inj e; exact Anchor.Drift.of_eq (doParkDone_anchor ..)
  | reviveDone dir latNs ns => obtain rfl := Host.Outcome.next.inj e; exact Anchor.Drift.of_eq (doReviveDone_anchor ..)
  | placeDone p vid => obtain rfl := Host.Outcome.next.inj e; exact Anchor.Drift.of_eq (doPlaceDone_anchor ..)
  | tierFailure x tag => obtain rfl := Host.Outcome.next.inj e; exact Anchor.Drift.of_eq (doTierFailure_anchor ..)
  | t3Timeout x => obtain rfl := Host.Outcome.next.inj e; exact Anchor.Drift.of_eq (doT3Timeout_anchor ..)
  | wakeAheadStart dir => obtain rfl := Host.Outcome.next.inj e; exact Anchor.Drift.of_eq (doWakeAheadStart_anchor ..)
  | ttlExpire dir => obtain rfl := Host.Outcome.next.inj e; exact Anchor.Drift.of_eq (doTtlExpire_anchor ..)
  | pieceTokenized p vid read => obtain rfl := Host.Outcome.next.inj e; exact Anchor.Drift.of_eq (doPieceTokenized_anchor ..)
  | wheelTick => obtain rfl := Host.Outcome.next.inj e; exact Anchor.Drift.of_eq (doWheelTick_anchor ..)
  | histSample => obtain rfl := Host.Outcome.next.inj e; exact Anchor.Drift.of_eq (doHistSample_anchor ..)
  | portGrantEnd port => obtain rfl := Host.Outcome.next.inj e; exact Anchor.Drift.of_eq (doPortGrantEnd_anchor ..)
  | scrubRead line corrected uncorrectable => obtain rfl := Host.Outcome.next.inj e; exact Anchor.Drift.of_eq (doScrubRead_anchor ..)
  | bindCommit img deadline => obtain rfl := Host.Outcome.next.inj e; exact doBindCommit_anchor ..
  | drainDeadline => obtain rfl := Host.Outcome.next.inj e; exact Anchor.Drift.of_eq (doDrainDeadline_anchor ..)
  | compositionSwitch => obtain rfl := Host.Outcome.next.inj e; exact Anchor.Drift.of_eq (doCompositionSwitch_anchor ..)
  | keyEnroll hash newFloor => obtain rfl := Host.Outcome.next.inj e; exact doKeyEnroll_anchor ..
  | floorSet v => obtain rfl := Host.Outcome.next.inj e; exact doFloorSet_anchor ..
  | fwFloorSet v => obtain rfl := Host.Outcome.next.inj e; exact doFwFloorSet_anchor ..
  | keyAuthSet p hash mctpOk => obtain rfl := Host.Outcome.next.inj e; exact Anchor.Drift.of_eq (doKeyAuthSet_anchor ..)
  | faultCfg source threshold windowS => obtain rfl := Host.Outcome.next.inj e; exact Anchor.Drift.of_eq (doFaultCfg_anchor ..)
  | partReset p => obtain rfl := Host.Outcome.next.inj e; exact doPartReset_drift ..
  | safeRestart => obtain rfl := Host.Outcome.next.inj e; exact doSafeRestart_anchor ..
  | deviceReset => obtain rfl := Host.Outcome.next.inj e; exact doDeviceReset_anchor ..
  | debugUnlock token => obtain rfl := Host.Outcome.next.inj e; exact doDebugUnlock_anchor ..
  | debugLock => obtain rfl := Host.Outcome.next.inj e; exact doDebugLock_anchor ..
  | auditRead seq count => obtain rfl := Host.Outcome.next.inj e; exact Anchor.Drift.of_eq (doAuditRead_anchor ..)
  | auditAck seq => obtain rfl := Host.Outcome.next.inj e; exact Anchor.Drift.of_eq (doAuditAck_anchor ..)
  | auditFlush => obtain rfl := Host.Outcome.next.inj e; exact Anchor.Drift.of_eq (doAuditFlush_anchor ..)
  | pkeySet m => obtain rfl := Host.Outcome.next.inj e; exact Anchor.Drift.of_eq (doPkeySet_anchor ..)
  | poolKeySet m => obtain rfl := Host.Outcome.next.inj e; exact Anchor.Drift.of_eq (doPoolKeySet_anchor ..)
  | ckSet m => obtain rfl := Host.Outcome.next.inj e; exact Anchor.Drift.of_eq (doCkSet_anchor ..)
  | keyStatus m => obtain rfl := Host.Outcome.next.inj e; exact Anchor.Drift.of_eq (doKeyStatus_anchor ..)
  | spdmRequest m blocks => obtain rfl := Host.Outcome.next.inj e; exact Anchor.Drift.of_eq (doSpdmRequest_anchor ..)
  | tdispRequest p m stream => obtain rfl := Host.Outcome.next.inj e; exact Anchor.Drift.of_eq (doTdispRequest_anchor ..)
  | ideKm stream on => obtain rfl := Host.Outcome.next.inj e; exact Anchor.Drift.of_eq (doIdeKm_anchor ..)
  | sysHangReport v => obtain rfl := Host.Outcome.next.inj e; exact doSysHangReport_drift ..
  | faultEvent src detail => obtain rfl := Host.Outcome.next.inj e; exact doFaultEvent_drift ..
  | replayEnd p hit => obtain rfl := Host.Outcome.next.inj e; exact Anchor.Drift.of_eq (doReplayEnd_anchor ..)
  | partitionDrainEnd p => obtain rfl := Host.Outcome.next.inj e; exact Anchor.Drift.of_eq (doPartitionDrainEnd_anchor ..)
  | partResetDone p ok => obtain rfl := Host.Outcome.next.inj e; exact Anchor.Drift.of_eq (doPartResetDone_anchor ..)
  | flitRx l flit => obtain rfl := Host.Outcome.next.inj e; exact Anchor.Drift.of_eq (doFlitRx_anchor ..)
  | linkDown l => obtain rfl := Host.Outcome.next.inj e; exact Anchor.Drift.of_eq (doLinkDown_anchor ..)
  | linkRetry l => obtain rfl := Host.Outcome.next.inj e; exact Anchor.Drift.of_eq (doLinkRetry_anchor ..)
  | linkTrained l => obtain rfl := Host.Outcome.next.inj e; exact Anchor.Drift.of_eq (doLinkTrained_anchor ..)
  | hello l m => obtain rfl := Host.Outcome.next.inj e; exact Anchor.Drift.of_eq (doHello_anchor ..)
  | auth l uid secret ok => obtain rfl := Host.Outcome.next.inj e; exact Anchor.Drift.of_eq (doAuth_anchor ..)
  | lsa l m => obtain rfl := Host.Outcome.next.inj e; exact Anchor.Drift.of_eq (doLsa_anchor ..)
  | lsaAck l origin seq => obtain rfl := Host.Outcome.next.inj e; exact Anchor.Drift.of_eq (doLsaAck_anchor ..)
  | lsaResend l origin => obtain rfl := Host.Outcome.next.inj e; exact Anchor.Drift.of_eq (doLsaResend_anchor ..)
  | routeSwitch => obtain rfl := Host.Outcome.next.inj e; exact Anchor.Drift.of_eq (doRouteSwitch_anchor ..)
  | routeTableRetire => obtain rfl := Host.Outcome.next.inj e; exact Anchor.Drift.of_eq (doRouteTableRetire_anchor ..)
  | keyUpdate l phase => obtain rfl := Host.Outcome.next.inj e; exact Anchor.Drift.of_eq (doKeyUpdate_anchor ..)
  | keyUpdateSend l => obtain rfl := Host.Outcome.next.inj e; exact Anchor.Drift.of_eq (doKeyUpdateSend_anchor ..)
  | syncTimer => obtain rfl := Host.Outcome.next.inj e; exact Anchor.Drift.of_eq (doSyncTimer_anchor ..)
  | syncReq l t1 t2 => obtain rfl := Host.Outcome.next.inj e; exact Anchor.Drift.of_eq (doSyncReq_anchor ..)
  | syncRsp l t1 t2 t3 t4 => obtain rfl := Host.Outcome.next.inj e; exact doSyncRsp_anchor ..
  | readReq f => obtain rfl := Host.Outcome.next.inj e; exact Anchor.Drift.of_eq (doReadReq_anchor ..)
  | writeReq f => obtain rfl := Host.Outcome.next.inj e; exact Anchor.Drift.of_eq (doWriteReq_anchor ..)
  | casReq f => obtain rfl := Host.Outcome.next.inj e; exact Anchor.Drift.of_eq (doCasReq_anchor ..)
  | shardReq f => obtain rfl := Host.Outcome.next.inj e; exact Anchor.Drift.of_eq (doShardReq_anchor ..)
  | readRsp f => obtain rfl := Host.Outcome.next.inj e; exact Anchor.Drift.of_eq (doReadRsp_anchor ..)
  | writeAck f => obtain rfl := Host.Outcome.next.inj e; exact Anchor.Drift.of_eq (doWriteAck_anchor ..)
  | casRsp f => obtain rfl := Host.Outcome.next.inj e; exact Anchor.Drift.of_eq (doCasRsp_anchor ..)
  | shardRsp f => obtain rfl := Host.Outcome.next.inj e; exact Anchor.Drift.of_eq (doShardRsp_anchor ..)
  | errorRsp f => obtain rfl := Host.Outcome.next.inj e; exact Anchor.Drift.of_eq (doErrorRsp_anchor ..)
  | nandReadDone c unit worst retries ok => obtain rfl := Host.Outcome.next.inj e; exact Anchor.Drift.of_eq (doNandReadDone_anchor ..)
  | nandProgramDone c unit block ok => obtain rfl := Host.Outcome.next.inj e; exact Anchor.Drift.of_eq (doNandProgramDone_anchor ..)
  | nandEraseDone c block ok => obtain rfl := Host.Outcome.next.inj e; exact Anchor.Drift.of_eq (doNandEraseDone_anchor ..)
  | relocationCommit c unit => obtain rfl := Host.Outcome.next.inj e; exact Anchor.Drift.of_eq (doRelocationCommit_anchor ..)
  | gcStart c => obtain rfl := Host.Outcome.next.inj e; exact Anchor.Drift.of_eq (doGcStart_anchor ..)
  | staticLevel c block => obtain rfl := Host.Outcome.next.inj e; exact Anchor.Drift.of_eq (doStaticLevel_anchor ..)
  | readRefresh c block => obtain rfl := Host.Outcome.next.inj e; exact Anchor.Drift.of_eq (doReadRefresh_anchor ..)
  | patrolRead c block worst => obtain rfl := Host.Outcome.next.inj e; exact Anchor.Drift.of_eq (doPatrolRead_anchor ..)
  | hifT3Write which v => obtain rfl := Host.Outcome.next.inj e; exact Anchor.Drift.of_eq (doHifT3Write_anchor ..)
  | cqRecordWrite p => obtain rfl := Host.Outcome.next.inj e; exact Anchor.Drift.of_eq (doCqRecordWrite_anchor ..)
  | coalTimerExpire p => obtain rfl := Host.Outcome.next.inj e; exact Anchor.Drift.of_eq (doCoalTimerExpire_anchor ..)
  | snapTake fn block => obtain rfl := Host.Outcome.next.inj e; exact doSnapTake_drift ..
  | satClear fn off bits => obtain rfl := Host.Outcome.next.inj e; exact doSatClear_drift ..
  | rcRead fn r => obtain rfl := Host.Outcome.next.inj e; exact Anchor.Drift.of_eq (doRcRead_anchor ..)
  | registerWrite fn off width v => obtain rfl := Host.Outcome.next.inj e; exact doRegisterWrite_drift ..
  | vfFlr p => obtain rfl := Host.Outcome.next.inj e; exact Anchor.Drift.of_eq (doVfFlr_anchor ..)
  | pfFlr => obtain rfl := Host.Outcome.next.inj e; exact Anchor.Drift.of_eq (doPfFlr_anchor ..)
  | d3hotEntry fn => obtain rfl := Host.Outcome.next.inj e; exact Anchor.Drift.of_eq (doD3hotEntry_anchor ..)
  | perstAssert => obtain rfl := Host.Outcome.next.inj e; exact doPerstAssert_drift ..
  | perstDeassert => obtain rfl := Host.Outcome.next.inj e; exact doPerstDeassert_anchor ..
  | pwrokAssert => obtain rfl := Host.Outcome.next.inj e; exact doPwrokAssert_anchor ..
  | powerDown => obtain rfl := Host.Outcome.next.inj e; exact doPowerDown_anchor ..
  | firmwareBoot slots => obtain rfl := Host.Outcome.next.inj e; exact doFirmwareBoot_anchor ..
  | trainingDone r => obtain rfl := Host.Outcome.next.inj e; exact doTrainingDone_anchor ..
  | bringupFabricEnd => obtain rfl := Host.Outcome.next.inj e; exact doBringupFabricEnd_anchor ..
  | pacerTick watts tj hbmMax => obtain rfl := Host.Outcome.next.inj e; exact Anchor.Drift.of_eq (doPacerTick_anchor ..)
  | tempThreshold stack celsius => obtain rfl := Host.Outcome.next.inj e; exact Anchor.Drift.of_eq (doTempThreshold_anchor ..)
  | thermtrip => obtain rfl := Host.Outcome.next.inj e; exact doThermtrip_anchor ..
  | clockLoss domain => obtain rfl := Host.Outcome.next.inj e; exact Anchor.Drift.of_eq (doClockLoss_anchor ..)
  | rtcUpdate => obtain rfl := Host.Outcome.next.inj e; exact Anchor.Drift.of_eq (doRtcUpdate_anchor ..)
  | vbatLoss => obtain rfl := Host.Outcome.next.inj e; exact doVbatLoss_anchor ..
  | drrRoundStart sch => obtain rfl := Host.Outcome.next.inj e; exact Anchor.Drift.of_eq (doDrrRoundStart_anchor ..)
  | testContextLoad e signed prog => obtain rfl := Host.Outcome.next.inj e; exact Anchor.Drift.of_eq (doTestContextLoad_anchor ..)
  | jtagInstruction j =>
    refine Anchor.Drift.of_eq ?_
    change execJtagInstruction j s = _ at e
    unfold execJtagInstruction at e
    split at e
    · rw [← Host.Outcome.next.inj e, State.emit_anchor]
    · split at e
      · cases e
      · rw [← Host.Outcome.next.inj e, State.emit_anchor]
  | configurationRequest r => obtain rfl := Host.Outcome.next.inj e; exact Anchor.Drift.of_eq (doConfigurationRequest_anchor ..)
  | grammarLoadDone p vid img => obtain rfl := Host.Outcome.next.inj e; exact Anchor.Drift.of_eq (doGrammarLoadDone_anchor ..)
  | programLoadDone p vid prog => obtain rfl := Host.Outcome.next.inj e; exact Anchor.Drift.of_eq (doProgramLoadDone_anchor ..)
  | memoryInitDone macOk => obtain rfl := Host.Outcome.next.inj e; exact doMemoryInitDone_anchor ..
  | flashMapRebuilt bad => obtain rfl := Host.Outcome.next.inj e; exact doFlashMapRebuilt_anchor ..
  | shardTransfer p m => obtain rfl := Host.Outcome.next.inj e; exact Anchor.Drift.of_eq (doShardTransfer_anchor ..)
  | clockRelock domain => obtain rfl := Host.Outcome.next.inj e; exact Anchor.Drift.of_eq (doClockRelock_anchor ..)

/-- Whatever a command does, the anchor's old and new value stand in every relation that its single changes stand in. -/
theorem Moves.elim {R : Anchor → Anchor → Prop} {c : Instr} {a b : Anchor} (m : Moves c a b) (refl : R a a)
    (safed : R a a.safed) (perst : ∀ p, R a (a.withPerst p)) (perstSafed : ∀ p, R a (a.withPerst p).safed)
    (stage : ∀ k, k ≠ 15 → R a (a.atStage k))
    (time : (∃ l t1 t2 t3 t4, c = .syncRsp l t1 t2 t3 t4) → ∀ n, R a (a.atTime n))
    (failed : R a a.failed) (booted : (∃ l, c = .firmwareBoot l) → R a a.booted)
    (blank : c = .vbatLoss → R a a.blank)
    (blankInit : (∃ ok, c = .memoryInitDone ok) → ∀ n, R a ((a.blank.atTime n).atStage 4))
    (off : c = .powerDown → R a a.off)
    (cold : c = .pwrokAssert → a.pwrok = false → ∀ n, R a (a.cold n 0))
    (reset : c = .deviceReset → ∀ n, R a ((a.cold n 1).withPin false))
    (trip : R a a.tripped)
    (floor : ∀ v, a.bindFloor ≤ v → R a (a.withFloor v)) (fwFloor : ∀ v, a.fwFloor ≤ v → R a (a.withFwFloor v))
    (enrolled : ∀ h v, a.bindFloor ≤ v → R a (a.enrolled h v))
    (unlock : (∃ k, c = .debugUnlock k) → R a (a.withDebug true)) (lock : R a (a.withDebug false)) : R a b := by
  revert m
  unfold Moves
  split
  · rintro (rfl | rfl)
    · exact refl
    · exact stage 7 (by decide)
  · rintro (rfl | ⟨f, h, rfl⟩)
    · exact refl
    · exact enrolled _ _ h
  · rintro (rfl | ⟨h, rfl⟩)
    · exact refl
    · exact floor _ h
  · rintro (rfl | ⟨h, rfl⟩)
    · exact refl
    · exact fwFloor _ h
  · rintro (rfl | rfl)
    · exact refl
    · exact stage 0 (by decide)
  · rintro (rfl | ⟨n, rfl⟩)
    · exact refl
    · exact reset rfl n
  · rintro (rfl | rfl)
    · exact refl
    · exact unlock ⟨_, rfl⟩
  · rintro (rfl | rfl)
    · exact refl
    · exact lock
  · rintro ⟨n, rfl⟩
    exact time ⟨_, _, _, _, _, rfl⟩ n
  · rintro (rfl | rfl | rfl)
    · exact refl
    · exact perst true
    · exact perstSafed true
  · rintro (rfl | rfl)
    · exact refl
    · exact perst false
  · rintro (rfl | ⟨h, n, rfl⟩)
    · exact refl
    · exact cold rfl h n
  · rintro (rfl | rfl)
    · exact refl
    · exact off rfl
  · rintro (rfl | rfl | rfl)
    · exact refl
    · exact failed
    · exact booted ⟨_, rfl⟩
  · rintro (rfl | rfl | rfl)
    · exact refl
    · exact failed
    · exact stage 3 (by decide)
  · rintro (rfl | rfl)
    · exact refl
    · exact stage 8 (by decide)
  · rintro (rfl | rfl)
    · exact refl
    · exact trip
  · rintro (rfl | rfl)
    · exact refl
    · exact blank rfl
  · rintro (rfl | rfl | ⟨n, rfl⟩)
    · exact refl
    · exact stage 4 (by decide)
    · exact blankInit ⟨_, rfl⟩ n
  · rintro (rfl | rfl | rfl)
    · exact refl
    · exact failed
    · exact stage 5 (by decide)
  · rintro (rfl | rfl)
    · exact refl
    · exact safed

theorem step_cases {s t : State} (e : step s = .next t) :
    (s.pending = [] ∧ t = s.tick) ∨ ∃ c r, s.pending = c :: r ∧ exec c { s with pending := r } = .next t := by
  unfold step at e
  split at e
  · exact .inl ⟨by assumption, (Host.Outcome.next.inj e).symm⟩
  · exact .inr ⟨_, _, by assumption, e⟩

end Machine
end Sys2Proof
end

