-- ==== Sys2Proof/Laws/Tab.lean ====
section
/-!
SUPPORT. Sys2Proof/Laws/Tab.lean: reading after writing in tables and byte memories, and their canonical forms, which every write
keeps.
-/
namespace Sys2Proof
namespace Machine

/-! ## Tables -/

@[simp] theorem tget_nil {α : Type} (k : Nat) : tget ([] : Tab α) k = none := rfl

theorem tget_cons {α : Type} (e : Nat × α) (r : Tab α) (k : Nat) : tget (e :: r) k = if e.1 = k then some e.2 else tget r k := rfl

@[simp] theorem tget_tput_same {α : Type} (t : Tab α) (k : Nat) (v : α) : tget (tput t k v) k = some v := by
  induction t with
  | nil => simp [tput, tget]
  | cons e r ih =>
    unfold tput
    split
    · simp [tget]
    · split
      · simp [tget]
      · rename_i h
        rw [tget_cons, if_neg (fun h' => h h'.symm), ih]

@[simp] theorem tget_tput_other {α : Type} (t : Tab α) (k k' : Nat) (v : α) (h : k' ≠ k) : tget (tput t k v) k' = tget t k' := by
  induction t with
  | nil => simp [tput, tget, h.symm]
  | cons e r ih =>
    unfold tput
    split
    · rw [tget_cons, if_neg (fun h' => h h'.symm)]
    · split
      · rename_i h'
        subst h'
        rw [tget_cons, tget_cons, if_neg (fun h' => h h'.symm), if_neg (fun h' => h h'.symm)]
      · rw [tget_cons, tget_cons, ih]

@[simp] theorem tget_tdel_same {α : Type} (t : Tab α) (k : Nat) : tget (tdel t k) k = none := by
  induction t with
  | nil => rfl
  | cons e r ih =>
    unfold tdel
    split
    · exact ih
    · rename_i h
      rw [tget_cons, if_neg h, ih]

@[simp] theorem tget_tdel_other {α : Type} (t : Tab α) (k k' : Nat) (h : k' ≠ k) : tget (tdel t k) k' = tget t k' := by
  induction t with
  | nil => rfl
  | cons e r ih =>
    unfold tdel
    split
    · rename_i h'
      rw [tget_cons, if_neg (fun h'' => h (h''.symm.trans h')), ih]
    · rw [tget_cons, tget_cons, ih]

@[simp] theorem tgetD_tput_same {α : Type} (t : Tab α) (k : Nat) (v d : α) : tgetD (tput t k v) k d = v := by
  simp [tgetD]

@[simp] theorem tgetD_tput_other {α : Type} (t : Tab α) (k k' : Nat) (v d : α) (h : k' ≠ k) :
    tgetD (tput t k v) k' d = tgetD t k' d := by
  simp [tgetD, h]

/-- All keys of a table lie above a bound. -/
def keysAbove {α : Type} (n : Nat) (t : Tab α) : Prop := ∀ e ∈ t, n < e.1

theorem tkeysRise_cons {α : Type} (e : Nat × α) (r : Tab α) : tkeysRise (e :: r) = true ↔ keysAbove e.1 r ∧ tkeysRise r = true := by
  induction r generalizing e with
  | nil => simp [tkeysRise, keysAbove]
  | cons b r ih =>
    have h := ih b
    simp only [tkeysRise, Bool.and_eq_true, decide_eq_true_eq, keysAbove, List.mem_cons, forall_eq_or_imp] at *
    constructor
    · rintro ⟨a, c⟩
      exact ⟨⟨a, fun x hx => Nat.lt_trans a ((h.mp c).1 x hx)⟩, c⟩
    · rintro ⟨⟨a, _⟩, c⟩
      exact ⟨a, c⟩

theorem mem_tput {α : Type} {t : Tab α} {k : Nat} {v : α} {e : Nat × α} (h : e ∈ tput t k v) : e = (k, v) ∨ e ∈ t := by
  induction t with
  | nil => simpa [tput] using h
  | cons b r ih =>
    unfold tput at h
    split at h
    · simpa using h
    · split at h
      · simp only [List.mem_cons] at h ⊢
        rcases h with h | h
        · exact .inl h
        · exact .inr (.inr h)
      · simp only [List.mem_cons] at h ⊢
        rcases h with h | h
        · exact .inr (.inl h)
        · rcases ih h with h | h
          · exact .inl h
          · exact .inr (.inr h)

theorem mem_tdel {α : Type} {t : Tab α} {k : Nat} {e : Nat × α} (h : e ∈ tdel t k) : e ∈ t := by
  induction t with
  | nil => exact h
  | cons b r ih =>
    unfold tdel at h
    split at h
    · exact List.mem_cons_of_mem _ (ih h)
    · simp only [List.mem_cons] at h ⊢
      rcases h with h | h
      · exact .inl h
      · exact .inr (ih h)

theorem tput_rise {α : Type} (t : Tab α) (k : Nat) (v : α) (h : tkeysRise t = true) : tkeysRise (tput t k v) = true := by
  induction t with
  | nil => rfl
  | cons b r ih =>
    obtain ⟨ha, hr⟩ := (tkeysRise_cons b r).mp h
    unfold tput
    split
    · rename_i hk
      refine (tkeysRise_cons _ _).mpr ⟨fun x hx => ?_, h⟩
      rcases List.mem_cons.mp hx with rfl | hx
      · exact hk
      · exact Nat.lt_trans hk (ha x hx)
    · split
      · rename_i hk
        subst hk
        exact (tkeysRise_cons _ _).mpr ⟨ha, hr⟩
      · rename_i h1 h2
        refine (tkeysRise_cons _ _).mpr ⟨fun x hx => ?_, ih hr⟩
        rcases mem_tput hx with rfl | hx
        · exact Nat.lt_of_le_of_ne (Nat.le_of_not_lt h1) (fun h' => h2 h'.symm)
        · exact ha x hx

theorem tdel_rise {α : Type} (t : Tab α) (k : Nat) (h : tkeysRise t = true) : tkeysRise (tdel t k) = true := by
  induction t with
  | nil => rfl
  | cons b r ih =>
    obtain ⟨ha, hr⟩ := (tkeysRise_cons b r).mp h
    unfold tdel
    split
    · exact ih hr
    · exact (tkeysRise_cons _ _).mpr ⟨fun x hx => ha x (mem_tdel hx), ih hr⟩

/-! ## Byte memories -/

@[simp] theorem mread_mwrite_same (m : Mem) (a : Nat) (v : Byte) : mread (mwrite m a v) a = v := by
  unfold mread mwrite
  split
  · rename_i h
    subst h
    simp [tgetD]
  · simp

@[simp] theorem mread_mwrite_other (m : Mem) (a b : Nat) (v : Byte) (h : b ≠ a) : mread (mwrite m a v) b = mread m b := by
  unfold mread mwrite
  split <;> simp [tgetD, h]

/-- A write keeps the canonical form. -/
theorem mwrite_wf (m : Mem) (a : Nat) (v : Byte) (h : memWf m = true) : memWf (mwrite m a v) = true := by
  simp only [memWf, Bool.and_eq_true, List.all_eq_true, bne_iff_ne] at *
  unfold mwrite
  split
  · exact ⟨tdel_rise _ _ h.1, fun c hc => h.2 c (mem_tdel hc)⟩
  · rename_i hv
    refine ⟨tput_rise _ _ _ h.1, fun c hc => ?_⟩
    rcases mem_tput hc with rfl | hc
    · exact hv
    · exact h.2 c hc

/-- A run of writes keeps the canonical form. -/
theorem mwrites_wf (m : Mem) (a : Nat) (l : Bytes) (h : memWf m = true) : memWf (mwrites m a l) = true := by
  induction l generalizing m a with
  | nil => exact h
  | cons b r ih => exact ih _ _ (mwrite_wf _ _ _ h)

/-- Outside the bytes written nothing changes. -/
theorem mread_mwrites_outside (m : Mem) (a : Nat) (l : Bytes) (b : Nat) (h : b < a ∨ a + l.length ≤ b) :
    mread (mwrites m a l) b = mread m b := by
  induction l generalizing m a with
  | nil => rfl
  | cons v r ih =>
    have h' : b < a + 1 ∨ a + 1 + r.length ≤ b := by simp only [List.length_cons] at h; omega
    unfold mwrites
    rw [ih _ _ h', mread_mwrite_other]
    simp only [List.length_cons] at h; omega

theorem mread_mwrites_first (m : Mem) (a : Nat) (v : Byte) (r : Bytes) : mread (mwrites m a (v :: r)) a = v := by
  unfold mwrites
  rw [mread_mwrites_outside _ _ _ _ (.inl (Nat.lt_succ_self a)), mread_mwrite_same]

/-- What was written is read. -/
theorem mreads_mwrites (m : Mem) (a : Nat) (l : Bytes) : mreads (mwrites m a l) a l.length = l := by
  induction l generalizing m a with
  | nil => rfl
  | cons v r ih =>
    show mread (mwrites m a (v :: r)) a :: mreads (mwrites (mwrite m a v) (a + 1) r) (a + 1) r.length = v :: r
    rw [mread_mwrites_first, ih]

/-! ## Byte order -/

theorem natLe_length (n v : Nat) : (natLe n v).length = n := by
  induction n generalizing v with
  | zero => rfl
  | succ n ih => simp [natLe, ih]

theorem leNat_natLe (n v : Nat) : leNat (natLe n v) = v % 256 ^ n := by
  induction n generalizing v with
  | zero => simp [natLe, leNat, Nat.mod_one]
  | succ n ih =>
    simp only [natLe, leNat, ih, BitVec.toNat_ofNat]
    show v % 256 + 256 * (v / 256 % 256 ^ n) = v % 256 ^ (n + 1)
    rw [Nat.pow_succ, Nat.mul_comm (256 ^ n) 256, Nat.mod_mul]

end Machine
end Sys2Proof
end

