-- ==== Sys2Proof/Laws/State.lean ====
section
/-!
SUPPORT. Sys2Proof/Laws/State.lean: for each update of one part of State, the parts that it leaves alone, and what its accessor
then reads.
-/
namespace Sys2Proof
namespace Machine

/-! ## State.emit -/

@[simp] theorem State.emit_now (s : State) (o : Out) : (s.emit o).now = s.now := rfl
@[simp] theorem State.emit_frac (s : State) (o : Out) : (s.emit o).frac = s.frac := rfl
@[simp] theorem State.emit_free (s : State) (o : Out) : (s.emit o).free = s.free := rfl
@[simp] theorem State.emit_regs (s : State) (o : Out) : (s.emit o).regs = s.regs := rfl
@[simp] theorem State.emit_stamps (s : State) (o : Out) : (s.emit o).stamps = s.stamps := rfl
@[simp] theorem State.emit_pending (s : State) (o : Out) : (s.emit o).pending = s.pending := rfl
@[simp] theorem State.emit_hif (s : State) (o : Out) : (s.emit o).hif = s.hif := rfl
@[simp] theorem State.emit_dir (s : State) (o : Out) : (s.emit o).dir = s.dir := rfl
@[simp] theorem State.emit_fol (s : State) (o : Out) : (s.emit o).fol = s.fol := rfl
@[simp] theorem State.emit_spn (s : State) (o : Out) : (s.emit o).spn = s.spn := rfl
@[simp] theorem State.emit_eng (s : State) (o : Out) : (s.emit o).eng = s.eng := rfl
@[simp] theorem State.emit_txt (s : State) (o : Out) : (s.emit o).txt = s.txt := rfl
@[simp] theorem State.emit_rcl (s : State) (o : Out) : (s.emit o).rcl = s.rcl := rfl
@[simp] theorem State.emit_shp (s : State) (o : Out) : (s.emit o).shp = s.shp := rfl
@[simp] theorem State.emit_ckp (s : State) (o : Out) : (s.emit o).ckp = s.ckp := rfl
@[simp] theorem State.emit_bind (s : State) (o : Out) : (s.emit o).bind = s.bind := rfl
@[simp] theorem State.emit_flt (s : State) (o : Out) : (s.emit o).flt = s.flt := rfl
@[simp] theorem State.emit_sec (s : State) (o : Out) : (s.emit o).sec = s.sec := rfl
@[simp] theorem State.emit_pwr (s : State) (o : Out) : (s.emit o).pwr = s.pwr := rfl
@[simp] theorem State.emit_fab (s : State) (o : Out) : (s.emit o).fab = s.fab := rfl
@[simp] theorem State.emit_ho (s : State) (o : Out) : (s.emit o).ho = s.ho := rfl
@[simp] theorem State.emit_nvf (s : State) (o : Out) : (s.emit o).nvf = s.nvf := rfl

/-! ## State.setReg -/

@[simp] theorem State.setReg_now (s : State) (r : RegName) (i j : Nat) (v : W64) : (s.setReg r i j v).now = s.now := rfl
@[simp] theorem State.setReg_frac (s : State) (r : RegName) (i j : Nat) (v : W64) : (s.setReg r i j v).frac = s.frac := rfl
@[simp] theorem State.setReg_free (s : State) (r : RegName) (i j : Nat) (v : W64) : (s.setReg r i j v).free = s.free := rfl
@[simp] theorem State.setReg_stamps (s : State) (r : RegName) (i j : Nat) (v : W64) : (s.setReg r i j v).stamps = s.stamps := rfl
@[simp] theorem State.setReg_pending (s : State) (r : RegName) (i j : Nat) (v : W64) : (s.setReg r i j v).pending = s.pending := rfl
@[simp] theorem State.setReg_out (s : State) (r : RegName) (i j : Nat) (v : W64) : (s.setReg r i j v).out = s.out := rfl
@[simp] theorem State.setReg_hif (s : State) (r : RegName) (i j : Nat) (v : W64) : (s.setReg r i j v).hif = s.hif := rfl
@[simp] theorem State.setReg_dir (s : State) (r : RegName) (i j : Nat) (v : W64) : (s.setReg r i j v).dir = s.dir := rfl
@[simp] theorem State.setReg_fol (s : State) (r : RegName) (i j : Nat) (v : W64) : (s.setReg r i j v).fol = s.fol := rfl
@[simp] theorem State.setReg_spn (s : State) (r : RegName) (i j : Nat) (v : W64) : (s.setReg r i j v).spn = s.spn := rfl
@[simp] theorem State.setReg_eng (s : State) (r : RegName) (i j : Nat) (v : W64) : (s.setReg r i j v).eng = s.eng := rfl
@[simp] theorem State.setReg_txt (s : State) (r : RegName) (i j : Nat) (v : W64) : (s.setReg r i j v).txt = s.txt := rfl
@[simp] theorem State.setReg_rcl (s : State) (r : RegName) (i j : Nat) (v : W64) : (s.setReg r i j v).rcl = s.rcl := rfl
@[simp] theorem State.setReg_shp (s : State) (r : RegName) (i j : Nat) (v : W64) : (s.setReg r i j v).shp = s.shp := rfl
@[simp] theorem State.setReg_ckp (s : State) (r : RegName) (i j : Nat) (v : W64) : (s.setReg r i j v).ckp = s.ckp := rfl
@[simp] theorem State.setReg_bind (s : State) (r : RegName) (i j : Nat) (v : W64) : (s.setReg r i j v).bind = s.bind := rfl
@[simp] theorem State.setReg_flt (s : State) (r : RegName) (i j : Nat) (v : W64) : (s.setReg r i j v).flt = s.flt := rfl
@[simp] theorem State.setReg_sec (s : State) (r : RegName) (i j : Nat) (v : W64) : (s.setReg r i j v).sec = s.sec := rfl
@[simp] theorem State.setReg_pwr (s : State) (r : RegName) (i j : Nat) (v : W64) : (s.setReg r i j v).pwr = s.pwr := rfl
@[simp] theorem State.setReg_fab (s : State) (r : RegName) (i j : Nat) (v : W64) : (s.setReg r i j v).fab = s.fab := rfl
@[simp] theorem State.setReg_ho (s : State) (r : RegName) (i j : Nat) (v : W64) : (s.setReg r i j v).ho = s.ho := rfl
@[simp] theorem State.setReg_nvf (s : State) (r : RegName) (i j : Nat) (v : W64) : (s.setReg r i j v).nvf = s.nvf := rfl

/-! ## State.count -/

@[simp] theorem State.count_now (s : State) (r : RegName) (i n j : Nat) : (s.count r i n j).now = s.now := rfl
@[simp] theorem State.count_frac (s : State) (r : RegName) (i n j : Nat) : (s.count r i n j).frac = s.frac := rfl
@[simp] theorem State.count_free (s : State) (r : RegName) (i n j : Nat) : (s.count r i n j).free = s.free := rfl
@[simp] theorem State.count_stamps (s : State) (r : RegName) (i n j : Nat) : (s.count r i n j).stamps = s.stamps := rfl
@[simp] theorem State.count_pending (s : State) (r : RegName) (i n j : Nat) : (s.count r i n j).pending = s.pending := rfl
@[simp] theorem State.count_out (s : State) (r : RegName) (i n j : Nat) : (s.count r i n j).out = s.out := rfl
@[simp] theorem State.count_hif (s : State) (r : RegName) (i n j : Nat) : (s.count r i n j).hif = s.hif := rfl
@[simp] theorem State.count_dir (s : State) (r : RegName) (i n j : Nat) : (s.count r i n j).dir = s.dir := rfl
@[simp] theorem State.count_fol (s : State) (r : RegName) (i n j : Nat) : (s.count r i n j).fol = s.fol := rfl
@[simp] theorem State.count_spn (s : State) (r : RegName) (i n j : Nat) : (s.count r i n j).spn = s.spn := rfl
@[simp] theorem State.count_eng (s : State) (r : RegName) (i n j : Nat) : (s.count r i n j).eng = s.eng := rfl
@[simp] theorem State.count_txt (s : State) (r : RegName) (i n j : Nat) : (s.count r i n j).txt = s.txt := rfl
@[simp] theorem State.count_rcl (s : State) (r : RegName) (i n j : Nat) : (s.count r i n j).rcl = s.rcl := rfl
@[simp] theorem State.count_shp (s : State) (r : RegName) (i n j : Nat) : (s.count r i n j).shp = s.shp := rfl
@[simp] theorem State.count_ckp (s : State) (r : RegName) (i n j : Nat) : (s.count r i n j).ckp = s.ckp := rfl
@[simp] theorem State.count_bind (s : State) (r : RegName) (i n j : Nat) : (s.count r i n j).bind = s.bind := rfl
@[simp] theorem State.count_flt (s : State) (r : RegName) (i n j : Nat) : (s.count r i n j).flt = s.flt := rfl
@[simp] theorem State.count_sec (s : State) (r : RegName) (i n j : Nat) : (s.count r i n j).sec = s.sec := rfl
@[simp] theorem State.count_pwr (s : State) (r : RegName) (i n j : Nat) : (s.count r i n j).pwr = s.pwr := rfl
@[simp] theorem State.count_fab (s : State) (r : RegName) (i n j : Nat) : (s.count r i n j).fab = s.fab := rfl
@[simp] theorem State.count_ho (s : State) (r : RegName) (i n j : Nat) : (s.count r i n j).ho = s.ho := rfl
@[simp] theorem State.count_nvf (s : State) (r : RegName) (i n j : Nat) : (s.count r i n j).nvf = s.nvf := rfl

/-! ## State.raise -/

@[simp] theorem State.raise_now (s : State) (k : Nat) (d : FaultDetail) : (s.raise k d).now = s.now := rfl
@[simp] theorem State.raise_frac (s : State) (k : Nat) (d : FaultDetail) : (s.raise k d).frac = s.frac := rfl
@[simp] theorem State.raise_free (s : State) (k : Nat) (d : FaultDetail) : (s.raise k d).free = s.free := rfl
@[simp] theorem State.raise_regs (s : State) (k : Nat) (d : FaultDetail) : (s.raise k d).regs = s.regs := rfl
@[simp] theorem State.raise_stamps (s : State) (k : Nat) (d : FaultDetail) : (s.raise k d).stamps = s.stamps := rfl
@[simp] theorem State.raise_pending (s : State) (k : Nat) (d : FaultDetail) : (s.raise k d).pending = s.pending := rfl
@[simp] theorem State.raise_out (s : State) (k : Nat) (d : FaultDetail) : (s.raise k d).out = s.out := rfl
@[simp] theorem State.raise_hif (s : State) (k : Nat) (d : FaultDetail) : (s.raise k d).hif = s.hif := rfl
@[simp] theorem State.raise_dir (s : State) (k : Nat) (d : FaultDetail) : (s.raise k d).dir = s.dir := rfl
@[simp] theorem State.raise_fol (s : State) (k : Nat) (d : FaultDetail) : (s.raise k d).fol = s.fol := rfl
@[simp] theorem State.raise_spn (s : State) (k : Nat) (d : FaultDetail) : (s.raise k d).spn = s.spn := rfl
@[simp] theorem State.raise_eng (s : State) (k : Nat) (d : FaultDetail) : (s.raise k d).eng = s.eng := rfl
@[simp] theorem State.raise_txt (s : State) (k : Nat) (d : FaultDetail) : (s.raise k d).txt = s.txt := rfl
@[simp] theorem State.raise_rcl (s : State) (k : Nat) (d : FaultDetail) : (s.raise k d).rcl = s.rcl := rfl
@[simp] theorem State.raise_shp (s : State) (k : Nat) (d : FaultDetail) : (s.raise k d).shp = s.shp := rfl
@[simp] theorem State.raise_ckp (s : State) (k : Nat) (d : FaultDetail) : (s.raise k d).ckp = s.ckp := rfl
@[simp] theorem State.raise_bind (s : State) (k : Nat) (d : FaultDetail) : (s.raise k d).bind = s.bind := rfl
@[simp] theorem State.raise_sec (s : State) (k : Nat) (d : FaultDetail) : (s.raise k d).sec = s.sec := rfl
@[simp] theorem State.raise_pwr (s : State) (k : Nat) (d : FaultDetail) : (s.raise k d).pwr = s.pwr := rfl
@[simp] theorem State.raise_fab (s : State) (k : Nat) (d : FaultDetail) : (s.raise k d).fab = s.fab := rfl
@[simp] theorem State.raise_ho (s : State) (k : Nat) (d : FaultDetail) : (s.raise k d).ho = s.ho := rfl
@[simp] theorem State.raise_nvf (s : State) (k : Nat) (d : FaultDetail) : (s.raise k d).nvf = s.nvf := rfl

/-! ## State.stampAdd -/

@[simp] theorem State.stampAdd_now (s : State) (k n : Nat) : (s.stampAdd k n).now = s.now := rfl
@[simp] theorem State.stampAdd_frac (s : State) (k n : Nat) : (s.stampAdd k n).frac = s.frac := rfl
@[simp] theorem State.stampAdd_free (s : State) (k n : Nat) : (s.stampAdd k n).free = s.free := rfl
@[simp] theorem State.stampAdd_regs (s : State) (k n : Nat) : (s.stampAdd k n).regs = s.regs := rfl
@[simp] theorem State.stampAdd_pending (s : State) (k n : Nat) : (s.stampAdd k n).pending = s.pending := rfl
@[simp] theorem State.stampAdd_out (s : State) (k n : Nat) : (s.stampAdd k n).out = s.out := rfl
@[simp] theorem State.stampAdd_hif (s : State) (k n : Nat) : (s.stampAdd k n).hif = s.hif := rfl
@[simp] theorem State.stampAdd_dir (s : State) (k n : Nat) : (s.stampAdd k n).dir = s.dir := rfl
@[simp] theorem State.stampAdd_fol (s : State) (k n : Nat) : (s.stampAdd k n).fol = s.fol := rfl
@[simp] theorem State.stampAdd_spn (s : State) (k n : Nat) : (s.stampAdd k n).spn = s.spn := rfl
@[simp] theorem State.stampAdd_eng (s : State) (k n : Nat) : (s.stampAdd k n).eng = s.eng := rfl
@[simp] theorem State.stampAdd_txt (s : State) (k n : Nat) : (s.stampAdd k n).txt = s.txt := rfl
@[simp] theorem State.stampAdd_rcl (s : State) (k n : Nat) : (s.stampAdd k n).rcl = s.rcl := rfl
@[simp] theorem State.stampAdd_shp (s : State) (k n : Nat) : (s.stampAdd k n).shp = s.shp := rfl
@[simp] theorem State.stampAdd_ckp (s : State) (k n : Nat) : (s.stampAdd k n).ckp = s.ckp := rfl
@[simp] theorem State.stampAdd_bind (s : State) (k n : Nat) : (s.stampAdd k n).bind = s.bind := rfl
@[simp] theorem State.stampAdd_flt (s : State) (k n : Nat) : (s.stampAdd k n).flt = s.flt := rfl
@[simp] theorem State.stampAdd_sec (s : State) (k n : Nat) : (s.stampAdd k n).sec = s.sec := rfl
@[simp] theorem State.stampAdd_pwr (s : State) (k n : Nat) : (s.stampAdd k n).pwr = s.pwr := rfl
@[simp] theorem State.stampAdd_fab (s : State) (k n : Nat) : (s.stampAdd k n).fab = s.fab := rfl
@[simp] theorem State.stampAdd_ho (s : State) (k n : Nat) : (s.stampAdd k n).ho = s.ho := rfl
@[simp] theorem State.stampAdd_nvf (s : State) (k n : Nat) : (s.stampAdd k n).nvf = s.nvf := rfl

/-! ## State.stampSet -/

@[simp] theorem State.stampSet_now (s : State) (k w : Nat) : (s.stampSet k w).now = s.now := rfl
@[simp] theorem State.stampSet_frac (s : State) (k w : Nat) : (s.stampSet k w).frac = s.frac := rfl
@[simp] theorem State.stampSet_free (s : State) (k w : Nat) : (s.stampSet k w).free = s.free := rfl
@[simp] theorem State.stampSet_regs (s : State) (k w : Nat) : (s.stampSet k w).regs = s.regs := rfl
@[simp] theorem State.stampSet_pending (s : State) (k w : Nat) : (s.stampSet k w).pending = s.pending := rfl
@[simp] theorem State.stampSet_out (s : State) (k w : Nat) : (s.stampSet k w).out = s.out := rfl
@[simp] theorem State.stampSet_hif (s : State) (k w : Nat) : (s.stampSet k w).hif = s.hif := rfl
@[simp] theorem State.stampSet_dir (s : State) (k w : Nat) : (s.stampSet k w).dir = s.dir := rfl
@[simp] theorem State.stampSet_fol (s : State) (k w : Nat) : (s.stampSet k w).fol = s.fol := rfl
@[simp] theorem State.stampSet_spn (s : State) (k w : Nat) : (s.stampSet k w).spn = s.spn := rfl
@[simp] theorem State.stampSet_eng (s : State) (k w : Nat) : (s.stampSet k w).eng = s.eng := rfl
@[simp] theorem State.stampSet_txt (s : State) (k w : Nat) : (s.stampSet k w).txt = s.txt := rfl
@[simp] theorem State.stampSet_rcl (s : State) (k w : Nat) : (s.stampSet k w).rcl = s.rcl := rfl
@[simp] theorem State.stampSet_shp (s : State) (k w : Nat) : (s.stampSet k w).shp = s.shp := rfl
@[simp] theorem State.stampSet_ckp (s : State) (k w : Nat) : (s.stampSet k w).ckp = s.ckp := rfl
@[simp] theorem State.stampSet_bind (s : State) (k w : Nat) : (s.stampSet k w).bind = s.bind := rfl
@[simp] theorem State.stampSet_flt (s : State) (k w : Nat) : (s.stampSet k w).flt = s.flt := rfl
@[simp] theorem State.stampSet_sec (s : State) (k w : Nat) : (s.stampSet k w).sec = s.sec := rfl
@[simp] theorem State.stampSet_pwr (s : State) (k w : Nat) : (s.stampSet k w).pwr = s.pwr := rfl
@[simp] theorem State.stampSet_fab (s : State) (k w : Nat) : (s.stampSet k w).fab = s.fab := rfl
@[simp] theorem State.stampSet_ho (s : State) (k w : Nat) : (s.stampSet k w).ho = s.ho := rfl
@[simp] theorem State.stampSet_nvf (s : State) (k w : Nat) : (s.stampSet k w).nvf = s.nvf := rfl

/-! ## State.setVf -/

@[simp] theorem State.setVf_now (s : State) (p : Nat) (v : Vf) : (s.setVf p v).now = s.now := rfl
@[simp] theorem State.setVf_frac (s : State) (p : Nat) (v : Vf) : (s.setVf p v).frac = s.frac := rfl
@[simp] theorem State.setVf_free (s : State) (p : Nat) (v : Vf) : (s.setVf p v).free = s.free := rfl
@[simp] theorem State.setVf_regs (s : State) (p : Nat) (v : Vf) : (s.setVf p v).regs = s.regs := rfl
@[simp] theorem State.setVf_stamps (s : State) (p : Nat) (v : Vf) : (s.setVf p v).stamps = s.stamps := rfl
@[simp] theorem State.setVf_pending (s : State) (p : Nat) (v : Vf) : (s.setVf p v).pending = s.pending := rfl
@[simp] theorem State.setVf_out (s : State) (p : Nat) (v : Vf) : (s.setVf p v).out = s.out := rfl
@[simp] theorem State.setVf_dir (s : State) (p : Nat) (v : Vf) : (s.setVf p v).dir = s.dir := rfl
@[simp] theorem State.setVf_fol (s : State) (p : Nat) (v : Vf) : (s.setVf p v).fol = s.fol := rfl
@[simp] theorem State.setVf_spn (s : State) (p : Nat) (v : Vf) : (s.setVf p v).spn = s.spn := rfl
@[simp] theorem State.setVf_eng (s : State) (p : Nat) (v : Vf) : (s.setVf p v).eng = s.eng := rfl
@[simp] theorem State.setVf_txt (s : State) (p : Nat) (v : Vf) : (s.setVf p v).txt = s.txt := rfl
@[simp] theorem State.setVf_rcl (s : State) (p : Nat) (v : Vf) : (s.setVf p v).rcl = s.rcl := rfl
@[simp] theorem State.setVf_shp (s : State) (p : Nat) (v : Vf) : (s.setVf p v).shp = s.shp := rfl
@[simp] theorem State.setVf_ckp (s : State) (p : Nat) (v : Vf) : (s.setVf p v).ckp = s.ckp := rfl
@[simp] theorem State.setVf_bind (s : State) (p : Nat) (v : Vf) : (s.setVf p v).bind = s.bind := rfl
@[simp] theorem State.setVf_flt (s : State) (p : Nat) (v : Vf) : (s.setVf p v).flt = s.flt := rfl
@[simp] theorem State.setVf_sec (s : State) (p : Nat) (v : Vf) : (s.setVf p v).sec = s.sec := rfl
@[simp] theorem State.setVf_pwr (s : State) (p : Nat) (v : Vf) : (s.setVf p v).pwr = s.pwr := rfl
@[simp] theorem State.setVf_fab (s : State) (p : Nat) (v : Vf) : (s.setVf p v).fab = s.fab := rfl
@[simp] theorem State.setVf_ho (s : State) (p : Nat) (v : Vf) : (s.setVf p v).ho = s.ho := rfl
@[simp] theorem State.setVf_nvf (s : State) (p : Nat) (v : Vf) : (s.setVf p v).nvf = s.nvf := rfl

/-! ## State.setVerbs -/

@[simp] theorem State.setVerbs_now (s : State) (p : Nat) (l : List Verb) : (s.setVerbs p l).now = s.now := rfl
@[simp] theorem State.setVerbs_frac (s : State) (p : Nat) (l : List Verb) : (s.setVerbs p l).frac = s.frac := rfl
@[simp] theorem State.setVerbs_free (s : State) (p : Nat) (l : List Verb) : (s.setVerbs p l).free = s.free := rfl
@[simp] theorem State.setVerbs_regs (s : State) (p : Nat) (l : List Verb) : (s.setVerbs p l).regs = s.regs := rfl
@[simp] theorem State.setVerbs_stamps (s : State) (p : Nat) (l : List Verb) : (s.setVerbs p l).stamps = s.stamps := rfl
@[simp] theorem State.setVerbs_pending (s : State) (p : Nat) (l : List Verb) : (s.setVerbs p l).pending = s.pending := rfl
@[simp] theorem State.setVerbs_out (s : State) (p : Nat) (l : List Verb) : (s.setVerbs p l).out = s.out := rfl
@[simp] theorem State.setVerbs_dir (s : State) (p : Nat) (l : List Verb) : (s.setVerbs p l).dir = s.dir := rfl
@[simp] theorem State.setVerbs_fol (s : State) (p : Nat) (l : List Verb) : (s.setVerbs p l).fol = s.fol := rfl
@[simp] theorem State.setVerbs_spn (s : State) (p : Nat) (l : List Verb) : (s.setVerbs p l).spn = s.spn := rfl
@[simp] theorem State.setVerbs_eng (s : State) (p : Nat) (l : List Verb) : (s.setVerbs p l).eng = s.eng := rfl
@[simp] theorem State.setVerbs_txt (s : State) (p : Nat) (l : List Verb) : (s.setVerbs p l).txt = s.txt := rfl
@[simp] theorem State.setVerbs_rcl (s : State) (p : Nat) (l : List Verb) : (s.setVerbs p l).rcl = s.rcl := rfl
@[simp] theorem State.setVerbs_shp (s : State) (p : Nat) (l : List Verb) : (s.setVerbs p l).shp = s.shp := rfl
@[simp] theorem State.setVerbs_ckp (s : State) (p : Nat) (l : List Verb) : (s.setVerbs p l).ckp = s.ckp := rfl
@[simp] theorem State.setVerbs_bind (s : State) (p : Nat) (l : List Verb) : (s.setVerbs p l).bind = s.bind := rfl
@[simp] theorem State.setVerbs_flt (s : State) (p : Nat) (l : List Verb) : (s.setVerbs p l).flt = s.flt := rfl
@[simp] theorem State.setVerbs_sec (s : State) (p : Nat) (l : List Verb) : (s.setVerbs p l).sec = s.sec := rfl
@[simp] theorem State.setVerbs_pwr (s : State) (p : Nat) (l : List Verb) : (s.setVerbs p l).pwr = s.pwr := rfl
@[simp] theorem State.setVerbs_fab (s : State) (p : Nat) (l : List Verb) : (s.setVerbs p l).fab = s.fab := rfl
@[simp] theorem State.setVerbs_ho (s : State) (p : Nat) (l : List Verb) : (s.setVerbs p l).ho = s.ho := rfl
@[simp] theorem State.setVerbs_nvf (s : State) (p : Nat) (l : List Verb) : (s.setVerbs p l).nvf = s.nvf := rfl

/-! ## State.setRec -/

@[simp] theorem State.setRec_now (s : State) (d : Nat) (r : DirRec) : (s.setRec d r).now = s.now := rfl
@[simp] theorem State.setRec_frac (s : State) (d : Nat) (r : DirRec) : (s.setRec d r).frac = s.frac := rfl
@[simp] theorem State.setRec_free (s : State) (d : Nat) (r : DirRec) : (s.setRec d r).free = s.free := rfl
@[simp] theorem State.setRec_regs (s : State) (d : Nat) (r : DirRec) : (s.setRec d r).regs = s.regs := rfl
@[simp] theorem State.setRec_stamps (s : State) (d : Nat) (r : DirRec) : (s.setRec d r).stamps = s.stamps := rfl
@[simp] theorem State.setRec_pending (s : State) (d : Nat) (r : DirRec) : (s.setRec d r).pending = s.pending := rfl
@[simp] theorem State.setRec_out (s : State) (d : Nat) (r : DirRec) : (s.setRec d r).out = s.out := rfl
@[simp] theorem State.setRec_hif (s : State) (d : Nat) (r : DirRec) : (s.setRec d r).hif = s.hif := rfl
@[simp] theorem State.setRec_fol (s : State) (d : Nat) (r : DirRec) : (s.setRec d r).fol = s.fol := rfl
@[simp] theorem State.setRec_spn (s : State) (d : Nat) (r : DirRec) : (s.setRec d r).spn = s.spn := rfl
@[simp] theorem State.setRec_eng (s : State) (d : Nat) (r : DirRec) : (s.setRec d r).eng = s.eng := rfl
@[simp] theorem State.setRec_txt (s : State) (d : Nat) (r : DirRec) : (s.setRec d r).txt = s.txt := rfl
@[simp] theorem State.setRec_rcl (s : State) (d : Nat) (r : DirRec) : (s.setRec d r).rcl = s.rcl := rfl
@[simp] theorem State.setRec_shp (s : State) (d : Nat) (r : DirRec) : (s.setRec d r).shp = s.shp := rfl
@[simp] theorem State.setRec_ckp (s : State) (d : Nat) (r : DirRec) : (s.setRec d r).ckp = s.ckp := rfl
@[simp] theorem State.setRec_bind (s : State) (d : Nat) (r : DirRec) : (s.setRec d r).bind = s.bind := rfl
@[simp] theorem State.setRec_flt (s : State) (d : Nat) (r : DirRec) : (s.setRec d r).flt = s.flt := rfl
@[simp] theorem State.setRec_sec (s : State) (d : Nat) (r : DirRec) : (s.setRec d r).sec = s.sec := rfl
@[simp] theorem State.setRec_pwr (s : State) (d : Nat) (r : DirRec) : (s.setRec d r).pwr = s.pwr := rfl
@[simp] theorem State.setRec_fab (s : State) (d : Nat) (r : DirRec) : (s.setRec d r).fab = s.fab := rfl
@[simp] theorem State.setRec_ho (s : State) (d : Nat) (r : DirRec) : (s.setRec d r).ho = s.ho := rfl
@[simp] theorem State.setRec_nvf (s : State) (d : Nat) (r : DirRec) : (s.setRec d r).nvf = s.nvf := rfl

/-! ## State.setSession -/

@[simp] theorem State.setSession_now (s : State) (d : Nat) (x : Session) : (s.setSession d x).now = s.now := rfl
@[simp] theorem State.setSession_frac (s : State) (d : Nat) (x : Session) : (s.setSession d x).frac = s.frac := rfl
@[simp] theorem State.setSession_free (s : State) (d : Nat) (x : Session) : (s.setSession d x).free = s.free := rfl
@[simp] theorem State.setSession_regs (s : State) (d : Nat) (x : Session) : (s.setSession d x).regs = s.regs := rfl
@[simp] theorem State.setSession_stamps (s : State) (d : Nat) (x : Session) : (s.setSession d x).stamps = s.stamps := rfl
@[simp] theorem State.setSession_pending (s : State) (d : Nat) (x : Session) : (s.setSession d x).pending = s.pending := rfl
@[simp] theorem State.setSession_out (s : State) (d : Nat) (x : Session) : (s.setSession d x).out = s.out := rfl
@[simp] theorem State.setSession_hif (s : State) (d : Nat) (x : Session) : (s.setSession d x).hif = s.hif := rfl
@[simp] theorem State.setSession_fol (s : State) (d : Nat) (x : Session) : (s.setSession d x).fol = s.fol := rfl
@[simp] theorem State.setSession_spn (s : State) (d : Nat) (x : Session) : (s.setSession d x).spn = s.spn := rfl
@[simp] theorem State.setSession_eng (s : State) (d : Nat) (x : Session) : (s.setSession d x).eng = s.eng := rfl
@[simp] theorem State.setSession_txt (s : State) (d : Nat) (x : Session) : (s.setSession d x).txt = s.txt := rfl
@[simp] theorem State.setSession_rcl (s : State) (d : Nat) (x : Session) : (s.setSession d x).rcl = s.rcl := rfl
@[simp] theorem State.setSession_shp (s : State) (d : Nat) (x : Session) : (s.setSession d x).shp = s.shp := rfl
@[simp] theorem State.setSession_ckp (s : State) (d : Nat) (x : Session) : (s.setSession d x).ckp = s.ckp := rfl
@[simp] theorem State.setSession_bind (s : State) (d : Nat) (x : Session) : (s.setSession d x).bind = s.bind := rfl
@[simp] theorem State.setSession_flt (s : State) (d : Nat) (x : Session) : (s.setSession d x).flt = s.flt := rfl
@[simp] theorem State.setSession_sec (s : State) (d : Nat) (x : Session) : (s.setSession d x).sec = s.sec := rfl
@[simp] theorem State.setSession_pwr (s : State) (d : Nat) (x : Session) : (s.setSession d x).pwr = s.pwr := rfl
@[simp] theorem State.setSession_fab (s : State) (d : Nat) (x : Session) : (s.setSession d x).fab = s.fab := rfl
@[simp] theorem State.setSession_ho (s : State) (d : Nat) (x : Session) : (s.setSession d x).ho = s.ho := rfl
@[simp] theorem State.setSession_nvf (s : State) (d : Nat) (x : Session) : (s.setSession d x).nvf = s.nvf := rfl

/-! ## State.dropSession -/

@[simp] theorem State.dropSession_now (s : State) (d : Nat) : (s.dropSession d).now = s.now := rfl
@[simp] theorem State.dropSession_frac (s : State) (d : Nat) : (s.dropSession d).frac = s.frac := rfl
@[simp] theorem State.dropSession_free (s : State) (d : Nat) : (s.dropSession d).free = s.free := rfl
@[simp] theorem State.dropSession_regs (s : State) (d : Nat) : (s.dropSession d).regs = s.regs := rfl
@[simp] theorem State.dropSession_stamps (s : State) (d : Nat) : (s.dropSession d).stamps = s.stamps := rfl
@[simp] theorem State.dropSession_pending (s : State) (d : Nat) : (s.dropSession d).pending = s.pending := rfl
@[simp] theorem State.dropSession_out (s : State) (d : Nat) : (s.dropSession d).out = s.out := rfl
@[simp] theorem State.dropSession_hif (s : State) (d : Nat) : (s.dropSession d).hif = s.hif := rfl
@[simp] theorem State.dropSession_fol (s : State) (d : Nat) : (s.dropSession d).fol = s.fol := rfl
@[simp] theorem State.dropSession_spn (s : State) (d : Nat) : (s.dropSession d).spn = s.spn := rfl
@[simp] theorem State.dropSession_eng (s : State) (d : Nat) : (s.dropSession d).eng = s.eng := rfl
@[simp] theorem State.dropSession_txt (s : State) (d : Nat) : (s.dropSession d).txt = s.txt := rfl
@[simp] theorem State.dropSession_rcl (s : State) (d : Nat) : (s.dropSession d).rcl = s.rcl := rfl
@[simp] theorem State.dropSession_shp (s : State) (d : Nat) : (s.dropSession d).shp = s.shp := rfl
@[simp] theorem State.dropSession_ckp (s : State) (d : Nat) : (s.dropSession d).ckp = s.ckp := rfl
@[simp] theorem State.dropSession_bind (s : State) (d : Nat) : (s.dropSession d).bind = s.bind := rfl
@[simp] theorem State.dropSession_flt (s : State) (d : Nat) : (s.dropSession d).flt = s.flt := rfl
@[simp] theorem State.dropSession_sec (s : State) (d : Nat) : (s.dropSession d).sec = s.sec := rfl
@[simp] theorem State.dropSession_pwr (s : State) (d : Nat) : (s.dropSession d).pwr = s.pwr := rfl
@[simp] theorem State.dropSession_fab (s : State) (d : Nat) : (s.dropSession d).fab = s.fab := rfl
@[simp] theorem State.dropSession_ho (s : State) (d : Nat) : (s.dropSession d).ho = s.ho := rfl
@[simp] theorem State.dropSession_nvf (s : State) (d : Nat) : (s.dropSession d).nvf = s.nvf := rfl

/-! ## State.setFolio -/

@[simp] theorem State.setFolio_now (s : State) (i : Nat) (f : Folio) : (s.setFolio i f).now = s.now := rfl
@[simp] theorem State.setFolio_frac (s : State) (i : Nat) (f : Folio) : (s.setFolio i f).frac = s.frac := rfl
@[simp] theorem State.setFolio_free (s : State) (i : Nat) (f : Folio) : (s.setFolio i f).free = s.free := rfl
@[simp] theorem State.setFolio_regs (s : State) (i : Nat) (f : Folio) : (s.setFolio i f).regs = s.regs := rfl
@[simp] theorem State.setFolio_stamps (s : State) (i : Nat) (f : Folio) : (s.setFolio i f).stamps = s.stamps := rfl
@[simp] theorem State.setFolio_pending (s : State) (i : Nat) (f : Folio) : (s.setFolio i f).pending = s.pending := rfl
@[simp] theorem State.setFolio_out (s : State) (i : Nat) (f : Folio) : (s.setFolio i f).out = s.out := rfl
@[simp] theorem State.setFolio_hif (s : State) (i : Nat) (f : Folio) : (s.setFolio i f).hif = s.hif := rfl
@[simp] theorem State.setFolio_dir (s : State) (i : Nat) (f : Folio) : (s.setFolio i f).dir = s.dir := rfl
@[simp] theorem State.setFolio_spn (s : State) (i : Nat) (f : Folio) : (s.setFolio i f).spn = s.spn := rfl
@[simp] theorem State.setFolio_eng (s : State) (i : Nat) (f : Folio) : (s.setFolio i f).eng = s.eng := rfl
@[simp] theorem State.setFolio_txt (s : State) (i : Nat) (f : Folio) : (s.setFolio i f).txt = s.txt := rfl
@[simp] theorem State.setFolio_rcl (s : State) (i : Nat) (f : Folio) : (s.setFolio i f).rcl = s.rcl := rfl
@[simp] theorem State.setFolio_shp (s : State) (i : Nat) (f : Folio) : (s.setFolio i f).shp = s.shp := rfl
@[simp] theorem State.setFolio_ckp (s : State) (i : Nat) (f : Folio) : (s.setFolio i f).ckp = s.ckp := rfl
@[simp] theorem State.setFolio_bind (s : State) (i : Nat) (f : Folio) : (s.setFolio i f).bind = s.bind := rfl
@[simp] theorem State.setFolio_flt (s : State) (i : Nat) (f : Folio) : (s.setFolio i f).flt = s.flt := rfl
@[simp] theorem State.setFolio_sec (s : State) (i : Nat) (f : Folio) : (s.setFolio i f).sec = s.sec := rfl
@[simp] theorem State.setFolio_pwr (s : State) (i : Nat) (f : Folio) : (s.setFolio i f).pwr = s.pwr := rfl
@[simp] theorem State.setFolio_fab (s : State) (i : Nat) (f : Folio) : (s.setFolio i f).fab = s.fab := rfl
@[simp] theorem State.setFolio_ho (s : State) (i : Nat) (f : Folio) : (s.setFolio i f).ho = s.ho := rfl
@[simp] theorem State.setFolio_nvf (s : State) (i : Nat) (f : Folio) : (s.setFolio i f).nvf = s.nvf := rfl

/-! ## State.setFolPart -/

@[simp] theorem State.setFolPart_now (s : State) (p : Nat) (x : FolPart) : (s.setFolPart p x).now = s.now := rfl
@[simp] theorem State.setFolPart_frac (s : State) (p : Nat) (x : FolPart) : (s.setFolPart p x).frac = s.frac := rfl
@[simp] theorem State.setFolPart_free (s : State) (p : Nat) (x : FolPart) : (s.setFolPart p x).free = s.free := rfl
@[simp] theorem State.setFolPart_regs (s : State) (p : Nat) (x : FolPart) : (s.setFolPart p x).regs = s.regs := rfl
@[simp] theorem State.setFolPart_stamps (s : State) (p : Nat) (x : FolPart) : (s.setFolPart p x).stamps = s.stamps := rfl
@[simp] theorem State.setFolPart_pending (s : State) (p : Nat) (x : FolPart) : (s.setFolPart p x).pending = s.pending := rfl
@[simp] theorem State.setFolPart_out (s : State) (p : Nat) (x : FolPart) : (s.setFolPart p x).out = s.out := rfl
@[simp] theorem State.setFolPart_hif (s : State) (p : Nat) (x : FolPart) : (s.setFolPart p x).hif = s.hif := rfl
@[simp] theorem State.setFolPart_dir (s : State) (p : Nat) (x : FolPart) : (s.setFolPart p x).dir = s.dir := rfl
@[simp] theorem State.setFolPart_spn (s : State) (p : Nat) (x : FolPart) : (s.setFolPart p x).spn = s.spn := rfl
@[simp] theorem State.setFolPart_eng (s : State) (p : Nat) (x : FolPart) : (s.setFolPart p x).eng = s.eng := rfl
@[simp] theorem State.setFolPart_txt (s : State) (p : Nat) (x : FolPart) : (s.setFolPart p x).txt = s.txt := rfl
@[simp] theorem State.setFolPart_rcl (s : State) (p : Nat) (x : FolPart) : (s.setFolPart p x).rcl = s.rcl := rfl
@[simp] theorem State.setFolPart_shp (s : State) (p : Nat) (x : FolPart) : (s.setFolPart p x).shp = s.shp := rfl
@[simp] theorem State.setFolPart_ckp (s : State) (p : Nat) (x : FolPart) : (s.setFolPart p x).ckp = s.ckp := rfl
@[simp] theorem State.setFolPart_bind (s : State) (p : Nat) (x : FolPart) : (s.setFolPart p x).bind = s.bind := rfl
@[simp] theorem State.setFolPart_flt (s : State) (p : Nat) (x : FolPart) : (s.setFolPart p x).flt = s.flt := rfl
@[simp] theorem State.setFolPart_sec (s : State) (p : Nat) (x : FolPart) : (s.setFolPart p x).sec = s.sec := rfl
@[simp] theorem State.setFolPart_pwr (s : State) (p : Nat) (x : FolPart) : (s.setFolPart p x).pwr = s.pwr := rfl
@[simp] theorem State.setFolPart_fab (s : State) (p : Nat) (x : FolPart) : (s.setFolPart p x).fab = s.fab := rfl
@[simp] theorem State.setFolPart_ho (s : State) (p : Nat) (x : FolPart) : (s.setFolPart p x).ho = s.ho := rfl
@[simp] theorem State.setFolPart_nvf (s : State) (p : Nat) (x : FolPart) : (s.setFolPart p x).nvf = s.nvf := rfl

/-! ## State.setSpn -/

@[simp] theorem State.setSpn_now (s : State) (p : Nat) (x : SpnPart) : (s.setSpn p x).now = s.now := rfl
@[simp] theorem State.setSpn_frac (s : State) (p : Nat) (x : SpnPart) : (s.setSpn p x).frac = s.frac := rfl
@[simp] theorem State.setSpn_free (s : State) (p : Nat) (x : SpnPart) : (s.setSpn p x).free = s.free := rfl
@[simp] theorem State.setSpn_regs (s : State) (p : Nat) (x : SpnPart) : (s.setSpn p x).regs = s.regs := rfl
@[simp] theorem State.setSpn_stamps (s : State) (p : Nat) (x : SpnPart) : (s.setSpn p x).stamps = s.stamps := rfl
@[simp] theorem State.setSpn_pending (s : State) (p : Nat) (x : SpnPart) : (s.setSpn p x).pending = s.pending := rfl
@[simp] theorem State.setSpn_out (s : State) (p : Nat) (x : SpnPart) : (s.setSpn p x).out = s.out := rfl
@[simp] theorem State.setSpn_hif (s : State) (p : Nat) (x : SpnPart) : (s.setSpn p x).hif = s.hif := rfl
@[simp] theorem State.setSpn_dir (s : State) (p : Nat) (x : SpnPart) : (s.setSpn p x).dir = s.dir := rfl
@[simp] theorem State.setSpn_fol (s : State) (p : Nat) (x : SpnPart) : (s.setSpn p x).fol = s.fol := rfl
@[simp] theorem State.setSpn_eng (s : State) (p : Nat) (x : SpnPart) : (s.setSpn p x).eng = s.eng := rfl
@[simp] theorem State.setSpn_txt (s : State) (p : Nat) (x : SpnPart) : (s.setSpn p x).txt = s.txt := rfl
@[simp] theorem State.setSpn_rcl (s : State) (p : Nat) (x : SpnPart) : (s.setSpn p x).rcl = s.rcl := rfl
@[simp] theorem State.setSpn_shp (s : State) (p : Nat) (x : SpnPart) : (s.setSpn p x).shp = s.shp := rfl
@[simp] theorem State.setSpn_ckp (s : State) (p : Nat) (x : SpnPart) : (s.setSpn p x).ckp = s.ckp := rfl
@[simp] theorem State.setSpn_bind (s : State) (p : Nat) (x : SpnPart) : (s.setSpn p x).bind = s.bind := rfl
@[simp] theorem State.setSpn_flt (s : State) (p : Nat) (x : SpnPart) : (s.setSpn p x).flt = s.flt := rfl
@[simp] theorem State.setSpn_sec (s : State) (p : Nat) (x : SpnPart) : (s.setSpn p x).sec = s.sec := rfl
@[simp] theorem State.setSpn_pwr (s : State) (p : Nat) (x : SpnPart) : (s.setSpn p x).pwr = s.pwr := rfl
@[simp] theorem State.setSpn_fab (s : State) (p : Nat) (x : SpnPart) : (s.setSpn p x).fab = s.fab := rfl
@[simp] theorem State.setSpn_ho (s : State) (p : Nat) (x : SpnPart) : (s.setSpn p x).ho = s.ho := rfl
@[simp] theorem State.setSpn_nvf (s : State) (p : Nat) (x : SpnPart) : (s.setSpn p x).nvf = s.nvf := rfl

/-! ## State.setEng -/

@[simp] theorem State.setEng_now (s : State) (e : Nat) (x : Engine) : (s.setEng e x).now = s.now := rfl
@[simp] theorem State.setEng_frac (s : State) (e : Nat) (x : Engine) : (s.setEng e x).frac = s.frac := rfl
@[simp] theorem State.setEng_free (s : State) (e : Nat) (x : Engine) : (s.setEng e x).free = s.free := rfl
@[simp] theorem State.setEng_regs (s : State) (e : Nat) (x : Engine) : (s.setEng e x).regs = s.regs := rfl
@[simp] theorem State.setEng_stamps (s : State) (e : Nat) (x : Engine) : (s.setEng e x).stamps = s.stamps := rfl
@[simp] theorem State.setEng_pending (s : State) (e : Nat) (x : Engine) : (s.setEng e x).pending = s.pending := rfl
@[simp] theorem State.setEng_out (s : State) (e : Nat) (x : Engine) : (s.setEng e x).out = s.out := rfl
@[simp] theorem State.setEng_hif (s : State) (e : Nat) (x : Engine) : (s.setEng e x).hif = s.hif := rfl
@[simp] theorem State.setEng_dir (s : State) (e : Nat) (x : Engine) : (s.setEng e x).dir = s.dir := rfl
@[simp] theorem State.setEng_fol (s : State) (e : Nat) (x : Engine) : (s.setEng e x).fol = s.fol := rfl
@[simp] theorem State.setEng_spn (s : State) (e : Nat) (x : Engine) : (s.setEng e x).spn = s.spn := rfl
@[simp] theorem State.setEng_txt (s : State) (e : Nat) (x : Engine) : (s.setEng e x).txt = s.txt := rfl
@[simp] theorem State.setEng_rcl (s : State) (e : Nat) (x : Engine) : (s.setEng e x).rcl = s.rcl := rfl
@[simp] theorem State.setEng_shp (s : State) (e : Nat) (x : Engine) : (s.setEng e x).shp = s.shp := rfl
@[simp] theorem State.setEng_ckp (s : State) (e : Nat) (x : Engine) : (s.setEng e x).ckp = s.ckp := rfl
@[simp] theorem State.setEng_bind (s : State) (e : Nat) (x : Engine) : (s.setEng e x).bind = s.bind := rfl
@[simp] theorem State.setEng_flt (s : State) (e : Nat) (x : Engine) : (s.setEng e x).flt = s.flt := rfl
@[simp] theorem State.setEng_sec (s : State) (e : Nat) (x : Engine) : (s.setEng e x).sec = s.sec := rfl
@[simp] theorem State.setEng_pwr (s : State) (e : Nat) (x : Engine) : (s.setEng e x).pwr = s.pwr := rfl
@[simp] theorem State.setEng_fab (s : State) (e : Nat) (x : Engine) : (s.setEng e x).fab = s.fab := rfl
@[simp] theorem State.setEng_ho (s : State) (e : Nat) (x : Engine) : (s.setEng e x).ho = s.ho := rfl
@[simp] theorem State.setEng_nvf (s : State) (e : Nat) (x : Engine) : (s.setEng e x).nvf = s.nvf := rfl

/-! ## State.setTxtPart -/

@[simp] theorem State.setTxtPart_now (s : State) (p : Nat) (x : TxtPart) : (s.setTxtPart p x).now = s.now := rfl
@[simp] theorem State.setTxtPart_frac (s : State) (p : Nat) (x : TxtPart) : (s.setTxtPart p x).frac = s.frac := rfl
@[simp] theorem State.setTxtPart_free (s : State) (p : Nat) (x : TxtPart) : (s.setTxtPart p x).free = s.free := rfl
@[simp] theorem State.setTxtPart_regs (s : State) (p : Nat) (x : TxtPart) : (s.setTxtPart p x).regs = s.regs := rfl
@[simp] theorem State.setTxtPart_stamps (s : State) (p : Nat) (x : TxtPart) : (s.setTxtPart p x).stamps = s.stamps := rfl
@[simp] theorem State.setTxtPart_pending (s : State) (p : Nat) (x : TxtPart) : (s.setTxtPart p x).pending = s.pending := rfl
@[simp] theorem State.setTxtPart_out (s : State) (p : Nat) (x : TxtPart) : (s.setTxtPart p x).out = s.out := rfl
@[simp] theorem State.setTxtPart_hif (s : State) (p : Nat) (x : TxtPart) : (s.setTxtPart p x).hif = s.hif := rfl
@[simp] theorem State.setTxtPart_dir (s : State) (p : Nat) (x : TxtPart) : (s.setTxtPart p x).dir = s.dir := rfl
@[simp] theorem State.setTxtPart_fol (s : State) (p : Nat) (x : TxtPart) : (s.setTxtPart p x).fol = s.fol := rfl
@[simp] theorem State.setTxtPart_spn (s : State) (p : Nat) (x : TxtPart) : (s.setTxtPart p x).spn = s.spn := rfl
@[simp] theorem State.setTxtPart_eng (s : State) (p : Nat) (x : TxtPart) : (s.setTxtPart p x).eng = s.eng := rfl
@[simp] theorem State.setTxtPart_rcl (s : State) (p : Nat) (x : TxtPart) : (s.setTxtPart p x).rcl = s.rcl := rfl
@[simp] theorem State.setTxtPart_shp (s : State) (p : Nat) (x : TxtPart) : (s.setTxtPart p x).shp = s.shp := rfl
@[simp] theorem State.setTxtPart_ckp (s : State) (p : Nat) (x : TxtPart) : (s.setTxtPart p x).ckp = s.ckp := rfl
@[simp] theorem State.setTxtPart_bind (s : State) (p : Nat) (x : TxtPart) : (s.setTxtPart p x).bind = s.bind := rfl
@[simp] theorem State.setTxtPart_flt (s : State) (p : Nat) (x : TxtPart) : (s.setTxtPart p x).flt = s.flt := rfl
@[simp] theorem State.setTxtPart_sec (s : State) (p : Nat) (x : TxtPart) : (s.setTxtPart p x).sec = s.sec := rfl
@[simp] theorem State.setTxtPart_pwr (s : State) (p : Nat) (x : TxtPart) : (s.setTxtPart p x).pwr = s.pwr := rfl
@[simp] theorem State.setTxtPart_fab (s : State) (p : Nat) (x : TxtPart) : (s.setTxtPart p x).fab = s.fab := rfl
@[simp] theorem State.setTxtPart_ho (s : State) (p : Nat) (x : TxtPart) : (s.setTxtPart p x).ho = s.ho := rfl
@[simp] theorem State.setTxtPart_nvf (s : State) (p : Nat) (x : TxtPart) : (s.setTxtPart p x).nvf = s.nvf := rfl

/-! ## State.setCkp -/

@[simp] theorem State.setCkp_now (s : State) (p : Nat) (x : CkpPart) : (s.setCkp p x).now = s.now := rfl
@[simp] theorem State.setCkp_frac (s : State) (p : Nat) (x : CkpPart) : (s.setCkp p x).frac = s.frac := rfl
@[simp] theorem State.setCkp_free (s : State) (p : Nat) (x : CkpPart) : (s.setCkp p x).free = s.free := rfl
@[simp] theorem State.setCkp_regs (s : State) (p : Nat) (x : CkpPart) : (s.setCkp p x).regs = s.regs := rfl
@[simp] theorem State.setCkp_stamps (s : State) (p : Nat) (x : CkpPart) : (s.setCkp p x).stamps = s.stamps := rfl
@[simp] theorem State.setCkp_pending (s : State) (p : Nat) (x : CkpPart) : (s.setCkp p x).pending = s.pending := rfl
@[simp] theorem State.setCkp_out (s : State) (p : Nat) (x : CkpPart) : (s.setCkp p x).out = s.out := rfl
@[simp] theorem State.setCkp_hif (s : State) (p : Nat) (x : CkpPart) : (s.setCkp p x).hif = s.hif := rfl
@[simp] theorem State.setCkp_dir (s : State) (p : Nat) (x : CkpPart) : (s.setCkp p x).dir = s.dir := rfl
@[simp] theorem State.setCkp_fol (s : State) (p : Nat) (x : CkpPart) : (s.setCkp p x).fol = s.fol := rfl
@[simp] theorem State.setCkp_spn (s : State) (p : Nat) (x : CkpPart) : (s.setCkp p x).spn = s.spn := rfl
@[simp] theorem State.setCkp_eng (s : State) (p : Nat) (x : CkpPart) : (s.setCkp p x).eng = s.eng := rfl
@[simp] theorem State.setCkp_txt (s : State) (p : Nat) (x : CkpPart) : (s.setCkp p x).txt = s.txt := rfl
@[simp] theorem State.setCkp_rcl (s : State) (p : Nat) (x : CkpPart) : (s.setCkp p x).rcl = s.rcl := rfl
@[simp] theorem State.setCkp_shp (s : State) (p : Nat) (x : CkpPart) : (s.setCkp p x).shp = s.shp := rfl
@[simp] theorem State.setCkp_bind (s : State) (p : Nat) (x : CkpPart) : (s.setCkp p x).bind = s.bind := rfl
@[simp] theorem State.setCkp_flt (s : State) (p : Nat) (x : CkpPart) : (s.setCkp p x).flt = s.flt := rfl
@[simp] theorem State.setCkp_sec (s : State) (p : Nat) (x : CkpPart) : (s.setCkp p x).sec = s.sec := rfl
@[simp] theorem State.setCkp_pwr (s : State) (p : Nat) (x : CkpPart) : (s.setCkp p x).pwr = s.pwr := rfl
@[simp] theorem State.setCkp_fab (s : State) (p : Nat) (x : CkpPart) : (s.setCkp p x).fab = s.fab := rfl
@[simp] theorem State.setCkp_ho (s : State) (p : Nat) (x : CkpPart) : (s.setCkp p x).ho = s.ho := rfl
@[simp] theorem State.setCkp_nvf (s : State) (p : Nat) (x : CkpPart) : (s.setCkp p x).nvf = s.nvf := rfl

/-! ## State.setRecPart -/

@[simp] theorem State.setRecPart_now (s : State) (p : Nat) (x : RecPart) : (s.setRecPart p x).now = s.now := rfl
@[simp] theorem State.setRecPart_frac (s : State) (p : Nat) (x : RecPart) : (s.setRecPart p x).frac = s.frac := rfl
@[simp] theorem State.setRecPart_free (s : State) (p : Nat) (x : RecPart) : (s.setRecPart p x).free = s.free := rfl
@[simp] theorem State.setRecPart_regs (s : State) (p : Nat) (x : RecPart) : (s.setRecPart p x).regs = s.regs := rfl
@[simp] theorem State.setRecPart_stamps (s : State) (p : Nat) (x : RecPart) : (s.setRecPart p x).stamps = s.stamps := rfl
@[simp] theorem State.setRecPart_pending (s : State) (p : Nat) (x : RecPart) : (s.setRecPart p x).pending = s.pending := rfl
@[simp] theorem State.setRecPart_out (s : State) (p : Nat) (x : RecPart) : (s.setRecPart p x).out = s.out := rfl
@[simp] theorem State.setRecPart_hif (s : State) (p : Nat) (x : RecPart) : (s.setRecPart p x).hif = s.hif := rfl
@[simp] theorem State.setRecPart_dir (s : State) (p : Nat) (x : RecPart) : (s.setRecPart p x).dir = s.dir := rfl
@[simp] theorem State.setRecPart_fol (s : State) (p : Nat) (x : RecPart) : (s.setRecPart p x).fol = s.fol := rfl
@[simp] theorem State.setRecPart_spn (s : State) (p : Nat) (x : RecPart) : (s.setRecPart p x).spn = s.spn := rfl
@[simp] theorem State.setRecPart_eng (s : State) (p : Nat) (x : RecPart) : (s.setRecPart p x).eng = s.eng := rfl
@[simp] theorem State.setRecPart_txt (s : State) (p : Nat) (x : RecPart) : (s.setRecPart p x).txt = s.txt := rfl
@[simp] theorem State.setRecPart_rcl (s : State) (p : Nat) (x : RecPart) : (s.setRecPart p x).rcl = s.rcl := rfl
@[simp] theorem State.setRecPart_shp (s : State) (p : Nat) (x : RecPart) : (s.setRecPart p x).shp = s.shp := rfl
@[simp] theorem State.setRecPart_ckp (s : State) (p : Nat) (x : RecPart) : (s.setRecPart p x).ckp = s.ckp := rfl
@[simp] theorem State.setRecPart_bind (s : State) (p : Nat) (x : RecPart) : (s.setRecPart p x).bind = s.bind := rfl
@[simp] theorem State.setRecPart_sec (s : State) (p : Nat) (x : RecPart) : (s.setRecPart p x).sec = s.sec := rfl
@[simp] theorem State.setRecPart_pwr (s : State) (p : Nat) (x : RecPart) : (s.setRecPart p x).pwr = s.pwr := rfl
@[simp] theorem State.setRecPart_fab (s : State) (p : Nat) (x : RecPart) : (s.setRecPart p x).fab = s.fab := rfl
@[simp] theorem State.setRecPart_ho (s : State) (p : Nat) (x : RecPart) : (s.setRecPart p x).ho = s.ho := rfl
@[simp] theorem State.setRecPart_nvf (s : State) (p : Nat) (x : RecPart) : (s.setRecPart p x).nvf = s.nvf := rfl

/-! ## State.setLink -/

@[simp] theorem State.setLink_now (s : State) (l : Nat) (x : Link) : (s.setLink l x).now = s.now := rfl
@[simp] theorem State.setLink_frac (s : State) (l : Nat) (x : Link) : (s.setLink l x).frac = s.frac := rfl
@[simp] theorem State.setLink_free (s : State) (l : Nat) (x : Link) : (s.setLink l x).free = s.free := rfl
@[simp] theorem State.setLink_regs (s : State) (l : Nat) (x : Link) : (s.setLink l x).regs = s.regs := rfl
@[simp] theorem State.setLink_stamps (s : State) (l : Nat) (x : Link) : (s.setLink l x).stamps = s.stamps := rfl
@[simp] theorem State.setLink_pending (s : State) (l : Nat) (x : Link) : (s.setLink l x).pending = s.pending := rfl
@[simp] theorem State.setLink_out (s : State) (l : Nat) (x : Link) : (s.setLink l x).out = s.out := rfl
@[simp] theorem State.setLink_hif (s : State) (l : Nat) (x : Link) : (s.setLink l x).hif = s.hif := rfl
@[simp] theorem State.setLink_dir (s : State) (l : Nat) (x : Link) : (s.setLink l x).dir = s.dir := rfl
@[simp] theorem State.setLink_fol (s : State) (l : Nat) (x : Link) : (s.setLink l x).fol = s.fol := rfl
@[simp] theorem State.setLink_spn (s : State) (l : Nat) (x : Link) : (s.setLink l x).spn = s.spn := rfl
@[simp] theorem State.setLink_eng (s : State) (l : Nat) (x : Link) : (s.setLink l x).eng = s.eng := rfl
@[simp] theorem State.setLink_txt (s : State) (l : Nat) (x : Link) : (s.setLink l x).txt = s.txt := rfl
@[simp] theorem State.setLink_rcl (s : State) (l : Nat) (x : Link) : (s.setLink l x).rcl = s.rcl := rfl
@[simp] theorem State.setLink_shp (s : State) (l : Nat) (x : Link) : (s.setLink l x).shp = s.shp := rfl
@[simp] theorem State.setLink_ckp (s : State) (l : Nat) (x : Link) : (s.setLink l x).ckp = s.ckp := rfl
@[simp] theorem State.setLink_bind (s : State) (l : Nat) (x : Link) : (s.setLink l x).bind = s.bind := rfl
@[simp] theorem State.setLink_flt (s : State) (l : Nat) (x : Link) : (s.setLink l x).flt = s.flt := rfl
@[simp] theorem State.setLink_sec (s : State) (l : Nat) (x : Link) : (s.setLink l x).sec = s.sec := rfl
@[simp] theorem State.setLink_pwr (s : State) (l : Nat) (x : Link) : (s.setLink l x).pwr = s.pwr := rfl
@[simp] theorem State.setLink_ho (s : State) (l : Nat) (x : Link) : (s.setLink l x).ho = s.ho := rfl
@[simp] theorem State.setLink_nvf (s : State) (l : Nat) (x : Link) : (s.setLink l x).nvf = s.nvf := rfl

/-! ## State.setChan -/

@[simp] theorem State.setChan_now (s : State) (c : Nat) (x : Chan) : (s.setChan c x).now = s.now := rfl
@[simp] theorem State.setChan_frac (s : State) (c : Nat) (x : Chan) : (s.setChan c x).frac = s.frac := rfl
@[simp] theorem State.setChan_free (s : State) (c : Nat) (x : Chan) : (s.setChan c x).free = s.free := rfl
@[simp] theorem State.setChan_regs (s : State) (c : Nat) (x : Chan) : (s.setChan c x).regs = s.regs := rfl
@[simp] theorem State.setChan_stamps (s : State) (c : Nat) (x : Chan) : (s.setChan c x).stamps = s.stamps := rfl
@[simp] theorem State.setChan_pending (s : State) (c : Nat) (x : Chan) : (s.setChan c x).pending = s.pending := rfl
@[simp] theorem State.setChan_out (s : State) (c : Nat) (x : Chan) : (s.setChan c x).out = s.out := rfl
@[simp] theorem State.setChan_hif (s : State) (c : Nat) (x : Chan) : (s.setChan c x).hif = s.hif := rfl
@[simp] theorem State.setChan_dir (s : State) (c : Nat) (x : Chan) : (s.setChan c x).dir = s.dir := rfl
@[simp] theorem State.setChan_fol (s : State) (c : Nat) (x : Chan) : (s.setChan c x).fol = s.fol := rfl
@[simp] theorem State.setChan_spn (s : State) (c : Nat) (x : Chan) : (s.setChan c x).spn = s.spn := rfl
@[simp] theorem State.setChan_eng (s : State) (c : Nat) (x : Chan) : (s.setChan c x).eng = s.eng := rfl
@[simp] theorem State.setChan_txt (s : State) (c : Nat) (x : Chan) : (s.setChan c x).txt = s.txt := rfl
@[simp] theorem State.setChan_rcl (s : State) (c : Nat) (x : Chan) : (s.setChan c x).rcl = s.rcl := rfl
@[simp] theorem State.setChan_shp (s : State) (c : Nat) (x : Chan) : (s.setChan c x).shp = s.shp := rfl
@[simp] theorem State.setChan_ckp (s : State) (c : Nat) (x : Chan) : (s.setChan c x).ckp = s.ckp := rfl
@[simp] theorem State.setChan_bind (s : State) (c : Nat) (x : Chan) : (s.setChan c x).bind = s.bind := rfl
@[simp] theorem State.setChan_flt (s : State) (c : Nat) (x : Chan) : (s.setChan c x).flt = s.flt := rfl
@[simp] theorem State.setChan_sec (s : State) (c : Nat) (x : Chan) : (s.setChan c x).sec = s.sec := rfl
@[simp] theorem State.setChan_pwr (s : State) (c : Nat) (x : Chan) : (s.setChan c x).pwr = s.pwr := rfl
@[simp] theorem State.setChan_fab (s : State) (c : Nat) (x : Chan) : (s.setChan c x).fab = s.fab := rfl
@[simp] theorem State.setChan_ho (s : State) (c : Nat) (x : Chan) : (s.setChan c x).ho = s.ho := rfl

/-! ## State.setKeys -/

@[simp] theorem State.setKeys_now (s : State) (p : Nat) (k : PartKeys) : (s.setKeys p k).now = s.now := rfl
@[simp] theorem State.setKeys_frac (s : State) (p : Nat) (k : PartKeys) : (s.setKeys p k).frac = s.frac := rfl
@[simp] theorem State.setKeys_free (s : State) (p : Nat) (k : PartKeys) : (s.setKeys p k).free = s.free := rfl
@[simp] theorem State.setKeys_regs (s : State) (p : Nat) (k : PartKeys) : (s.setKeys p k).regs = s.regs := rfl
@[simp] theorem State.setKeys_stamps (s : State) (p : Nat) (k : PartKeys) : (s.setKeys p k).stamps = s.stamps := rfl
@[simp] theorem State.setKeys_pending (s : State) (p : Nat) (k : PartKeys) : (s.setKeys p k).pending = s.pending := rfl
@[simp] theorem State.setKeys_out (s : State) (p : Nat) (k : PartKeys) : (s.setKeys p k).out = s.out := rfl
@[simp] theorem State.setKeys_hif (s : State) (p : Nat) (k : PartKeys) : (s.setKeys p k).hif = s.hif := rfl
@[simp] theorem State.setKeys_dir (s : State) (p : Nat) (k : PartKeys) : (s.setKeys p k).dir = s.dir := rfl
@[simp] theorem State.setKeys_fol (s : State) (p : Nat) (k : PartKeys) : (s.setKeys p k).fol = s.fol := rfl
@[simp] theorem State.setKeys_spn (s : State) (p : Nat) (k : PartKeys) : (s.setKeys p k).spn = s.spn := rfl
@[simp] theorem State.setKeys_eng (s : State) (p : Nat) (k : PartKeys) : (s.setKeys p k).eng = s.eng := rfl
@[simp] theorem State.setKeys_txt (s : State) (p : Nat) (k : PartKeys) : (s.setKeys p k).txt = s.txt := rfl
@[simp] theorem State.setKeys_rcl (s : State) (p : Nat) (k : PartKeys) : (s.setKeys p k).rcl = s.rcl := rfl
@[simp] theorem State.setKeys_shp (s : State) (p : Nat) (k : PartKeys) : (s.setKeys p k).shp = s.shp := rfl
@[simp] theorem State.setKeys_ckp (s : State) (p : Nat) (k : PartKeys) : (s.setKeys p k).ckp = s.ckp := rfl
@[simp] theorem State.setKeys_bind (s : State) (p : Nat) (k : PartKeys) : (s.setKeys p k).bind = s.bind := rfl
@[simp] theorem State.setKeys_flt (s : State) (p : Nat) (k : PartKeys) : (s.setKeys p k).flt = s.flt := rfl
@[simp] theorem State.setKeys_pwr (s : State) (p : Nat) (k : PartKeys) : (s.setKeys p k).pwr = s.pwr := rfl
@[simp] theorem State.setKeys_fab (s : State) (p : Nat) (k : PartKeys) : (s.setKeys p k).fab = s.fab := rfl
@[simp] theorem State.setKeys_ho (s : State) (p : Nat) (k : PartKeys) : (s.setKeys p k).ho = s.ho := rfl
@[simp] theorem State.setKeys_nvf (s : State) (p : Nat) (k : PartKeys) : (s.setKeys p k).nvf = s.nvf := rfl

/-! ## State.setIndexes -/

@[simp] theorem State.setIndexes_now (s : State) (p : Nat) (t : Tab RIndex) : (s.setIndexes p t).now = s.now := rfl
@[simp] theorem State.setIndexes_frac (s : State) (p : Nat) (t : Tab RIndex) : (s.setIndexes p t).frac = s.frac := rfl
@[simp] theorem State.setIndexes_free (s : State) (p : Nat) (t : Tab RIndex) : (s.setIndexes p t).free = s.free := rfl
@[simp] theorem State.setIndexes_regs (s : State) (p : Nat) (t : Tab RIndex) : (s.setIndexes p t).regs = s.regs := rfl
@[simp] theorem State.setIndexes_stamps (s : State) (p : Nat) (t : Tab RIndex) : (s.setIndexes p t).stamps = s.stamps := rfl
@[simp] theorem State.setIndexes_pending (s : State) (p : Nat) (t : Tab RIndex) : (s.setIndexes p t).pending = s.pending := rfl
@[simp] theorem State.setIndexes_out (s : State) (p : Nat) (t : Tab RIndex) : (s.setIndexes p t).out = s.out := rfl
@[simp] theorem State.setIndexes_hif (s : State) (p : Nat) (t : Tab RIndex) : (s.setIndexes p t).hif = s.hif := rfl
@[simp] theorem State.setIndexes_dir (s : State) (p : Nat) (t : Tab RIndex) : (s.setIndexes p t).dir = s.dir := rfl
@[simp] theorem State.setIndexes_fol (s : State) (p : Nat) (t : Tab RIndex) : (s.setIndexes p t).fol = s.fol := rfl
@[simp] theorem State.setIndexes_spn (s : State) (p : Nat) (t : Tab RIndex) : (s.setIndexes p t).spn = s.spn := rfl
@[simp] theorem State.setIndexes_eng (s : State) (p : Nat) (t : Tab RIndex) : (s.setIndexes p t).eng = s.eng := rfl
@[simp] theorem State.setIndexes_txt (s : State) (p : Nat) (t : Tab RIndex) : (s.setIndexes p t).txt = s.txt := rfl
@[simp] theorem State.setIndexes_shp (s : State) (p : Nat) (t : Tab RIndex) : (s.setIndexes p t).shp = s.shp := rfl
@[simp] theorem State.setIndexes_ckp (s : State) (p : Nat) (t : Tab RIndex) : (s.setIndexes p t).ckp = s.ckp := rfl
@[simp] theorem State.setIndexes_bind (s : State) (p : Nat) (t : Tab RIndex) : (s.setIndexes p t).bind = s.bind := rfl
@[simp] theorem State.setIndexes_flt (s : State) (p : Nat) (t : Tab RIndex) : (s.setIndexes p t).flt = s.flt := rfl
@[simp] theorem State.setIndexes_sec (s : State) (p : Nat) (t : Tab RIndex) : (s.setIndexes p t).sec = s.sec := rfl
@[simp] theorem State.setIndexes_pwr (s : State) (p : Nat) (t : Tab RIndex) : (s.setIndexes p t).pwr = s.pwr := rfl
@[simp] theorem State.setIndexes_fab (s : State) (p : Nat) (t : Tab RIndex) : (s.setIndexes p t).fab = s.fab := rfl
@[simp] theorem State.setIndexes_ho (s : State) (p : Nat) (t : Tab RIndex) : (s.setIndexes p t).ho = s.ho := rfl
@[simp] theorem State.setIndexes_nvf (s : State) (p : Nat) (t : Tab RIndex) : (s.setIndexes p t).nvf = s.nvf := rfl

/-! ## State.setQueries -/

@[simp] theorem State.setQueries_now (s : State) (p : Nat) (l : List QueryOp) : (s.setQueries p l).now = s.now := rfl
@[simp] theorem State.setQueries_frac (s : State) (p : Nat) (l : List QueryOp) : (s.setQueries p l).frac = s.frac := rfl
@[simp] theorem State.setQueries_free (s : State) (p : Nat) (l : List QueryOp) : (s.setQueries p l).free = s.free := rfl
@[simp] theorem State.setQueries_regs (s : State) (p : Nat) (l : List QueryOp) : (s.setQueries p l).regs = s.regs := rfl
@[simp] theorem State.setQueries_stamps (s : State) (p : Nat) (l : List QueryOp) : (s.setQueries p l).stamps = s.stamps := rfl
@[simp] theorem State.setQueries_pending (s : State) (p : Nat) (l : List QueryOp) : (s.setQueries p l).pending = s.pending := rfl
@[simp] theorem State.setQueries_out (s : State) (p : Nat) (l : List QueryOp) : (s.setQueries p l).out = s.out := rfl
@[simp] theorem State.setQueries_hif (s : State) (p : Nat) (l : List QueryOp) : (s.setQueries p l).hif = s.hif := rfl
@[simp] theorem State.setQueries_dir (s : State) (p : Nat) (l : List QueryOp) : (s.setQueries p l).dir = s.dir := rfl
@[simp] theorem State.setQueries_fol (s : State) (p : Nat) (l : List QueryOp) : (s.setQueries p l).fol = s.fol := rfl
@[simp] theorem State.setQueries_spn (s : State) (p : Nat) (l : List QueryOp) : (s.setQueries p l).spn = s.spn := rfl
@[simp] theorem State.setQueries_eng (s : State) (p : Nat) (l : List QueryOp) : (s.setQueries p l).eng = s.eng := rfl
@[simp] theorem State.setQueries_txt (s : State) (p : Nat) (l : List QueryOp) : (s.setQueries p l).txt = s.txt := rfl
@[simp] theorem State.setQueries_shp (s : State) (p : Nat) (l : List QueryOp) : (s.setQueries p l).shp = s.shp := rfl
@[simp] theorem State.setQueries_ckp (s : State) (p : Nat) (l : List QueryOp) : (s.setQueries p l).ckp = s.ckp := rfl
@[simp] theorem State.setQueries_bind (s : State) (p : Nat) (l : List QueryOp) : (s.setQueries p l).bind = s.bind := rfl
@[simp] theorem State.setQueries_flt (s : State) (p : Nat) (l : List QueryOp) : (s.setQueries p l).flt = s.flt := rfl
@[simp] theorem State.setQueries_sec (s : State) (p : Nat) (l : List QueryOp) : (s.setQueries p l).sec = s.sec := rfl
@[simp] theorem State.setQueries_pwr (s : State) (p : Nat) (l : List QueryOp) : (s.setQueries p l).pwr = s.pwr := rfl
@[simp] theorem State.setQueries_fab (s : State) (p : Nat) (l : List QueryOp) : (s.setQueries p l).fab = s.fab := rfl
@[simp] theorem State.setQueries_ho (s : State) (p : Nat) (l : List QueryOp) : (s.setQueries p l).ho = s.ho := rfl
@[simp] theorem State.setQueries_nvf (s : State) (p : Nat) (l : List QueryOp) : (s.setQueries p l).nvf = s.nvf := rfl

/-! ## What accessors read after their update -/

@[simp] theorem State.vf_setVf_same (s : State) (k : Nat) (x : Vf) : (s.setVf k x).vf k = x := tgetD_tput_same ..
@[simp] theorem State.vf_setVf_other (s : State) (k j : Nat) (x : Vf) (h : j ≠ k) : (s.setVf k x).vf j = s.vf j :=
  tgetD_tput_other _ _ _ _ _ h
@[simp] theorem State.verbs_setVerbs_same (s : State) (k : Nat) (x : List Verb) : (s.setVerbs k x).verbs k = x := tgetD_tput_same ..
@[simp] theorem State.verbs_setVerbs_other (s : State) (k j : Nat) (x : List Verb) (h : j ≠ k) : (s.setVerbs k x).verbs j = s.verbs j :=
  tgetD_tput_other _ _ _ _ _ h
@[simp] theorem State.recOf_setRec_same (s : State) (k : Nat) (x : DirRec) : (s.setRec k x).recOf k = x := tgetD_tput_same ..
@[simp] theorem State.recOf_setRec_other (s : State) (k j : Nat) (x : DirRec) (h : j ≠ k) : (s.setRec k x).recOf j = s.recOf j :=
  tgetD_tput_other _ _ _ _ _ h
@[simp] theorem State.folPart_setFolPart_same (s : State) (k : Nat) (x : FolPart) : (s.setFolPart k x).folPart k = x := tgetD_tput_same ..
@[simp] theorem State.folPart_setFolPart_other (s : State) (k j : Nat) (x : FolPart) (h : j ≠ k) : (s.setFolPart k x).folPart j = s.folPart j :=
  tgetD_tput_other _ _ _ _ _ h
@[simp] theorem State.spnOf_setSpn_same (s : State) (k : Nat) (x : SpnPart) : (s.setSpn k x).spnOf k = x := tgetD_tput_same ..
@[simp] theorem State.spnOf_setSpn_other (s : State) (k j : Nat) (x : SpnPart) (h : j ≠ k) : (s.setSpn k x).spnOf j = s.spnOf j :=
  tgetD_tput_other _ _ _ _ _ h
@[simp] theorem State.engOf_setEng_same (s : State) (k : Nat) (x : Engine) : (s.setEng k x).engOf k = x := tgetD_tput_same ..
@[simp] theorem State.engOf_setEng_other (s : State) (k j : Nat) (x : Engine) (h : j ≠ k) : (s.setEng k x).engOf j = s.engOf j :=
  tgetD_tput_other _ _ _ _ _ h
@[simp] theorem State.txtPart_setTxtPart_same (s : State) (k : Nat) (x : TxtPart) : (s.setTxtPart k x).txtPart k = x := tgetD_tput_same ..
@[simp] theorem State.txtPart_setTxtPart_other (s : State) (k j : Nat) (x : TxtPart) (h : j ≠ k) : (s.setTxtPart k x).txtPart j = s.txtPart j :=
  tgetD_tput_other _ _ _ _ _ h
@[simp] theorem State.ckpOf_setCkp_same (s : State) (k : Nat) (x : CkpPart) : (s.setCkp k x).ckpOf k = x := tgetD_tput_same ..
@[simp] theorem State.ckpOf_setCkp_other (s : State) (k j : Nat) (x : CkpPart) (h : j ≠ k) : (s.setCkp k x).ckpOf j = s.ckpOf j :=
  tgetD_tput_other _ _ _ _ _ h
@[simp] theorem State.recPart_setRecPart_same (s : State) (k : Nat) (x : RecPart) : (s.setRecPart k x).recPart k = x := tgetD_tput_same ..
@[simp] theorem State.recPart_setRecPart_other (s : State) (k j : Nat) (x : RecPart) (h : j ≠ k) : (s.setRecPart k x).recPart j = s.recPart j :=
  tgetD_tput_other _ _ _ _ _ h
@[simp] theorem State.linkOf_setLink_same (s : State) (k : Nat) (x : Link) : (s.setLink k x).linkOf k = x := tgetD_tput_same ..
@[simp] theorem State.linkOf_setLink_other (s : State) (k j : Nat) (x : Link) (h : j ≠ k) : (s.setLink k x).linkOf j = s.linkOf j :=
  tgetD_tput_other _ _ _ _ _ h
@[simp] theorem State.chanOf_setChan_same (s : State) (k : Nat) (x : Chan) : (s.setChan k x).chanOf k = x := tgetD_tput_same ..
@[simp] theorem State.chanOf_setChan_other (s : State) (k j : Nat) (x : Chan) (h : j ≠ k) : (s.setChan k x).chanOf j = s.chanOf j :=
  tgetD_tput_other _ _ _ _ _ h
@[simp] theorem State.keysOf_setKeys_same (s : State) (k : Nat) (x : PartKeys) : (s.setKeys k x).keysOf k = x := tgetD_tput_same ..
@[simp] theorem State.keysOf_setKeys_other (s : State) (k j : Nat) (x : PartKeys) (h : j ≠ k) : (s.setKeys k x).keysOf j = s.keysOf j :=
  tgetD_tput_other _ _ _ _ _ h
@[simp] theorem State.indexesOf_setIndexes_same (s : State) (k : Nat) (x : Tab RIndex) : (s.setIndexes k x).indexesOf k = x := tgetD_tput_same ..
@[simp] theorem State.indexesOf_setIndexes_other (s : State) (k j : Nat) (x : Tab RIndex) (h : j ≠ k) : (s.setIndexes k x).indexesOf j = s.indexesOf j :=
  tgetD_tput_other _ _ _ _ _ h
@[simp] theorem State.queriesOf_setQueries_same (s : State) (k : Nat) (x : List QueryOp) : (s.setQueries k x).queriesOf k = x := tgetD_tput_same ..
@[simp] theorem State.queriesOf_setQueries_other (s : State) (k j : Nat) (x : List QueryOp) (h : j ≠ k) : (s.setQueries k x).queriesOf j = s.queriesOf j :=
  tgetD_tput_other _ _ _ _ _ h
@[simp] theorem State.session?_setSession_same (s : State) (k : Nat) (x : Session) : (s.setSession k x).session? k = some x := tget_tput_same ..
@[simp] theorem State.session?_setSession_other (s : State) (k j : Nat) (x : Session) (h : j ≠ k) : (s.setSession k x).session? j = s.session? j :=
  tget_tput_other _ _ _ _ h
@[simp] theorem State.folio?_setFolio_same (s : State) (k : Nat) (x : Folio) : (s.setFolio k x).folio? k = some x := tget_tput_same ..
@[simp] theorem State.folio?_setFolio_other (s : State) (k j : Nat) (x : Folio) (h : j ≠ k) : (s.setFolio k x).folio? j = s.folio? j :=
  tget_tput_other _ _ _ _ h

@[simp] theorem State.reg_setReg_same (s : State) (r : RegName) (i j : Nat) (v : W64) : (s.setReg r i j v).reg r i j = v :=
  tgetD_tput_same ..
theorem State.reg_setReg_other (s : State) (r r' : RegName) (i j i' j' : Nat) (v : W64) (h : regAddr r' i' j' ≠ regAddr r i j) :
    (s.setReg r i j v).reg r' i' j' = s.reg r' i' j' :=
  tgetD_tput_other _ _ _ _ _ h

end Machine
end Sys2Proof
end

