-- ==== Sys2Proof/Laws/Verbs.lean ====
section
/-!
SUPPORT. Sys2Proof/Laws/Verbs.lean: what the shared operations on verbs and their records can do: they change the host interface's
part of State and nothing else; a verb that completes is gone, and its record waits.
-/
namespace Sys2Proof
namespace Machine

/-! ## State.modVerb -/

@[simp] theorem State.modVerb_now (s : State) (p vid : Nat) (f : Verb → Verb) : (s.modVerb p vid f).now = s.now := by
  rfl
@[simp] theorem State.modVerb_frac (s : State) (p vid : Nat) (f : Verb → Verb) : (s.modVerb p vid f).frac = s.frac := by
  rfl
@[simp] theorem State.modVerb_free (s : State) (p vid : Nat) (f : Verb → Verb) : (s.modVerb p vid f).free = s.free := by
  rfl
@[simp] theorem State.modVerb_regs (s : State) (p vid : Nat) (f : Verb → Verb) : (s.modVerb p vid f).regs = s.regs := by
  rfl
@[simp] theorem State.modVerb_stamps (s : State) (p vid : Nat) (f : Verb → Verb) : (s.modVerb p vid f).stamps = s.stamps := by
  rfl
@[simp] theorem State.modVerb_pending (s : State) (p vid : Nat) (f : Verb → Verb) : (s.modVerb p vid f).pending = s.pending := by
  rfl
@[simp] theorem State.modVerb_out (s : State) (p vid : Nat) (f : Verb → Verb) : (s.modVerb p vid f).out = s.out := by
  rfl
@[simp] theorem State.modVerb_dir (s : State) (p vid : Nat) (f : Verb → Verb) : (s.modVerb p vid f).dir = s.dir := by
  rfl
@[simp] theorem State.modVerb_fol (s : State) (p vid : Nat) (f : Verb → Verb) : (s.modVerb p vid f).fol = s.fol := by
  rfl
@[simp] theorem State.modVerb_spn (s : State) (p vid : Nat) (f : Verb → Verb) : (s.modVerb p vid f).spn = s.spn := by
  rfl
@[simp] theorem State.modVerb_eng (s : State) (p vid : Nat) (f : Verb → Verb) : (s.modVerb p vid f).eng = s.eng := by
  rfl
@[simp] theorem State.modVerb_txt (s : State) (p vid : Nat) (f : Verb → Verb) : (s.modVerb p vid f).txt = s.txt := by
  rfl
@[simp] theorem State.modVerb_rcl (s : State) (p vid : Nat) (f : Verb → Verb) : (s.modVerb p vid f).rcl = s.rcl := by
  rfl
@[simp] theorem State.modVerb_shp (s : State) (p vid : Nat) (f : Verb → Verb) : (s.modVerb p vid f).shp = s.shp := by
  rfl
@[simp] theorem State.modVerb_ckp (s : State) (p vid : Nat) (f : Verb → Verb) : (s.modVerb p vid f).ckp = s.ckp := by
  rfl
@[simp] theorem State.modVerb_bind (s : State) (p vid : Nat) (f : Verb → Verb) : (s.modVerb p vid f).bind = s.bind := by
  rfl
@[simp] theorem State.modVerb_flt (s : State) (p vid : Nat) (f : Verb → Verb) : (s.modVerb p vid f).flt = s.flt := by
  rfl
@[simp] theorem State.modVerb_sec (s : State) (p vid : Nat) (f : Verb → Verb) : (s.modVerb p vid f).sec = s.sec := by
  rfl
@[simp] theorem State.modVerb_pwr (s : State) (p vid : Nat) (f : Verb → Verb) : (s.modVerb p vid f).pwr = s.pwr := by
  rfl
@[simp] theorem State.modVerb_fab (s : State) (p vid : Nat) (f : Verb → Verb) : (s.modVerb p vid f).fab = s.fab := by
  rfl
@[simp] theorem State.modVerb_ho (s : State) (p vid : Nat) (f : Verb → Verb) : (s.modVerb p vid f).ho = s.ho := by
  rfl
@[simp] theorem State.modVerb_nvf (s : State) (p vid : Nat) (f : Verb → Verb) : (s.modVerb p vid f).nvf = s.nvf := by
  rfl

/-! ## State.runVerb -/

@[simp] theorem State.runVerb_now (s : State) (p vid : Nat) : (s.runVerb p vid).now = s.now := by
  rfl
@[simp] theorem State.runVerb_frac (s : State) (p vid : Nat) : (s.runVerb p vid).frac = s.frac := by
  rfl
@[simp] theorem State.runVerb_free (s : State) (p vid : Nat) : (s.runVerb p vid).free = s.free := by
  rfl
@[simp] theorem State.runVerb_regs (s : State) (p vid : Nat) : (s.runVerb p vid).regs = s.regs := by
  rfl
@[simp] theorem State.runVerb_stamps (s : State) (p vid : Nat) : (s.runVerb p vid).stamps = s.stamps := by
  rfl
@[simp] theorem State.runVerb_pending (s : State) (p vid : Nat) : (s.runVerb p vid).pending = s.pending := by
  rfl
@[simp] theorem State.runVerb_out (s : State) (p vid : Nat) : (s.runVerb p vid).out = s.out := by
  rfl
@[simp] theorem State.runVerb_dir (s : State) (p vid : Nat) : (s.runVerb p vid).dir = s.dir := by
  rfl
@[simp] theorem State.runVerb_fol (s : State) (p vid : Nat) : (s.runVerb p vid).fol = s.fol := by
  rfl
@[simp] theorem State.runVerb_spn (s : State) (p vid : Nat) : (s.runVerb p vid).spn = s.spn := by
  rfl
@[simp] theorem State.runVerb_eng (s : State) (p vid : Nat) : (s.runVerb p vid).eng = s.eng := by
  rfl
@[simp] theorem State.runVerb_txt (s : State) (p vid : Nat) : (s.runVerb p vid).txt = s.txt := by
  rfl
@[simp] theorem State.runVerb_rcl (s : State) (p vid : Nat) : (s.runVerb p vid).rcl = s.rcl := by
  rfl
@[simp] theorem State.runVerb_shp (s : State) (p vid : Nat) : (s.runVerb p vid).shp = s.shp := by
  rfl
@[simp] theorem State.runVerb_ckp (s : State) (p vid : Nat) : (s.runVerb p vid).ckp = s.ckp := by
  rfl
@[simp] theorem State.runVerb_bind (s : State) (p vid : Nat) : (s.runVerb p vid).bind = s.bind := by
  rfl
@[simp] theorem State.runVerb_flt (s : State) (p vid : Nat) : (s.runVerb p vid).flt = s.flt := by
  rfl
@[simp] theorem State.runVerb_sec (s : State) (p vid : Nat) : (s.runVerb p vid).sec = s.sec := by
  rfl
@[simp] theorem State.runVerb_pwr (s : State) (p vid : Nat) : (s.runVerb p vid).pwr = s.pwr := by
  rfl
@[simp] theorem State.runVerb_fab (s : State) (p vid : Nat) : (s.runVerb p vid).fab = s.fab := by
  rfl
@[simp] theorem State.runVerb_ho (s : State) (p vid : Nat) : (s.runVerb p vid).ho = s.ho := by
  rfl
@[simp] theorem State.runVerb_nvf (s : State) (p vid : Nat) : (s.runVerb p vid).nvf = s.nvf := by
  rfl

/-! ## State.post -/

@[simp] theorem State.post_now (s : State) (p : Nat) (r : Rec) : (s.post p r).now = s.now := by
  rfl
@[simp] theorem State.post_frac (s : State) (p : Nat) (r : Rec) : (s.post p r).frac = s.frac := by
  rfl
@[simp] theorem State.post_free (s : State) (p : Nat) (r : Rec) : (s.post p r).free = s.free := by
  rfl
@[simp] theorem State.post_regs (s : State) (p : Nat) (r : Rec) : (s.post p r).regs = s.regs := by
  rfl
@[simp] theorem State.post_stamps (s : State) (p : Nat) (r : Rec) : (s.post p r).stamps = s.stamps := by
  rfl
@[simp] theorem State.post_pending (s : State) (p : Nat) (r : Rec) : (s.post p r).pending = s.pending := by
  rfl
@[simp] theorem State.post_out (s : State) (p : Nat) (r : Rec) : (s.post p r).out = s.out := by
  rfl
@[simp] theorem State.post_dir (s : State) (p : Nat) (r : Rec) : (s.post p r).dir = s.dir := by
  rfl
@[simp] theorem State.post_fol (s : State) (p : Nat) (r : Rec) : (s.post p r).fol = s.fol := by
  rfl
@[simp] theorem State.post_spn (s : State) (p : Nat) (r : Rec) : (s.post p r).spn = s.spn := by
  rfl
@[simp] theorem State.post_eng (s : State) (p : Nat) (r : Rec) : (s.post p r).eng = s.eng := by
  rfl
@[simp] theorem State.post_txt (s : State) (p : Nat) (r : Rec) : (s.post p r).txt = s.txt := by
  rfl
@[simp] theorem State.post_rcl (s : State) (p : Nat) (r : Rec) : (s.post p r).rcl = s.rcl := by
  rfl
@[simp] theorem State.post_shp (s : State) (p : Nat) (r : Rec) : (s.post p r).shp = s.shp := by
  rfl
@[simp] theorem State.post_ckp (s : State) (p : Nat) (r : Rec) : (s.post p r).ckp = s.ckp := by
  rfl
@[simp] theorem State.post_bind (s : State) (p : Nat) (r : Rec) : (s.post p r).bind = s.bind := by
  rfl
@[simp] theorem State.post_flt (s : State) (p : Nat) (r : Rec) : (s.post p r).flt = s.flt := by
  rfl
@[simp] theorem State.post_sec (s : State) (p : Nat) (r : Rec) : (s.post p r).sec = s.sec := by
  rfl
@[simp] theorem State.post_pwr (s : State) (p : Nat) (r : Rec) : (s.post p r).pwr = s.pwr := by
  rfl
@[simp] theorem State.post_fab (s : State) (p : Nat) (r : Rec) : (s.post p r).fab = s.fab := by
  rfl
@[simp] theorem State.post_ho (s : State) (p : Nat) (r : Rec) : (s.post p r).ho = s.ho := by
  rfl
@[simp] theorem State.post_nvf (s : State) (p : Nat) (r : Rec) : (s.post p r).nvf = s.nvf := by
  rfl

/-! ## State.notice -/

@[simp] theorem State.notice_now (s : State) (p d h : Nat) (st : Status) : (s.notice p d h st).now = s.now := by
  rfl
@[simp] theorem State.notice_frac (s : State) (p d h : Nat) (st : Status) : (s.notice p d h st).frac = s.frac := by
  rfl
@[simp] theorem State.notice_free (s : State) (p d h : Nat) (st : Status) : (s.notice p d h st).free = s.free := by
  rfl
@[simp] theorem State.notice_regs (s : State) (p d h : Nat) (st : Status) : (s.notice p d h st).regs = s.regs := by
  rfl
@[simp] theorem State.notice_stamps (s : State) (p d h : Nat) (st : Status) : (s.notice p d h st).stamps = s.stamps := by
  rfl
@[simp] theorem State.notice_pending (s : State) (p d h : Nat) (st : Status) : (s.notice p d h st).pending = s.pending := by
  rfl
@[simp] theorem State.notice_out (s : State) (p d h : Nat) (st : Status) : (s.notice p d h st).out = s.out := by
  rfl
@[simp] theorem State.notice_dir (s : State) (p d h : Nat) (st : Status) : (s.notice p d h st).dir = s.dir := by
  rfl
@[simp] theorem State.notice_fol (s : State) (p d h : Nat) (st : Status) : (s.notice p d h st).fol = s.fol := by
  rfl
@[simp] theorem State.notice_spn (s : State) (p d h : Nat) (st : Status) : (s.notice p d h st).spn = s.spn := by
  rfl
@[simp] theorem State.notice_eng (s : State) (p d h : Nat) (st : Status) : (s.notice p d h st).eng = s.eng := by
  rfl
@[simp] theorem State.notice_txt (s : State) (p d h : Nat) (st : Status) : (s.notice p d h st).txt = s.txt := by
  rfl
@[simp] theorem State.notice_rcl (s : State) (p d h : Nat) (st : Status) : (s.notice p d h st).rcl = s.rcl := by
  rfl
@[simp] theorem State.notice_shp (s : State) (p d h : Nat) (st : Status) : (s.notice p d h st).shp = s.shp := by
  rfl
@[simp] theorem State.notice_ckp (s : State) (p d h : Nat) (st : Status) : (s.notice p d h st).ckp = s.ckp := by
  rfl
@[simp] theorem State.notice_bind (s : State) (p d h : Nat) (st : Status) : (s.notice p d h st).bind = s.bind := by
  rfl
@[simp] theorem State.notice_flt (s : State) (p d h : Nat) (st : Status) : (s.notice p d h st).flt = s.flt := by
  rfl
@[simp] theorem State.notice_sec (s : State) (p d h : Nat) (st : Status) : (s.notice p d h st).sec = s.sec := by
  rfl
@[simp] theorem State.notice_pwr (s : State) (p d h : Nat) (st : Status) : (s.notice p d h st).pwr = s.pwr := by
  rfl
@[simp] theorem State.notice_fab (s : State) (p d h : Nat) (st : Status) : (s.notice p d h st).fab = s.fab := by
  rfl
@[simp] theorem State.notice_ho (s : State) (p d h : Nat) (st : Status) : (s.notice p d h st).ho = s.ho := by
  rfl
@[simp] theorem State.notice_nvf (s : State) (p d h : Nat) (st : Status) : (s.notice p d h st).nvf = s.nvf := by
  rfl

/-! ## State.releaseSlot -/

@[simp] theorem State.releaseSlot_now (s : State) (p vid : Nat) : (s.releaseSlot p vid).now = s.now := by
  unfold State.releaseSlot; repeat' first | rfl | split
@[simp] theorem State.releaseSlot_frac (s : State) (p vid : Nat) : (s.releaseSlot p vid).frac = s.frac := by
  unfold State.releaseSlot; repeat' first | rfl | split
@[simp] theorem State.releaseSlot_free (s : State) (p vid : Nat) : (s.releaseSlot p vid).free = s.free := by
  unfold State.releaseSlot; repeat' first | rfl | split
@[simp] theorem State.releaseSlot_regs (s : State) (p vid : Nat) : (s.releaseSlot p vid).regs = s.regs := by
  unfold State.releaseSlot; repeat' first | rfl | split
@[simp] theorem State.releaseSlot_stamps (s : State) (p vid : Nat) : (s.releaseSlot p vid).stamps = s.stamps := by
  unfold State.releaseSlot; repeat' first | rfl | split
@[simp] theorem State.releaseSlot_pending (s : State) (p vid : Nat) : (s.releaseSlot p vid).pending = s.pending := by
  unfold State.releaseSlot; repeat' first | rfl | split
@[simp] theorem State.releaseSlot_out (s : State) (p vid : Nat) : (s.releaseSlot p vid).out = s.out := by
  unfold State.releaseSlot; repeat' first | rfl | split
@[simp] theorem State.releaseSlot_dir (s : State) (p vid : Nat) : (s.releaseSlot p vid).dir = s.dir := by
  unfold State.releaseSlot; repeat' first | rfl | split
@[simp] theorem State.releaseSlot_fol (s : State) (p vid : Nat) : (s.releaseSlot p vid).fol = s.fol := by
  unfold State.releaseSlot; repeat' first | rfl | split
@[simp] theorem State.releaseSlot_spn (s : State) (p vid : Nat) : (s.releaseSlot p vid).spn = s.spn := by
  unfold State.releaseSlot; repeat' first | rfl | split
@[simp] theorem State.releaseSlot_eng (s : State) (p vid : Nat) : (s.releaseSlot p vid).eng = s.eng := by
  unfold State.releaseSlot; repeat' first | rfl | split
@[simp] theorem State.releaseSlot_txt (s : State) (p vid : Nat) : (s.releaseSlot p vid).txt = s.txt := by
  unfold State.releaseSlot; repeat' first | rfl | split
@[simp] theorem State.releaseSlot_rcl (s : State) (p vid : Nat) : (s.releaseSlot p vid).rcl = s.rcl := by
  unfold State.releaseSlot; repeat' first | rfl | split
@[simp] theorem State.releaseSlot_shp (s : State) (p vid : Nat) : (s.releaseSlot p vid).shp = s.shp := by
  unfold State.releaseSlot; repeat' first | rfl | split
@[simp] theorem State.releaseSlot_ckp (s : State) (p vid : Nat) : (s.releaseSlot p vid).ckp = s.ckp := by
  unfold State.releaseSlot; repeat' first | rfl | split
@[simp] theorem State.releaseSlot_bind (s : State) (p vid : Nat) : (s.releaseSlot p vid).bind = s.bind := by
  unfold State.releaseSlot; repeat' first | rfl | split
@[simp] theorem State.releaseSlot_flt (s : State) (p vid : Nat) : (s.releaseSlot p vid).flt = s.flt := by
  unfold State.releaseSlot; repeat' first | rfl | split
@[simp] theorem State.releaseSlot_sec (s : State) (p vid : Nat) : (s.releaseSlot p vid).sec = s.sec := by
  unfold State.releaseSlot; repeat' first | rfl | split
@[simp] theorem State.releaseSlot_pwr (s : State) (p vid : Nat) : (s.releaseSlot p vid).pwr = s.pwr := by
  unfold State.releaseSlot; repeat' first | rfl | split
@[simp] theorem State.releaseSlot_fab (s : State) (p vid : Nat) : (s.releaseSlot p vid).fab = s.fab := by
  unfold State.releaseSlot; repeat' first | rfl | split
@[simp] theorem State.releaseSlot_ho (s : State) (p vid : Nat) : (s.releaseSlot p vid).ho = s.ho := by
  unfold State.releaseSlot; repeat' first | rfl | split
@[simp] theorem State.releaseSlot_nvf (s : State) (p vid : Nat) : (s.releaseSlot p vid).nvf = s.nvf := by
  unfold State.releaseSlot; repeat' first | rfl | split

/-! ## State.dropVerb -/

@[simp] theorem State.dropVerb_now (s : State) (p vid : Nat) : (s.dropVerb p vid).now = s.now := by
  unfold State.dropVerb; simp
@[simp] theorem State.dropVerb_frac (s : State) (p vid : Nat) : (s.dropVerb p vid).frac = s.frac := by
  unfold State.dropVerb; simp
@[simp] theorem State.dropVerb_free (s : State) (p vid : Nat) : (s.dropVerb p vid).free = s.free := by
  unfold State.dropVerb; simp
@[simp] theorem State.dropVerb_regs (s : State) (p vid : Nat) : (s.dropVerb p vid).regs = s.regs := by
  unfold State.dropVerb; simp
@[simp] theorem State.dropVerb_stamps (s : State) (p vid : Nat) : (s.dropVerb p vid).stamps = s.stamps := by
  unfold State.dropVerb; simp
@[simp] theorem State.dropVerb_pending (s : State) (p vid : Nat) : (s.dropVerb p vid).pending = s.pending := by
  unfold State.dropVerb; simp
@[simp] theorem State.dropVerb_out (s : State) (p vid : Nat) : (s.dropVerb p vid).out = s.out := by
  unfold State.dropVerb; simp
@[simp] theorem State.dropVerb_dir (s : State) (p vid : Nat) : (s.dropVerb p vid).dir = s.dir := by
  unfold State.dropVerb; simp
@[simp] theorem State.dropVerb_fol (s : State) (p vid : Nat) : (s.dropVerb p vid).fol = s.fol := by
  unfold State.dropVerb; simp
@[simp] theorem State.dropVerb_spn (s : State) (p vid : Nat) : (s.dropVerb p vid).spn = s.spn := by
  unfold State.dropVerb; simp
@[simp] theorem State.dropVerb_eng (s : State) (p vid : Nat) : (s.dropVerb p vid).eng = s.eng := by
  unfold State.dropVerb; simp
@[simp] theorem State.dropVerb_txt (s : State) (p vid : Nat) : (s.dropVerb p vid).txt = s.txt := by
  unfold State.dropVerb; simp
@[simp] theorem State.dropVerb_rcl (s : State) (p vid : Nat) : (s.dropVerb p vid).rcl = s.rcl := by
  unfold State.dropVerb; simp
@[simp] theorem State.dropVerb_shp (s : State) (p vid : Nat) : (s.dropVerb p vid).shp = s.shp := by
  unfold State.dropVerb; simp
@[simp] theorem State.dropVerb_ckp (s : State) (p vid : Nat) : (s.dropVerb p vid).ckp = s.ckp := by
  unfold State.dropVerb; simp
@[simp] theorem State.dropVerb_bind (s : State) (p vid : Nat) : (s.dropVerb p vid).bind = s.bind := by
  unfold State.dropVerb; simp
@[simp] theorem State.dropVerb_flt (s : State) (p vid : Nat) : (s.dropVerb p vid).flt = s.flt := by
  unfold State.dropVerb; simp
@[simp] theorem State.dropVerb_sec (s : State) (p vid : Nat) : (s.dropVerb p vid).sec = s.sec := by
  unfold State.dropVerb; simp
@[simp] theorem State.dropVerb_pwr (s : State) (p vid : Nat) : (s.dropVerb p vid).pwr = s.pwr := by
  unfold State.dropVerb; simp
@[simp] theorem State.dropVerb_fab (s : State) (p vid : Nat) : (s.dropVerb p vid).fab = s.fab := by
  unfold State.dropVerb; simp
@[simp] theorem State.dropVerb_ho (s : State) (p vid : Nat) : (s.dropVerb p vid).ho = s.ho := by
  unfold State.dropVerb; simp
@[simp] theorem State.dropVerb_nvf (s : State) (p vid : Nat) : (s.dropVerb p vid).nvf = s.nvf := by
  unfold State.dropVerb; simp

/-! ## State.complete -/

@[simp] theorem State.complete_now (s : State) (p vid : Nat) (st : Status) (flags : Nat) (body : RecBody) (h : Option Nat) : (s.complete p vid st flags body h).now = s.now := by
  unfold State.complete; split <;> simp
@[simp] theorem State.complete_frac (s : State) (p vid : Nat) (st : Status) (flags : Nat) (body : RecBody) (h : Option Nat) : (s.complete p vid st flags body h).frac = s.frac := by
  unfold State.complete; split <;> simp
@[simp] theorem State.complete_free (s : State) (p vid : Nat) (st : Status) (flags : Nat) (body : RecBody) (h : Option Nat) : (s.complete p vid st flags body h).free = s.free := by
  unfold State.complete; split <;> simp
@[simp] theorem State.complete_regs (s : State) (p vid : Nat) (st : Status) (flags : Nat) (body : RecBody) (h : Option Nat) : (s.complete p vid st flags body h).regs = s.regs := by
  unfold State.complete; split <;> simp
@[simp] theorem State.complete_stamps (s : State) (p vid : Nat) (st : Status) (flags : Nat) (body : RecBody) (h : Option Nat) : (s.complete p vid st flags body h).stamps = s.stamps := by
  unfold State.complete; split <;> simp
@[simp] theorem State.complete_pending (s : State) (p vid : Nat) (st : Status) (flags : Nat) (body : RecBody) (h : Option Nat) : (s.complete p vid st flags body h).pending = s.pending := by
  unfold State.complete; split <;> simp
@[simp] theorem State.complete_out (s : State) (p vid : Nat) (st : Status) (flags : Nat) (body : RecBody) (h : Option Nat) : (s.complete p vid st flags body h).out = s.out := by
  unfold State.complete; split <;> simp
@[simp] theorem State.complete_dir (s : State) (p vid : Nat) (st : Status) (flags : Nat) (body : RecBody) (h : Option Nat) : (s.complete p vid st flags body h).dir = s.dir := by
  unfold State.complete; split <;> simp
@[simp] theorem State.complete_fol (s : State) (p vid : Nat) (st : Status) (flags : Nat) (body : RecBody) (h : Option Nat) : (s.complete p vid st flags body h).fol = s.fol := by
  unfold State.complete; split <;> simp
@[simp] theorem State.complete_spn (s : State) (p vid : Nat) (st : Status) (flags : Nat) (body : RecBody) (h : Option Nat) : (s.complete p vid st flags body h).spn = s.spn := by
  unfold State.complete; split <;> simp
@[simp] theorem State.complete_eng (s : State) (p vid : Nat) (st : Status) (flags : Nat) (body : RecBody) (h : Option Nat) : (s.complete p vid st flags body h).eng = s.eng := by
  unfold State.complete; split <;> simp
@[simp] theorem State.complete_txt (s : State) (p vid : Nat) (st : Status) (flags : Nat) (body : RecBody) (h : Option Nat) : (s.complete p vid st flags body h).txt = s.txt := by
  unfold State.complete; split <;> simp
@[simp] theorem State.complete_rcl (s : State) (p vid : Nat) (st : Status) (flags : Nat) (body : RecBody) (h : Option Nat) : (s.complete p vid st flags body h).rcl = s.rcl := by
  unfold State.complete; split <;> simp
@[simp] theorem State.complete_shp (s : State) (p vid : Nat) (st : Status) (flags : Nat) (body : RecBody) (h : Option Nat) : (s.complete p vid st flags body h).shp = s.shp := by
  unfold State.complete; split <;> simp
@[simp] theorem State.complete_ckp (s : State) (p vid : Nat) (st : Status) (flags : Nat) (body : RecBody) (h : Option Nat) : (s.complete p vid st flags body h).ckp = s.ckp := by
  unfold State.complete; split <;> simp
@[simp] theorem State.complete_bind (s : State) (p vid : Nat) (st : Status) (flags : Nat) (body : RecBody) (h : Option Nat) : (s.complete p vid st flags body h).bind = s.bind := by
  unfold State.complete; split <;> simp
@[simp] theorem State.complete_flt (s : State) (p vid : Nat) (st : Status) (flags : Nat) (body : RecBody) (h : Option Nat) : (s.complete p vid st flags body h).flt = s.flt := by
  unfold State.complete; split <;> simp
@[simp] theorem State.complete_sec (s : State) (p vid : Nat) (st : Status) (flags : Nat) (body : RecBody) (h : Option Nat) : (s.complete p vid st flags body h).sec = s.sec := by
  unfold State.complete; split <;> simp
@[simp] theorem State.complete_pwr (s : State) (p vid : Nat) (st : Status) (flags : Nat) (body : RecBody) (h : Option Nat) : (s.complete p vid st flags body h).pwr = s.pwr := by
  unfold State.complete; split <;> simp
@[simp] theorem State.complete_fab (s : State) (p vid : Nat) (st : Status) (flags : Nat) (body : RecBody) (h : Option Nat) : (s.complete p vid st flags body h).fab = s.fab := by
  unfold State.complete; split <;> simp
@[simp] theorem State.complete_ho (s : State) (p vid : Nat) (st : Status) (flags : Nat) (body : RecBody) (h : Option Nat) : (s.complete p vid st flags body h).ho = s.ho := by
  unfold State.complete; split <;> simp
@[simp] theorem State.complete_nvf (s : State) (p vid : Nat) (st : Status) (flags : Nat) (body : RecBody) (h : Option Nat) : (s.complete p vid st flags body h).nvf = s.nvf := by
  unfold State.complete; split <;> simp

/-! ## State.completeAll -/

@[simp] theorem State.completeAll_now (s : State) (p : Nat) (l : List Nat) (st : Status) : (s.completeAll p l st).now = s.now := by
  unfold State.completeAll
  induction l generalizing s with
  | nil => rfl
  | cons a l ih => rw [List.foldl_cons, ih, State.complete_now]
@[simp] theorem State.completeAll_frac (s : State) (p : Nat) (l : List Nat) (st : Status) : (s.completeAll p l st).frac = s.frac := by
  unfold State.completeAll
  induction l generalizing s with
  | nil => rfl
  | cons a l ih => rw [List.foldl_cons, ih, State.complete_frac]
@[simp] theorem State.completeAll_free (s : State) (p : Nat) (l : List Nat) (st : Status) : (s.completeAll p l st).free = s.free := by
  unfold State.completeAll
  induction l generalizing s with
  | nil => rfl
  | cons a l ih => rw [List.foldl_cons, ih, State.complete_free]
@[simp] theorem State.completeAll_regs (s : State) (p : Nat) (l : List Nat) (st : Status) : (s.completeAll p l st).regs = s.regs := by
  unfold State.completeAll
  induction l generalizing s with
  | nil => rfl
  | cons a l ih => rw [List.foldl_cons, ih, State.complete_regs]
@[simp] theorem State.completeAll_stamps (s : State) (p : Nat) (l : List Nat) (st : Status) : (s.completeAll p l st).stamps = s.stamps := by
  unfold State.completeAll
  induction l generalizing s with
  | nil => rfl
  | cons a l ih => rw [List.foldl_cons, ih, State.complete_stamps]
@[simp] theorem State.completeAll_pending (s : State) (p : Nat) (l : List Nat) (st : Status) : (s.completeAll p l st).pending = s.pending := by
  unfold State.completeAll
  induction l generalizing s with
  | nil => rfl
  | cons a l ih => rw [List.foldl_cons, ih, State.complete_pending]
@[simp] theorem State.completeAll_out (s : State) (p : Nat) (l : List Nat) (st : Status) : (s.completeAll p l st).out = s.out := by
  unfold State.completeAll
  induction l generalizing s with
  | nil => rfl
  | cons a l ih => rw [List.foldl_cons, ih, State.complete_out]
@[simp] theorem State.completeAll_dir (s : State) (p : Nat) (l : List Nat) (st : Status) : (s.completeAll p l st).dir = s.dir := by
  unfold State.completeAll
  induction l generalizing s with
  | nil => rfl
  | cons a l ih => rw [List.foldl_cons, ih, State.complete_dir]
@[simp] theorem State.completeAll_fol (s : State) (p : Nat) (l : List Nat) (st : Status) : (s.completeAll p l st).fol = s.fol := by
  unfold State.completeAll
  induction l generalizing s with
  | nil => rfl
  | cons a l ih => rw [List.foldl_cons, ih, State.complete_fol]
@[simp] theorem State.completeAll_spn (s : State) (p : Nat) (l : List Nat) (st : Status) : (s.completeAll p l st).spn = s.spn := by
  unfold State.completeAll
  induction l generalizing s with
  | nil => rfl
  | cons a l ih => rw [List.foldl_cons, ih, State.complete_spn]
@[simp] theorem State.completeAll_eng (s : State) (p : Nat) (l : List Nat) (st : Status) : (s.completeAll p l st).eng = s.eng := by
  unfold State.completeAll
  induction l generalizing s with
  | nil => rfl
  | cons a l ih => rw [List.foldl_cons, ih, State.complete_eng]
@[simp] theorem State.completeAll_txt (s : State) (p : Nat) (l : List Nat) (st : Status) : (s.completeAll p l st).txt = s.txt := by
  unfold State.completeAll
  induction l generalizing s with
  | nil => rfl
  | cons a l ih => rw [List.foldl_cons, ih, State.complete_txt]
@[simp] theorem State.completeAll_rcl (s : State) (p : Nat) (l : List Nat) (st : Status) : (s.completeAll p l st).rcl = s.rcl := by
  unfold State.completeAll
  induction l generalizing s with
  | nil => rfl
  | cons a l ih => rw [List.foldl_cons, ih, State.complete_rcl]
@[simp] theorem State.completeAll_shp (s : State) (p : Nat) (l : List Nat) (st : Status) : (s.completeAll p l st).shp = s.shp := by
  unfold State.completeAll
  induction l generalizing s with
  | nil => rfl
  | cons a l ih => rw [List.foldl_cons, ih, State.complete_shp]
@[simp] theorem State.completeAll_ckp (s : State) (p : Nat) (l : List Nat) (st : Status) : (s.completeAll p l st).ckp = s.ckp := by
  unfold State.completeAll
  induction l generalizing s with
  | nil => rfl
  | cons a l ih => rw [List.foldl_cons, ih, State.complete_ckp]
@[simp] theorem State.completeAll_bind (s : State) (p : Nat) (l : List Nat) (st : Status) : (s.completeAll p l st).bind = s.bind := by
  unfold State.completeAll
  induction l generalizing s with
  | nil => rfl
  | cons a l ih => rw [List.foldl_cons, ih, State.complete_bind]
@[simp] theorem State.completeAll_flt (s : State) (p : Nat) (l : List Nat) (st : Status) : (s.completeAll p l st).flt = s.flt := by
  unfold State.completeAll
  induction l generalizing s with
  | nil => rfl
  | cons a l ih => rw [List.foldl_cons, ih, State.complete_flt]
@[simp] theorem State.completeAll_sec (s : State) (p : Nat) (l : List Nat) (st : Status) : (s.completeAll p l st).sec = s.sec := by
  unfold State.completeAll
  induction l generalizing s with
  | nil => rfl
  | cons a l ih => rw [List.foldl_cons, ih, State.complete_sec]
@[simp] theorem State.completeAll_pwr (s : State) (p : Nat) (l : List Nat) (st : Status) : (s.completeAll p l st).pwr = s.pwr := by
  unfold State.completeAll
  induction l generalizing s with
  | nil => rfl
  | cons a l ih => rw [List.foldl_cons, ih, State.complete_pwr]
@[simp] theorem State.completeAll_fab (s : State) (p : Nat) (l : List Nat) (st : Status) : (s.completeAll p l st).fab = s.fab := by
  unfold State.completeAll
  induction l generalizing s with
  | nil => rfl
  | cons a l ih => rw [List.foldl_cons, ih, State.complete_fab]
@[simp] theorem State.completeAll_ho (s : State) (p : Nat) (l : List Nat) (st : Status) : (s.completeAll p l st).ho = s.ho := by
  unfold State.completeAll
  induction l generalizing s with
  | nil => rfl
  | cons a l ih => rw [List.foldl_cons, ih, State.complete_ho]
@[simp] theorem State.completeAll_nvf (s : State) (p : Nat) (l : List Nat) (st : Status) : (s.completeAll p l st).nvf = s.nvf := by
  unfold State.completeAll
  induction l generalizing s with
  | nil => rfl
  | cons a l ih => rw [List.foldl_cons, ih, State.complete_nvf]

/-! ## Verbs and records -/

theorem State.verb?_mem {s : State} {p vid : Nat} {v : Verb} (h : s.verb? p vid = some v) : v ∈ s.verbs p ∧ v.id = vid := by
  refine ⟨List.mem_of_find?_eq_some h, ?_⟩
  have := List.find?_some h
  simpa using this

/-- A release keeps which verbs there are, and what of the rings is not their slots. -/
theorem State.releaseSlot_ids (s : State) (p vid : Nat) : ((s.releaseSlot p vid).verbs p).map (·.id) = (s.verbs p).map (·.id) := by
  unfold State.releaseSlot
  split
  · rfl
  · split
    · rfl
    · simp only [State.modVerb, State.verbs_setVerbs_same]
      show (lmod _ _ (s.verbs p)).map (·.id) = _
      unfold lmod
      rw [List.map_map]
      apply List.map_congr_left
      intro a _
      simp only [Function.comp]
      split <;> rfl

theorem State.releaseSlot_waiting (s : State) (p vid : Nat) : ((s.releaseSlot p vid).vf p).waiting = (s.vf p).waiting := by
  unfold State.releaseSlot
  split
  · rfl
  · split
    · rfl
    · show ((s.setVf p _).vf p).waiting = _
      rw [State.vf_setVf_same]

/-- A verb that completes is gone, and its record waits last. -/
theorem State.complete_some (s : State) (p vid : Nat) (st : Status) (flags : Nat) (body : RecBody) (h : Option Nat) (v : Verb)
    (e : s.verb? p vid = some v) :
    (s.complete p vid st flags body h).verb? p vid = none ∧
    ((s.complete p vid st flags body h).vf p).waiting = (s.vf p).waiting ++ [{ record := verbRec v st flags body h }] := by
  unfold State.complete
  rw [e]
  dsimp only
  constructor
  · show ((s.dropVerb p vid).verbs p).find? _ = none
    unfold State.dropVerb
    simp only [State.verbs_setVerbs_same]
    rw [List.find?_eq_none]
    intro a ha
    simp only [List.mem_filter, bne_iff_ne] at ha
    simpa using ha.2
  · unfold State.post
    rw [State.vf_setVf_same]
    show ((s.releaseSlot p vid).vf p).waiting ++ _ = _
    rw [State.releaseSlot_waiting]

end Machine
end Sys2Proof
end

