-- ==== Sys2Proof/Laws/Ended.lean ====
section
/-!
SUPPORT. Sys2Proof/Laws/Ended.lean: a verb that completes has ended in the sense of Safety.lean, whatever else its command has changed
outside the host interface.
-/
namespace Sys2Proof
namespace Machine

theorem State.releaseSlot_host (s : State) (p vid : Nat) :
    (s.releaseSlot p vid).hif = { s.hif with vfs := (s.releaseSlot p vid).hif.vfs, verbs := (s.releaseSlot p vid).hif.verbs } ∧
    (s.releaseSlot p vid).vf p = { s.vf p with sqSlots := ((s.releaseSlot p vid).vf p).sqSlots,
                                               sqHead := ((s.releaseSlot p vid).vf p).sqHead } ∧
    (((s.releaseSlot p vid).verbs p).filter fun v => v.id != vid) = (s.verbs p).filter (fun v => v.id != vid) ∧
    ∀ q, q ≠ p → (s.releaseSlot p vid).vf q = s.vf q ∧ (s.releaseSlot p vid).verbs q = s.verbs q := by
  unfold State.releaseSlot
  split
  · exact ⟨rfl, rfl, rfl, fun _ _ => ⟨rfl, rfl⟩⟩
  · split
    · exact ⟨rfl, rfl, rfl, fun _ _ => ⟨rfl, rfl⟩⟩
    · refine ⟨rfl, ?_, ?_, ?_⟩
      · dsimp only
        have k : ∀ (y : Vf) (f : Verb → Verb), (((s.setVf p y).modVerb p vid f).vf p) = y := fun y f => State.vf_setVf_same ..
        rw [k]
      · show (tgetD (tput s.hif.verbs p _) p []).filter _ = _
        rw [tgetD_tput_same]
        show (lmod _ _ (s.verbs p)).filter _ = _
        unfold lmod
        generalize s.verbs p = l
        induction l with
        | nil => rfl
        | cons a l ih =>
          rw [List.map_cons, List.filter_cons, List.filter_cons, ih]
          by_cases h : a.id = vid
          · simp [h]
          · simp [h]
      · intro q hq
        constructor
        · show tgetD (tput s.hif.vfs p _) q {} = _
          rw [tgetD_tput_other _ _ _ _ _ hq]
          rfl
        · show tgetD (tput s.hif.verbs p _) q [] = _
          rw [tgetD_tput_other _ _ _ _ _ hq]
          rfl

/-! ## What changes the host interface alone -/

theorem hostOnly_trans {s u t : State} (a : u = { s with hif := u.hif }) (b : t = { u with hif := t.hif }) :
    t = { s with hif := t.hif } := by
  rw [a] at b
  exact b

theorem State.releaseSlot_only (s : State) (p vid : Nat) : s.releaseSlot p vid = { s with hif := (s.releaseSlot p vid).hif } := by
  unfold State.releaseSlot
  split
  · rfl
  · split <;> rfl

theorem State.complete_only (s : State) (p vid : Nat) (st : Status) (flags : Nat) (body : RecBody) (h : Option Nat) :
    s.complete p vid st flags body h = { s with hif := (s.complete p vid st flags body h).hif } := by
  unfold State.complete
  split
  · rfl
  · refine hostOnly_trans (s.releaseSlot_only p vid) ?_
    rfl

theorem State.completeAll_only (s : State) (p : Nat) (l : List Nat) (st : Status) :
    s.completeAll p l st = { s with hif := (s.completeAll p l st).hif } := by
  unfold State.completeAll
  induction l generalizing s with
  | nil => rfl
  | cons a l ih =>
    rw [List.foldl_cons]
    exact hostOnly_trans (s.complete_only p a st 0 [] none) (ih _)

/-! ## The verb after an update -/

theorem find?_lmod {α : Type} (pr : α → Bool) (f : α → α) (hf : ∀ a, pr a = true → pr (f a) = true) (l : List α) :
    (lmod pr f l).find? pr = (l.find? pr).map f := by
  unfold lmod
  induction l with
  | nil => rfl
  | cons a l ih =>
    rw [List.map_cons]
    cases h : pr a with
    | true => simp [h, hf a h]
    | false => simpa [h] using ih

theorem State.verb?_modVerb_same {s : State} {p vid : Nat} {f : Verb → Verb} (hf : ∀ v, (f v).id = v.id) :
    (s.modVerb p vid f).verb? p vid = (s.verb? p vid).map f := by
  unfold State.modVerb State.verb?
  rw [State.verbs_setVerbs_same]
  exact find?_lmod _ _ (fun a h => by rw [hf]; exact h) _

theorem State.verb?_setVf (s : State) (p q vid : Nat) (x : Vf) : (s.setVf q x).verb? p vid = s.verb? p vid := rfl

theorem State.verb?_releaseSlot_same {s : State} {p vid : Nat} :
    (s.releaseSlot p vid).verb? p vid = (s.verb? p vid).map fun v => { v with slot := none } := by
  unfold State.releaseSlot
  split
  · rename_i e
    rw [e]
    rfl
  · rename_i v e
    split
    · rename_i k
      rw [e]
      simp only [Option.map_some]
      congr 1
      cases v
      simp only at k
      rw [k]
    · dsimp only
      have k := fun (y : Vf) => State.verb?_modVerb_same (s := s.setVf p y) (p := p) (vid := vid)
        (f := fun v => { v with slot := none }) (fun _ => rfl)
      rw [k, State.verb?_setVf]

/-- A verb that completes ends. -/
theorem State.complete_ended (s : State) (p vid : Nat) (st : Status) (flags : Nat) (body : RecBody) (h : Option Nat) (v : Verb)
    (e : s.verb? p vid = some v) : Ended s (s.complete p vid st flags body h) p v st flags body h := by
  have hv : v.id = vid := (State.verb?_mem e).2
  obtain ⟨h1, h2, h3, h4⟩ := s.releaseSlot_host p vid
  unfold State.complete
  rw [e]
  dsimp only
  refine ⟨?_, ?_, ?_, ?_⟩
  · show ((s.dropVerb p vid).verbs p) = _
    unfold State.dropVerb
    rw [State.verbs_setVerbs_same, h3, hv]
  · unfold State.post
    simp only [State.vf_setVf_same]
    have k : (s.dropVerb p vid).vf p = (s.releaseSlot p vid).vf p := rfl
    rw [k]
    generalize hw : (s.releaseSlot p vid).vf p = w at h2
    rw [h2]
  · have k : ∀ (x : HifState) (a : Tab Vf) (b : Tab (List Verb)), x = { s.hif with vfs := x.vfs, verbs := x.verbs } →
        { x with vfs := a, verbs := b } = { s.hif with vfs := a, verbs := b } := fun x a b e => by rw [e]
    exact k (s.releaseSlot p vid).hif _ _ h1
  · intro q hq
    constructor
    · show tgetD (tput (s.releaseSlot p vid).hif.vfs p _) q {} = _
      rw [tgetD_tput_other _ _ _ _ _ hq]
      exact (h4 q hq).1
    · show tgetD (tput (s.releaseSlot p vid).hif.verbs p _) q [] = _
      rw [tgetD_tput_other _ _ _ _ _ hq]
      exact (h4 q hq).2

/-- What a command has changed outside the host interface does not matter to how its verb ends. -/
theorem Ended.congr {s s' t : State} {p : Nat} {v : Verb} {st : Status} {flags : Nat} {body : RecBody} {h : Option Nat}
    (e : s'.hif = s.hif) (x : Ended s' t p v st flags body h) : Ended s t p v st flags body h := by
  have e1 : ∀ q, s'.verbs q = s.verbs q := fun q => by unfold State.verbs; rw [e]
  have e2 : ∀ q, s'.vf q = s.vf q := fun q => by unfold State.vf; rw [e]
  obtain ⟨h1, h2, h3, h4⟩ := x
  refine ⟨by rw [h1, e1], by rw [e2] at h2; exact h2, by rw [h3, e], fun q hq => ?_⟩
  rw [← e1, ← e2]
  exact h4 q hq

/-- A verb that completes after its command has changed other parts ends. -/
theorem State.complete_ended_after (s u : State) (p : Nat) (v : Verb) (st : Status) (flags : Nat) (body : RecBody) (h : Option Nat)
    (e : u.hif = s.hif) (k : s.verb? p v.id = some v) : Ended s (u.complete p v.id st flags body h) p v st flags body h := by
  have k' : u.verb? p v.id = some v := by
    unfold State.verb? State.verbs at *
    rw [e]
    exact k
  exact Ended.congr e (u.complete_ended p v.id st flags body h v k')

theorem State.begun?_verb {s : State} {p vid : Nat} {op : VerbOp} {v : Verb} (h : s.begun? p vid op = some v) :
    s.verb? p vid = some v ∧ v.id = vid ∧ v.op = op ∧ v.phase = .begun ∧ s.live = true := by
  unfold State.begun? at h
  split at h
  · rename_i w e
    split at h
    · rename_i c
      injection h with h
      subst h
      simp only [Bool.and_eq_true, beq_iff_eq] at c
      exact ⟨e, (State.verb?_mem e).2, c.1.1, c.1.2, c.2⟩
    · cases h
  · cases h

theorem State.running?_verb {s : State} {p vid : Nat} {op : VerbOp} {v : Verb} (h : s.running? p vid op = some v) :
    s.verb? p vid = some v ∧ v.id = vid ∧ v.op = op ∧ v.phase = .running ∧ s.live = true := by
  unfold State.running? at h
  split at h
  · rename_i w e
    split at h
    · rename_i c
      injection h with h
      subst h
      simp only [Bool.and_eq_true, beq_iff_eq] at c
      exact ⟨e, (State.verb?_mem e).2, c.1.1, c.1.2, c.2⟩
    · cases h
  · cases h

end Machine
end Sys2Proof
end

