-- ==== Sys2Proof/Laws/Folios.lean ====
section
/-!
SUPPORT. Sys2Proof/Laws/Folios.lean: what the operations that give a folio its place leave alone (everything outside the folios, the
flash channels and the shaper's ports), and what growing a page list and sharing spans keep of the directory.
-/
namespace Sys2Proof
namespace Machine

theorem State.setPort_only (s : State) (id : PortId) (x : Port) : s.setPort id x = { s with shp := (s.setPort id x).shp } := rfl

theorem State.request_only (s : State) (id : PortId) (r : PortReq) : s.request id r = { s with shp := (s.request id r).shp } := rfl

theorem State.carry_only (s : State) (l : List (PortId × Nat)) (cls : ArbClass) (o : PortOwner) :
    s.carry l cls o = { s with shp := (s.carry l cls o).shp } := by
  unfold State.carry
  generalize (l.map (·.1)).eraseDups = ids
  induction ids generalizing s with
  | nil => rfl
  | cons a r ih => rw [List.foldl_cons, ih]; rfl

/-- Between two states only the folios, the flash and the shaper differ. -/
def SameButFolios (s t : State) : Prop := t = { s with fol := t.fol, nvf := t.nvf, shp := t.shp }

theorem SameButFolios.refl (s : State) : SameButFolios s s := rfl
theorem SameButFolios.trans {s t u : State} (a : SameButFolios s t) (b : SameButFolios t u) : SameButFolios s u := by
  unfold SameButFolios at *; rw [b, a]

theorem State.modChans_folios (l : List Nat) (f : Nat → Chan → Chan) (s : State) :
    SameButFolios s (l.foldl (fun (t : State) c => t.modChan c (f c)) s) := by
  induction l generalizing s with
  | nil => exact .refl s
  | cons a r ih => exact SameButFolios.trans (t := s.modChan a (f a)) rfl (ih _)

theorem State.allocT4_folios {s t : State} {p loc : Nat} (h : s.allocT4 p = some (loc, t)) : SameButFolios s t := by
  unfold State.allocT4 at h
  dsimp only at h
  split at h
  · cases h
  · split at h
    · cases h
    · obtain ⟨-, rfl⟩ := Prod.mk.inj (Option.some.inj h)
      exact SameButFolios.trans (State.modChans_folios _ _ s) rfl

theorem State.allocT3_folios {s t : State} {p loc : Nat} (h : s.allocT3 p = some (loc, t)) : SameButFolios s t := by
  unfold State.allocT3 at h
  dsimp only at h
  split at h
  · cases h
  · split at h
    · obtain ⟨-, rfl⟩ := Prod.mk.inj (Option.some.inj h); rfl
    · cases h

theorem State.allocTier_folios {s t : State} {p tier loc : Nat} (h : s.allocTier p tier = some (loc, t)) : SameButFolios s t := by
  unfold State.allocTier at h
  split at h
  · exact State.allocT3_folios h
  · split at h
    · exact State.allocT4_folios h
    · cases h

theorem State.allocFirst_folios {s t : State} {p tier loc : Nat} {l : List Nat} (h : s.allocFirst p l = some (tier, loc, t)) :
    SameButFolios s t := by
  induction l with
  | nil => cases h
  | cons a r ih =>
    unfold State.allocFirst at h
    split at h
    · rename_i x u e
      obtain ⟨-, h⟩ := Prod.mk.inj (Option.some.inj h)
      obtain ⟨-, rfl⟩ := Prod.mk.inj h
      exact State.allocTier_folios e
    · exact ih h

theorem State.startDemotion_folios (s : State) (p i : Nat) (cls : ArbClass) (l : List Nat) : SameButFolios s (s.startDemotion p i cls l) := by
  unfold State.startDemotion
  split
  · exact .refl s
  · rename_i tier loc t h
    refine (State.allocFirst_folios h).trans ?_
    unfold SameButFolios
    rw [State.carry_only]
    unfold State.modFolio
    split <;> rfl

theorem State.checkPressure_folios (s : State) (p : Nat) : SameButFolios s (s.checkPressure p) := by
  unfold State.checkPressure State.pressureStep
  dsimp only
  split
  · exact .refl s
  · split
    · split
      · rfl
      · split
        · rfl
        · split
          · rfl
          · split
            · rfl
            · exact SameButFolios.trans (t := s.modFolPart p _) rfl (State.startDemotion_folios ..)
    · exact .refl s

theorem State.allocFolio_only {s t : State} {p i layer handle : Nat} {k : FolioKind} {f : KvFmt}
    (h : s.allocFolio p k f layer handle = some (i, t)) : t = { s with fol := t.fol, nvf := t.nvf, shp := t.shp } := by
  unfold State.allocFolio at h
  split at h
  · cases h
  · obtain ⟨-, rfl⟩ := Prod.mk.inj (Option.some.inj h)
    exact SameButFolios.trans (t := (s.setFolio _ _).modFolPart p _) rfl (State.checkPressure_folios ..)

theorem State.modSession_isSome {s : State} {d e : Nat} {f : Session → Session} (h : (s.session? d).isSome = true) :
    ((s.modSession e f).session? d).isSome = true := by
  unfold State.modSession
  split
  · rename_i x hx
    by_cases k : d = e
    · subst k; exact Option.isSome_iff_exists.mpr ⟨f x, tget_tput_same ..⟩
    · show (tget (tput s.dir.sessions e (f x)) d).isSome = true
      rw [tget_tput_other _ _ _ _ k]; exact h
  · exact h

theorem State.growPt_session {s t : State} {d e n : Nat} (h : s.growPt d n = some t) (k : (s.session? e).isSome = true) :
    (t.session? e).isSome = true := by
  induction n generalizing s with
  | zero => rw [← Option.some.inj h]; exact k
  | succ n ih =>
    unfold State.growPt at h
    split at h
    · cases h
    · split at h
      · cases h
      · split at h
        · cases h
        · rename_i i u hu
          refine ih h (State.modSession_isSome ?_)
          rw [State.allocFolio_only hu]; exact k

theorem State.reservePt_session {s t : State} {d e n : Nat} (h : s.reservePt d n = some t) (k : (s.session? e).isSome = true) :
    (t.session? e).isSome = true := by
  unfold State.reservePt at h
  split at h
  · cases h
  · exact State.growPt_session h k

theorem State.modFolio_dir (s : State) (i : Nat) (f : Folio → Folio) : (s.modFolio i f).dir = s.dir := by
  unfold State.modFolio; split <;> rfl

theorem State.countSat_dir (s : State) (r : RegName) (i j : Nat) : (s.countSat r i j).dir = s.dir := by
  unfold State.countSat; dsimp only; split <;> rfl

theorem State.copyFolio_dir {s t : State} {i h k : Nat} (e : s.copyFolio i h = some (k, t)) : t.dir = s.dir := by
  unfold State.copyFolio at e
  split at e
  · cases e
  · split at e
    · cases e
    · rename_i j u hu
      obtain ⟨-, rfl⟩ := Prod.mk.inj (Option.some.inj e)
      rw [State.modFolio_dir, State.allocFolio_only hu]

theorem State.addRef_dir (s : State) (i : Nat) : (s.addRef i).dir = s.dir := by
  unfold State.addRef; exact State.modFolio_dir ..

theorem State.shareRefs_dir {s t : State} {h : Nat} {l acc r : List Pte} (e : s.shareRefs h l acc = some (r, t)) : t.dir = s.dir := by
  induction l generalizing s acc with
  | nil => obtain ⟨-, rfl⟩ := Prod.mk.inj (Option.some.inj e); rfl
  | cons a l ih =>
    unfold State.shareRefs at e
    split at e
    · exact ih e
    · split at e
      · rw [ih e, State.addRef_dir]
      · split at e
        · cases e
        · split at e
          · cases e
          · rename_i k u hu
            rw [ih e, State.countSat_dir, State.copyFolio_dir hu]

theorem State.shareSpans_dir {s t : State} {h : Nat} {l acc r : List Span} (e : s.shareSpans h l acc = some (r, t)) :
    t.dir = s.dir := by
  induction l generalizing s acc with
  | nil => obtain ⟨-, rfl⟩ := Prod.mk.inj (Option.some.inj e); rfl
  | cons a l ih =>
    unfold State.shareSpans at e
    split at e
    · cases e
    · rename_i es u hu
      rw [ih e, State.shareRefs_dir hu]

end Machine
end Sys2Proof
end

