-- ==== Sys2Proof/Laws/Engines.lean ====
section
/-!
SUPPORT. Sys2Proof/Laws/Engines.lean: what a pre-emption point of one engine can do: it moves no other engine, writes no engine
store, puts no context into a slot and takes none out, and outside the engines touches only counters and the shaper.
-/
namespace Sys2Proof
namespace Machine

/-- Between two states only engine e's run, the counters and the shaper differ: its store stands, and the same slots hold a context. -/
def SameButRun (e : Nat) (s t : State) : Prop :=
  t = { s with eng := t.eng, regs := t.regs, shp := t.shp } ∧ (∀ f, f ≠ e → t.engOf f = s.engOf f) ∧
  (t.engOf e).store = (s.engOf e).store ∧ ∀ k, (tget (t.engOf e).slots k).isSome = (tget (s.engOf e).slots k).isSome

theorem SameButRun.refl (e : Nat) (s : State) : SameButRun e s s := ⟨rfl, fun _ _ => rfl, rfl, fun _ => rfl⟩

theorem SameButRun.trans {e : Nat} {s t u : State} (a : SameButRun e s t) (b : SameButRun e t u) : SameButRun e s u := by
  obtain ⟨a0, a1, a2, a3⟩ := a
  obtain ⟨b0, b1, b2, b3⟩ := b
  exact ⟨by rw [b0, a0], fun f h => (b1 f h).trans (a1 f h), b2.trans a2, fun k => (b3 k).trans (a3 k)⟩

/-- A state in which neither an engine nor anything outside the counters and the shaper has changed. -/
theorem SameButRun.quiet {e : Nat} {s t : State} (h : t = { s with regs := t.regs, shp := t.shp }) : SameButRun e s t := by
  rw [h]; exact ⟨rfl, fun _ _ => rfl, rfl, fun _ => rfl⟩

theorem State.modEng_run (s : State) (e : Nat) (f : Engine → Engine) (hs : (f (s.engOf e)).store = (s.engOf e).store)
    (hk : ∀ k, (tget (f (s.engOf e)).slots k).isSome = (tget (s.engOf e).slots k).isSome) : SameButRun e s (s.modEng e f) :=
  ⟨rfl, fun _ h => tgetD_tput_other _ _ _ _ _ h,
   by rw [show (s.modEng e f).engOf e = f (s.engOf e) from tgetD_tput_same ..]; exact hs,
   fun k => by rw [show (s.modEng e f).engOf e = f (s.engOf e) from tgetD_tput_same ..]; exact hk k⟩

theorem State.modCtx_run (s : State) (e slot : Nat) (f : Ctx → Ctx) : SameButRun e s (s.modCtx e slot f) := by
  unfold State.modCtx
  apply State.modEng_run
  · split <;> rfl
  · intro k
    split
    · rename_i y hy
      by_cases h : k = slot
      · subst h; simp [hy]
      · simp [h]
    · rfl

theorem State.charge_quiet (s : State) (id : SchedId) (q u : Nat) (work : List Nat) :
    s.charge id q u work = { s with regs := (s.charge id q u work).regs, shp := (s.charge id q u work).shp } := by
  cases id <;> (unfold State.charge State.rateCharge; dsimp only; (repeat' split) <;> rfl)

theorem State.chargeDebt_quiet (s : State) (p ns : Nat) (g : Gather) :
    s.chargeDebt p ns g = { s with regs := (s.chargeDebt p ns g).regs, shp := (s.chargeDebt p ns g).shp } := by
  unfold State.chargeDebt
  dsimp only
  generalize (g.entries.map (·.queue)).eraseDups = qs
  generalize ceilDiv (ns * s.wuPerMs p) 1000000 = w
  induction qs generalizing s with
  | nil => rfl
  | cons a r ih =>
    rw [List.foldl_cons, ih]
    split
    · rfl
    · rw [State.charge_quiet]

theorem State.grantRounds_run (s : State) (e : Nat) : SameButRun e s (s.grantRounds e) := by
  unfold State.grantRounds
  generalize s.privReady e = l
  suffices h : ∀ t : State, SameButRun e t (l.foldl (fun t k => t.modCtx e k fun y =>
      if y.newRound then { y with deficit := y.deficit + (s.quantum (slotQueue k) : Int), newRound := false } else y) t) from h s
  induction l with
  | nil => exact fun t => .refl e t
  | cons a r ih => exact fun t => (State.modCtx_run t e a _).trans (ih _)

theorem State.payRunning_run (s : State) (e : Nat) : SameButRun e s (s.payRunning e) := by
  unfold State.payRunning
  dsimp only
  split
  · exact .refl e s
  · exact State.modCtx_run ..

theorem State.leaveCtx_run (s : State) (p e : Nat) : SameButRun e s (s.leaveCtx p e) := by
  unfold State.leaveCtx
  dsimp only
  split
  · split
    · refine SameButRun.trans (t := s.modEng e fun x => { x with overrunSince := none }) (State.modEng_run s e _ rfl fun _ => rfl)
        (.quiet ?_)
      rw [State.chargeDebt_quiet]; rfl
    · exact State.modEng_run s e _ rfl fun _ => rfl
  · exact State.modCtx_run ..

theorem State.beginSwitch_run (s : State) (p e k : Nat) : SameButRun e s (s.beginSwitch p e k) := by
  unfold State.beginSwitch
  dsimp only
  refine ((State.leaveCtx_run s p e).trans (State.modEng_run (s.leaveCtx p e) e
    (fun x => { x with switching := some k, switchSince := s.now }) rfl fun _ => rfl)).trans (.quiet ?_)
  rw [State.carry_only]

/-- A pre-emption point changes how its engine runs, and nothing else of the engines. -/
theorem State.choose_run (s : State) (p e : Nat) : SameButRun e s (s.choose p e) := by
  unfold State.choose
  dsimp only
  generalize hu : ((s.modEng e _).payRunning e).grantRounds e = u
  have h : SameButRun e s u := by
    rw [← hu]
    exact ((State.modEng_run s e _ rfl fun _ => rfl).trans (State.payRunning_run _ e)).trans (State.grantRounds_run _ e)
  generalize hv : (if (u.chosen p e).2 = true then _ else u) = v
  have g : SameButRun e s v := by
    rw [← hv]; split
    · exact h.trans (State.modCtx_run ..)
    · exact h
  split
  · exact g
  · exact g.trans (State.beginSwitch_run ..)

theorem State.rechoose_run (s : State) (p e : Nat) : SameButRun e s (s.rechoose p e) := by
  unfold State.rechoose
  dsimp only
  split
  · exact State.choose_run s p e
  · exact .refl e s

end Machine
end Sys2Proof
end

