-- ==== Sys2Proof/Laws/Regs.lean ====
section
/-!
SUPPORT. Sys2Proof/Laws/Regs.lean: no two registers of Table 19.4 share an offset: the offset of every place of every register leads
back to that register and that place.
-/
namespace Sys2Proof
namespace Machine

/-- First offset of a register's places. -/
def RegRow.base (w : RegRow) : Nat := blockBase w.block + w.off

/-- A condition on numbers under which no place of `a` lies at a place of `b`: `a` ends before `b`, or begins after it, or the two
arrays have one stride and lie interleaved, or all of `a` falls into a gap of `b`. -/
def rowsApart (a b : RegRow) : Bool :=
  let ext := a.s1 * (a.n1 - 1) + a.s2 * (a.n2 - 1)
  0 < b.s1 && 0 < b.s2 &&
  (decide (a.base + ext < b.base) ||
   (0 < b.n1 && decide (b.base + b.s1 * (b.n1 - 1) + b.s2 * b.n2 ≤ a.base)) ||
   (a.s1 == b.s1 && decide (a.base < b.base) && decide (a.base + a.s2 * (a.n2 - 1) < b.base) &&
     decide (b.base + b.s2 * b.n2 ≤ a.s1 + a.base)) ||
   (a.s1 == b.s1 && decide (b.base + b.s2 * b.n2 ≤ a.base) && decide (a.base + a.s2 * (a.n2 - 1) < b.base + a.s1)) ||
   (decide (b.base ≤ a.base) && decide (b.s2 * b.n2 ≤ (a.base - b.base) % b.s1) &&
     decide ((a.base - b.base) % b.s1 + ext < b.s1)))

theorem regAtRow_none {off : Nat} {r : RegName}
    (h : off < (regRow r).base ∨ (regRow r).n1 ≤ (off - (regRow r).base) / (regRow r).s1 ∨
      (regRow r).n2 ≤ (off - (regRow r).base) % (regRow r).s1 / (regRow r).s2) : regAtRow off r = none := by
  unfold RegRow.base at h
  unfold regAtRow
  dsimp only
  split
  · rfl
  · rw [if_neg]
    simp only [Bool.and_eq_true, decide_eq_true_eq, beq_iff_eq]
    omega

/-- Where the rows lie apart, a place of the one is none of the other. -/
theorem regAtRow_apart {r q : RegName} {i j : Nat} (hi : i < (regRow r).n1) (hj : j < (regRow r).n2)
    (h : rowsApart (regRow r) (regRow q) = true) : regAtRow (regAddr r i j) q = none := by
  have e : regAddr r i j = (regRow r).base + (regRow r).s1 * i + (regRow r).s2 * j := rfl
  rw [e]
  generalize regRow r = a at *
  apply regAtRow_none
  generalize regRow q = b at *
  have h1 : a.s1 * i ≤ a.s1 * (a.n1 - 1) := Nat.mul_le_mul_left _ (by omega)
  have h2 : a.s2 * j ≤ a.s2 * (a.n2 - 1) := Nat.mul_le_mul_left _ (by omega)
  generalize ha : a.base = x at *
  generalize hb : b.base = y at *
  generalize hc : a.s2 * j = v at *
  simp only [rowsApart, ha, hb, Bool.and_eq_true, Bool.or_eq_true, decide_eq_true_eq, beq_iff_eq] at h
  obtain ⟨⟨p1, p2⟩, h⟩ := h
  rcases h with (((h | ⟨h0, h⟩) | ⟨⟨⟨h3, h4⟩, h5⟩, h6⟩) | ⟨⟨h3, h4⟩, h5⟩) | ⟨⟨h3, h4⟩, h5⟩
  · left; omega
  · right
    obtain ⟨n, e⟩ : ∃ n, b.n1 = n + 1 := ⟨b.n1 - 1, by omega⟩
    rw [e, Nat.add_sub_cancel] at h
    rw [e]
    by_cases k : n + 1 ≤ (x + a.s1 * i + v - y) / b.s1
    · exact .inl k
    · right
      have le : n ≤ (x + a.s1 * i + v - y) / b.s1 := by
        rw [Nat.le_div_iff_mul_le p1, Nat.mul_comm]
        omega
      have eq : (x + a.s1 * i + v - y) / b.s1 = n := by omega
      have := Nat.div_add_mod (x + a.s1 * i + v - y) b.s1
      rw [eq] at this
      rw [Nat.le_div_iff_mul_le p2, Nat.mul_comm]
      omega
  · rw [← h3] at p1 ⊢
    cases i with
    | zero => left; omega
    | succ i =>
      right; right
      have e1 : x + a.s1 * (i + 1) + v - y = (a.s1 + x + v - y) + a.s1 * i := by rw [Nat.mul_succ]; omega
      rw [e1, Nat.add_mul_mod_self_left, Nat.mod_eq_of_lt (by omega), Nat.le_div_iff_mul_le p2, Nat.mul_comm]
      omega
  · rw [← h3] at p1 ⊢
    right; right
    have e1 : x + a.s1 * i + v - y = (x + v - y) + a.s1 * i := by omega
    rw [e1, Nat.add_mul_mod_self_left, Nat.mod_eq_of_lt (by omega), Nat.le_div_iff_mul_le p2, Nat.mul_comm]
    omega
  · right; right
    have e1 : x + a.s1 * i + v - y = (x - y) + (a.s1 * i + v) := by omega
    rw [e1, Nat.add_mod, Nat.le_div_iff_mul_le p2, Nat.mul_comm]
    have : (a.s1 * i + v) % b.s1 = a.s1 * i + v := Nat.mod_eq_of_lt (by omega)
    rw [this, Nat.mod_eq_of_lt (by omega)]
    omega

/-- Each register lies apart from those before it in the list, and its places from one another. -/
def regsApart : List RegName → List RegName → Bool
  | _, [] => true
  | before, r :: rest =>
    before.all (fun q => rowsApart (regRow r) (regRow q)) && 0 < (regRow r).s1 && 0 < (regRow r).s2 &&
      decide ((regRow r).s2 * (regRow r).n2 ≤ (regRow r).s1) && regsApart (before ++ [r]) rest

set_option maxRecDepth 100000 in
theorem allRegs_apart : regsApart [] allRegs = true := by decide +kernel

theorem regsApart_split {l before : List RegName} (h : regsApart before l = true) {r : RegName} (hr : r ∈ l) :
    ∃ pre post, before ++ l = pre ++ r :: post ∧ (∀ q ∈ pre, rowsApart (regRow r) (regRow q) = true) ∧ 0 < (regRow r).s1 ∧
      0 < (regRow r).s2 ∧ (regRow r).s2 * (regRow r).n2 ≤ (regRow r).s1 := by
  induction l generalizing before with
  | nil => cases hr
  | cons a l ih =>
    simp only [regsApart, Bool.and_eq_true, List.all_eq_true, decide_eq_true_eq] at h
    rcases List.mem_cons.mp hr with rfl | hr
    · exact ⟨before, l, rfl, h.1.1.1.1, h.1.1.1.2, h.1.1.2, h.1.2⟩
    · obtain ⟨pre, post, e, x⟩ := ih h.2 hr
      exact ⟨pre, post, by rw [← e]; simp, x⟩

theorem mem_allRegs (r : RegName) : r ∈ allRegs := by cases r <;> decide

/-- A place of a register leads back to it. -/
theorem regAt_regAddr {r : RegName} {i j : Nat} (hi : i < (regRow r).n1) (hj : j < (regRow r).n2) :
    regAt (regAddr r i j) = some (r, i, j) := by
  obtain ⟨pre, post, e, h, p1, p2, p3⟩ := regsApart_split allRegs_apart (mem_allRegs r)
  unfold regAt
  rw [show allRegs = pre ++ r :: post from e, List.findSome?_append]
  have : pre.findSome? (regAtRow (regAddr r i j)) = none :=
    List.findSome?_eq_none_iff.mpr fun q hq => regAtRow_apart hi hj (h q hq)
  rw [this, Option.none_or, List.findSome?_cons]
  have : regAtRow (regAddr r i j) r = some (r, i, j) := by
    have hv : (regRow r).s2 * j < (regRow r).s1 := Nat.lt_of_lt_of_le (Nat.mul_lt_mul_of_pos_left hj p2) p3
    unfold regAtRow regAddr
    dsimp only
    rw [if_neg (by omega)]
    have e : blockBase (regRow r).block + (regRow r).off + (regRow r).s1 * i + (regRow r).s2 * j -
        (blockBase (regRow r).block + (regRow r).off) = (regRow r).s2 * j + (regRow r).s1 * i := by omega
    rw [e, Nat.add_mul_div_left _ _ p1, Nat.div_eq_of_lt hv, Nat.zero_add, Nat.add_mul_mod_self_left, Nat.mod_eq_of_lt hv,
      Nat.mul_mod_right, Nat.mul_div_cancel_left _ p2]
    simp [hi, hj]
  rw [this]

end Machine
end Sys2Proof
end

