-- ==== Sys2Proof/Laws/Requests.lean ====
section
/-!
SUPPORT. Sys2Proof/Laws/Requests.lean: what a request of this device changes when it is made: the fabric's tables, the queues of the
link ports, and the outputs (credits that go back); and that it then stands among the outstanding requests.
-/
namespace Sys2Proof
namespace Machine

/-- What the sending of frames may change. -/
def State.sameButFabric (s t : State) : Prop := t = { s with fab := t.fab, shp := t.shp, out := t.out }

theorem State.sameButFabric.trans {s u t : State} (a : s.sameButFabric u) (b : u.sameButFabric t) : s.sameButFabric t := by
  unfold State.sameButFabric at *
  rw [a] at b
  exact b

theorem State.returnCredit_same (s : State) (i : Option Nat) (f : Frame) :
    s.sameButFabric (s.returnCredit i f) ∧ (s.returnCredit i f).fab = s.fab := by
  unfold State.returnCredit
  split <;> exact ⟨rfl, rfl⟩

theorem State.queueFrame_same (s : State) (l : Nat) (f : Frame) (i : Option Nat) :
    s.sameButFabric (s.queueFrame l f i) ∧ (s.queueFrame l f i).fab.requests = s.fab.requests ∧
    (s.queueFrame l f i).fab.nextTag = s.fab.nextTag := ⟨rfl, rfl, rfl⟩

theorem State.arrive_same (s : State) (f : Frame) :
    s.sameButFabric (s.arrive f) ∧ (s.arrive f).fab.requests = s.fab.requests ∧ (s.arrive f).fab.nextTag = s.fab.nextTag :=
  ⟨rfl, rfl, rfl⟩

/-- A frame that goes out leaves the outstanding requests as they are. -/
theorem State.sendFrame_same (s : State) (f : Frame) (i : Option Nat) :
    s.sameButFabric (s.sendFrame f i) ∧ (s.sendFrame f i).fab.requests = s.fab.requests ∧
    (s.sendFrame f i).fab.nextTag = s.fab.nextTag := by
  unfold State.sendFrame
  split
  · have a := s.arrive_same f
    have b := (s.arrive f).returnCredit_same i f
    exact ⟨a.1.trans b.1, by rw [b.2]; exact a.2.1, by rw [b.2]; exact a.2.2⟩
  · split
    · exact s.queueFrame_same _ _ _
    · have c := s.returnCredit_same i f
      dsimp only
      split
      · exact ⟨c.1, by rw [c.2], by rw [c.2]⟩
      · split
        · have d := (s.returnCredit i f).arrive_same { answerOf f tyErrorRsp [] 2 with routeGen := s.fab.routeGen }
          exact ⟨c.1.trans d.1, by rw [d.2.1, c.2], by rw [d.2.2, c.2]⟩
        · split
          · rename_i l _
            have d := (s.returnCredit i f).queueFrame_same l { answerOf f tyErrorRsp [] 2 with routeGen := s.fab.routeGen } none
            exact ⟨c.1.trans d.1, by rw [d.2.1, c.2], by rw [d.2.2, c.2]⟩
          · exact ⟨c.1, by rw [c.2], by rw [c.2]⟩

/-- What stands of a request while its frames go out. -/
def Request.key (r : Request) : Nat × Asker × (Nat × Nat) × Nat := (r.tag, r.asker, r.dst, r.total)

theorem lmod_map {α β : Type} (k : α → β) (pr : α → Bool) (f : α → α) (h : ∀ a, k (f a) = k a) (l : List α) :
    (lmod pr f l).map k = l.map k := by
  unfold lmod
  rw [List.map_map]
  apply List.map_congr_left
  intro a _
  show k (if pr a = true then f a else a) = k a
  split
  · exact h a
  · rfl

theorem State.sendNext_same (s : State) (tag : Nat) :
    s.sameButFabric (s.sendNext tag) ∧ (s.sendNext tag).fab.requests.map Request.key = s.fab.requests.map Request.key ∧
    (s.sendNext tag).fab.nextTag = s.fab.nextTag := by
  unfold State.sendNext
  split
  · exact ⟨rfl, rfl, rfl⟩
  · split
    · exact ⟨rfl, rfl, rfl⟩
    · rename_i r _ f rest _
      dsimp only
      generalize hg : ({ s with fab := { s.fab with
        e2eNext := tput s.fab.e2eNext f.dst.1 ((tgetD s.fab.e2eNext f.dst.1 0 + 1) % two32),
        requests := lmod (fun (x : Request) => x.tag == tag)
          (fun x => { x with frames := x.frames ++ [{ f with e2eSeq := tgetD s.fab.e2eNext f.dst.1 0, routeGen := s.fab.routeGen }],
                             unsent := rest, times := tput x.times f.index s.now })
          s.fab.requests } } : State) = g
      have e := g.sendFrame_same { f with e2eSeq := tgetD s.fab.e2eNext f.dst.1 0, routeGen := s.fab.routeGen } none
      have q : s.sameButFabric g := by rw [← hg]; rfl
      refine ⟨q.trans e.1, ?_, ?_⟩
      · rw [e.2.1, ← hg]
        refine lmod_map Request.key (fun (x : Request) => x.tag == tag) (fun x => { x with
          frames := x.frames ++ [{ f with e2eSeq := tgetD s.fab.e2eNext f.dst.1 0, routeGen := s.fab.routeGen }],
          unsent := rest, times := tput x.times f.index s.now }) ?_ s.fab.requests
        exact fun _ => rfl
      · rw [e.2.2, ← hg]

theorem State.pump_same (s : State) (dev n : Nat) :
    s.sameButFabric (s.pump dev n) ∧ (s.pump dev n).fab.requests.map Request.key = s.fab.requests.map Request.key ∧
    (s.pump dev n).fab.nextTag = s.fab.nextTag := by
  induction n generalizing s with
  | zero => exact ⟨rfl, rfl, rfl⟩
  | succ k ih =>
    unfold State.pump
    split
    · exact ⟨rfl, rfl, rfl⟩
    · split
      · exact ⟨rfl, rfl, rfl⟩
      · rename_i r _
        have a := s.sendNext_same r.tag
        have b := ih (s.sendNext r.tag)
        exact ⟨a.1.trans b.1, by rw [b.2.1, a.2.1], by rw [b.2.2, a.2.2]⟩

/-- A request has the next tag, stands among the outstanding ones, and changes nothing outside fabric, ports and outputs. -/
theorem State.startRequest_made (s : State) (who : Asker) (type p : Nat) (cls : ArbClass) (dst : Nat × Nat) (offset addr len : Nat)
    (data : Bytes) :
    (s.startRequest who type p cls dst offset addr len data).1 = s.fab.nextTag ∧
    s.sameButFabric (s.startRequest who type p cls dst offset addr len data).2 ∧
    (s.startRequest who type p cls dst offset addr len data).2.awaits s.fab.nextTag who dst len := by
  refine ⟨rfl, ?_, ?_⟩
  · refine State.sameButFabric.trans ?_ (State.pump_same _ _ _).1
    rfl
  · have m : (s.fab.nextTag, who, dst, len) ∈
        (s.startRequest who type p cls dst offset addr len data).2.fab.requests.map Request.key := by
      show _ ∈ List.map Request.key (State.pump _ _ _).fab.requests
      rw [(State.pump_same _ _ _).2.1]
      show _ ∈ List.map Request.key (s.fab.requests ++ [_])
      rw [List.map_append]
      exact List.mem_append_right _ (List.mem_singleton.mpr rfl)
    obtain ⟨r, hr, hk⟩ := List.mem_map.mp m
    unfold Request.key at hk
    injection hk with h1 h2
    injection h2 with h2 h3
    injection h3 with h3 h4
    exact ⟨r, hr, h1, h2, h3, h4⟩

end Machine
end Sys2Proof
end

