-- ==== Sys2Proof/WellFormed.lean ====
section
/-!
DEFINITION. Sys2Proof/WellFormed.lean: the ranges of the operands of a command (the counts of Table 0.1, R250 and
Table 19.2). The queue may hold an ill-formed command: its object is then absent, and exec runs on it as
on any absent object. The statements hold for every command, so none of them asks for this check.
-/
namespace Sys2Proof

/-- A partition number. -/
def wfPart (p : Nat) : Bool := p < Config.partitions
/-- An engine number. -/
def wfEngine (e : Nat) : Bool := e < Config.engines
/-- A link number. -/
def wfLink (l : Nat) : Bool := l < Config.links
/-- A NAND channel number. -/
def wfChan (c : Nat) : Bool := c < Config.nandChannels
/-- A directory record number. -/
def wfDir (d : Nat) : Bool := d < Config.dirRecords
/-- A descriptor: its place in its partition's share, below 2²⁶, with the partition above it. -/
def wfDesc (d : Nat) : Bool := d < Config.partitions * Config.maxDescriptors
/-- A service queue number. -/
def wfQueue (q : Nat) : Bool := q < Config.serviceQueues
/-- A function: PF0 or the VF of a partition. -/
def wfFn : Fn → Bool
  | .pf => true
  | .vf p => wfPart p
/-- A port (Table 10.6). -/
def wfPort : PortId → Bool
  | .hbm c => c < Config.hbmChannels
  | .buf => true
  | .link l => wfLink l
  | .nand c => wfChan c
  | .host => true
/-- A scheduler (Table 10.3). -/
def wfSched : SchedId → Bool
  | .step p => wfPart p
  | .text => true
  | .recallU => true
  | .fabric l => wfLink l
/-- A frame's fields fit Table 12.3. -/
def wfFrame (f : Frame) : Bool :=
  f.lane < 35 && f.hops < 64 && f.src.1 < 4096 && f.src.2 < 16 && f.dst.1 < 4096 && f.dst.2 < 16 &&
  f.payload.length ≤ 4096

/-- The operands of a command lie in the ranges that the spec's tables give. -/
def Instr.wf : Instr → Bool
  | .sqDoorbell p tail => wfPart p && tail < 65536
  | .cqDoorbell p head => wfPart p && head < 65536
  | .sqEnable p base log2 => wfPart p && base % 4096 = 0 && log2 < 32
  | .cqEnable p base log2 => wfPart p && base % 4096 = 0 && log2 < 32
  | .sqEntryRead p data _ => wfPart p && (match data with | some b => b.length == 128 | none => true)
  | .deferredAdmit p q => wfPart p && wfQueue q
  | .policerWrite q which _ => wfQueue q && which < 3
  | .sqDisable p | .cqDisable p | .verbBegin p _ | .openSession p _ | .append p _ _ | .stepGen p _ _ | .stepStop p _
  | .park p _ | .revive p _ | .fork p _ | .splice p _ _ | .close p _ | .place p _ | .grammarLoad p _
  | .grammarDrop p _ | .grammarDropEffect p _ | .indexLoad p _ | .indexSwitch p _ _ | .query p _ _ | .queryDone p _ _ _
  | .mergeDeadlineExpire p _ | .generationRelease p _ _ | .delete p _ _ | .indexDrop p _ | .programLoad p _
  | .programFetch p _ | .handoffSend p _ | .handoffClaim p _ | .ckptTake p _ _ | .ckptRequest p _ _
  | .consistencyPoint p | .ckptCommit p _ | .ckptRestore p _ _ _ | .ckptRestoreDone p _ | .selection p
  | .gatheringRelease p | .maskReady p _ _ | .stepBoundary p | .placeDone p _ | .pieceTokenized p _ _
  | .partReset p | .replayEnd p _ | .partitionDrainEnd p | .partResetDone p _ | .cqRecordWrite p
  | .coalTimerExpire p | .vfFlr p | .grammarLoadDone p _ _ | .programLoadDone p _ _
  | .shardTransfer p _ | .tdispRequest p _ _ => wfPart p
  | .keyAuthSet p hash _ => wfPart p && hash.length == 48
  | .handoffPoll d | .handoffReclaim d | .recordRetry d | .parkDone d | .reviveDone d _ _ | .wakeAheadStart d
  | .ttlExpire d => wfDir d
  | .taskProduct e | .taskVector e | .taskAttention e | .taskSample e | .taskMove e | .issueRead e | .issueWrite e
  | .await e | .barrier e | .endStream e | .budgetFault e _ | .contextSwitchDone e | .awaitSwitchTimeout e _
  | .stepSliceExpire e | .testContextLoad e _ _ => wfEngine e
  | .promotionCommit d | .demotionCommit d | .eagerDemotion d | .prefetchStart d => wfDesc d
  | .tierFailure x _ | .t3Timeout x => (match x with | .folio d => wfDesc d | .quire d => wfDir d | .query p _ => wfPart p)
  | .portGrantEnd port => wfPort port
  | .drrRoundStart sch => wfSched sch
  | .faultCfg src n w => src < 256 && n < 65536 && w < 65536
  | .faultEvent src _ => src < 256
  | .flitRx l f => wfLink l && f.seq < 4096 && f.ack < 4096
  | .linkDown l | .linkRetry l | .linkTrained l | .hello l _ | .auth l _ _ _ | .lsa l _ | .lsaAck l _ _
  | .lsaResend l _ | .keyUpdate l _ | .keyUpdateSend l | .syncReq l _ _ | .syncRsp l _ _ _ _ => wfLink l
  | .readReq f | .writeReq f | .casReq f | .shardReq f | .readRsp f | .writeAck f | .casRsp f | .shardRsp f
  | .errorRsp f => wfFrame f
  | .nandReadDone c _ _ _ _ | .nandProgramDone c _ _ _ | .nandEraseDone c _ _ | .relocationCommit c _ | .gcStart c
  | .staticLevel c _ | .readRefresh c _ | .patrolRead c _ _ => wfChan c
  | .hifT3Write which _ => which < 3
  | .snapTake fn block => wfFn fn && block < 12
  | .satClear fn _ _ | .d3hotEntry fn => wfFn fn
  | .registerWrite fn _ width _ => wfFn fn && (width == 4 || width == 8)
  | .rcRead fn r => wfFn fn && (r.width == 4 || r.width == 8)
  | .clockLoss d | .clockRelock d => d < 40
  | .ideKm stream _ => stream < 4
  | .wheelTick | .histSample | .scrubRead _ _ _ | .bindCommit _ _ | .drainDeadline | .compositionSwitch
  | .keyEnroll _ _ | .floorSet _ | .fwFloorSet _ | .safeRestart | .deviceReset | .debugUnlock _ | .debugLock
  | .auditRead _ _ | .auditAck _ | .auditFlush | .pkeySet _ | .poolKeySet _ | .ckSet _ | .keyStatus _
  | .spdmRequest _ _ | .sysHangReport _ | .routeSwitch | .routeTableRetire | .syncTimer | .pfFlr | .perstAssert
  | .perstDeassert | .pwrokAssert | .powerDown | .firmwareBoot _ | .trainingDone _ | .bringupFabricEnd
  | .pacerTick _ _ _ | .tempThreshold _ _ | .thermtrip | .rtcUpdate | .vbatLoss | .jtagInstruction _
  | .configurationRequest _ | .memoryInitDone _ | .flashMapRebuilt _ => true

end Sys2Proof
end

