-- ==== Sys2Proof/Tests/Slice0.lean ====
section
/-!
SUPPORT. Sys2Proof/Tests/Slice0.lean: small tests of the model on the spec's own numbers, an ill-formed operand for every check of
Instr.wf, and a witness for the hypotheses of every statement. A witness names a state and operands that meet them together.
-/
namespace Sys2Proof.Tests
-- One theorem after the other: many at once would reserve more memory than the checks allow.
set_option Elab.async false
open Sys2Proof Sys2Proof.Machine

/-! ## Small states -/

/-- The value of an option that a witness has shown to hold one. -/
def val {α : Type} (o : Option α) (d : α) : α := match o with | some a => a | none => d

def key32 : Bytes := List.replicate 32 9#8
def hash48 : Bytes := List.replicate 48 7#8
def vocab0 : Vocab := { entries := (List.range 4).map fun b => { bytes := [BitVec.ofNat 8 (97 + b)] } }
def prog0 : Program := { id := 1, bytes := [1#8, 2#8, 3#8], layers := 2, kvHeads := 1, headDim := 32, vocab := vocab0,
                         sets := [{ engines := 2, streams := [{ cmds := [{ opcode := 5 }] }, { cmds := [{ opcode := 5 }] }] }] }
def group0 : CkptGroup := { group := 1, members := [(5, 0), (6, 0), (7, 0)], stageMib := 1, reserve := 4 }
def region0 : XRegion := { num := 0, dev := 6, part := 1, base := 4096, records := 4, slotBytes := 1048576 }
def grant0 : Grant := { dev := 5, part := 0, base := 0, size := 1073741824, r := true, w := true, a := true }
def part0 : PartImage := {
  part := { pairs := [0], hbm := List.range 16, nand := [0], dirCount := 16, spineCount := 16, ptShare := 1024, descShare := 1024,
            stateBuf := 1048576, replyBuf := 65536 }
  folio := { progLayers := 2, kvBytes := 64, tokens := 4, layersPer := 2, kvFmt := .bf16, t1Share := 100, t1High := 90, t1Low := 80,
             t3Share := 10, t4Share := 100, seeds := [(4, (100000, 5000))] }
  prog := { id := 1, length := 3, counts := [2], source := 1 }
  text := { cfg := 0x0000010100000000, vocab := vocab0 }
  links := { group := some group0, onPeers := [{ dev := 6, part := 1, base := 0, size := 1073741824 }] } }
def image0 : Image := {
  parts := [(0, part0)]
  fab := { peers := [{ uid := 6, id := 6, latBudget := 10000 }], links := [(0, { active := true, peerId := 6, peerLink := 0 })],
           regions := [region0] } }
def vf0 : Vf := { enabled := true, tdi := .run, sqEnable := true, cqEnable := true }

/-- A device at work: partition 0 has its function, its keys and its program. -/
def on : State :=
  ({ now := 100000000
     hif := { vfs := [(0, vf0)], linkUp := true, ideStreams := [0], perst := false, cfgReady := true, nextVerb := 1 }
     dir := { free := [(0, { count := 16 })] }
     fol := { parts := [(0, { desc := { count := 1024 } })] }
     spn := [(0, { program := some prog0 })]
     bind := { phase := .inForce, image := some image0 }
     sec := { keys := [(0, { prk := some key32, plk := some key32, ck := some key32 })], uid := 7,
              battery := { formatted := true, bindFloor := 1, keyHash := some hash48, keyAuth := [(0, (hash48, true))] } }
     pwr := { pwrok := true, stage := 8, aon := true }
     nvf := { chans := [(0, { state := .active, nblocks := 100 })] }
     fab := { devId := 5 } } : State).setReg .shpPartCfg 0 0 (BitVec.ofNat 64 (16 * 2 ^ 51 + 1))

/-- A verb of partition 0, number 1. -/
def verb (op : VerbOp) (opcode : Nat) (phase : VerbPhase) (body : Bytes := []) (flags : Nat := 0) : Verb :=
  { id := 1, op, opcode, flags, body, handle := mkHandle 0 1 0, phase, arrival := 999000 }
/-- `on` with that verb. -/
def withVerb (s : State) (v : Verb) : State := { s with hif := { s.hif with verbs := [(0, [v])], nextVerb := 2 } }
/-- Session 0 of partition 0 with its sequence 0. -/
def session0 (q : Seq) : Session := { handle := mkHandle 0 1 0, part := 0, sdk := some 3, seqs := [(0, q)] }
def withSession (s : State) (x : Session) : State :=
  { s with dir := { s.dir with recs := [(0, { inUse := true, live := 1 })], sessions := [(0, x)], spine := [(0, (0, 0))],
                               free := [(0, { count := 16, next := 1 })] } }
def seq0 (st : SeqState) : Seq := { num := 0, state := st, spine := some 0 }

/-- The body of an entry, field by field (offset in the entry, bytes, value). -/
def body (l : List (Nat × Nat × Nat)) : Bytes :=
  l.foldl (fun b x => b.take (x.1 - 0x20) ++ natLe x.2.1 x.2.2 ++ b.drop (x.1 - 0x20 + x.2.1)) (zeros 96)
/-- An entry of 128 bytes. -/
def entry (opcode flags seq prio queue handle : Nat) (b : Bytes := zeros 96) : Bytes :=
  natLe 1 opcode ++ natLe 1 flags ++ natLe 1 seq ++ natLe 1 prio ++ natLe 2 queue ++ natLe 2 0 ++ natLe 8 handle ++ natLe 16 0 ++ b
/-- A good OPEN body: MAX_NEW 16, queue 0. -/
def openBody : Bytes := body [(0x34, 4, 16)]

/-! ## Witnesses: the block -/

theorem witness_EmptyQueueTicks : on.pending = [] ∧ State.reset.pending = [] ∧ State.reset.pwr.pwrok = false := by decide +kernel
def safeOn : State := { on with flt := { on.flt with safe := true }, pwr := { on.pwr with safePin := true } }
theorem witness_SafePinInvariant : ∃ t, (safeOn.flt.safe = true ∨ safeOn.pwr.stage = 15 → safeOn.pwr.safePin = true) ∧
    safeOn.flt.safe = true ∧ step safeOn = .next t := ⟨_, by decide +kernel, by decide +kernel, rfl⟩
theorem witness_CommandsKeepIdentityQueueAndTime : ∃ t, exec .powerDown on = .next t ∧ t.now ≠ on.now :=
  ⟨_, rfl, by decide +kernel⟩
def pend (c : Instr) (s : State) : State := { s with pending := [c] }
theorem witness_FloorsSafeStateAndLatches :
    (∃ t, step (pend (.floorSet 2) on) = .next t ∧ (pend (.floorSet 2) on).pending.head? ≠ some .vbatLoss ∧
      ∀ ok, (pend (.floorSet 2) on).pending.head? ≠ some (.memoryInitDone ok)) ∧
    (∃ t, step (pend .deviceReset safeOn) = .next t ∧ safeOn.flt.safe = true ∧ t.flt.safe = false) ∧
    (∃ t, step (pend .thermtrip on) = .next t ∧ t.pwr.thermtrip = true) ∧
    (∃ t, let s := { on with sec := { on.sec with keys := [], debugNonce := some 3 } }
      step (pend (.debugUnlock { signed := true, uid := 7, nonce := 3 }) s) = .next t ∧ s.sec.battery.debugUnlocked = false ∧
      t.sec.battery.debugUnlocked = true) := by
  refine ⟨⟨_, rfl, by decide +kernel, fun ok => by simp [pend]⟩, ⟨_, rfl, by decide +kernel, by decide +kernel⟩,
    ⟨_, rfl, by decide +kernel⟩, ⟨_, rfl, by decide +kernel, by decide +kernel⟩⟩
theorem witness_MemoryWrites : ∃ b, (b < 5 ∨ 5 + ([1#8, 2#8] : Bytes).length ≤ b) ∧ memWf ([(5, 7#8)] : Mem) = true :=
  ⟨7, by decide +kernel⟩

/-! ## Witnesses: host queues -/

def onSq : State := on.setVf 0 { vf0 with sqTail := 1 }
theorem witness_RingsAndDoorbells :
    (on.vfOn 0 = true ∧ (on.vf 0).sqEnable = true ∧ (on.vf 0).tdi = .run ∧ 63 < ringSlots (on.vf 0).sqSize ∧
      ((on.vf 0).sqTail + ringSlots (on.vf 0).sqSize - (on.vf 0).sqHead) % ringSlots (on.vf 0).sqSize +
      (63 + ringSlots (on.vf 0).sqSize - (on.vf 0).sqTail) % ringSlots (on.vf 0).sqSize ≤ ringSlots (on.vf 0).sqSize - 1) ∧
    (ringSlots (on.vf 0).sqSize ≤ 64) ∧
    (onSq.vfOn 0 = true ∧ ringSlots (onSq.vf 0).sqSize - 1 <
      ((onSq.vf 0).sqTail + ringSlots (onSq.vf 0).sqSize - (onSq.vf 0).sqHead) % ringSlots (onSq.vf 0).sqSize +
      (0 + ringSlots (onSq.vf 0).sqSize - (onSq.vf 0).sqTail) % ringSlots (onSq.vf 0).sqSize) ∧
    (let s := on.setVf 0 { vf0 with cqUsed := 1 }
     s.vfOn 0 = true ∧ (s.vf 0).cqEnable = true ∧ (s.vf 0).tdi = .run ∧ 1 < ringSlots (s.vf 0).cqSize ∧
      (1 + ringSlots (s.vf 0).cqSize - (s.vf 0).cqHead) % ringSlots (s.vf 0).cqSize ≤ (s.vf 0).cqUsed) ∧
    (on.vfOn 0 = true ∧ (on.vf 0).cqUsed < (1 + ringSlots (on.vf 0).cqSize - (on.vf 0).cqHead) % ringSlots (on.vf 0).cqSize) ∧
    (let s := on.setVf 0 { vf0 with sqEnable := false, cqEnable := false }
     s.vfOn 0 = true ∧ (s.vf 0).sqEnable = false ∧ (s.vf 0).cqEnable = false) ∧
    (on.vf 0).cqEnable = true := by decide +kernel
def fencedOn : State := onSq.setRecPart 0 { mode := .fenced }
def onSqSession : State := withSession onSq (session0 (seq0 .wait))
theorem witness_RefusedEntries :
    onSq.canReadSq 0 = true ∧ (∀ w ∈ onSq.verbs 0, w.id ≠ onSq.hif.nextVerb) ∧ fencedOn.canReadSq 0 = true ∧
    fencedOn.entriesFenced 0 = true ∧ onSq.entriesFenced 0 = false ∧ entryMalformed (zeros 128) = true ∧
    (let b := entry 8 4 0 0 0 (mkHandle 0 2 0)
     entryMalformed b = false ∧ (onSqSession.entryVerb 0 b none).scope ≠ .part ∧
     onSqSession.checkHandle 0 (onSqSession.entryVerb 0 b none).handle (onSqSession.entryVerb 0 b none).seq
       (onSqSession.entryVerb 0 b none).scope = none) ∧
    (let b := entry 1 0 0 0 16 0 openBody
     entryMalformed b = false ∧ (onSq.entryVerb 0 b none).scope = .part ∧
     onSq.queueIn 0 (onSq.entryVerb 0 b none).queueField = false) := by decide +kernel
theorem witness_GoodEntries :
    (let b := entry 8 4 0 0 0 (mkHandle 0 1 0)
     let v := onSqSession.entryVerb 0 b none
     onSqSession.canReadSq 0 = true ∧ (∀ w ∈ onSqSession.verbs 0, w.id ≠ onSqSession.hif.nextVerb) ∧
     onSqSession.entriesFenced 0 = false ∧ entryMalformed b = false ∧
     (onSqSession.checkHandle 0 v.handle v.seq v.scope).isSome = true ∧ v.acts = true) ∧
    (let b := entry 1 0 0 0 15 0 openBody
     let v := onSq.entryVerb 0 b none
     onSq.canReadSq 0 = true ∧ onSq.entriesFenced 0 = false ∧ entryMalformed b = false ∧ v.scope = .part ∧ v.acts = false ∧
     onSq.queueIn 0 v.queueField = true ∧ (onSq.deferred 0 (onSq.queueOf v)).isEmpty = true) ∧
    (let s := withVerb onSq { verb .openS 1 .deferred with queue := 15 }
     let b := entry 1 0 0 0 15 0 openBody
     let v := s.entryVerb 0 b none
     s.canReadSq 0 = true ∧ (∀ w ∈ s.verbs 0, w.id ≠ s.hif.nextVerb) ∧ s.entriesFenced 0 = false ∧
     (s.deferred 0 (s.queueOf v)).isEmpty = false) := by decide +kernel
theorem witness_RecordsReachTheHost :
    (let w : Waiting := { record := {} }
     let s := on.setVf 0 { vf0 with waiting := [w] }
     s.canWriteCq 0 = true ∧ (s.vf 0).waiting = w :: []) ∧
    (let s := on.setVf 0 { vf0 with unsignalled := 1, coalUs := 1000, coalCount := 8 }
     s.hostUp 0 = true ∧ 0 < (s.vf 0).unsignalled ∧ (s.vf 0).unsignalledSince + 1000 * (s.vf 0).coalUs ≤ s.now) := by decide +kernel
/-- The conditions of VERB_BEGIN on a verb. -/
def begins (s : State) (v : Verb) : Bool :=
  decide (s.verb? 0 1 = some v) && decide (v.phase = .queued) && s.live && !s.bufferFull 0 && s.turn 0 v && !s.partFenced 0 &&
  (s.partImage? 0).isSome
theorem witness_VerbsBegin :
    (let v := verb .openS 1 .queued
     let s := withVerb on v
     begins s v = true ∧ s.refuses 0 v = none ∧ s.hasPrk 0 = true ∧ needsProgram v.op = true ∧ (s.program? 0).isSome = true ∧
     v.scope = .part) ∧
    (let v := verb .openS 1 .queued
     let s : State := { withVerb on v with sec := { on.sec with keys := [] } }
     begins s v = true ∧ s.hasPrk 0 = false ∧ s.refuses 0 v = some .badState) ∧
    (let v := verb .openS 1 .queued
     let s : State := { withVerb on v with spn := [] }
     begins s v = true ∧ s.hasPrk 0 = true ∧ needsProgram v.op = true ∧ s.program? 0 = none) ∧
    (let v := verb .append 2 .queued
     begins (withVerb on v) v = true ∧ v.scope ≠ .part ∧ (withVerb on v).checkHandle 0 v.handle v.seq v.scope = none) ∧
    (let v := verb .append 2 .queued
     let x := session0 (seq0 .wait)
     let s := withSession (withVerb on v) x
     begins s v = true ∧ s.checkHandle 0 v.handle v.seq v.scope = some 0 ∧ s.session? 0 = some x ∧ v.op ≠ .close ∧
     (s.recOf 0).damaged = false ∧ (s.recOf 0).expired = false ∧ (∀ q, tget x.seqs v.seq = some q → q.state ≠ .poisoned) ∧
     s.roleOf 0 ≠ .state ∧ v.op ≠ .place ∧ stateAccepts v x = true) ∧
    (let v := verb .append 2 .queued
     let s := withSession (withVerb on v) (session0 (seq0 .poisoned))
     let t := s.setRec 0 { s.recOf 0 with damaged := true }
     let u := s.setRec 0 { s.recOf 0 with expired := true }
     begins s v = true ∧ begins t v = true ∧ begins u v = true ∧ (t.recOf 0).damaged = true ∧ (u.recOf 0).expired = true ∧
     t.checkHandle 0 v.handle v.seq v.scope = some 0 ∧ u.checkHandle 0 v.handle v.seq v.scope = some 0 ∧
     tget (session0 (seq0 .poisoned)).seqs v.seq = some (seq0 .poisoned) ∧ v.scope = .sequence) := by
  refine ⟨by decide +kernel, by decide +kernel, by decide +kernel, by decide +kernel, ⟨?_, ?_⟩, by decide +kernel⟩
  · decide +kernel
  · refine ⟨by decide +kernel, by decide +kernel, by decide +kernel, by decide +kernel, by decide +kernel, ?_, by decide +kernel,
      by decide +kernel, by decide +kernel⟩
    intro q h
    have : q = seq0 .wait := by simpa [session0, tget, verb] using h.symm
    rw [this]; decide
theorem witness_PolicedVerbs :
    (let v : Verb := { verb .openS 1 .deferred with coloured := true }
     let s := withVerb on v
     s.live = true ∧ s.deferred 0 0 = [v] ∧ s.verb? 0 v.id = some v ∧ v.coloured = true ∧ s.fencedByChange 0 = false ∧
     s.heldByPoint 0 v = false) ∧
    (4095 < 4096 ∧ on.answers .pf = true ∧ on.flt.safe = false ∧ on.auditFull = false ∧ on.headKnown = true) ∧
    ∀ p, on.deferred p 0 = [] := ⟨by decide +kernel, by decide +kernel, fun _ => rfl⟩
theorem witness_VerbsAreColoured : (verb .openS 1 .queued).coloured = false ∧ (Colour.green ≠ .never) ∧ 64 ≤ 64 + 0 := by decide +kernel

/-! ## Witnesses: sessions -/

def onOpen : State := withVerb on (verb .openS 1 .begun openBody)
/-- A partition whose shares are used up: no free record, no free Spine entry. -/
def spent : State := { onOpen with dir := { onOpen.dir with free := [(0, { count := 16, next := 16 })] } }
def openFly : Nat × State := val (onOpen.allocFolio 0 .flyleaf (onOpen.kvFmt 0) 0 (mkHandle 0 (onOpen.recOf 0).gen 0)) (0, on)
def openPt : Nat × State := val (openFly.2.allocFolio 0 .pageTable (onOpen.kvFmt 0) 0 (mkHandle 0 (onOpen.recOf 0).gen 0)) (0, on)
def parkBody (tier : Nat) : Bytes := body [(0x24, 1, tier)]
def xWait : Session := session0 (seq0 .wait)
def onPark (tier : Nat) : State := withSession (withVerb on (verb .park 4 .begun (parkBody tier))) xWait
/-- A parked quire: one folio, in tier 4. -/
def quire0 : Quire := { tier := 4, folios := [{ kind := 4, key := 3 }] }
def xParked : Session := { session0 (seq0 .parked) with sdk := none, wrappedSdk := 3, quire := some quire0 }
def parkOp0 : ParkOp := { verb := 1, began := 999000, tier := 4, ttl := 60, hint := 0, locs := [0, 1], parkId := 9 }
def xParking : Session := { xWait with parkOp := some parkOp0 }
/-- The places that PARK takes for it. -/
def parkTaken : Nat × List Nat × State := val ((onPark 0).allocQuireTier 0 (1 + (onPark 0).ptNeed xWait 0 + xWait.kvFolios.length) [4, 3])
  (0, [], on)
theorem witness_SessionsOpenAndPark :
    (let v := verb .openS 1 .begun
     (withVerb on v).begun? 0 1 .openS = some v ∧ (withVerb on v).openBad 0 v = true) ∧
    (let v := verb .openS 1 .begun openBody
     spent.begun? 0 1 .openS = some v ∧ spent.openBad 0 v = false ∧ (spent.dirFree 0).take = none) ∧
    (let v := verb .openS 1 .begun openBody
     onOpen.begun? 0 1 .openS = some v ∧ onOpen.openBad 0 v = false ∧
     (onOpen.dirFree 0).take = some (0, { count := 16, next := 1 }) ∧ onOpen.freeSpine 0 = some 0 ∧ onOpen.t1Room 0 2 = true ∧
     onOpen.allocFolio 0 .flyleaf (onOpen.kvFmt 0) 0 (mkHandle 0 (onOpen.recOf 0).gen 0) = some (openFly.1, openFly.2) ∧
     openFly.2.allocFolio 0 .pageTable (onOpen.kvFmt 0) 0 (mkHandle 0 (onOpen.recOf 0).gen 0) = some (openPt.1, openPt.2) ∧
     openPt.2.hif = onOpen.hif ∧ openPt.2.free = onOpen.free) ∧
    (let v := verb .park 4 .begun (parkBody 1)
     (onPark 1).begun? 0 1 .park = some v ∧ (onPark 1).session? v.dir = some xWait ∧ v.f 0x24 1 ≠ 0 ∧ v.f 0x24 1 ≠ 3 ∧
     v.f 0x24 1 ≠ 4) ∧
    (let v := verb .park 4 .begun (parkBody 4)
     let s := withSession (withVerb on v) xParked
     s.begun? 0 1 .park = some v ∧ s.session? v.dir = some xParked ∧ v.f 0x24 1 = 4 ∧ xParked.quire.isSome = true) ∧
    (let v := verb .park 4 .begun (parkBody 3)
     let im : Image := { image0 with parts := [(0, { part0 with folio := { part0.folio with t3Share := 0 } })] }
     let s : State := { onPark 3 with bind := { on.bind with image := some im } }
     s.begun? 0 1 .park = some v ∧ s.session? v.dir = some xWait ∧ v.f 0x24 1 = 3 ∧ xWait.quire = none ∧
     s.allocQuireTier 0 (1 + s.ptNeed xWait 0 + xWait.kvFolios.length) [3] = none) ∧
    (let v := verb .park 4 .begun (parkBody 0)
     (onPark 0).begun? 0 1 .park = some v ∧ (onPark 0).session? v.dir = some xWait ∧ v.f 0x24 1 = 0 ∧ xWait.quire = none ∧
     (onPark 0).allocQuireTier 0 (1 + (onPark 0).ptNeed xWait 0 + xWait.kvFolios.length) [4, 3] =
       some (parkTaken.1, parkTaken.2.1, parkTaken.2.2)) ∧
    (let s := withSession on xParking
     s.session? 0 = some xParking ∧ xParking.parkOp = some parkOp0 ∧ s.live = true) := by decide +kernel
/-- A session that parks one folio, and that folio, lost or not. -/
def xParks : Session := { xParking with seqs := [(0, { seq0 .wait with spans := [{ entries := [{ posBase := 0, valid := 1, layer := 0, refKind := 1, dgen := 0, ref := 0 }] }] })] }
def parksOn (lost : Bool) : State :=
  { withSession on xParks with fol := { on.fol with folios := [(0, { kind := .kv, fmt := .bf16, tier := 1, refcnt := 1, lost := lost })] } }
theorem witness_ParkReadsFolios :
    (∀ l ∈ [true, false], (parksOn l).session? 0 = some xParks ∧ xParks.parkOp = some parkOp0 ∧ (parksOn l).live = true ∧
      xParks.kvFolios = [0]) ∧
    ((parksOn true).folio? 0).map (·.lost) = some true ∧ ((parksOn false).folio? 0).map (·.lost) = some false := by decide +kernel
/-- A parked session of which a verb asks. -/
def onParked (v : Verb) : State := withSession (withVerb on v) xParked
def reviveOp0 : ReviveOp := { cause := some 1, began := 999000, tier := 4, bytes := 65536, descs := [0] }
def xReviving : Session := { xParked with seqs := [(0, seq0 .reviving)], revive := some reviveOp0 }
/-- The same partition with the role STATE, in which no session revives. -/
def stateRole (s : State) : State :=
  { s with bind := { s.bind with image := some { image0 with parts := [(0, { part0 with part := { part0.part with role := .state } })] } } }
def revived (v : Verb) : State := val ((onParked v).startRevive v.dir (some 1) false) on
def vRevive : Verb := verb .revive 5 .begun
def vAppend : Verb := verb .append 2 .begun
def vStep : Verb := verb .step 3 .begun (body [(0x2C, 4, 0x3F800000), (0x30, 4, 0x3F800000), (0x34, 2, 1), (0x50, 4, 256)])
def vFork : Verb := verb .fork 6 .begun
theorem witness_SessionsRevive :
    (let s := withSession (withVerb on vRevive) xWait
     s.begun? 0 1 .revive = some vRevive ∧ s.session? vRevive.dir = some xWait ∧ xWait.quire = none) ∧
    (let s := withSession (withVerb on vRevive) xReviving
     s.begun? 0 1 .revive = some vRevive ∧ s.session? vRevive.dir = some xReviving ∧ xReviving.quire.isSome = true ∧
     xReviving.revive = some reviveOp0) ∧
    (let s := stateRole (onParked vRevive)
     s.begun? 0 1 .revive = some vRevive ∧ s.session? vRevive.dir = some xParked ∧ xParked.quire.isSome = true ∧
     xParked.revive = none ∧ s.startRevive vRevive.dir (some 1) false = none) ∧
    ((onParked vRevive).begun? 0 1 .revive = some vRevive ∧
     (onParked vRevive).startRevive vRevive.dir (some 1) false = some (revived vRevive)) ∧
    (let s := withSession on xReviving
     s.session? 0 = some xReviving ∧ xReviving.revive = some reviveOp0 ∧ xReviving.quire = some quire0 ∧ s.live = true ∧
     s.quireOpens 0 xReviving quire0 = true) ∧
    (let x := { xReviving with quire := some { quire0 with folios := [{ kind := 4, key := 3, intact := false }] } }
     let s := withSession on x
     s.session? 0 = some x ∧ s.quireOpens 0 x { quire0 with folios := [{ kind := 4, key := 3, intact := false }] } = false) ∧
    (∀ v ∈ [vAppend, vStep, vFork], (onParked v).session? v.dir = some xParked ∧ (onParked v).seq? v.dir v.seq = some (seq0 .parked) ∧
      (onParked v).startRevive v.dir (some 1) false = some (revived v) ∧
      (stateRole (onParked v)).startRevive v.dir (some 1) false = none) ∧
    (onParked vAppend).begun? 0 1 .append = some vAppend ∧ vAppend.f 0x2C 1 ≤ 1 ∧
    (onParked vStep).begun? 0 1 .step = some vStep ∧ vStep.flag flagStop = false ∧ stepArgsOk vStep = true ∧
    ((onParked vStep).stopsOf 0 vStep none).isSome = true ∧ ((onParked vStep).stepGrammar 0 vStep (seq0 .parked)).isSome = true ∧
    (onParked vFork).begun? 0 1 .fork = some vFork := by decide +kernel
def spent' : State := { withSession (withVerb on vFork) xWait with bind := { on.bind with image := none } }
def forked : State := val ((withSession (withVerb on vFork) xWait).reservePt 0 0) on
theorem witness_SessionsFork :
    (let x := session0 (seq0 .new)
     let s := withSession (withVerb on vFork) x
     s.begun? 0 1 .fork = some vFork ∧ (s.resident 0 vFork).1 = true ∧ s.session? vFork.dir = some x ∧
     tget x.seqs vFork.seq = some (seq0 .new)) ∧
    (spent'.begun? 0 1 .fork = some vFork ∧ (spent'.resident 0 vFork).1 = true ∧ tget xWait.seqs vFork.seq = some (seq0 .wait) ∧
     spent'.freeSpine 0 = none) ∧
    (let s := withSession (withVerb on vFork) xWait
     s.begun? 0 1 .fork = some vFork ∧ (s.resident 0 vFork).1 = true ∧ s.session? vFork.dir = some xWait ∧
     xWait.freeNum = some 1 ∧ s.freeSpine 0 = some 1 ∧ s.ptRoom 0 (seq0 .wait).entryCount = true ∧
     s.reservePt vFork.dir (seq0 .wait).spans.length = some forked ∧
     forked.shareSpans xWait.handle (seq0 .wait).spans [] = some ([], forked) ∧ (forked.session? vFork.dir).isSome = true) := by decide +kernel
def placeBody (n tier : Nat) : Bytes := body [(0x20, 4, 0), (0x24, 4, n), (0x28, 1, tier)]
def wake0 : Session := { xParked with wakeHint := 900000 }
theorem witness_PlacesAndClocksOfSessions :
    (let v := verb .place 0x30 .begun (placeBody 0 4)
     let s := withSession (withVerb on v) xWait
     s.begun? 0 1 .place = some v ∧ s.seq? v.dir v.seq = some (seq0 .wait) ∧ v.f 0x28 1 = 4 ∧
     v.f 0x20 4 + v.f 0x24 4 ≤ (seq0 .wait).spans.length ∧ (s.resident 0 v).1 = true ∧ (seq0 .wait).state = .wait) ∧
    (let v := verb .place 0x30 .begun (placeBody 0 0)
     let s := withSession (withVerb on v) xWait
     s.begun? 0 1 .place = some v ∧ s.seq? v.dir v.seq = some (seq0 .wait) ∧
     ¬ (v.f 0x28 1 = 1 ∨ v.f 0x28 1 = 3 ∨ v.f 0x28 1 = 4)) ∧
    (let v := verb .place 0x30 .begun (placeBody 1 4)
     let s := withSession (withVerb on v) xWait
     s.begun? 0 1 .place = some v ∧ s.seq? v.dir v.seq = some (seq0 .wait) ∧
     (seq0 .wait).spans.length < v.f 0x20 4 + v.f 0x24 4) ∧
    (let v := verb .place 0x30 .running (placeBody 0 4)
     let s := (withVerb on v).modFolPart 0 fun x => { x with places := [{ verb := 1, left := [], tier := 4 }] }
     s.running? 0 1 .place = some v ∧
     (s.folPart 0).places.any (fun o => o.verb == 1 && o.left.isEmpty) = true) ∧
    (let s := (withSession on xParked).setRec 0 { inUse := true, live := 1, parked := true, ttlInstant := 1000000 }
     s.session? 0 = some xParked ∧ s.live = true ∧ (s.recPart xParked.part).mode ≠ .safe ∧ xParked.isParked = true ∧
     (s.recOf 0).ttlInstant ≠ two64 - 1 ∧ (s.recOf 0).ttlInstant ≤ s.now ∧ s.ttlHeld 0 = false) ∧
    (let s := (withSession on wake0).setRec 0 { inUse := true, live := 1, parked := true, ttlInstant := two64 - 1 }
     s.session? 0 = some wake0 ∧ wake0.quire = some quire0 ∧ s.live = true ∧ s.hasPrk wake0.part = true ∧ wake0.isParked = true ∧
     wake0.wakeHint ≠ 0 ∧ quire0.woken = false ∧ (s.recOf 0).damaged = false ∧ (s.recOf 0).expired = false ∧
     s.roleOf wake0.part ≠ .state ∧ s.fencedByChange wake0.part = false ∧ (s.recPart wake0.part).mode = .normal ∧
     (s.recOf 0).ttlInstant = two64 - 1 ∧ s.wakeStart wake0 quire0 ≤ (s.now : Int)) := by decide +kernel
def vClose (flags : Nat) : Verb := verb .close 8 .begun [] flags
def xTwo : Session := { xWait with seqs := [(0, seq0 .wait), (1, { num := 1, state := .wait, spine := some 1 })] }
theorem witness_SessionsClose :
    (let s := withVerb on (vClose 4)
     s.begun? 0 1 .close = some (vClose 4) ∧ s.refuses 0 (vClose 4) = some .badHandle) ∧
    (let s := withSession (withVerb on (vClose 4)) xWait
     s.begun? 0 1 .close = some (vClose 4) ∧ s.refuses 0 (vClose 4) = none ∧ s.session? (vClose 4).dir = some xWait ∧
     xWait.send = none ∧ (∀ n ∈ closeCovers (vClose 4) xWait, s.inFlight 0 (vClose 4).dir n = false) ∧
     (vClose 4).flag flagSession = true ∧ closesSession (vClose 4) xWait = true) ∧
    (let s := withSession (withVerb on (vClose 0)) xTwo
     s.begun? 0 1 .close = some (vClose 0) ∧ s.refuses 0 (vClose 0) = none ∧ s.session? (vClose 0).dir = some xTwo ∧
     xTwo.send = none ∧ (∀ n ∈ closeCovers (vClose 0) xTwo, s.inFlight 0 (vClose 0).dir n = false) ∧
     s.sessionVerbRuns 0 (vClose 0) = false ∧ closesSession (vClose 0) xTwo = false) := by decide +kernel

/-! ## Witnesses: input, text, recall and programs -/

def appendBody (n : Nat) (kind : Nat) : Bytes := body [(0x28, 4, n), (0x2C, 1, kind)]
def vTokens (n : Nat) : Verb := verb .append 2 .begun (appendBody n 1)
/-- Two token identifiers of the vocabulary, and two bytes of text. -/
def twoTokens : Bytes := natLe 4 0 ++ natLe 4 1
def noPt (s : State) : State :=
  { s with bind := { s.bind with image := some { image0 with parts := [(0, { part0 with part := { part0.part with ptShare := 0 } })] } } }
/-- The premises of the second part of AppendsAbsorb. -/
def appends (s : State) (v : Verb) (data : Option Bytes) : Bool :=
  decide (s.begun? 0 1 .append = some v) && decide (v.f 0x2C 1 ≤ 1) && decide (s.session? v.dir = some xWait) &&
  decide (s.inputOf 0 (v.f 0x2C 1 == 1) (v.f 0x28 4) data none ≠ .bad) &&
  decide ((seq0 .wait).ctxLen + s.inputTokens 0 (s.inputOf 0 (v.f 0x2C 1 == 1) (v.f 0x28 4) data none) ≤ Config.maxContext)
theorem witness_AppendsAbsorb :
    (let v := verb .append 2 .begun (appendBody 0 2)
     (withVerb on v).begun? 0 1 .append = some v ∧ 1 < v.f 0x2C 1) ∧
    (let s := withSession (withVerb on (vTokens 2)) xWait
     s.begun? 0 1 .append = some (vTokens 2) ∧ s.session? (vTokens 2).dir = some xWait ∧
     s.inputOf 0 true 2 none none = .bad ∧ appends s (vTokens 2) (some twoTokens) = true ∧
     s.inputOf 0 true 2 (some twoTokens) none = .tokens [0, 1] ∧
     s.ptRoom 0 (s.newSpans 0 (seq0 .wait) 2 * s.foliosPerSpan 0) = true) ∧
    (let s := withSession (withVerb on (vTokens 0)) xWait
     appends s (vTokens 0) none = true ∧ s.inputTokens 0 (s.inputOf 0 true 0 none none) = 0) ∧
    (let s := noPt (withSession (withVerb on (vTokens 2)) xWait)
     appends s (vTokens 2) (some twoTokens) = true ∧ s.ptRoom 0 (s.newSpans 0 (seq0 .wait) 2 * s.foliosPerSpan 0) = false) ∧
    (let v := verb .append 2 .begun (appendBody 2 0)
     let s := withSession (withVerb on v) xWait
     appends s v (some [97#8, 98#8]) = true ∧ s.inputTokens 0 (s.inputOf 0 false 2 (some [97#8, 98#8]) none) = 2 ∧
     s.inputOf 0 false 2 (some [97#8, 98#8]) none = .pieces [{ bytes := [97#8, 98#8] }]) ∧
    (let v : Verb := { verb .append 2 .running (appendBody 2 0) with pieces := [{ bytes := [97#8] }, { bytes := [98#8] }] }
     let s := withSession (withVerb on v) xWait
     s.verb? 0 1 = some v ∧ s.live = true ∧ v.phase = .running ∧ v.pieces = { bytes := [97#8] } :: [{ bytes := [98#8] }] ∧
     s.seq? v.dir v.seq = some (seq0 .wait)) := by decide +kernel
/-- An edit list that inserts two tokens at position 0. -/
def edit0 : Bytes := natLe 1 1 ++ natLe 1 1 ++ natLe 2 0 ++ natLe 4 0 ++ natLe 4 2 ++ natLe 4 0 ++ natLe 8 4096
def vSplice (n : Nat) (e : Option Bytes) : Verb := { verb .splice 7 .begun (body [(0x28, 1, n)]) with edits := e }
def insert0 : Edit := { insert := true, inputTokens := true, pos := 0, len := 2, input := 4096 }
/-- The premises of SplicesEdit that its edits are good. -/
def splices (s : State) (v : Verb) (es : List Edit) (inputs : List (Option Bytes)) : Bool :=
  let edits := s.pairInputs 0 es inputs
  decide (s.begun? 0 1 .splice = some v) && decide (s.session? v.dir = some xWait) && decide (v.f 0x28 1 ≤ 16) && editsOrdered es &&
  editsFit (s.tokensPer 0) (seq0 .wait).spans es && edits.all (fun e => e.2 != .bad) &&
  decide ((seq0 .wait).ctxLen - ((es.filter fun e => !e.insert).map (·.len)).sum + (edits.map fun e => s.inputTokens 0 e.2).sum ≤
    Config.maxContext)
theorem witness_SplicesEdit :
    (let v := vSplice 1 none
     (withSession (withVerb on v) xWait).begun? 0 1 .splice = some v ∧ v.edits = none) ∧
    (let v := vSplice 1 (some [])
     (withSession (withVerb on v) xWait).begun? 0 1 .splice = some v ∧ v.edits = some [] ∧ parseEdits [] (v.f 0x28 1) = none) ∧
    (let v := vSplice 1 (some edit0)
     let s := withSession (withVerb on v) xWait
     parseEdits edit0 (v.f 0x28 1) = some [insert0] ∧ splices s v [insert0] [some twoTokens] = true ∧
     splices s v [insert0] [none] = false ∧
     s.ptRoom 0 (s.spliceNeed 0 (seq0 .wait) (s.pairInputs 0 [insert0] [some twoTokens]) * s.foliosPerSpan 0) = true) ∧
    (let v := vSplice 1 (some edit0)
     let s := noPt (withSession (withVerb on v) xWait)
     splices s v [insert0] [some twoTokens] = true ∧
     s.ptRoom 0 (s.spliceNeed 0 (seq0 .wait) (s.pairInputs 0 [insert0] [some twoTokens]) * s.foliosPerSpan 0) = false) := by decide +kernel
def vStop : Verb := verb .step 3 .begun [] 1
def run0 : StepRun := { verb := 9, maxNew := 16, ttftUs := 0, tbtUs := 0, invTemp := 0x3F800000, topP := 0x3F800000, topK := 1,
                        textFlags := 0, stream := false, outAddr := 0, outLen := 256 }
def qRun : Seq := { seq0 .decode with run := some run0, stopping := true }
def gatherOf (d n : Nat) : Gather := { entries := [{ dir := d, seq := n, spine := 0, kind := 0, qLen := 1 }] }
theorem witness_StepsBegin :
    (let v := verb .step 3 .begun
     (withVerb on v).begun? 0 1 .step = some v ∧ v.flag flagStop = false ∧ stepArgsOk v = false) ∧
    (let s := withSession (withVerb on vStep) xWait
     s.begun? 0 1 .step = some vStep ∧ s.session? vStep.dir = some xWait ∧ stepArgsOk vStep = true ∧
     s.stopsOf 0 vStep none = some ([], []) ∧ s.stepGrammar 0 vStep (seq0 .wait) = some (0, 0, []) ∧ (seq0 .wait).overhang = []) ∧
    (let v := verb .step 3 .begun (body [(0x2C, 4, 0x3F800000), (0x30, 4, 0x3F800000), (0x34, 2, 1), (0x38, 4, 5), (0x50, 4, 256)])
     let s := withSession (withVerb on v) xWait
     s.begun? 0 1 .step = some v ∧ stepArgsOk v = true ∧ s.stopsOf 0 v none = some ([], []) ∧ s.stepGrammar 0 v (seq0 .wait) = none) ∧
    (let x := session0 (seq0 .new)
     let s := withSession (withVerb on vStep) x
     s.session? vStep.dir = some x ∧ s.stepGrammar 0 vStep (seq0 .new) = some (0, 0, [])) := by decide +kernel
theorem witness_StepsStop :
    (let q : Seq := { seq0 .wait with stopping := true }
     let s := withSession (withVerb on vStop) (session0 q)
     s.begun? 0 1 .step = some vStop ∧ vStop.flag flagStop = true ∧ s.seq? vStop.dir vStop.seq = some q ∧ q.run = none) ∧
    (let s := withSession (withVerb on vStop) (session0 qRun)
     let t := s.modSpn 0 fun y => { y with cur := some (gatherOf 0 0) }
     s.begun? 0 1 .step = some vStop ∧ s.seq? vStop.dir vStop.seq = some qRun ∧ qRun.run = some run0 ∧
     s.inFlight 0 vStop.dir vStop.seq = false ∧ t.begun? 0 1 .step = some vStop ∧ t.seq? vStop.dir vStop.seq = some qRun ∧
     t.inFlight 0 vStop.dir vStop.seq = true) := by decide +kernel
def grammarBody (gid : Nat) : Bytes := body [(0x28, 4, 4096), (0x2C, 4, gid)]
/-- A grammar of one state, for the vocabulary of the program. -/
def grammar0 : GrammarImage := { states := 1, symbols := 0, bitmaps := 0, start := 0, vocab := vocab0 }
def onGrammar (v : Verb) (g : Grammar) : State := (withVerb on v).setTxtPart 0 { grammars := [(5, g)] }
def gDone : Verb := verb .grammarLoad 0x31 .running (grammarBody 5)
def cfgText (s : State) (mib max : Nat) : State := s.setReg .txtPartCfg 0 0 (BitVec.ofNat 64 (mib + max * 2 ^ 15))
theorem witness_GrammarsLoadAndDrop :
    (∀ gid ∈ [0, 0xFFFFFFFF, 1, 0xFFFFFFFE],
      let v := verb .grammarLoad 0x31 .begun (grammarBody gid)
      (withVerb on v).begun? 0 1 .grammarLoad = some v ∧ v.f 0x2C 4 = gid) ∧
    (withVerb on gDone).running? 0 1 .grammarLoad = some gDone ∧
    ({ grammar0 with states := 0, len := gDone.f 0x28 4 } : GrammarImage).ok ((withVerb on gDone).vocab 0) = false ∧
    ({ grammar0 with len := gDone.f 0x28 4 } : GrammarImage).ok ((withVerb on gDone).vocab 0) = true ∧
    (let s := onGrammar gDone { image := grammar0 }
     s.running? 0 1 .grammarLoad = some gDone ∧ (tget (s.txtPart 0).grammars (gDone.f 0x2C 4)).isSome = true) ∧
    (let s := cfgText (withVerb on gDone) 1 1
     tget (s.txtPart 0).grammars (gDone.f 0x2C 4) = none ∧ (s.txtPart 0).grammars.length + 1 ≤ s.grammarMax 0 ∧
     s.grammarUse 0 + grammarSpace (gDone.f 0x28 4) ≤ s.grammarMib 0 * 1048576) ∧
    (let s := cfgText (withVerb on gDone) 1 0
     s.grammarMax 0 < (s.txtPart 0).grammars.length + 1) ∧
    (let s := cfgText (withVerb on gDone) 0 1
     s.grammarMib 0 * 1048576 < s.grammarUse 0 + grammarSpace (gDone.f 0x28 4)) ∧
    (let v := verb .grammarDrop 0x32 .begun (grammarBody 5)
     (withVerb on v).begun? 0 1 .grammarDrop = some v ∧ tget ((withVerb on v).txtPart 0).grammars (v.f 0x2C 4) = none ∧
     (let s := onGrammar v { image := grammar0 }
      let t := withSession s (session0 { qRun with grammar := 5 })
      s.begun? 0 1 .grammarDrop = some v ∧ tget (s.txtPart 0).grammars (v.f 0x2C 4) = some { image := grammar0 } ∧
      s.grammarInUse 0 (v.f 0x2C 4) = false ∧ (s.ckpOf 0).jobs.contains (.grammar (v.f 0x2C 4)) = false ∧
      t.begun? 0 1 .grammarDrop = some v ∧ t.grammarInUse 0 (v.f 0x2C 4) = true)) ∧
    (let v := verb .grammarDrop 0x32 .running (grammarBody 5)
     let g : Grammar := { image := grammar0, dropping := true }
     let s := onGrammar v g
     s.live = true ∧ s.grammarInUse 0 5 = false ∧ (s.ckpOf 0).jobs.contains (.grammar 5) = false ∧
     tget (s.txtPart 0).grammars 5 = some g ∧ g.dropping = true ∧
     (s.verbs 0).find? (fun v => v.op == .grammarDrop && v.phase == .running && v.f 0x2C 4 == 5) = some v ∧
     s.verb? 0 v.id = some v) := by decide +kernel
/-- The header of an index image of one node with 16 dimensions and 256 bits, every section at 4,096; the rest is zero. -/
def ixHead : Bytes :=
  natLe 4 0x58434449 ++ natLe 4 1 ++ natLe 4 1 ++ natLe 2 16 ++ natLe 1 0 ++ natLe 1 0 ++ natLe 2 256 ++ natLe 1 8 ++ natLe 1 1 ++
  zeros 64 ++ natLe 8 4096 ++ natLe 8 4096 ++ natLe 8 4096 ++ natLe 8 4096 ++ natLe 8 4096
def ix0 : Bytes := ixHead ++ zeros 12164
theorem ix0_length : ix0.length = 12288 := by
  have h : ixHead.length = 124 := by decide +kernel
  unfold ix0 zeros
  rw [List.length_append, List.length_replicate, h]
def gen0 : IndexGen := { gen := 1, image := ixHead }
def rIndex0 : RIndex := { gens := [gen0] }
/-- The image keeps to R190. -/
theorem ix0_ok : ixOk ix0 12288 = true := by decide +kernel
def withIndex (s : State) (x : RIndex) : State := { s with rcl := { s.rcl with indexes := [(0, [(2, x)])] } }
def loadBody (i : Nat) : Bytes := body [(0x28, 8, 12288), (0x30, 2, i)]
def vLoad (i : Nat) : Verb := verb .indexLoad 0x40 .running (loadBody i)
def delBody (n i gen : Nat) : Bytes := body [(0x28, 2, n), (0x2A, 2, i), (0x2C, 4, gen)]
def vDel (n i gen : Nat) : Verb := verb .delete 0x42 .begun (delBody n i gen) 16
def takenT4 (s : State) : List Nat × State := val (s.takeT4 0 (ixT4 ix0) []) ([], on)
theorem witness_IndexesLoad :
    (∀ i ∈ [0, 2], let v := verb .indexLoad 0x40 .begun (loadBody i)
      (withVerb on v).begun? 0 1 .indexLoad = some v ∧ v.f 0x30 2 = i ∧ (withVerb on v).index? 0 i = none ∧
      ((withVerb on v).indexesOf 0).length < maxIndexes) ∧
    (let v := verb .indexLoad 0x40 .begun (loadBody 100)
     let s : State := { withVerb on v with rcl := { on.rcl with indexes := [(0, (List.range maxIndexes).map fun i => (i + 101, {}))] } }
     s.begun? 0 1 .indexLoad = some v ∧ s.index? 0 100 = none ∧ maxIndexes ≤ (s.indexesOf 0).length) ∧
    (let v := verb .indexLoad 0x40 .begun (loadBody 2)
     let s := withIndex (withVerb on v) rIndex0
     s.begun? 0 1 .indexLoad = some v ∧ v.f 0x30 2 ≠ 0 ∧ s.index? 0 (v.f 0x30 2) = some rIndex0) ∧
    (let v := vLoad 2
     let s := withVerb on v
     let t := s.modFolPart 0 fun x => { x with t1Use := 100 }
     s.running? 0 1 .indexLoad = some v ∧ s.index? 0 (v.f 0x30 2) = none ∧ ixOk [] (min 0 (v.f 0x28 8)) = false ∧
     ixOk ix0 (min 12288 (v.f 0x28 8)) = true ∧ s.t1Room 0 (ixT1 ix0) = true ∧ t.t1Room 0 (ixT1 ix0) = false ∧
     s.nodesHeld + ixNodes ix0 ≤ Config.recallNodes ∧ s.takeT4 0 (ixT4 ix0) [] = some ((takenT4 s).1, (takenT4 s).2)) ∧
    (let v := vLoad 2
     let s := withIndex (withVerb on v) rIndex0
     s.running? 0 1 .indexLoad = some v ∧ s.index? 0 (v.f 0x30 2) = some rIndex0 ∧ s.t1Room 0 (ixT1 ix0) = true ∧
     s.nodesHeld + ixNodes ix0 ≤ Config.recallNodes ∧ s.takeT4 0 (ixT4 ix0) [] = some ((takenT4 s).1, (takenT4 s).2)) := by decide +kernel
theorem witness_IndexesDropAndDelete :
    (let v := verb .indexDrop 0x43 .begun (delBody 0 2 0)
     let s := withVerb on v
     s.begun? 0 1 .indexDrop = some v ∧ s.index? 0 (v.f 0x2A 2) = none ∧
     (withIndex s { rIndex0 with dropping := true }).index? 0 (v.f 0x2A 2) = some { rIndex0 with dropping := true } ∧
     (withIndex s rIndex0).index? 0 (v.f 0x2A 2) = some rIndex0 ∧ rIndex0.gens ≠ [] ∧ rIndex0.dropping = false ∧
     (∀ g ∈ rIndex0.gens, g.users = []) ∧ ∃ g ∈ ({ gens := [{ gen0 with users := [9] }] } : RIndex).gens, g.users ≠ []) ∧
    (let x : RIndex := { gens := [{ gen0 with gen := 2 }, gen0] }
     let s := withIndex on x
     s.index? 0 2 = some x ∧ x.genOf 1 = some gen0 ∧ s.live = true ∧ gen0.users = [] ∧ x.gens.head?.map (·.gen) ≠ some 1) := by decide +kernel
theorem witness_Deletes :
    (∀ v ∈ [vDel 4097 2 1, vDel 1 0 1, vDel 1 2 1, vDel 1 2 2], (withIndex (withVerb on v) rIndex0).begun? 0 1 .delete = some v) ∧
    4096 < (vDel 4097 2 1).f 0x28 2 ∧ (vDel 1 0 1).f 0x2A 2 = 0 ∧ (vDel 4096 2 1).f 0x28 2 ≤ 4096 ∧
    (withVerb on (vDel 1 2 1)).current? 0 2 = none ∧ (withIndex on rIndex0).current? 0 2 = some gen0 ∧
    gen0.gen ≠ (vDel 1 2 2).f 0x2C 4 ∧ gen0.gen = (vDel 1 2 1).f 0x2C 4 ∧ (vDel 1 2 1).f 0x28 2 ≠ 0 ∧ (vDel 0 2 1).f 0x28 2 = 0 ∧
    (∃ n ∈ [fld (natLe 4 1) 0 4], ixNodes gen0.image ≤ n) ∧ (∀ n ∈ [fld (natLe 4 0) 0 4], n < ixNodes gen0.image) ∧
    gen0.pending.length + [fld (natLe 4 0) 0 4].length ≤ maxPending ∧ gen0.epoch + 1 ≤ 0xFFFFFFFF := by decide +kernel
/-- Waiting deletions that fill their bound. -/
theorem deletes_full (l : List Nat) (h : l.length = maxPending) :
    maxPending < ({ gen0 with pending := l } : IndexGen).pending.length + [fld (natLe 4 0) 0 4].length := by
  show maxPending < l.length + 1
  omega
theorem list_of_length (n : Nat) : ∃ l : List Nat, l.length = n := ⟨List.replicate n 1, List.length_replicate⟩
theorem witness_DeletesFull : ∃ l : List Nat, maxPending < ({ gen0 with pending := l } : IndexGen).pending.length +
    [fld (natLe 4 0) 0 4].length := by
  obtain ⟨l, h⟩ := list_of_length maxPending
  exact ⟨l, deletes_full l h⟩
def qBody (i n : Nat) : Bytes := body [(0x38, 2, i), (0x3A, 2, n), (0x3C, 2, 8), (0x3E, 2, n), (0x40, 2, 8)]
def vQuery (i n : Nat) : Verb := verb .query 0x41 .begun (qBody i n)
def query0 : QueryOp := { verb := 1, index := 2, gen := 1, epoch := 1, vec := zeros 32 }
def withQuery (s : State) (q : QueryOp) : State := { s with rcl := { s.rcl with queries := [(0, [q])] } }
theorem witness_QueriesSearch :
    (let v := vQuery 0 1
     (withVerb on v).begun? 0 1 .query = some v ∧ v.f 0x38 2 = 0) ∧
    (let v := vQuery 2 9
     (withVerb on v).begun? 0 1 .query = some v ∧ prmOk (queryPrm v) = false) ∧
    (let v := vQuery 2 8
     let s := withVerb on v
     let t := withIndex s rIndex0
     s.begun? 0 1 .query = some v ∧ v.f 0x38 2 ≠ 0 ∧ prmOk (queryPrm v) = true ∧ s.slotFor 0 v = true ∧
     v.flag flagSharded = false ∧ s.serving 0 (v.f 0x38 2) = none ∧ t.begun? 0 1 .query = some v ∧
     t.serving 0 (v.f 0x38 2) = some (gen0, gen0.epoch) ∧
     queryFits gen0.image (queryPrm v) (vecOf (ixBf16 gen0.image) (ixDims gen0.image) (zeros 32)) = true ∧
     queryFits gen0.image (queryPrm v) (vecOf (ixBf16 gen0.image) (ixDims gen0.image) (natLe 32 0x7C00)) = false) ∧
    (let v : Verb := { vQuery 2 8 with phase := .running }
     let s := withQuery (withIndex (withVerb on v) rIndex0) query0
     s.query? 0 1 = some query0 ∧ s.running? 0 1 .query = some v ∧ query0.localDone = false ∧ s.index? 0 query0.index = some rIndex0 ∧
     rIndex0.genOf query0.gen = some gen0) ∧
    (let q : QueryOp := { query0 with sharded := true, deadline := 1000000, waitShards := [1] }
     let s := withQuery on q
     s.query? 0 1 = some q ∧ s.live = true ∧ q.sharded = true ∧ q.deadline ≠ 0 ∧ q.deadline ≤ s.now) := by decide +kernel
def progBody (n : Nat) : Bytes := body [(0x28, 8, n)]
def partFrom (k : Nat) : PartImage := { part0 with prog := { part0.prog with source := k, digest := sha384 prog0.bytes } }
def srcOf (k : Nat) (s : State) : State := { s with bind := { s.bind with image := some { image0 with parts := [(0, partFrom k)] } } }
theorem witness_ProgramsLoad :
    (let v := verb .programLoad 0x50 .begun (progBody 3)
     let s := withVerb on v
     s.begun? 0 1 .programLoad = some v ∧ (s.program? 0).isSome = true ∧
     (let t := srcOf 0 ({ s with spn := [] } : State)
      t.begun? 0 1 .programLoad = some v ∧ (t.partImage 0).prog.source = 0) ∧
     (let t : State := { s with spn := [] }
      t.begun? 0 1 .programLoad = some v ∧ (t.partImage 0).prog.source ≠ 0 ∧ t.program? 0 = none)) ∧
    (let v := verb .programLoad 0x50 .running (progBody 3)
     let s := srcOf 1 ({ withVerb on v with spn := [] } : State)
     s.running? 0 1 .programLoad = some v ∧ v.f 0x28 8 = prog0.bytes.length ∧ progOk (s.partImage 0).prog prog0 = true ∧
     v.f 0x28 8 ≠ ({ prog0 with bytes := [] } : Program).bytes.length) ∧
    (let s := srcOf 0 ({ on with spn := [] } : State)
     s.live = true ∧ (s.partImage? 0).isSome = true ∧ (s.partImage 0).prog.source = 0 ∧ s.hasPrk 0 = true ∧ s.program? 0 = none ∧
     (s.spnOf 0).fetchFailed = false ∧ s.hif.linkUp = true ∧ s.hif.pfD3hot = false ∧ s.partFenced 0 = false ∧
     progOk (s.partImage 0).prog prog0 = true) := by decide +kernel

/-! ## Witnesses: steps and engines -/

/-- A sequence with two tokens to absorb, and the entry that takes them. -/
def qPre : Seq := { seq0 .prefill with pending := [{ tokens := [0, 1] }], absorbing := some 1, ctxLen := 2 }
def entry0 : GEntry := { dir := 0, seq := 0, spine := 0, kind := 1, qLen := 2, tokens := [0, 1] }
def gather0 : Gather := { entries := [entry0] }
/-- A folio of the sequence in tier 4, with its entry. -/
def pte0 : Pte := { posBase := 0, valid := 1, layer := 0, refKind := 1, dgen := 0, ref := 0 }
def kv0 (tier : Nat) : Folio := { kind := .kv, fmt := .bf16, tier, refcnt := 1, handle := mkHandle 0 1 0, valid := 1 }
def qFar : Seq := { qPre with spans := [{ entries := [pte0], ledger := [2, 0, 1], valid := 1 }], ctxLen := 3, kvLen := 1 }
def withFolio (s : State) (i : Nat) (f : Folio) : State := { s with fol := { s.fol with folios := tput s.fol.folios i f } }
def onNext (q : Seq) : State := (withSession on (session0 q)).modSpn 0 fun y => { y with next := some gather0 }
def askedOf (s : State) : State × List GEntry := s.askAll 0 (gather0.entries.filterMap s.finalise)
def waitsFor (t : State) (l : List GEntry) : Bool :=
  l.any fun en => match t.seq? en.dir en.seq with
    | some q => (t.outside (readSpans q en)).any fun i =>
        !(en.kind == 2 && (match en.span with | some k => (q.spans.getD k {}).refs.contains i | none => false))
    | none => false
/-- The premises of GATHERING_RELEASE. -/
def releases (s : State) : Bool :=
  decide ((s.spnOf 0).next = some gather0) && s.steps 0 && decide ((s.vf 0).tdi = .run) && decide ((s.spnOf 0).cur = none) &&
  !(s.ckpOf 0).sectionsFrozen && !s.pointDue 0
theorem witness_StepsAreBuilt :
    (let s := withSession on (session0 qPre)
     on.steps 0 = true ∧ (on.spnOf 0).next = none ∧ (on.retryStalled 0).candidates 0 = [] ∧ s.steps 0 = true ∧
     (s.spnOf 0).next = none ∧ (s.retryStalled 0).candidates 0 ≠ []) ∧
    releases (onNext qPre) = true ∧ waitsFor (askedOf (onNext qPre)).1 (askedOf (onNext qPre)).2 = false ∧
    ((askedOf (onNext qPre)).1.prepAll 0 (askedOf (onNext qPre)).2).2 ≠ [] ∧
    ((((askedOf (onNext qPre)).1.prepAll 0 (askedOf (onNext qPre)).2).1.ckpOf 0).staged +
      (((askedOf (onNext qPre)).1.prepAll 0 (askedOf (onNext qPre)).2).1.uncopied 0
        ((askedOf (onNext qPre)).1.prepAll 0 (askedOf (onNext qPre)).2).2).length ≤
      ((askedOf (onNext qPre)).1.prepAll 0 (askedOf (onNext qPre)).2).1.stagePlaces 0) ∧
    releases (onNext (seq0 .wait)) = true ∧ (askedOf (onNext (seq0 .wait))).2 = [] ∧
    ((askedOf (onNext (seq0 .wait))).1.prepAll 0 (askedOf (onNext (seq0 .wait))).2).2 = [] ∧
    (let s := withFolio (onNext qFar) 0 (kv0 4)
     releases s = true ∧ waitsFor (askedOf s).1 (askedOf s).2 = true) := by decide +kernel
/-- The step in flight. -/
def onStep : State := (withSession on (session0 qPre)).modSpn 0 fun y => { y with cur := some gather0 }
def ended (s : State) : State := { s with eng := [(0, { slots := [(0, { ended := true })] }), (1, { slots := [(0, { ended := true })] })] }
theorem witness_MasksAndBoundary :
    (let en : GEntry := { entry0 with kind := 0, qLen := 1, maskWait := [0] }
     let s := ((withSession on (session0 { qRun with grammar := 5 })).setTxtPart 0 { grammars := [(5, { image := grammar0 })] }).modSpn 0
       fun y => { y with cur := some { entries := [en] } }
     (s.spnOf 0).cur = some { entries := [en] } ∧ [en][0]? = some en ∧ s.live = true ∧ en.maskWait.contains 0 = true ∧
     s.seq? en.dir en.seq = some { qRun with grammar := 5 } ∧ s.nodeGrammar 0 en 0 = some (grammar0, 0, [])) ∧
    (let s := ended onStep
     (s.spnOf 0).cur = some gather0 ∧ s.live = true ∧ s.partFenced 0 = false ∧ s.stepEnded 0 = true) := by decide +kernel

/-- Engine 0 with a stream in slot `k`, whose context is `y`. -/
def atSlot (k : Nat) (y : Ctx) (s : State) : State := { s with eng := [(0, { slots := [(k, y)], running := k })] }
def atCmd (m : Cmd) (s : State) : State := atSlot 0 { cmds := [m] } s
def inst (s : State) : Inst := val (s.current 0) default
def move0 : Cmd := { opcode := 1, kind := 4, budget := 1, addrC := 4096, note := { moveBytes := 64 } }
theorem witness_MalformedCommandsStop :
    (∀ m ∈ ([{ opcode := 0 }, { opcode := 6 }, { opcode := 1, kind := 5 }] : List Cmd),
      (atCmd m on).current 0 = some (inst (atCmd m on)) ∧
      ¬ (1 ≤ (inst (atCmd m on)).cmd.opcode ∧ (inst (atCmd m on)).cmd.opcode ≤ 5 ∧
        ((inst (atCmd m on)).cmd.opcode = 1 → (inst (atCmd m on)).cmd.kind ≤ 4))) ∧
    (∀ m ∈ ([{ opcode := 1, kind := 0 }, { opcode := 1, kind := 1 }, { opcode := 1, kind := 2 }, { opcode := 1, kind := 3 },
        { opcode := 1, kind := 4 }, { opcode := 2 }, { opcode := 2, issueOp := 1 }, { opcode := 3, rsv := 1 }, { opcode := 4, rsv := 1 },
        { opcode := 5, rsv := 1 }] : List Cmd),
      (atCmd m on).current 0 = some (inst (atCmd m on)) ∧ (inst (atCmd m on)).cmd = m ∧ (atCmd m on).instOk (inst (atCmd m on)) = false ∧
      (1 ≤ m.opcode ∧ m.opcode ≤ 5 ∧ (m.opcode = 1 → m.kind ≤ 4))) := by decide +kernel
/-- The premises of a TASK that passes R146 and its budget. -/
def task (m : Cmd) (s : State) : Bool :=
  decide ((atCmd m s).current 0 = some (inst (atCmd m s))) && (atCmd m s).instOk (inst (atCmd m s)) &&
  !(atCmd m s).overBudget 0 (inst (atCmd m s)) && decide ((inst (atCmd m s)).cmd = m)
def product0 : Cmd := { opcode := 1, kind := 0, fmt := 1 + 16, budget := 100, m := 1, k := 4, n := 1, addrB := 64, addrC := 4096 }
def vector0 : Cmd := { opcode := 1, kind := 1, budget := 100, note := { vops := [{ fn := .add, a := 0, b := 64, dst := 128, count := 4 }] } }
def sample0 : Cmd := { opcode := 1, kind := 3, budget := 65535, addrP := 65536 }
def attend0 : Cmd := { opcode := 1, kind := 2, budget := 65535, addrP := 8192, addrC := 4096 }
/-- A parameter block of one head of 64 dimensions in BF16, without rotary dimensions, in the store. -/
def block0 : Bytes := natLe 1 0 ++ natLe 1 1 ++ natLe 1 1 ++ natLe 1 3 ++ natLe 4 0 ++ natLe 4 0x3F800000 ++ zeros 52
def stored (s : State) : State := s.modEng 0 fun x => { x with store := mwrites x.store 8192 block0 }
def att (s : State) : AttParam × List Nat := val ((stored (atCmd attend0 s)).attParam 0 (inst (atCmd attend0 s))) default
def attOf (s : State) : AttCtx := val ((stored (atCmd attend0 s)).attCtx (inst (atCmd attend0 s)) (att s).1) default
def attFolios (s : State) : List Nat :=
  let a := attOf s
  spansRead a (partKeys (att s).1 attend0.part (s.keyOrder a.p a.seq a.en)) ++ (s.placesOf a.p a.seq a.en a.en.slotCount).map (·.1)
/-- A step whose sequence has its one token's place in a folio. -/
def onAttend (tier : Nat) : State :=
  withFolio ((withSession on (session0 { qFar with kvLen := 1 })).modSpn 0 fun y => { y with cur := some { entries := [{ entry0 with
    qLen := 1, slot0 := (0, 1), kvLen := 1, pos := 1 }] } }) 0 (kv0 tier)
theorem witness_TasksCompute :
    (∀ m ∈ [move0, vector0, sample0, product0], task m on = true) ∧ pairRule (product0.fmt % 16) (product0.fmt / 16) ≠ none ∧
    vector0.note.vops = [{ fn := .add, a := 0, b := 64, dst := 128, count := 4 }] ∧
    task attend0 on = true ∧ (atCmd attend0 on).attParam 0 (inst (atCmd attend0 on)) = none ∧
    (stored (atCmd attend0 on)).attParam 0 (inst (atCmd attend0 on)) = some ((att on).1, (att on).2) ∧
    (stored (atCmd attend0 on)).overBudget 0 (inst (atCmd attend0 on)) = false ∧
    (stored (atCmd attend0 on)).attCtx (inst (atCmd attend0 on)) (att on).1 = none ∧
    (∀ t ∈ [1, 4], (stored (atCmd attend0 (onAttend t))).current 0 = some (inst (stored (atCmd attend0 (onAttend t)))) ∧
      (stored (atCmd attend0 (onAttend t))).overBudget 0 (inst (stored (atCmd attend0 (onAttend t)))) = false ∧
      (stored (atCmd attend0 (onAttend t))).attCtx (inst (stored (atCmd attend0 (onAttend t)))) (att (onAttend t)).1 =
        some (attOf (onAttend t)) ∧ attFolios (onAttend t) ≠ []) ∧
    (∃ n ∈ attFolios (onAttend 4), (onAttend 4).attFolio (attOf (onAttend 4)) n = none) ∧
    (∀ n ∈ attFolios (onAttend 1), (onAttend 1).attFolio (attOf (onAttend 1)) n ≠ none) := by decide +kernel
theorem witness_SamplingWaits :
    (let en : GEntry := { entry0 with kind := 0, qLen := 1, maskWait := [0] }
     let s := atCmd sample0 ((withSession on (session0 qRun)).modSpn 0 fun y => { y with cur := some { entries := [en] } })
     s.current 0 = some (inst s) ∧ s.overBudget 0 (inst s) = false ∧ ∃ x ∈ s.sampled (inst s), x.2.2.maskWait ≠ []) ∧
    (let en : GEntry := { entry0 with kind := 0, qLen := 1 }
     let s := atCmd sample0 ((withSession on (session0 qRun)).modSpn 0 fun y => { y with cur := some { entries := [en] } })
     s.current 0 = some (inst s) ∧ s.overBudget 0 (inst s) = false ∧ s.sampled (inst s) ≠ [] ∧
     ∀ x ∈ s.sampled (inst s), x.2.2.maskWait = []) := by decide +kernel
/-- Both engines of the pair wait at the end of a step's streams. -/
def await0 : Cmd := { opcode := 3, tag := 4 }
def read0 (addr : Nat) : Cmd := { opcode := 2, length := 65536, fabric := 6 * 2 ^ 52 + 2 ^ 48, addrC := addr, tag := 4 }
def write0 : Cmd := { opcode := 2, issueOp := 1, length := 64, fabric := 6 * 2 ^ 52 + 2 ^ 48, tag := 4 }
/-- The premises of a command other than a TASK. -/
def isCmd (s : State) (m : Cmd) (slot : Nat) : Bool :=
  decide (s.current 0 = some (inst s)) && s.instOk (inst s) && decide ((inst s).cmd = m) && decide ((inst s).slot = slot)
def twoEngines (w : Ctx) (s : State) : State :=
  { s with eng := [(0, { slots := [(0, { cmds := [{ opcode := 4 }] })] }), (1, { slots := [(0, w)] })] }
theorem witness_StreamsStop :
    (let m := { move0 with kind := 0, fmt := 17, k := 65536, m := 65536, n := 1, addrA := 2 * 2 ^ 60, addrB := 0 }
     let s := atCmd m on
     s.current 0 = some (inst s) ∧ s.instOk (inst s) = true ∧ (inst s).cmd.opcode = 1 ∧ taskUnit (inst s).cmd.kind = 0 ∧
     s.overBudget 0 (inst s) = true) ∧
    isCmd (atCmd { opcode := 5 } on) { opcode := 5 } 0 = true ∧
    isCmd (twoEngines {} on) { opcode := 4 } 0 = true ∧
    (∃ k ∈ ((twoEngines {} on).enginesOf 0).filter fun k => ((twoEngines {} on).ctx? k 0).isSome,
      k ≠ 0 ∧ (twoEngines {} on).atBarrier k 0 0 = false) ∧
    isCmd (twoEngines { waiting := 3 } on) { opcode := 4 } 0 = true ∧
    (∀ k ∈ ((twoEngines { waiting := 3 } on).enginesOf 0).filter fun k => ((twoEngines { waiting := 3 } on).ctx? k 0).isSome,
      k = 0 ∨ (twoEngines { waiting := 3 } on).atBarrier k 0 0 = true) := by decide +kernel
theorem witness_StreamsSwitch :
    (let s : State := { on with eng := [(0, { slots := [(0, {}), (2, {})], switching := some 2 })] }
     (s.engOf 0).switching = some 2 ∧ s.live = true ∧ tget (s.engOf 0).slots 2 = some {} ∧
     tget (s.engOf 0).slots (s.engOf 0).running = some {} ∧ 2 ≠ (s.engOf 0).running) ∧
    (let s := atSlot 0 { cmds := [await0], waiting := 2, waitTag := 4 } on
     s.current 0 = some (inst s) ∧ (inst s).ctx.blocked = true ∧ (inst s).ctx.waitSince + s.awaitNs (inst s).p ≤ s.now ∧
     (((s.payRunning 0).grantRounds 0).chosen (inst s).p 0).1 = 0) ∧
    (let s : State := { on with eng := [(0, { slots := [(0, { cmds := [await0] }), (2, { cmds := [await0] })] })] }
     s.ownerOfEngine 0 = some 0 ∧ s.live = true ∧ (s.engOf 0).running = 0 ∧ (s.engOf 0).switching = none ∧ (s.engOf 0).stopped = false ∧
     s.ctx? 0 0 = some { cmds := [await0] } ∧
     ((s.grantRounds 0).firstPositive 0 ((s.grantRounds 0).privReady 0)).isSome = true ∧ 0 + cfgSliceNs (s.sliceCfg 0 0) ≤ s.now) := by decide +kernel
theorem witness_RemoteAccesses :
    isCmd (atCmd (read0 0) on) (read0 0) 0 = true ∧ spaceOf (read0 0).addrC = 0 ∧
    (on.spnOf 0).replyUse + (read0 0).length ≤ (on.partImage 0).part.replyBuf ∧
    (let s := on.modSpn 0 fun y => { y with replyUse := 1 }
     isCmd (atCmd (read0 0) s) (read0 0) 0 = true ∧ (s.partImage 0).part.replyBuf < (s.spnOf 0).replyUse + (read0 0).length) ∧
    isCmd (atCmd (read0 (2 * 2 ^ 60)) on) (read0 (2 * 2 ^ 60)) 0 = true ∧ spaceOf (read0 (2 * 2 ^ 60)).addrC ≠ 0 ∧
    isCmd (atCmd write0 on) write0 0 = true ∧ isCmd (atSlot 1 { cmds := [write0] } on) write0 1 = true ∧
    isCmd (atCmd await0 on) await0 0 = true ∧ tgetD (inst (atCmd await0 on)).ctx.tags 4 0 = 0 ∧
    isCmd (atSlot 0 { cmds := [await0], tags := [(4, 1)] } on) await0 0 = true ∧
    isCmd (atSlot 0 { cmds := [await0], errs := [(4, 6, 1)] } on) await0 0 = true := by decide +kernel

/-! ## Witnesses: tiers, ports and shaping -/

theorem witness_FoliosMoveOrFail :
    (let f : Folio := { kv0 4 with promoting := true, pin := 1, moveCls := .d }
     let s := withFolio on 0 f
     s.folio? 0 = some f ∧ s.live = true ∧ f.promoting = true ∧ f.demoting = false ∧ f.moveCls = .d ∧
     s.failedAt (.folio 0) = some (0, 4)) ∧
    (∀ n ∈ [0, 1], let f : Folio := { kv0 1 with demoting := true, pin := n, target := 3 }
      let s := withFolio on 0 f
      s.folio? 0 = some f ∧ s.live = true ∧ f.demoting = true ∧ f.pin = n ∧ s.failedAt (.folio 0) = some (0, 3) ∧
      s.transferSince (.folio 0) + s.t3TimeoutNs ≤ s.now) ∧
    (let s := (withFolio on 0 (kv0 1)).setReg .folHeatCfg 0 0 (BitVec.ofNat 64 (2 ^ 33 + 2 ^ 56))
     let cfg := s.reg .folHeatCfg 0
     s.folio? 0 = some (kv0 1) ∧ s.live = true ∧ s.hasPrk 0 = true ∧ bit cfg 33 = true ∧ bit cfg 32 = false ∧
     (heatNow cfg (kv0 1) s.now).1 < bits cfg 63 56) ∧
    (let s := (withFolio (withSession on (session0 qFar)) 0 (kv0 4)).setReg .folHeatCfg 0 0 0
     s.folio? 0 = some (kv0 4) ∧ s.objectMode 0 = false ∧ bits (s.reg .folHeatCfg 0) 55 48 ≤ (heatNow (s.reg .folHeatCfg 0) (kv0 4) s.now).1 ∧
     (s.folPart 0).t1Use + 1 ≤ s.t1High 0 ∧ s.residentFolio 0 0 = true) ∧
    (let s := withSession on xParking
     s.session? 0 = some xParking ∧ xParking.parkOp = some parkOp0 ∧ s.failedAt (.quire 0) = some (0, 4)) ∧
    (let s := withSession on xReviving
     s.session? 0 = some xReviving ∧ xReviving.parkOp = none ∧ xReviving.revive = some reviveOp0) := by decide +kernel
def wreq : PortReq := { cls := .a, queue := some 0, len := 64 }
def linkUp0 : Link := { state := .up, peerId := 6, peerUid := 6, keyed := true, credits := [(0, 1000)], helloOk := true, lastValid := 1000000 }
def withLink (x : Link) (s : State) : State := s.setLink 0 x
def frame0 : Frame := { type := 1, src := (5, 0), dst := (6, 1), len := 1 }
def linkReq : PortReq := { cls := .b, queue := some 0, len := 64, frame := some frame0 }
theorem witness_ShapersAndPorts :
    (on.live = true ∧ on.now % 1000 = 0 ∧ on.now % 100000 = 0) ∧
    (let s := (on.setPort (.link 0) { reqs := [{ wreq with priv := some 0, queue := none }] })
     s.live = true ∧ s.roundDue (.fabric 0) (s.privWork (.fabric 0)) = true) ∧
    (let s := on.setPort .host { reqs := [wreq] }
     s.live = true ∧ (∀ l, PortId.host ≠ .link l) ∧ (s.port .host).cur = none ∧ s.held .host = false ∧
     nextGrant (s.port .host) = some .a ∧ s.pick .host .a (s.port .host).reqs = some wreq ∧
     nextGrant (on.port .host) = none) ∧
    (let s := (withLink linkUp0 on).setPort (.link 0) { reqs := [linkReq] }
     let x := s.port (.link 0)
     let heads := (laneHeads x.reqs []).filter fun r => match r.frame with | some f => s.sendable 0 f | none => false
     s.live = true ∧ (((s.setPort (.link 0) { x with reqs := heads }).grantNext (.link 0)).port (.link 0)).cur = some linkReq ∧
     linkReq.frame = some frame0) ∧
    (3 ≤ on.pwr.stage ∧ (Config.hbmChannels * channelLines - 1) / channelLines < Config.hbmChannels) := by
  refine ⟨by decide +kernel, by decide +kernel, ⟨by decide +kernel, (fun l h => by cases h), ?_⟩, by decide +kernel, by decide +kernel⟩
  decide +kernel

/-! ## Witnesses: hand-off and checkpoint -/

def sendBody (region record us tdev tpart : Nat) : Bytes :=
  body [(0x20, 1, region), (0x22, 2, record), (0x24, 2, tdev + tpart * 4096), (0x28, 4, us)]
def vSend (region record us tdev tpart : Nat) : Verb := verb .handoffSend 0x60 .begun (sendBody region record us tdev tpart)
/-- The premises of HANDOFF_SEND up to its region. -/
def sends (s : State) (v : Verb) (x : Session) : Bool :=
  decide (s.begun? 0 1 .handoffSend = some v) && decide (s.session? v.dir = some x) && decide (x.send = none) &&
  decide (x.parkOp = none) && decide (x.revive = none) && (s.keysOf 0).plk.isSome
def smallSlots (s : State) : State :=
  { s with bind := { s.bind with image := some { image0 with fab := { image0.fab with regions := [{ region0 with slotBytes := 4096 }] } } } }
theorem witness_HandoffsSend :
    (let s := withSession (withVerb on (vSend 0 0 10 6 1)) xParking
     s.begun? 0 1 .handoffSend = some (vSend 0 0 10 6 1) ∧ s.session? (vSend 0 0 10 6 1).dir = some xParking ∧ xParking.send = none ∧
     xParking.parkOp.isSome = true) ∧
    sends (withSession (withVerb on (vSend 1 0 10 6 1)) xWait) (vSend 1 0 10 6 1) xWait = true ∧ on.region? 1 = none ∧
    on.region? 0 = some region0 ∧ on.regionGranted 0 region0 = true ∧
    (∀ us ∈ [0, 10, 1000000], let v := vSend 0 3 us 6 1
      sends (withSession (withVerb on v) xWait) v xWait = true ∧ v.f 0x20 1 = 0 ∧ v.f 0x22 2 < region0.records ∧
      on.fabSec.peers.any (fun y => y.id == (unpackPair (v.f 0x24 2)).1) = true ∧ v.f 0x28 4 = us) ∧
    (∀ us ∈ [9, 1000001], (vSend 0 3 us 6 1).f 0x28 4 = us) ∧ ¬ ((vSend 0 4 10 6 1).f 0x22 2 < region0.records) ∧
    slotUse ((withSession on xWait).quireCount xWait) ≤ region0.slotBytes ∧
    (let v := vSend 0 3 10 6 1
     let s := smallSlots (withSession (withVerb on v) xWait)
     sends s v xWait = true ∧ s.region? 0 = some { region0 with slotBytes := 4096 } ∧
     s.regionGranted 0 { region0 with slotBytes := 4096 } = true ∧ 4096 < slotUse (s.quireCount xWait)) := by decide +kernel
def sent0 : SendOp := { verb := 1, region := 0, record := 0, tdev := 6, tpart := 1, claimUs := 10, phase := .sent, epoch := 1, deadline := 9 }
def xSent : Session := { xWait with send := some sent0 }
def claim0 : ClaimOp := { part := 0, verb := 1, region := 0, record := 0, queue := 0, retry := some 0 }
theorem witness_HandoffsGoOn :
    (let s := withSession on xSent
     s.sendIn 0 .sent = some (xSent, sent0) ∧ s.region? sent0.region = some region0 ∧ sent0.lastPoll + s.pollNs xSent.part ≤ s.now ∧
     sent0.deadline ≤ s.now) ∧
    (let o : SendOp := { sent0 with retry := some 0 }
     let s := withSession on { xSent with send := some o }
     s.live = true ∧ s.session? 0 = some { xSent with send := some o } ∧ o.retry = some 0 ∧ 0 + s.pollNs 0 ≤ s.now ∧
     o.phase ≠ .writing ∧ ∀ c ∈ s.ho.claims, c.retry = none) ∧
    (let s : State := { on with ho := { claims := [claim0] } }
     s.live = true ∧ s.session? 0 = none ∧ s.ho.claims = [] ++ claim0 :: [] ∧ claim0.retry = some 0 ∧ claim0.landed = none ∧
     0 + s.pollNs claim0.part ≤ s.now ∧ claim0.phase ≠ 2) := by decide +kernel
theorem witness_HandoffsClaim :
    (let v := verb .handoffClaim 0x61 .begun (body [(0x20, 1, 1)])
     (withVerb on v).begun? 0 1 .handoffClaim = some v ∧ (withVerb on v).claim? 0 1 = none ∧ on.region? (v.f 0x20 1) = none) ∧
    (let v := verb .handoffClaim 0x61 .begun (body [(0x22, 2, 3), (0x26, 2, 15)])
     let s := withVerb on v
     s.begun? 0 1 .handoffClaim = some v ∧ s.claim? 0 1 = none ∧ s.region? (v.f 0x20 1) = some region0 ∧
     s.regionGranted 0 region0 = true ∧ s.queueIn 0 (v.f 0x26 2) = true ∧ v.f 0x22 2 < region0.records) ∧
    (let v := verb .handoffClaim 0x61 .begun (body [(0x22, 2, 4), (0x26, 2, 16)])
     (withVerb on v).queueIn 0 (v.f 0x26 2) = false ∧ ¬ v.f 0x22 2 < region0.records) := by decide +kernel
def vTake (tc : Nat) : Verb := verb .ckptTake 0x70 .begun (body [(0x20, 8, tc)])
def noGroup (s : State) : State :=
  { s with bind := { s.bind with image := some { image0 with parts := [(0, { part0 with links := {} })] } } }
def ckpOn (k : CkpPart) : State := on.setCkp 0 k
def report0 : CommitReport := { units := 1, found := 0, shards := 1, rows := 1, root := [], point := 0, progDigest := [],
                                shape := (4, 2, .bf16, false) }
theorem witness_CheckpointsTake :
    (noGroup (withVerb on (vTake 0))).begun? 0 1 .ckptTake = some (vTake 0) ∧ (noGroup (withVerb on (vTake 0))).group? 0 = none ∧
    (∀ tc ∈ [0, 999000 + tcLimit, 999001 + tcLimit],
      (withVerb on (vTake tc)).begun? 0 1 .ckptTake = some (vTake tc) ∧ (vTake tc).f 0x20 8 = tc) ∧
    (vTake 0).arrival + tcLimit < 999001 + tcLimit ∧ (vTake 0).arrival ≤ (vTake 0).arrival + tcLimit ∧
    on.group? 0 = some group0 ∧ (on.fab.devId, 0) ∈ group0.members ∧ on.memberNo group0 0 = 0 ∧ on.changing = false ∧
    (∀ q ∈ on.localMembers group0, (on.ckpOf q).phase = 0 ∧ (on.keysOf q).ck.isSome = true) ∧
    on.live = true ∧ (on.group? 0).isSome = true ∧ (on.ckpOf 0).phase = 0 ∧
    (ckpOn { phase := 1, tc := 0 }).live = true ∧ (ckpOn { phase := 1, tc := 0 }).pointDue 0 = true ∧
    (let v : Verb := { vTake 0 with phase := .running }
     let s := withVerb (ckpOn { phase := 3, verb := some 1, run := 1, reports := [(0, report0), (1, report0), (2, report0)] }) v
     s.group? 0 = some group0 ∧ (s.ckpOf 0).verb = some 1 ∧ s.live = true ∧ (s.ckpOf 0).phase ≠ 4 ∧ s.verb? 0 1 = some v ∧
     (s.ckpOf 0).phase = 3) := by decide +kernel
def colophon0 : Colophon :=
  { group := 1, n := 3, seq := 1, tc := 0, rows := 1, shards := 1, rootDigest := [],
    members := [(5, 0, 0, []), (6, 0, 0, []), (7, 0, 0, [])], shape := [(4, 2, .bf16, false)] }
def vRestore : Verb := verb .ckptRestore 0x71 .begun (zeros 96)
def onRestore : State := withVerb on vRestore
/-- What a member has stored of an empty partition. -/
def capture0 : Capture := { point := 0, dir := [], free := { count := 16 }, sessions := [] }
def onPhase4 (v : Option Nat) (c : List (Nat × Nat)) (s : State) : State :=
  s.setCkp 0 { phase := 4, run := 1, verb := v, chains := c, stored := [(1, capture0)] }
def installed (s : State) : State := val (s.install 0 (s.captureOf 0)) on
theorem witness_CheckpointsRestore :
    (noGroup onRestore).begun? 0 1 .ckptRestore = some vRestore ∧ (noGroup onRestore).group? 0 = none ∧
    onRestore.begun? 0 1 .ckptRestore = some vRestore ∧ onRestore.group? 0 = some group0 ∧ onRestore.memberNo group0 0 = 0 ∧
    (∀ q ∈ onRestore.localMembers group0, onRestore.memberReady q = true) ∧
    pickColophon (vRestore.f 0x20 8) (onRestore.colophons group0 []) = none ∧
    pickColophon (vRestore.f 0x20 8) (onRestore.colophons group0 [(0, colophon0)]) = some colophon0 ∧
    onRestore.shapeOk group0 colophon0 = true ∧ onRestore.shapeOk group0 { colophon0 with n := 4 } = false ∧
    (onRestore.lostMembers group0 [(0, colophon0)] colophon0).length ≤ 2 ∧
    2 < (onRestore.lostMembers group0 [] colophon0).length ∧
    ((onPhase4 none [] on).live = true ∧ ((onPhase4 none [] on).ckpOf 0).phase = 4 ∧ ((onPhase4 none [] on).ckpOf 0).chains = [] ∧
     ((onPhase4 none [] on).ckpOf 0).verb = none ∧
     (onPhase4 none [] on).install 0 ((onPhase4 none [] on).captureOf 0) = some (installed (onPhase4 none [] on))) ∧
    (let v : Verb := { vRestore with phase := .running }
     let s := onPhase4 (some 1) [] (withVerb on v)
     s.live = true ∧ (s.ckpOf 0).phase = 4 ∧ (s.ckpOf 0).chains = [] ∧ (s.ckpOf 0).verb = some 1 ∧ s.group? 0 = some group0 ∧
     (∀ q ∈ s.localMembers group0, q ≠ 0 → (s.ckpOf q).phase ≠ 4) ∧ s.install 0 (s.captureOf 0) = some (installed s) ∧
     (installed s).verb? 0 1 = some v) := by decide +kernel
theorem witness_ShardTransfers :
    on.live = true ∧ on.group? 0 = some group0 ∧ (on.ckpOf 0).phase = 0 ∧ (ckpOn { phase := 2 }).group? 0 = some group0 ∧
    ((ckpOn { phase := 2 }).ckpOf 0).phase = 2 ∧ ((ckpOn { phase := 2 }).ckpOf 0).rowOf [1#8] = none ∧
    (ckpOn { phase := 2, rows := [(2, { digest := some [1#8], refs := [1] })] }).live = true ∧
    ((ckpOn { phase := 2, rows := [(2, { digest := some [1#8], refs := [1] })] }).ckpOf 0).rowOf [1#8] = some 2 ∧
    ((ckpOn { phase := 2 }).keysOf 0).ck = some key32 ∧
    (List.range group0.reserve).find? (fun r => ((ckpOn { phase := 2 }).ckpOf 0).rowFree 3 0 r) = some 1 ∧
    on.memberNo group0 0 = pHolder 3 0 ∧ on.memberNo group0 0 ≠ pHolder 3 2 ∧ on.memberNo group0 0 = qHolder 3 2 ∧
    ((ckpOn { phase := 3, verb := some 1 }).ckpOf 0).verb.isSome = true ∧
    (let s : State := { on with fab := { on.fab with devId := 6 } }
     s.group? 0 = some group0 ∧ s.memberNo group0 0 ≠ 0) := by decide +kernel

/-! ## Witnesses: fabric and flash -/

def upOn : State := withLink linkUp0 on
def inState (st : LinkState) : State := withLink { linkUp0 with state := st } on
theorem witness_LinksComeAndGo :
    upOn.pwr.pwrok = true ∧ (upOn.linkOf 0).state = .up ∧ ({ uncorrectable := true } : Flit).uncorrectable = true ∧
    ({ kind := 1, seq := 5 } : Flit).seq ≠ ((upOn.linkOf 0).rxSeq + 1) % 4096 ∧ ({ kind := 1 } : Flit).seq = ((upOn.linkOf 0).rxSeq + 1) % 4096 ∧
    upOn.linkLost 0 = true ∧ (inState .authenticating).linkLost 0 = true ∧ ((inState .authenticating).linkOf 0).state = .authenticating ∧
    ((inState .down).linkOf 0).state = .down ∧ ((inState .down).linkOf 0).downSince + 100000000 ≤ (inState .down).now ∧
    (inState .down).pwr.clockLost.contains (quadDomain (0 / 4)) = false ∧
    (let s := withLink { linkUp0 with state := .down, downSince := 1 } on
     s.now < (s.linkOf 0).downSince + 100000000) ∧
    ((inState .training).linkOf 0).state = .training ∧ (inState .training).linkActive 0 = true ∧ 7 ≤ (inState .training).pwr.stage ∧
    ((inState .mismatch).linkOf 0).state = .mismatch ∧
    (∃ x ∈ on.fabSec.peers, x.uid = 6 ∧ x.id = 6) ∧ (on.linkRow 0).peerId = 6 ∧ (on.linkRow 0).peerLink = 0 ∧
    ((inState .authenticating).linkOf 0).helloOk = true ∧ ((inState .authenticating).linkOf 0).peerUid = 6 := by
  refine ⟨?_, ?_, ?_, ?_, ?_, ?_, ?_, ?_, ?_, ?_, ?_, ?_, ?_, ?_, ?_, ?_, ?_, ?_, ?_, ?_, ?_⟩ <;> decide +kernel
/-- A HELLO that passes, and one that does not. -/
theorem witness_HelloPasses : ∃ m : HelloMsg, m.digest = (inState .mismatch).membership ∧ m.uid = 6 ∧ m.id = 6 := by
  generalize (inState .mismatch).membership = d
  exact ⟨{ uid := 6, id := 6, link := 0, digest := d }, rfl, rfl, rfl⟩
def lsa0 : LsaMsg := { origin := 6, seq := 1, switchAt := 0, links := [] }
def due : State := { upOn with fab := { upOn.fab with switchAt := some 0 } }
def parented : State := { upOn with fab := { upOn.fab with hasParent := true, parent := 6 } }
theorem witness_RoutesAndTime :
    upOn.pwr.pwrok = true ∧ (upOn.linkOf 0).state = .up ∧ upOn.switchDue = false ∧ due.switchDue = true ∧ (due.linkOf 0).state = .up ∧
    tget upOn.fab.lsas lsa0.origin = none ∧
    (let s : State := { upOn with fab := { upOn.fab with unacked := [(0, lsa0, 0)] } }
     s.fab.unacked.find? (fun e => e.1 == 0 && e.2.1.origin == 6) = some (0, lsa0, 0)) ∧
    (let s : State := { upOn with fab := { upOn.fab with oldRoutes := some [], oldIdleSince := some 0 } }
     s.fab.oldRoutes = some [] ∧ s.fab.oldIdleSince = some 0 ∧ 0 + 10000 ≤ s.now) ∧
    parented.parentLink = some 0 ∧ parented.fab.hasParent = true ∧ (parented.linkOf 0).peerId = parented.fab.parent ∧
    parented.mayStep = false ∧
    (let s : State := { parented with bind := { parented.bind with phase := .none }, pwr := { parented.pwr with stage := 7 } }
     s.mayStep = true ∧ s.fab.depth ≤ 12 ∧ ((1 : Int) - 0).natAbs ≤ 50 ∧ s.pwr.clockLost.contains 37 = false ∧ (s.linkOf 0).state = .up) ∧
    (let s : State := { parented with fab := { parented.fab with depth := 13 } }
     12 < s.fab.depth ∧ (s.linkOf 0).state = .up) := by decide +kernel
def grant6 : Grant := { dev := 6, part := 1, base := 0, size := 1048576, r := true, w := true, a := true }
def partGrants : PartImage := { part0 with links := { part0.links with grants := [grant6] } }
def hosts : FabricSec := { image0.fab with regions := [{ region0 with num := 1, dev := 5, part := 0, base := 65536 }] }
def grants (s : State) : State := { s with bind := { s.bind with image := some { image0 with parts := [(0, partGrants)], fab := hosts } } }
def reqFrame (ty : Nat) (n : Nat) (b : Bytes) : Frame := { type := ty, src := (6, 1), dst := (0, 0), offset := 64, len := n, e2eSeq := 1, payload := b }
def heard (f : Frame) (s : State) : State := { s with fab := { s.fab with inbox := [f] } }
/-- The ownership record of an owner, and the free one before it. -/
def casBytes : Bytes := natLe 16 0 ++ natLe 16 1
theorem witness_RequestsAreServed :
    (∀ f ∈ [reqFrame tyReadReq 1 [], reqFrame tyWriteReq 1 (zeros 64), { reqFrame tyCasReq 1 casBytes with offset := 65536 }],
      (heard f upOn).live = true ∧ (heard f upOn).fab.inbox.any (sameFrame f) = true ∧ (heard f upOn).inTurn f = true ∧
      ((heard f upOn).window 6).stale f.e2eSeq = false ∧
      ((heard f upOn).window 6).dup f.e2eSeq = false ∧
      ({ heard f upOn with fab := { upOn.fab with inbox := [] } } : State).requestError f false ≠ .none ∧
      (let s := (heard f upOn).setWindow 6 { high := 1000000, started := true }
       (s.window 6).stale f.e2eSeq = true ∧ s.fab.inbox.any (sameFrame f) = true ∧ s.live = true) ∧
      (let s := (heard f upOn).setWindow 6 { high := 1, started := true, marked := [1] }
       (s.window 6).stale f.e2eSeq = false ∧ (s.window 6).dup f.e2eSeq = true) ∧
      (let t : State := { heard f (grants upOn) with fab := { upOn.fab with inbox := [] } }
       t.requestError f false = .none ∧ t.applyError f = .none ∧ t.requestError f (ownReclaim t f) = .none)) ∧
    (let f := reqFrame tyReadReq 1 []
     let s := (grants upOn).modSpn 0 fun y => { y with poison := [64] }
     s.applyError f = .poison ∧ s.poisoned f = true ∧ s.requestError f false = .none) ∧
    (let f : Frame := { reqFrame tyCasReq 1 casBytes with offset := 65536 }
     let g : Frame := { f with e2eSeq := 2, src := (7, 1) }
     f.type = tyCasReq ∧ ({ upOn with fab := { upOn.fab with inbox := [g, f] } } : State).inTurn f = false) ∧
    recordMove 0 (6, 1) 0 1 = false ∧
    (let f : Frame := { reqFrame tyCasReq 1 (natLe 16 0 ++ natLe 16 (orecNat { state := 1, epoch := 1, owner := (6, 1) })) with offset := 65536 }
     let s := heard f (grants upOn)
     recordMove s.now f.src (casCompare f) (casSwap f) = true ∧ leNat (mreads (s.spnOf 0).hbm f.offset 16) = casCompare f) ∧
    ([(6, 1, 0, true)] : List (Nat × Nat × Nat × Bool)).find? (fun e => e.1 == 6 && e.2.1 == 1) = some (6, 1, 0, true) := by decide +kernel
def shardFrame (b : Bytes) : Frame := { type := tyShardReq, src := (6, 1), dst := (0, 0), tag := 3, payload := b }
theorem witness_ShardRequests :
    (heard (shardFrame []) upOn).live = true ∧ (heard (shardFrame []) upOn).fab.inbox.any (sameFrame (shardFrame [])) = true ∧
    (shardFrame []).type = tyShardReq ∧ (heard (shardFrame [1#8]) upOn).freeSlots ≠ 0 ∧
    ((heard (shardFrame [1#8]) upOn).shardFrames (shardFrame [1#8])).find? (fun g => g.index == 0) = some (shardFrame [1#8]) ∧ shardWhole ((heard (shardFrame [1#8]) upOn).shardFrames (shardFrame [1#8])) = some [1#8] ∧
    (let f : Frame := { shardFrame [] with index := 1 }
     shardWhole ((heard f upOn).shardFrames f) = none) := by decide +kernel
def rspFrame (ty : Nat) : Frame := { type := ty, src := (6, 1), dst := (5, 0), tag := 3 }
def asked0 (l : List Frame) : State :=
  { upOn with fab := { upOn.fab with requests := [{ tag := 3, asker := .engine 0 0 4, dst := (6, 1), frames := l, total := 64 }] } }
theorem witness_ResponsesAreTaken :
    ∀ ty ∈ [tyReadRsp, tyWriteAck, tyCasRsp, tyShardRsp, tyErrorRsp],
      (heard (rspFrame ty) (asked0 [frame0])).live = true ∧ (heard (rspFrame ty) (asked0 [frame0])).fab.inbox.any (sameFrame (rspFrame ty)) = true ∧
      (heard (rspFrame ty) upOn).requestOf (rspFrame ty) = none ∧
      ((heard (rspFrame ty) (asked0 [frame0])).requestOf (rspFrame ty)).isSome = true ∧
      (ty ≠ tyShardRsp → (answered (val ((heard (rspFrame ty) (asked0 [frame0])).requestOf (rspFrame ty)) default) (rspFrame ty) []).ended = true ∧
        (answered (val ((heard (rspFrame ty) (asked0 [frame0, { frame0 with index := 1 }])).requestOf (rspFrame ty)) default) (rspFrame ty)
          []).ended = false) := by decide +kernel
def blockOf (l : List Nat) : Block := { programmed := true, units := l }
def flash (x : Chan) : State := { on with nvf := { chans := [(0, x)] } }
def chan0 : Chan := { state := .active, nblocks := 4, blocks := [(0, blockOf [7]), (1, blockOf [8, 9]), (3, blockOf [])], map := [(7, 0), (8, 1), (9, 1)],
                      alloc := [7, 8, 9] }
def reloc0 : Reloc := { unit := 7, src := 0, dst := 2, cls := .d }
theorem witness_FlashWorks :
    (flash chan0).chanUp 0 = true ∧ tget ((flash chan0).chanOf 0).map 7 = some 0 ∧ ((flash chan0).chanOf 0).state ≠ .readOnly ∧
    3 < ((flash chan0).chanOf 0).nblocks ∧ (((flash chan0).chanOf 0).block 3).units = [] ∧ ((flash chan0).chanOf 0).gc = none ∧
    ((flash chan0).chanOf 0).victim = some 3 ∧ (((flash chan0).chanOf 0).block 3).programmed = true ∧
    (∀ r ∈ ((flash chan0).chanOf 0).relocs, r.src ≠ 3) ∧ (((flash chan0).chanOf 0).block 1).programmed = true ∧
    (((flash chan0).chanOf 0).block 1).retired = false ∧ ((flash chan0).chanOf 0).leastWorn = some 2 ∧
    (((flash { chan0 with relocs := [reloc0] }).chanOf 0).relocs.find? (fun x => x.unit == 7) = some reloc0) ∧
    (((flash { chan0 with relocs := [{ reloc0 with freed := true }] }).chanOf 0).relocs.find? (fun x => x.unit == 7) =
      some { reloc0 with freed := true }) ∧
    (let x : Chan := { chan0 with blocks := [(0, { blockOf [7] with refreshAt := some .d })] }
     ((flash x).chanUp 0 = true ∧ ((flash x).chanOf 0).block 0 = { blockOf [7] with refreshAt := some .d })) ∧
    on.live = true ∧ on.hif.pfD3hot = false ∧ on.hif.linkUp = true ∧ on.auditFull = false ∧ on.headKnown = true ∧ on.t3Used = [] ∧
    (on.modFolPart 0 fun x => { x with t3Frames := [0] }).t3Used ≠ [] ∧
    (let s : State := { on with sec := { on.sec with battery := { on.sec.battery with formatted := false } }, pwr := { on.pwr with stage := 3 } }
     s.headKnown = false ∧ s.live = true) := by decide +kernel

/-- A unit that has moved while a promotion still reads its old place, and the block that it left. -/
def moved0 : State :=
  { flash { chan0 with olds := [{ unit := 7, block := 3, readers := [.folio 0] }] } with
    fol := { on.fol with folios := [(0, { kind := .kv, fmt := .bf16, tier := 4, promoting := true, loc := 7 + 1 * 2 ^ 32 })] } }
theorem witness_FlashPlaces :
    (((flash chan0).chanOf 0).block 1).programmed = true ∧ 8 ∈ ((flash chan0).chanOf 0).alloc ∧
    (((flash chan0).chanOf 0).block 2).programmed = false ∧
    (∀ j ∈ ((flash chan0).chanOf 0).freeBlocks, (((flash chan0).chanOf 0).block 2).erases ≤ (((flash chan0).chanOf 0).block j).erases) ∧
    (flash chan0).oldReads 0 3 = false ∧ (flash chan0).oldPlace 0 7 = none ∧ moved0.oldReads 0 3 = true ∧
    ((moved0.chanOf 0).block 3).units = [] ∧ (∀ r ∈ (moved0.chanOf 0).relocs, r.src ≠ 3) ∧
    (moved0.oldPlace 0 7).map (·.block) = some 3 := by decide +kernel

/-! ## Witnesses: management, keys and audit -/

def lowStage : State := { on with pwr := { on.pwr with stage := 1 } }
def withAudit (l : List Bytes) : State := { on with sec := { on.sec with audit := l } }
/-- An audit area without a free place. -/
theorem audit_full (l : List Bytes) (h : l.length = Config.auditPlaces) : (withAudit l).auditFull = true := by
  have : (withAudit l).auditFree = 0 := by
    show Config.auditPlaces - l.length = 0
    omega
  simp [State.auditFull, this]
theorem records_of_length (n : Nat) : ∃ l : List Bytes, l.length = n := ⟨List.replicate n [], List.length_replicate⟩
theorem witness_ManagementGates :
    (lowStage.mgmtUp = false) ∧ (∃ l, (withAudit l).auditFull = true ∧ (withAudit l).mgmtUp = true ∧ (withAudit l).live = true) ∧
    (safeOn.mgmtUp = true ∧ safeOn.auditFull = false ∧ safeOn.flt.safe = true) ∧ (on.mgmtUp = true ∧ on.flt.safe = false) := by
  refine ⟨by decide +kernel, ?_, by decide +kernel, by decide +kernel⟩
  obtain ⟨l, h⟩ := records_of_length Config.auditPlaces
  exact ⟨l, audit_full l h, rfl, rfl⟩
theorem witness_FloorsAndAuthorities :
    on.serves = true ∧ 0 < on.sec.battery.bindFloor ∧ on.sec.battery.bindFloor ≤ two32 - 1 ∧ hash48.length = 48 ∧
    on.bind.image.isSome = true ∧ on.sec.battery.bindFloor < 2 ∧ on.hasPrk 0 = true ∧
    (let s : State := { on with bind := { on.bind with image := none }, sec := { on.sec with battery := { on.sec.battery with fwFloor := 1 } } }
     s.serves = true ∧ s.bind.image = none ∧ 0 < s.sec.battery.fwFloor) := by decide +kernel
def keyMsg (code part epoch : Nat) (key : Bytes) (mgmt : Bool) : KeyMsg :=
  { mgmt, doePart := part, mutualAuth := true, requester := hash48,
    payload := natLe 1 code ++ natLe 1 part ++ natLe 2 0 ++ natLe 4 epoch ++ key }
def codes : List (Nat × KeyMsg) :=
  [(kmPkey, keyMsg kmPkey 0 0 key32 false), (kmPool, keyMsg kmPool 0 1 key32 true), (kmCk, keyMsg kmCk 0 0 key32 false),
   (kmStatus, keyMsg kmStatus 0 0 (zeros 32) true)]
def keysOff (s : State) : State := { s with sec := { s.sec with keys := [] } }
def authZero (s : State) : State :=
  { s with sec := { s.sec with battery := { s.sec.battery with keyAuth := [(0, (zeros 48, true))] } } }
theorem witness_KeyAuthorities :
    on.serves = true ∧ 0 < Config.partitions ∧ on.hasPrk 0 = true ∧ (keysOff on).hasPrk 0 = false ∧ (keysOff on).recordInUse 0 = false ∧
    (keysOff on).serves = true ∧ (withSession (keysOff on) xWait).recordInUse 0 = true ∧
    (∀ e ∈ codes, (authZero on).mgmtUp = true ∧ (authZero on).auditFull = false ∧ (authZero on).hif.linkUp = true ∧
      (authZero on).flt.safe = false ∧ (authZero on).sec.battery.debugUnlocked = false ∧
      (∀ b ∈ ((authZero on).keyAuth (kmPart e.2)).1, b = 0) ∧ ((authZero on).keyAuth (kmPart e.2)).1 ≠ [] ∧
      kmMalformed e.1 e.2 = false) := by decide +kernel
theorem witness_KeysAreSet :
    (∀ e ∈ codes, on.mgmtUp = true ∧ on.auditFull = false ∧ on.hif.linkUp = true ∧ on.flt.safe = false ∧
      on.sec.battery.debugUnlocked = false ∧ on.kmAuth e.2 = true ∧ kmMalformed e.1 e.2 = false) ∧
    kmMalformed kmPkey (keyMsg kmCk 0 0 key32 false) = true ∧ (authZero on).kmAuth (keyMsg kmPkey 0 0 key32 false) = false ∧
    (safeOn.mgmtUp = true ∧ safeOn.hif.linkUp = true ∧ safeOn.flt.safe = true) ∧
    (let s : State := { on with sec := { on.sec with battery := { on.sec.battery with debugUnlocked := true } } }
     s.mgmtUp = true ∧ s.flt.safe = false ∧ s.sec.battery.debugUnlocked = true) ∧
    (keysOff on).pkeyResult 0 0 key32 = .ok ∧ on.hasPrk 0 = true ∧
    (let s := (keysOff on).setEpochs 0 (2, 0, [])
     s.hasPrk 0 = false ∧ kmEpoch (keyMsg kmPkey 0 1 key32 false) < (s.epochs 0).1 ∧ s.kmAuth (keyMsg kmPkey 0 1 key32 false) = true) := by
  decide +kernel
theorem witness_DebugAuditAndAttestation :
    on.serves = true ∧
    (let s : State := { keysOff on with sec := { (keysOff on).sec with debugNonce := some 3 } }
     s.serves = true ∧ s.sec.uid = 7 ∧ s.sec.debugNonce = some 3 ∧ ∀ p ∈ List.range Config.partitions, s.hasPrk p = false) ∧
    on.firmwareUp = true ∧ on.mgmtUp = true ∧ on.flt.safe = false ∧
    (let s : State := { on with sec := { on.sec with audit := [[]], auditWaiting := 1 } }
     s.pwr.pwrok = true ∧ 3 ≤ s.pwr.stage ∧ s.pwr.stage ≠ 15 ∧ s.sec.auditWaiting ≠ 0) ∧
    on.live = true ∧ on.hif.linkUp = true ∧ (on.vf 0).tdi = .run ∧ 0 ∈ on.hif.ideStreams ∧ 15 < Config.partitions ∧
    (on.vf 1).tdi = .unlocked ∧
    (let s := on.setVf 1 { (on.vf 1) with tdi := .locked }
     (s.vf 1).tdi = .locked ∧ s.live = true) := by decide +kernel

/-! ## Witnesses: registers -/

/-- A place of a register, as PF0 finds it. -/
def pfAt (r : RegName) (i j : Nat) : Bool := decide (resolve .pf (regAddr r i j) = some (r, i, j)) && decide (regAddr r i j % 8 = 0)
theorem witness_RegistersAnswer :
    on.answers .pf = true ∧ on.answers (.vf 0) = true ∧ on.answers (.vf 1) = false ∧ lowStage.answers .pf = true ∧ 4 % 8 ≠ 0 ∧
    pfAt .sysPwrStatus 0 0 = true ∧ accessOk .pf 4 8 = false ∧ accessOk .pf (regAddr .engSliceCfg 0 0 + 4) 4 = true ∧
    accessOk .pf (regAddr .engSliceCfg 0 0 + 2) 4 = false ∧ accessOk .pf (regAddr .engSliceCfg 0 0) 8 = true ∧
    (safeOn.answers .pf = true ∧ safeOn.flt.safe = true) ∧
    (15 < (regRow .engSliceCfg).n1 ∧ (∃ m, (regRow .engSliceCfg).kind = .rw m) ∧ w64 (rwMask .engSliceCfg 15) ≠ 0 ∧
      RegName.engSliceCfg ∉ [RegName.hifT3Base, .hifT3SealBase, .hifT3Cfg, .shpQueueCfg, .shpPolRate, .shpPolBurst]) ∧
    on.auditFull = false ∧ on.headKnown = true := by
  refine ⟨by decide +kernel, by decide +kernel, by decide +kernel, by decide +kernel, by decide +kernel, by decide +kernel,
    by decide +kernel, by decide +kernel, by decide +kernel, by decide +kernel, by decide +kernel, ⟨by decide +kernel, ⟨_, rfl⟩, by decide +kernel, by decide +kernel⟩,
    by decide +kernel, by decide +kernel⟩
/-- A place in the view of partition 0's function that holds SAT bits which the function may not see. -/
theorem witness_SatHidden : ∃ off r i j, on.answers (.vf 0) = true ∧ off % 8 = 0 ∧ resolve (.vf 0) off = some (r, i, j) ∧ hasSat r = true ∧
    on.sees (.vf 0) r i = false := ⟨0x120200, .engNumeric, 2, 0, by decide +kernel⟩
theorem witness_SatBitsClear :
    on.answers .pf = true ∧ on.flt.safe = false ∧ on.auditFull = false ∧ on.headKnown = true ∧
    pfAt .fabPartErr 0 0 = true ∧ pfAt .fabPartErr 15 0 = true ∧ (regRow .fabPartErr).kind = .sat ∧ on.sees .pf .fabPartErr 0 = true ∧
    on.sees .pf .fabPartErr 15 = true ∧ bit (BitVec.ofNat 64 (2 ^ 63)) 63 = true ∧
    resolve (.vf 0) 0x120000 = some (.engNumeric, 0, 0) ∧ on.answers (.vf 0) = true ∧ on.sees (.vf 0) .engNumeric 0 = true ∧
    pfAt .shpHistSat 4095 0 = true ∧
    on.sees .pf .shpHistSat 4095 = true ∧ 4095 < Config.serviceQueues ∧ pfAt .sysAccessErr 0 0 = true ∧
    on.sees .pf .sysAccessErr 0 = true := by decide +kernel
theorem witness_SnapshotsAreTaken : on.answers .pf = true ∧ on.answers (.vf 0) = true ∧ on.flt.safe = false ∧ 11 < 12 := by decide +kernel
theorem witness_EventMessages :
    on.pwr.pwrok = true ∧ bit (on.reg .hifEventCause) 7 = false ∧ bit (on.reg .hifEventMask) 7 = true ∧ on.flt.safe = false ∧
    bit ((on.setReg .hifEventMask 0 0 0).reg .hifEventMask) 7 = false ∧ on.answers .pf = true ∧ on.auditFull = false ∧
    on.headKnown = true := by decide +kernel

/-! ## Witnesses: faults, recovery and starts -/

theorem witness_FaultsAreCollected :
    (∀ k ∈ [0x00, 0x1F, 0x20, 0x40, 0x48, 0x50, 0x5B, 0x60, 0x9E, 0xA1, 0xA9, 0xE0, 0xEF, 0xF1, 0xF4],
      on.pwr.pwrok = true ∧ on.flt.safe = false ∧ (faultRow k).isSome = true ∧ k ≠ 0xF0 ∧ k ≠ 0xA0) ∧ on.recoveryOn = false ∧
    on.flt.held + 2 ≤ logPlaces ∧ (safeOn.flt.safe = true ∧ safeOn.sec.battery.lastSource ≠ 0xF0) ∧
    inTest 0x21 { slot := 2 } = true ∧ inTest 0x21 {} = false ∧ affectsAll 0xA9 = true ∧ on.partFenced 0 = false ∧
    ({ threshold := 3, windowS := 60, time := 5 } : FaultSrc).threshold ≠ 0 := by decide +kernel
theorem witness_FaultsAreSetAndReported :
    on.serves = true ∧ faultRow 0x5C = none ∧ (faultRow 0x5B).isSome = true ∧ 65535 < 65536 ∧ (on.partImage? 1).isNone = true ∧
    (on.partImage? 0).isSome = true ∧ on.live = true ∧ on.hif.pfD3hot = false ∧ on.hif.linkUp = true ∧ on.auditFull = false ∧
    on.headKnown = true := by decide +kernel
theorem witness_FaultsAreSetAndReported_auditFull : ∃ l, (withAudit l).auditFull = true ∧ (withAudit l).live = true ∧
    (withAudit l).hif.linkUp = true ∧ (withAudit l).hif.pfD3hot = false := by
  obtain ⟨l, h⟩ := records_of_length Config.auditPlaces
  exact ⟨l, audit_full l h, rfl, rfl, rfl⟩
theorem witness_PartitionsRecover :
    (∀ hit ∈ [true, false], let r : RecPart := { mode := .recovering, suspects := [(0, 0)], gather := some gather0, ended := some hit }
      let s := on.setRecPart 0 r
      s.live = true ∧ (s.recPart 0).gather = some gather0 ∧ gather0.entries.head? = some entry0 ∧ (s.recPart 0).ended = some hit ∧
      (entry0.dir, entry0.seq) ∈ r.suspects) ∧
    (let s := on.setRecPart 0 { mode := .fenced }
     s.live = true ∧ (s.recPart 0).mode = .fenced ∧ s.verbs 0 = [] ∧ s.queriesOf 0 = [] ∧ (s.sessionsOf 0 fun x => x.inHandoff) = [] ∧
     ∀ o ∈ s.ho.claims, o.part ≠ 0) ∧
    (let s := on.setRecPart 0 { mode := .resetting }
     s.live = true ∧ (s.recPart 0).mode = .resetting) := by decide +kernel
def stage (n kind : Nat) : State := { on with pwr := { on.pwr with stage := n, kind } }
def slotA (svn : Nat) (ok : Bool) : FwSlot := { sigOk := ok, svn, digest := hash48 }
theorem witness_StartsProceed :
    State.reset.pwr.pwrok = false ∧ on.mgmtUp = true ∧ (safeOn.mgmtUp = true ∧ safeOn.flt.safe = true) ∧
    ((stage 0 0).pwr.pwrok = true ∧ (stage 1 0).pwr.stage ≤ 1) ∧
    bootSlot 2 [slotA 1 true, slotA 2 false] = none ∧ bootSlot 0 [slotA 2 true, slotA 2 true] = some (0, slotA 2 true) ∧
    bootSlot 0 [slotA 1 true, slotA 2 true] = some (1, slotA 2 true) ∧
    (stage 2 0).starting 2 = true ∧ (stage 3 0).starting 3 = true ∧ (stage 3 1).starting 3 = true ∧ (stage 3 1).pwr.kind = 1 ∧
    (stage 3 0).pwr.kind ≠ 1 ∧ (stage 3 0).sec.battery.formatted = true ∧ (stage 4 0).starting 4 = true ∧ (stage 4 1).starting 4 = true ∧
    (let s : State := { stage 7 0 with bind := { on.bind with image := none, pendingImage := some image0 } }
     s.starting 7 = true ∧ s.bind.pendingImage = some image0 ∧ s.fabricSettled = false ∧ s.now < s.bind.accepted + 20000000000 ∧
     (let t : State := { s with now := 20000000000 }
      t.starting 7 = true ∧ t.bind.accepted + 20000000000 ≤ t.now)) := by decide +kernel
theorem witness_PowerAndResets :
    on.pwr.pwrok = true ∧ State.reset.pwr.aon = false ∧ on.pwr.aon = true ∧ on.firmwareUp = true ∧ on.hif.perst = false ∧
    State.reset.hif.perst = true ∧ on.hif.linkUp = true ∧ on.hif.cfgReady = true ∧
    (let s : State := { on with hif := { on.hif with cfgReady := false, perstAt := 100000000 } }
     s.hif.cfgReady = false ∧ s.now < s.hif.perstAt + 1000000000 ∧ s.hif.linkUp = true) ∧
    (let s : State := { on with now := 1000000000, hif := { on.hif with cfgReady := false } }
     s.hif.perstAt + 1000000000 ≤ s.now) ∧
    (on.vf 0).enabled = true ∧ on.sec.battery.debugUnlocked = false ∧ (JtagInstr.idcode ≠ .other 0) ∧
    (let s : State := { on with sec := { on.sec with battery := { on.sec.battery with debugUnlocked := true } } }
     s.sec.battery.debugUnlocked = true) := by decide +kernel
theorem witness_ClocksPowerAndHeat :
    on.pwr.pwrok = true ∧ (∀ k ∈ List.range 40, k ∉ on.pwr.clockLost) ∧
    (let s : State := { on with pwr := { on.pwr with clockLost := [37] } }
     37 ∈ s.pwr.clockLost) ∧ on.firmwareUp = true ∧ 97 * on.capW < 100 * 1359 ∧ 100 * 1358 ≤ 97 * on.capW ∧ on.pwr.pacing = false ∧
    (let s : State := { on with pwr := { on.pwr with pacing := true, pace := 500 } }
     s.pwr.pacing = true ∧ s.pwr.pace < 1000 ∧ 100 * 1329 < 95 * s.capW ∧ 95 * s.capW ≤ 100 * 1330) ∧
    on.pwr.aon = true ∧ on.pwr.thermtrip = false := by decide +kernel

/-! ## Witnesses: composition -/

/-- KEYHASH and the bytes of an image with DEVICE and FABRIC sections alone, signed with a key of this file's own. -/
def keyHashS : Bytes := natLe 48 0xf346cfa55354d605f6447eca32a32832293af93ca3c530401790022be196c5e1b0bca90b570e102a7b64cde7fb151e35
def imgBytes : Bytes :=
  natLe 18 0xa80000000010000000102010001444e4942 ++
  zeros 62 ++
  natLe 52 0xfffffffff346cfa55354d605f6447eca32a32832293af93ca3c530401790022be196c5e1b0bca90b570e102a7b64cde7fb151e35 ++
  zeros 124 ++
  natLe 26 0x9400000004000ff004100000000000009000000004000ff0040 ++
  zeros 2022 ++
  natLe 225 0xbc0a9cf7766d307d8efd48bba5473b4921b1fb6178736c60953813d3dd40ee6c2aafee5093eb01b99105dc6d6c81f260dc82aace682dd0a23a9b4ddc0cf817e6533b2ae2f030f8eaf18d85206c56bf383cfdb145a5b34748284b413ac1a58a8f04ff41ff41ff41ff41ff41ff41ff41ff41ff41ff41ff41ff41ff41ff41ff41ff41ff41ff41ff41ff41ff41ff41ff41ff41ff41ff41ff41ff41ff41ff41ff41ff41ff40ff40ff40ff40ff40ff40ff40ff40ff40ff40ff40ff40ff40ff40ff40ff40ff40ff40ff40ff40ff40ff40ff40ff40ff40ff40ff40ff40ff40ff40ff40ff40 ++
  zeros 31 ++
  natLe 96 0x60c731672a27c3ed7afa0e83c0d237516f5a66c00e17ed1c98557f541927a72832e8da3e8d65fba3bceba1933be85a5c74af54f93c4984cde85b021ba7e96b474e0bbf6ddbbf7e1e2ee9ac16dcd1529be6523a808ee3c9d65e4a74ae6e156833 ++
  zeros 32
/-- A signed image without a partition. -/
def imageS : Image := { bytes := imgBytes, fab := { peers := [{ uid := 7, id := 5, latBudget := 10000 }] }, dev := { descTable := 4096 } }
/-- A device at stage 5 that holds the image's key, and one at work whose image the new one follows. -/
def waiting : State :=
  { on with bind := {}, pwr := { on.pwr with stage := 5 }, sec := { on.sec with battery := { on.sec.battery with keyHash := some keyHashS } } }
def composed : State := { waiting with bind := { phase := .inForce, image := some {}, digest := zeros 48 }, pwr := { on.pwr with stage := 8 } }
theorem imgBytes_signed : signatureOk imgBytes = true := by decide +kernel
theorem image_accepted (s : State) (h : s = waiting ∨ s = composed) : s.checkImage imageS = .ok := by
  rcases h with rfl | rfl <;> unfold State.checkImage <;> dsimp only <;>
    rw [show signatureOk imageS.bytes = true from imgBytes_signed] <;> decide +kernel
theorem witness_ImagesBind :
    waiting.serves = true ∧ composed.serves = true ∧ waiting.checkImage imageS = .ok ∧ waiting.bind.image = none ∧
    composed.checkImage imageS = .ok ∧ composed.bind.image = some {} ∧ on.checkImage {} ≠ .ok ∧ signatureOk [] = false ∧
    signatureOk imageS.bytes = true ∧ on.sec.battery.keyHash ≠ some (imgKeyHash imageS.bytes) ∧
    (let s : State := { waiting with sec := { waiting.sec with battery := { waiting.sec.battery with bindFloor := 2 } } }
     s.sec.battery.keyHash = some (imgKeyHash imageS.bytes) ∧ imgSvn imageS.bytes < s.sec.battery.bindFloor) :=
  ⟨by decide +kernel, by decide +kernel, image_accepted _ (.inl rfl), rfl, image_accepted _ (.inr rfl), rfl, by decide +kernel,
    by decide +kernel, imgBytes_signed, by decide +kernel, by decide +kernel⟩
theorem witness_CompositionSwitches :
    (let s : State := { withVerb on (verb .openS 1 .running) with bind := { on.bind with phase := .draining, pendingImage := some image0, kinds := [(0, .adjust)] } }
     s.live = true ∧ s.bind.phase = .draining ∧ s.bind.deadlineDone = false ∧ s.bind.deadline ≤ s.now ∧
     s.settleDrains.bind.image = some image0 ∧ s.settleDrains.bind.pendingImage = some image0 ∧
     s.settleDrains.canSwitch image0 image0 = false) ∧
    (let s : State := { on with bind := { on.bind with phase := .switching, pendingImage := some image0, kinds := [(0, .adjust)], drained := [0] } }
     s.live = true ∧ s.settleDrains.bind.image = some image0 ∧ s.settleDrains.bind.pendingImage = some image0 ∧
     s.settleDrains.canSwitch image0 image0 = true) := by decide +kernel

/-! ## Witnesses: further clauses -/

/-! ## Witnesses: further clauses -/

/-- A sequence at rest with one span, whose folio is number 0. -/
def qSpan : Seq := { seq0 .wait with spans := [{ entries := [pte0], ledger := [2, 0, 1], valid := 1 }], ctxLen := 3, kvLen := 1 }
def xSpan : Session := session0 qSpan
/-- The folio is missing, stands in T1, or can take no further pin. -/
def spanOn (v : Verb) : State := withSession (withVerb on v) xSpan
def spanKept (v : Verb) (pin : Nat) : State := withFolio (spanOn v) 0 { kv0 1 with pin }
theorem witness_ParkChecksFolios :
    let v := verb .park 4 .begun (parkBody 0)
    let n := fun (s : State) => 1 + s.ptNeed xSpan 0 + xSpan.kvFolios.length
    (∀ s ∈ [spanOn v, spanKept v 65535, spanKept v 0], s.begun? 0 1 .park = some v ∧ s.session? v.dir = some xSpan ∧
      xSpan.quire = none ∧ (s.allocQuireTier 0 (n s) [4, 3]).isSome = true) ∧
    (xSpan.seqs.any fun e => (spanOn v).badEntry 0 e.2.spans) = true ∧
    (xSpan.seqs.any fun e => (spanKept v 65535).badEntry 0 e.2.spans) = false ∧ (spanKept v 65535).pinRoom xSpan.kvFolios = false ∧
    (xSpan.seqs.any fun e => (spanKept v 0).badEntry 0 e.2.spans) = false ∧ (spanKept v 0).pinRoom xSpan.kvFolios = true := by
  decide +kernel
theorem witness_ForkAndPlaceCheckFolios :
    ((spanOn vFork).begun? 0 1 .fork = some vFork ∧ ((spanOn vFork).resident 0 vFork).1 = true ∧
     (spanOn vFork).session? vFork.dir = some xSpan ∧ tget xSpan.seqs vFork.seq = some qSpan ∧ qSpan.state = .wait ∧
     xSpan.freeNum.isSome = true ∧ ((spanOn vFork).freeSpine 0).isSome = true ∧ (spanOn vFork).badEntry 0 qSpan.spans = true) ∧
    (let v := verb .place 0x30 .begun (placeBody 1 4)
     ∀ s ∈ [spanOn v, spanKept v 0], s.begun? 0 1 .place = some v ∧ s.seq? v.dir v.seq = some qSpan ∧ v.f 0x28 1 = 4 ∧
       v.f 0x20 4 + v.f 0x24 4 ≤ qSpan.spans.length ∧ (s.resident 0 v).1 = true) ∧
    (let v := verb .place 0x30 .begun (placeBody 1 4)
     (spanOn v).badEntry 0 ((qSpan.spans.drop (v.f 0x20 4)).take (v.f 0x24 4)) = true ∧
     (spanKept v 0).badEntry 0 ((qSpan.spans.drop (v.f 0x20 4)).take (v.f 0x24 4)) = false) := by decide +kernel
/-- A tokenize pipe holds verb 1. -/
def piped (s : State) : State := { s with txt := { s.txt with pipes := [(0, { part := 0, verb := 1, queue := 0, since := 0 })] } }
theorem witness_PieceTokenized :
    ∀ l ∈ [[{ bytes := [97#8] }], [{ bytes := [97#8] }, { bytes := [98#8] }]], ∀ whole ∈ [true, false],
      let v : Verb := { verb .append 2 .running (appendBody 2 0) with pieces := l, allFirst := whole }
      let s := piped (withSession (withVerb on v) xWait)
      s.verb? 0 1 = some v ∧ s.live = true ∧ v.phase = .running ∧ v.pieces ≠ [] ∧ s.seq? v.dir v.seq = some (seq0 .wait) ∧
      s.txt.pipes.any (fun e => e.2.part == 0 && e.2.verb == 1) = true := by decide +kernel
/-- An edit list that drops the four positions of the first span. -/
def edit1 : Bytes := natLe 1 0 ++ natLe 1 0 ++ natLe 2 0 ++ natLe 4 0 ++ natLe 4 3 ++ natLe 4 0 ++ natLe 8 0
def drop0 : Edit := { insert := false, inputTokens := false, pos := 0, len := 3, input := 0 }
theorem witness_SpliceChecksFolios :
    let v := vSplice 1 (some edit1)
    parseEdits edit1 (v.f 0x28 1) = some [drop0] ∧
    (∀ s ∈ [spanOn v, spanKept v 0], s.begun? 0 1 .splice = some v ∧ s.session? v.dir = some xSpan ∧ v.f 0x28 1 ≤ 16 ∧
      editsOrdered [drop0] = true ∧ editsFit (s.tokensPer 0) qSpan.spans [drop0] = true ∧
      (s.pairInputs 0 [drop0] []).all (fun e => e.2 != .bad) = true ∧ qSpan.state = .wait ∧
      s.ptRoom 0 (s.spliceNeed 0 qSpan (s.pairInputs 0 [drop0] []) * s.foliosPerSpan 0) = true) ∧
    (spanOn v).badEntry 0 (((starts qSpan.spans 0).filter fun e => dropped [drop0] e.1 e.2).map (·.2)) = true ∧
    (spanKept v 0).badEntry 0 (((starts qSpan.spans 0).filter fun e => dropped [drop0] e.1 e.2).map (·.2)) = false := by decide +kernel
def vIndexLoad : Verb := verb .indexLoad 0x40 .begun (loadBody 2)
/-- A header that keeps to R190, and one of index 0 or of another format. -/
theorem ixHead_ok : ixHeadOk ixHead (vIndexLoad.f 0x28 8) = true := by decide +kernel
theorem witness_IndexLoadBegins :
    let v := vIndexLoad
    let s := withVerb on v
    let loads : List LoadOp := (List.range maxIndexes).map fun i => { part := 0, verb := 9, index := i + 101, header := [] }
    s.begun? 0 1 .indexLoad = some v ∧ v.f 0x30 2 ≠ 0 ∧ ixHeadOk [] (v.f 0x28 8) = false ∧ s.index? 0 2 = none ∧
    s.indexCount 0 < maxIndexes ∧ maxIndexes ≤ ({ s with rcl := { s.rcl with loads } } : State).indexCount 0 ∧
    s.t1Room 0 (ixT1 ixHead) = true ∧ (s.modFolPart 0 fun x => { x with t1Use := 100 }).t1Room 0 (ixT1 ixHead) = false ∧
    s.nodesHeld + ixNodes ixHead ≤ Config.recallNodes ∧ (s.takeT4 0 (ixT4 ixHead) []).isSome = true ∧
    (∃ t : State, t.begun? 0 1 .indexLoad = some v ∧ t.takeT4 0 (ixT4 ixHead) [] = none) := by
  refine ⟨by decide +kernel, by decide +kernel, by decide +kernel, by decide +kernel, by decide +kernel, by decide +kernel,
    by decide +kernel, by decide +kernel, by decide +kernel, by decide +kernel,
    ⟨{ withVerb on vIndexLoad with nvf := {} }, by decide +kernel, by decide +kernel⟩⟩
def load0 : LoadOp := { part := 0, verb := 1, index := 2, header := ix0.take ixHeader, t1 := ixT1 ix0, nodes := 1 }
theorem witness_IndexSwitches :
    let s : State := { withVerb on (vLoad 2) with rcl := { on.rcl with loads := [load0] } }
    s.running? 0 1 .indexLoad = some (vLoad 2) ∧ s.load? 0 1 = some load0 ∧ ix0.take ixHeader = load0.header ∧
    (vLoad 2).f 0x28 8 = 12288 ∧ ixOk ix0 12288 = true ∧ ixOk [] (min 0 ((vLoad 2).f 0x28 8)) = false :=
  ⟨by decide +kernel, rfl, rfl, by decide +kernel, ix0_ok, by decide +kernel⟩
def ownShard (t : List (Nat × Nat)) (s : State) : State :=
  { s with bind := { s.bind with image := some { image0 with parts := [(0, { part0 with links := { part0.links with shards := [(2, t)] } })] } } }
theorem witness_ShardedQueries :
    let v : Verb := { vQuery 2 8 with flags := 32 }
    let s := withVerb on v
    s.begun? 0 1 .query = some v ∧ v.f 0x38 2 ≠ 0 ∧ prmOk (queryPrm v) = true ∧ s.slotFor 0 v = true ∧ v.flag flagSharded = true ∧
    s.shardTable 0 2 = [] ∧ (ownShard [(6, 1)] s).shardTable 0 2 = [(6, 1)] ∧
    ([(6, 1)] : List (Nat × Nat)).findIdx? (fun e => e == (5, 0)) = none ∧
    ([(6, 1), (5, 0)] : List (Nat × Nat)).findIdx? (fun e => e == (5, 0)) = some 1 ∧
    (ownShard [(6, 1), (5, 0)] s).slotFor 0 v = true ∧ (ownShard [(6, 1), (5, 0)] s).serving 0 2 = none ∧
    (withIndex (ownShard [(6, 1), (5, 0)] s) rIndex0).serving 0 2 = some (gen0, gen0.epoch) ∧
    (s.setReg .shpQueueCfg 0 0 (BitVec.ofNat 64 (2 ^ 47))).slotFor 0 v = false := by decide +kernel
theorem witness_QueryOfAnother :
    let q : QueryOp := { query0 with remote := some frame0 }
    let s := withQuery (withIndex on rIndex0) q
    s.query? 0 1 = some q ∧ s.live = true ∧ q.localDone = false ∧ (s.searchPrm? 0 q).isSome = true ∧ s.index? 0 q.index = some rIndex0 ∧
    rIndex0.genOf q.gen = some gen0 := by decide +kernel
theorem witness_OwnSearch :
    let v : Verb := { vQuery 2 8 with phase := .running }
    let s := withQuery (withIndex (withVerb on v) rIndex0) query0
    (s.searchPrm? 0 query0).isSome = true ∧ query0.remote = none := by decide +kernel
/-- The gathering of a release as the statement takes it: after its folios were asked for, and prepared. -/
def prepOf (s : State) : State × List GEntry := (askedOf s).1.prepAll 0 (askedOf s).2
def stillWaits (s : State) : Bool :=
  (askedOf s).2.any fun en => match (askedOf s).1.seq? en.dir en.seq with
    | some q => ((askedOf s).1.outside (readSpans q en)).any fun i => !(en.replaces q).contains i
    | none => false
/-- A step on a sequence with one resident span, whose folio has `pin` pins; with a checkpoint that copies and `places` staged. -/
def qNear : Seq := { qFar with spans := [{ entries := [{ pte0 with ref := 9 }], ledger := [2], valid := 1 }] }
def released (pin : Nat) : State := withFolio (onNext qNear) 9 { kv0 1 with pin }
def copying (staged : Nat) (s : State) : State := s.setCkp 0 { phase := 2, staged }
theorem witness_ReleaseWaits :
    (∀ s ∈ [released 0, released 65535, copying 0 (released 0), copying 16 (released 0)], releases s = true ∧ stillWaits s = false) ∧
    stillWaits (withFolio (onNext qFar) 0 (kv0 4)) = true ∧
    (prepOf (released 65535)).1.pinRoom ((prepOf (released 65535)).2.flatMap (·.pins)) = false ∧
    (∀ s ∈ [released 0, copying 0 (released 0), copying 16 (released 0)], (prepOf s).1.pinRoom ((prepOf s).2.flatMap (·.pins)) = true ∧
      (prepOf s).2 ≠ []) ∧
    ((prepOf (released 0)).1.uncopied 0 (prepOf (released 0)).2).length = 0 ∧
    ((prepOf (copying 0 (released 0))).1.uncopied 0 (prepOf (copying 0 (released 0))).2).length = 1 ∧
    ((prepOf (copying 0 (released 0))).1.stagePlaces 0) = 16 := by decide +kernel
/-- The same task with its queries, or its logits, past the end of the store. -/
def attendPast : Cmd := { attend0 with addrA := Config.storeBytes }
def attPast (s : State) : State := stored (atCmd attendPast s)
def lostFolio : State := withFolio (onAttend 1) 0 { kv0 1 with lost := true, lostStack := 1 }
def samplePast : Cmd := { sample0 with addrA := Config.storeBytes }
def sampling (m : Cmd) : State :=
  atCmd m ((withSession on (session0 qRun)).modSpn 0 fun y => { y with cur := some { entries := [{ entry0 with kind := 0, qLen := 1 }] } })
theorem witness_TaskOperands :
    (stored (atCmd attend0 (onAttend 1))).attOperands (inst (stored (atCmd attend0 (onAttend 1)))) (attOf (onAttend 1)) = true ∧
    (attPast (onAttend 1)).current 0 = some (inst (attPast (onAttend 1))) ∧
    (attPast (onAttend 1)).instOk (inst (attPast (onAttend 1))) = true ∧
    (attPast (onAttend 1)).overBudget 0 (inst (attPast (onAttend 1))) = false ∧
    (((attPast (onAttend 1)).attParam 0 (inst (attPast (onAttend 1)))).bind fun x => (attPast (onAttend 1)).attCtx (inst (attPast (onAttend 1))) x.1).map
      (fun a => (attPast (onAttend 1)).attOperands (inst (attPast (onAttend 1))) a) = some false ∧
    (∀ n ∈ attFolios lostFolio, lostFolio.attFolio (attOf lostFolio) n ≠ none) ∧
    (attFolios lostFolio).findSome? (lostFolio.lostIn (attOf lostFolio)) = some (0, 1) ∧
    (∀ n ∈ attFolios (onAttend 1), (onAttend 1).lostIn (attOf (onAttend 1)) n = none) ∧
    (∀ m ∈ [sample0, samplePast], (sampling m).current 0 = some (inst (sampling m)) ∧ (sampling m).instOk (inst (sampling m)) = true ∧
      (sampling m).overBudget 0 (inst (sampling m)) = false) ∧
    (sampling sample0).sampleOperands (inst (sampling sample0)) = true ∧
    (sampling samplePast).sampleOperands (inst (sampling samplePast)) = false := by
  refine ⟨?_, ?_, ?_, ?_, ?_, ?_, ?_, ?_, ?_, ?_, ?_⟩ <;> decide +kernel
theorem witness_TestContextLoads :
    on.ownerOfEngine 0 = some 0 ∧ on.live = true ∧ (on.engOf 0).switching = none ∧ (on.engOf 0).stopped = false ∧
    tget (on.engOf 0).slots (on.engOf 0).running = none ∧
    (let s := atCmd move0 on
     tget (s.engOf 0).slots (s.engOf 0).running ≠ none ∧ (s.engOf 0).pointAt ≠ some s.now) := by decide +kernel
theorem witness_MaskReadyBitmaps :
    (let f : Folio := { kv0 4 with promoting := true, pin := 1, moveCls := .d }
     let s := withFolio (withSession on xParking) 0 f
     s.live = true ∧ s.sourceRead 0 = false) ∧
    (let s := withQuery on query0
     s.query? 0 1 = some query0 ∧ s.failedAt (.query 0 1) = some (0, 4)) := by decide +kernel
def busyReq (cls : ArbClass) : PortReq := { cls, queue := some 0, len := 64 }
theorem witness_PortsGrant :
    (let s := on.setPort .host { reqs := [busyReq .d, busyReq .a] }
     let u := (s.tidyPort .host).endGrant .host (s.port .host).reqs
     let x := u.port .host
     let z : Port := { x with reqs := x.reqs.filter fun r => u.waiting .host r && (!u.held .host || classRank r.cls ≤ classRank .b) }
     nextGrant z = some .a ∧ u.pick .host .a z.reqs = some (busyReq .a)) ∧
    (let s := on
     let u := (s.tidyPort .host).endGrant .host (s.port .host).reqs
     nextGrant { u.port .host with reqs := (u.port .host).reqs.filter fun r => u.waiting .host r } = none) ∧
    (let s := (withLink linkUp0 on).setPort (.link 0) { reqs := [linkReq] }
     let x := s.port (.link 0)
     let heads := (laneHeads x.reqs []).filter fun r => match r.frame with | some f => s.sendable 0 f | none => false
     (((s.endGrant (.link 0) x.reqs).grantOf (.link 0) heads).port (.link 0)).cur = some linkReq) ∧
    (let s := withLink linkUp0 on
     (((s.endGrant (.link 0) []).grantOf (.link 0) []).port (.link 0)).cur = none) ∧
    (List.range Config.partitions).find? (fun p => (on.partImage p).part.hbm.contains 200) = none ∧
    (List.range Config.partitions).find? (fun p => (on.partImage p).part.hbm.contains 15) = some 0 ∧
    (200 * channelLines) / channelLines = 200 := by
  refine ⟨?_, ?_, ?_, ?_, ?_, ?_, ?_⟩ <;> decide +kernel
theorem witness_ControlFrames :
    flitOk { kind := 3 } = false ∧ flitOk { kind := 0 } = true ∧ flitOk { kind := 1, seq := 1 } = true ∧ flitOk { kind := 2, seq := 1 } = true ∧
    ({ kind := 2, seq := 0 } : Flit).seq = ((upOn.linkOf 0).rxSeq + 1) % 4096 ∧ ({ kind := 1, seq := 7 } : Flit).seq ≠ ((upOn.linkOf 0).rxSeq + 1) % 4096 ∧
    (inState .authenticating).pwr.pwrok = true ∧ (upOn.linkOf 0).ctrlWait = [] ∧ upOn.ctrlSendable 0 .auth = true ∧
    (inState .down).ctrlSendable 0 .auth = false ∧ ((inState .down).linkOf 0).ctrlWait = [] ∧
    (let s := withLink { linkUp0 with txFrames := keyFrames } on
     keyFrames ≤ (s.linkOf 0).txFrames ∧ s.ctrlSendable 0 (.keyUpdate (!(s.linkOf 0).txPhase)) = true) ∧
    (upOn.linkOf 0).txFrames < keyFrames ∧
    (let s := withLink { linkUp0 with measuring := true } on
     s.fab.hasParent = false ∧ (s.linkOf 0).measuring = true ∧ (s.linkOf 0).state = .up) := by
  refine ⟨?_, ?_, ?_, ?_, ?_, ?_, ?_, ?_, ?_, ?_, ?_, ?_, ?_, ?_⟩ <;> decide +kernel

/-! ## An ill-formed operand for every check of Instr.wf -/

theorem test_wf_rings :
    [Instr.sqDoorbell 16 0, .sqDoorbell 0 65536, .cqDoorbell 16 0, .cqDoorbell 0 65536, .sqEnable 16 0 0, .sqEnable 0 1 0,
     .sqEnable 0 0 32, .cqEnable 16 0 0, .cqEnable 0 4095 0, .cqEnable 0 0 32, .sqEntryRead 16 none none,
     .sqEntryRead 0 (some [1#8]) none, .deferredAdmit 16 0, .deferredAdmit 0 4096, .policerWrite 4096 0 0#64, .policerWrite 0 3 0#64,
     .cqRecordWrite 16, .coalTimerExpire 16].all (fun i => !i.wf) = true := by decide +kernel
theorem test_wf_partitions :
    [Instr.sqDisable 16, .cqDisable 16, .verbBegin 16 0, .openSession 16 0, .park 16 0, .ckptTake 16 0 true, .selection 16,
     .gatheringRelease 16, .stepBoundary 16, .partReset 16, .vfFlr 16, .programLoad 16 0, .query 16 0 none,
     .generationRelease 16 0 0].all (fun i => !i.wf) = true := by decide +kernel
theorem test_wf_objects :
    [Instr.keyAuthSet 16 hash48 true, .keyAuthSet 0 [1#8] true, .handoffPoll 16777216, .parkDone 16777216, .ttlExpire 16777216,
     .taskProduct 32, .barrier 32, .stepSliceExpire 32, .promotionCommit (16 * 2 ^ 26), .prefetchStart (16 * 2 ^ 26),
     .tierFailure (.folio (16 * 2 ^ 26)) true, .tierFailure (.quire 16777216) true,
     .t3Timeout (.folio (16 * 2 ^ 26))].all (fun i => !i.wf) = true := by decide +kernel
theorem test_wf_ports :
    [Instr.portGrantEnd (.hbm 256), .portGrantEnd (.link 96), .portGrantEnd (.nand 32), .drrRoundStart (.step 16), .drrRoundStart (.fabric 96)].all (fun i => !i.wf) = true := by decide +kernel
theorem test_wf_fabric :
    [Instr.flitRx 96 {}, .flitRx 0 { seq := 4096 }, .flitRx 0 { ack := 4096 }, .linkDown 96, .syncTimer, .keyUpdateSend 96,
     .readReq { type := 1, lane := 35 }, .writeReq { type := 2, hops := 64 }, .casReq { type := 3, src := (4096, 0) },
     .readRsp { type := 5, src := (0, 16) }, .writeAck { type := 6, dst := (4096, 0) }, .errorRsp { type := 8, dst := (0, 16) },
     .shardRsp { type := 9, payload := zeros 4097 }].map Instr.wf =
    [false, false, false, false, true, false, false, false, false, false, false, false, false] := by decide +kernel
theorem test_wf_management :
    [Instr.faultCfg 256 1 1, .faultCfg 0 65536 1, .faultCfg 0 1 65536, .faultEvent 256 {}, .nandReadDone 32 0 0 0 true, .gcStart 32, .hifT3Write 3 0#64,
     .snapTake .pf 12, .snapTake (.vf 16) 0, .satClear (.vf 16) 0 0#64, .rcRead (.vf 16) ⟨0, 8⟩, .rcRead .pf ⟨0, 5⟩, .d3hotEntry (.vf 16),
     .registerWrite .pf 0 5 0#64, .registerWrite (.vf 16) 0 8 0#64, .clockLoss 40, .clockRelock 40,
     .ideKm 4 true].all (fun i => !i.wf) = true := by decide +kernel

/-! ## The spec's own numbers -/

/-- Chapter 3: a folio at 255 after one to eight ticks, after 16, 28 and 29. -/
theorem test_decay :
    (List.range 8).map (fun k => decay (k + 1) 255) = [244, 233, 222, 212, 202, 193, 184, 176] ∧
    decay 28 255 = 66 ∧ decay 29 255 = 63 := by decide +kernel
/-- Chapter 5: the MXFP4 block of 13.0, −2.6, 5.1, 5.0 and 0.3. -/
theorem test_mxfp4_block :
    (encodeRow 5 ([0x41500000, 0xC0266666, 0x40A33333, 0x40A00000, 0x3E99999A] ++ List.replicate 27 0)).1 =
    [0xB7#8, 0x45#8] ++ zeros 14 ++ [0x80#8] := by decide +kernel
/-- Chapter 5: a block with an infinity is NaN, a block of zeros has scale 0 (R115). -/
theorem test_mx_special :
    (encodeRow 5 (0x7F800000 :: List.replicate 31 0)).1 = zeros 16 ++ [0xFF#8] ∧
    (encodeRow 5 (List.replicate 32 0)).1 = zeros 17 := by decide +kernel
/-- Chapter 8: "aaab" under three merges is aa, ab. -/
theorem test_rank_merge :
    rankMerge { entries := [{ bytes := [97#8], byteFlag := true }, { bytes := [98#8], byteFlag := true }, { bytes := [97#8, 97#8] }, { bytes := [97#8, 98#8] },
                            { bytes := [97#8, 97#8, 97#8] }],
                merges := [(0, 0, 2), (0, 1, 3), (2, 0, 4)] } [97#8, 97#8, 97#8, 98#8] = [2, 3] := by decide +kernel
/-- "</call>". -/
def stopCall : Bytes := [0x3C, 0x2F, 0x63, 0x61, 0x6C, 0x6C, 0x3E]
/-- Table 8.7: "ok </" releases "ok " and holds "</". -/
theorem test_stop_first :
    feed [stopCall] false [] [0x6F, 0x6B, 0x20, 0x3C, 0x2F] = { out := [0x6F, 0x6B, 0x20], tail := [0x3C, 0x2F] } := by decide +kernel
/-- Table 8.7: "call>" completes the string; the overhang is a line feed and a brace. -/
theorem test_stop_second :
    feed [stopCall] false [0x3C, 0x2F] [0x63, 0x61, 0x6C, 0x6C, 0x3E, 0x0A, 0x7B] =
    { out := [], overhang := [0x0A, 0x7B], hit := true } := by decide +kernel
/-- The six-node tree of chapter 4: a and b under the root, c and d under a, e under b, f under c. -/
def tree6 : GEntry := { dir := 0, seq := 0, spine := 0, kind := 0, qLen := 7, kvLen := 1000, pos := 1000,
                        tree := [⟨1, 0, 1⟩, ⟨2, 0, 1⟩, ⟨3, 1, 2⟩, ⟨4, 1, 2⟩, ⟨3, 2, 2⟩, ⟨5, 3, 3⟩] }
/-- Table 4.5. -/
theorem test_tree_mask :
    ((List.range 7).map fun t => (List.range 7).map fun m =>
      tree6.admits 0 t { span := 0, slot := 0, idx := tree6.queryIdx m, pos := tree6.queryIdx m, node := some m }) =
    [[true, false, false, false, false, false, false], [true, true, false, false, false, false, false],
     [true, false, true, false, false, false, false], [true, true, false, true, false, false, false],
     [true, true, false, false, true, false, false], [true, false, true, false, false, true, false],
     [true, true, false, true, false, false, true]] := by decide +kernel
/-- Chapter 16: source 0x25 at 16 in 60 s, one event every 3 s, `k` events after the first. -/
def bucketAfter : Nat → FaultSrc
  | 0 => FaultSrc.fill { threshold := 16, windowS := 60 } 0
  | k + 1 => (bucketAfter k).fill ((k + 1) * 3000000000)
/-- Chapter 16: the level reaches 16 at event 76 and not before. -/
theorem test_fault_bucket : (bucketAfter 74).level < 16 * 65536 ∧ (bucketAfter 75).level = 16 * 65536 := by decide +kernel
/-- Two queues of P3 (chapter 10): weights 3,000 and 1,000, WU_PER_MS 1,154, both tags at 1,000,000. -/
def p3 : State :=
  (({ shp := { step := [(3, { vtime := 1000000, tags := [(300, 1000000), (301, 1000000)] })] } } : State).setReg .shpQueueCfg 300 0
    (BitVec.ofNat 64 (3000 * 2 ^ 48))).setReg .shpQueueCfg 301 0 (BitVec.ofNat 64 (1000 * 2 ^ 48))
def p3Gather : Gather :=
  { entries := [{ dir := 0, seq := 0, spine := 0, kind := 0, qLen := 1, queue := 300, units := 24000 },
                { dir := 1, seq := 0, spine := 1, kind := 1, qLen := 364, queue := 301, units := 63362 }] }
def tagsOf (s : State) : List Nat := [300, 301].map fun q => tgetD (s.sched (.step 3)).tags q 0
/-- The charges of the gathering: 1,524,288 and 5,152,493. -/
theorem test_charges :
    tagsOf ((p3.charge (.step 3) 300 24000 [300, 301]).charge (.step 3) 301 63362 [300, 301]) = [1524288, 5152493] := by decide +kernel
/-- The debt of 620 µs: 4,304 and 34,079 more. -/
theorem test_debt :
    tagsOf ((p3.setReg .shpPartCost 3 0 1154#64).chargeDebt 3 620000 p3Gather) = [1004304, 1034079] := by decide +kernel
/-- R382: slot A on a tie, B where it holds the higher SVN, none below the floor. -/
theorem test_boot_slot :
    (bootSlot 3 [⟨true, 4, []⟩, ⟨true, 4, []⟩]).map (·.1) = some 0 ∧ (bootSlot 3 [⟨true, 4, []⟩, ⟨true, 5, []⟩]).map (·.1) = some 1 ∧
    (bootSlot 3 [⟨false, 9, []⟩, ⟨true, 2, []⟩]).map (·.1) = none := by decide +kernel
/-- FIPS 197, C.3: AES-256 of 0x00112233… under the key 0x000102…1F. -/
theorem test_aes256 :
    aesBlock (roundKeys ((List.range 32).map fun i => BitVec.ofNat 8 i)) 0x00112233445566778899AABBCCDDEEFF =
      0x8EA2B7CA516745BFEAFC49904B496089 := by decide +kernel
/-- The GCM specification's case of an all-zero 256-bit key and nonce and one block of zeros. -/
theorem test_gcm :
    (let x := gcm (zeros 32) (zeros 12) [] (zeros 16)
     (beNat x.1, beNat x.2)) = (0xCEA7403D4D606B6E074EC5D3BAF39D18, 0xD0D1C8A799996BF0265B98B5D48AB919) := by decide +kernel
/-- FIPS 180-4's example: SHA-384 of "abc". -/
theorem test_sha384 :
    sha384 [0x61, 0x62, 0x63] =
    natBe 48 0xcb00753f45a35e8bb5a03d699ac65007272c32ab0eded1631a8b605a43ff5bed8086072ba1e7cc2358baeca134c825a7 := by decide +kernel
/-- Table 10.5: bins of depth and delay at their edges. -/
theorem test_bins :
    [0, 1, 2, 3, 4, 16383, 16384].map depthBin = [0, 1, 2, 2, 3, 14, 15] ∧
    [0, 15999, 16000, 31999, 32000].map delayBin = [0, 0, 1, 1, 2] := by decide +kernel

end Sys2Proof.Tests
end

/-!
PROOFS. Settling O53 (SnapshotsAreTaken) and O52 (SatBitsClear): what a register write of a function that answers reaches,
what a snapshot holds, and what a word written to SAT bits does to each counter.
-/
namespace Sys2Proof
namespace Machine

/-! ## Fields of registers -/

theorem testBit_bits (w : W64) (hi lo n : Nat) :
    (bits w hi lo).testBit n = (decide (n < hi - lo + 1) && w.toNat.testBit (lo + n)) := by
  simp [bits, Nat.testBit_mod_two_pow]

/-- A number cut at bits `lo` and `lo + len`: the part above, the field, and the part below. -/
theorem eq_fields (m lo len : Nat) :
    m = 2 ^ lo * (2 ^ len * (m >>> (lo + len)) + (m >>> lo) % 2 ^ len) + m % 2 ^ lo := by
  rw [Nat.shiftRight_add, Nat.shiftRight_eq_div_pow (m >>> lo), Nat.div_add_mod, Nat.shiftRight_eq_div_pow, Nat.div_add_mod]

theorem testBit_setBits {w : W64} {hi lo v n : Nat} (hhi : hi < 64) (hlo : lo ≤ hi) :
    (setBits w hi lo v).toNat.testBit n = if lo ≤ n ∧ n ≤ hi then v.testBit (n - lo) else w.toNat.testBit n := by
  obtain ⟨len, hlen⟩ : ∃ len, hi - lo + 1 = len := ⟨_, rfl⟩
  have hv : v % 2 ^ len < 2 ^ len := Nat.mod_lt _ (Nat.two_pow_pos _)
  have hb : bits w hi lo < 2 ^ len := hlen ▸ Nat.mod_lt _ (Nat.two_pow_pos _)
  have hc : w.toNat % 2 ^ lo < 2 ^ lo := Nat.mod_lt _ (Nat.two_pow_pos _)
  have hw : w.toNat = 2 ^ lo * (2 ^ len * (w.toNat >>> (lo + len)) + bits w hi lo) + w.toNat % 2 ^ lo :=
    hlen ▸ eq_fields w.toNat lo (hi - lo + 1)
  have hset : w.toNat - bits w hi lo * 2 ^ lo + v % 2 ^ len * 2 ^ lo =
      2 ^ lo * (2 ^ len * (w.toNat >>> (lo + len)) + v % 2 ^ len) + w.toNat % 2 ^ lo := by
    rw [Nat.mul_add] at hw ⊢
    rw [Nat.mul_comm (bits w hi lo), Nat.mul_comm (v % 2 ^ len)]
    omega
  have hn : 64 ≤ n → w.toNat.testBit n = false := fun h =>
    Nat.testBit_lt_two_pow (Nat.lt_of_lt_of_le w.isLt (Nat.pow_le_pow_right (by decide) h))
  unfold setBits
  rw [hlen, BitVec.toNat_ofNat, Nat.testBit_mod_two_pow, hset, Nat.testBit_two_pow_mul_add _ hc,
    Nat.testBit_two_pow_mul_add _ hv, Nat.testBit_mod_two_pow, Nat.testBit_mod_two_pow, Nat.testBit_shiftRight]
  by_cases h64 : n < 64
  · by_cases h1 : n < lo
    · simp [h64, h1, Nat.not_le.mpr h1]
    · by_cases h2 : n - lo < len
      · simp [h64, h1, h2, show lo ≤ n ∧ n ≤ hi by omega]
      · simp [h64, h1, h2, show ¬(lo ≤ n ∧ n ≤ hi) by omega, show lo + len + (n - lo - len) = n by omega]
  · simp [h64, hn (Nat.not_lt.mp h64), show ¬(lo ≤ n ∧ n ≤ hi) by omega]

theorem bits_setBits_same {w : W64} {hi lo v : Nat} (hhi : hi < 64) (hlo : lo ≤ hi) :
    bits (setBits w hi lo v) hi lo = v % 2 ^ (hi - lo + 1) := by
  refine Nat.eq_of_testBit_eq fun n => ?_
  rw [testBit_bits, testBit_setBits hhi hlo, Nat.testBit_mod_two_pow]
  by_cases h : n < hi - lo + 1
  · simp [h, show lo + n ≤ hi by omega]
  · simp [h]

theorem bits_setBits_apart {w : W64} {hi lo hi' lo' v : Nat} (hhi : hi < 64) (hlo : lo ≤ hi) (hlo' : lo' ≤ hi')
    (h : hi' < lo ∨ hi < lo') : bits (setBits w hi lo v) hi' lo' = bits w hi' lo' := by
  refine Nat.eq_of_testBit_eq fun n => ?_
  rw [testBit_bits, testBit_bits, testBit_setBits hhi hlo]
  by_cases hn : n < hi' - lo' + 1
  · rw [if_neg (by omega)]
  · simp [hn]

theorem bit_setBits_apart {w : W64} {hi lo v n : Nat} (hhi : hi < 64) (hlo : lo ≤ hi) (h : n < lo ∨ hi < n) :
    bit (setBits w hi lo v) n = bit w n := by
  rw [bit, testBit_setBits hhi hlo, if_neg (by omega), bit]

theorem bit_setBit_same {w : W64} {n : Nat} (b : Bool) (hn : n < 64) : bit (setBit w n b) n = b := by
  rw [bit, setBit, testBit_setBits hn (Nat.le_refl n), if_pos ⟨Nat.le_refl n, Nat.le_refl n⟩, Nat.sub_self]
  cases b <;> rfl

theorem bit_setBit_other {w : W64} {n m : Nat} {b : Bool} (hn : n < 64) (h : m ≠ n) : bit (setBit w n b) m = bit w m :=
  bit_setBits_apart hn (Nat.le_refl n) (by omega)

theorem bits_setBit_apart {w : W64} {n hi lo : Nat} {b : Bool} (hn : n < 64) (hlo : lo ≤ hi) (h : hi < n ∨ n < lo) :
    bits (setBit w n b) hi lo = bits w hi lo :=
  bits_setBits_apart hn (Nat.le_refl n) hlo h

/-! ## Saturating counters (R11) -/

/-- A cleared counter that counts `n` events. -/
theorem satAdd_zero (n : Nat) : satAdd 0 n = if satMax ≤ n then w64 (0x8000000000000000 + satMax) else w64 n := by
  have h0 : bits (0 : W64) 31 0 = 0 := by decide
  have h1 : bits (0 : W64) 63 32 = 0 := by decide
  simp only [satAdd, h0, h1, Nat.zero_add, Nat.zero_mul, ge_iff_le]

theorem bits_satAdd_zero (n : Nat) : bits (satAdd 0 n) 31 0 = min satMax n := by
  rw [satAdd_zero]
  split
  case isTrue h => rw [Nat.min_eq_left h]; decide
  case isFalse h =>
    have hn : n < 4294967295 := Nat.not_le.mp h
    simp only [bits, w64, satMax, BitVec.toNat_ofNat, Nat.shiftRight_zero]
    omega

theorem bit_satAdd_zero {n : Nat} (h : n < satMax) : bit (satAdd 0 n) 63 = false := by
  have hn : n < 2 ^ 63 := Nat.lt_trans h (by decide)
  rw [satAdd_zero, if_neg (Nat.not_le.mpr h), bit, w64, BitVec.toNat_ofNat, Nat.mod_eq_of_lt (by omega)]
  exact Nat.testBit_lt_two_pow hn

/-! ## Where a register write of a function leads (R8, R396, R398) -/

/-- A 64-bit write of PF0 to the first place of a register has that register's effect. -/
theorem State.regWrite_pf {s : State} {off i j : Nat} {r : RegName} (v : W64) (ha : s.answers .pf = true)
    (hs : s.flt.safe = false) (ho : off % 8 = 0) (hr : resolve .pf off = some (r, i, j)) (hn : (regRow r).n2 = 1) :
    s.regWrite .pf off 8 v = s.pfEffect r i v 0xFFFFFFFFFFFFFFFF := by
  have h8 : off / 8 * 8 = off := by omega
  simp [State.regWrite, ha, hs, accessOk, ho, h8, hr, hn, laneValue, lanesOf]

/-- A 64-bit write of a virtual function into a view has the effect of the register that stands there. -/
theorem State.regWrite_vf {s : State} {p off i j : Nat} {r : RegName} (v : W64) (ha : s.answers (.vf p) = true)
    (hs : s.flt.safe = false) (ho : off % 8 = 0) (hr : resolve (.vf p) off = some (r, i, j)) :
    s.regWrite (.vf p) off 8 v = s.vfEffect p r i v := by
  have h8 : off / 8 * 8 = off := by omega
  simp [State.regWrite, ha, hs, accessOk, ho, h8, hr, laneValue]

/-! ## Snapshots (R13) -/

theorem tget_append {α : Type} (t u : Tab α) (k : Nat) : tget (t ++ u) k = (tget t k).or (tget u k) := by
  induction t with
  | nil => rfl
  | cons e r ih =>
    rw [List.cons_append, tget_cons, tget_cons, ih]
    split <;> rfl

theorem tget_eq_none {α : Type} {t : Tab α} {k : Nat} (h : ∀ e ∈ t, e.1 ≠ k) : tget t k = none := by
  induction t with
  | nil => rfl
  | cons e r ih =>
    rw [tget_cons, if_neg (h e List.mem_cons_self), ih fun x hx => h x (List.mem_cons_of_mem _ hx)]

/-- A filter that keeps whatever stands at a key keeps the key. -/
theorem tget_tfilter_kept {α : Type} {f : Nat → α → Bool} {t : Tab α} {k : Nat} (h : ∀ v, f k v = true) :
    tget (tfilter f t) k = tget t k := by
  induction t with
  | nil => rfl
  | cons e r ih =>
    unfold tfilter at ih ⊢
    rw [List.filter_cons]
    by_cases hk : e.1 = k
    · rw [hk, if_pos (h e.2), tget_cons, tget_cons, if_pos hk, if_pos hk]
    · rw [tget_cons, if_neg hk]
      split
      · rw [tget_cons, if_neg hk, ih]
      · exact ih

/-- The last place of every register of Table 19.4 lies in BAR0, below 2³². -/
theorem regRow_last_lt (r : RegName) :
    (regRow r).base + (regRow r).s1 * ((regRow r).n1 - 1) + (regRow r).s2 * ((regRow r).n2 - 1) < two32 :=
  (by decide +kernel : ∀ r ∈ allRegs,
    (regRow r).base + (regRow r).s1 * ((regRow r).n1 - 1) + (regRow r).s2 * ((regRow r).n2 - 1) < two32) r (mem_allRegs r)

theorem regAddr_lt {r : RegName} {i j : Nat} (hi : i < (regRow r).n1) (hj : j < (regRow r).n2) : regAddr r i j < two32 :=
  calc regAddr r i j = (regRow r).base + (regRow r).s1 * i + (regRow r).s2 * j := rfl
    _ ≤ (regRow r).base + (regRow r).s1 * ((regRow r).n1 - 1) + (regRow r).s2 * ((regRow r).n2 - 1) :=
      Nat.add_le_add (Nat.add_le_add_left (Nat.mul_le_mul_left _ (by omega)) _) (Nat.mul_le_mul_left _ (by omega))
    _ < two32 := regRow_last_lt r

/-- Two places with one offset are one place of one register. -/
theorem regAddr_inj {r q : RegName} {i j k l : Nat} (hi : i < (regRow r).n1) (hj : j < (regRow r).n2) (hk : k < (regRow q).n1)
    (hl : l < (regRow q).n2) (h : regAddr r i j = regAddr q k l) : r = q ∧ i = k ∧ j = l := by
  have e := regAt_regAddr hi hj
  rw [h, regAt_regAddr hk hl] at e
  simpa [eq_comm] using e

/-- The counts of SHP_ARB_HOLD stand above all registers. -/
theorem State.holdCounts_key_ge {s : State} {e : Nat × W64} (h : e ∈ s.holdCounts) : two32 ≤ e.1 := by
  simp only [State.holdCounts, List.mem_flatMap, List.mem_map] at h
  obtain ⟨k, -, c, -, rfl⟩ := h
  exact Nat.le_trans (Nat.le_add_right _ _) (Nat.le_add_right _ _)

/-- A counter resets to zero (R10, R11). -/
theorem regReset_of_isCounter {r : RegName} (hc : isCounter r = true) (i : Nat) : regReset r i = 0 := by
  unfold regReset
  split
  rotate_right
  · rfl
  all_goals exact absurd hc (by decide)

/-- A snapshot holds each counter of its block that the function sees, with its value. -/
theorem State.tgetD_snapshot {s : State} {fn : Fn} {r : RegName} {i j : Nat} (hc : isCounter r = true)
    (hv : s.sees fn r i = true) (hr : r ≠ .sysAccessErr) (hi : i < (regRow r).n1) (hj : j < (regRow r).n2) :
    tgetD (s.snapshot fn (regRow r).block) (regAddr r i j) 0 = s.reg r i j := by
  have hne : regAddr r i j ≠ regAddr .sysAccessErr 0 0 := fun h => hr (regAddr_inj hi hj (by decide) (by decide) h).1
  have hhold : tget s.holdCounts (regAddr r i j) = none :=
    tget_eq_none fun e he => Nat.ne_of_gt (Nat.lt_of_lt_of_le (regAddr_lt hi hj) (State.holdCounts_key_ge he))
  have hreg : s.reg r i j = (tget s.regs (regAddr r i j)).getD 0 := by
    rw [State.reg, regReset_of_isCounter hc, tgetD]
  unfold State.snapshot
  split
  · rw [tgetD_tput_other _ _ _ _ _ hne, tgetD, tget_tfilter_kept (by simp [regAt_regAddr hi hj, hc, hv]), hreg]
  · split
    · rw [tgetD, tget_append, hhold, Option.or_none, tget_tfilter_kept (by simp [regAt_regAddr hi hj, hc, hv]), hreg]
    · rw [tgetD, tget_tfilter_kept (by simp [regAt_regAddr hi hj, hc, hv]), hreg]

/-- A snapshot of SYS holds the function's own SYS_ACCESS_ERR. -/
theorem State.tgetD_snapshot_accessErr (s : State) (fn : Fn) :
    tgetD (s.snapshot fn 11) (regAddr .sysAccessErr 0 0) 0 = s.accessErrWord fn := by
  rw [State.snapshot, if_pos rfl, tgetD_tput_same]

theorem regAddr_blockSnap (b : Nat) : regAddr .blockSnap b 0 = b * 0x1000000 := by
  simp [regAddr, regRow, blockBase, Nat.mul_comm]

/-- Every function reaches BLOCK_SNAP of each of the twelve blocks. -/
theorem resolve_reachAt_blockSnap (fn : Fn) {b : Nat} (hb : b < 12) :
    resolve fn (reachAt fn (regAddr .blockSnap b 0)) = some (.blockSnap, b, 0) := by
  have hat : regAt (b * 0x1000000) = some (.blockSnap, b, 0) :=
    regAddr_blockSnap b ▸ regAt_regAddr (r := .blockSnap) hb (Nat.zero_lt_one)
  rw [regAddr_blockSnap]
  cases fn with
  | pf => exact hat
  | vf p =>
    have hrel : reachAt (.vf p) (b * 0x1000000) = 0x100000 + b * 0x100000 := by unfold reachAt; dsimp only; omega
    have hwin : windowOffset p (0x100000 + b * 0x100000) = some (b * 0x1000000) := by
      have hpage : (0x100000 + b * 0x100000) % 0x100000 = 0 := by omega
      have hin : ¬0xD00000 ≤ 0x100000 + b * 0x100000 := by omega
      simp [windowOffset, hpage, hin, blockBase]
    rw [hrel, resolve, hwin, Option.bind_some, hat]

theorem reachAt_blockSnap_aligned (fn : Fn) (b : Nat) : reachAt fn (regAddr .blockSnap b 0) % 8 = 0 := by
  rw [regAddr_blockSnap]
  cases fn <;> (unfold reachAt; dsimp only; omega)

/-- A function that answers writes BLOCK_SNAP, outside the safe state. -/
theorem State.regWrite_blockSnap {s : State} {fn : Fn} {b : Nat} (v : W64) (ha : s.answers fn = true) (hs : s.flt.safe = false)
    (hb : b < 12) : s.regWrite fn (reachAt fn (regAddr .blockSnap b 0)) 8 v = s.snapWrite fn b v := by
  have hr := resolve_reachAt_blockSnap fn hb
  have ho := reachAt_blockSnap_aligned fn b
  cases fn with
  | pf => exact State.regWrite_pf v ha hs ho hr rfl
  | vf p => exact State.regWrite_vf v ha hs ho hr

/-- A word with TAKE, and with VIEW as it stands, takes a snapshot and is no recorded write. -/
theorem State.snapWrite_take {s : State} {fn : Fn} {b : Nat} {v : W64} (ht : bit v 63 = true)
    (hv : bit v 62 = tgetD s.hif.snapView (bankOf fn b) false) :
    s.snapWrite fn b v = { s.take fn b with hif := { (s.take fn b).hif with
      snapView := tput s.hif.snapView (bankOf fn b) (tgetD s.hif.snapView (bankOf fn b) false) } } := by
  unfold State.snapWrite
  simp only [hv, ht, bne_self_eq_false, Bool.and_false, Bool.false_eq_true, if_false, if_true]
  rfl

/-- SNAP_TAKE takes a snapshot and writes VIEW as it stands. -/
theorem doSnapTake_eq {s : State} {fn : Fn} {b : Nat} (ha : s.answers fn = true) (hs : s.flt.safe = false) (hb : b < 12) :
    doSnapTake fn b s = { s.take fn b with hif := { (s.take fn b).hif with
      snapView := tput s.hif.snapView (bankOf fn b) (tgetD s.hif.snapView (bankOf fn b) false) } } := by
  have hw : ∀ view : Bool, bit (w64 (at' 1 63 + at' view.toNat 62)) 63 = true ∧
      bit (w64 (at' 1 63 + at' view.toNat 62)) 62 = view := by decide
  unfold doSnapTake
  rw [if_neg (Nat.not_le.mpr hb)]
  dsimp only
  rw [State.regWrite_blockSnap _ ha hs hb, State.snapWrite_take (hw _).1 (hw _).2]

theorem exec_snapTake (fn : Fn) (b : BlockNum) (s : State) : exec (.snapTake fn b) s = .next (doSnapTake fn b s) := rfl

/-- Settles O53: SNAP_TAKE is `State.take`, whose bank is `State.snapshot`; no two counters share an offset. -/
theorem snapshotsAreTaken : Obligations.SnapshotsAreTaken := by
  intro fn b s ha hs hb
  refine ⟨_, exec_snapTake fn b s, ?_⟩
  rw [doSnapTake_eq ha hs hb]
  refine ⟨?counters, ?accessErr, ?seq, ?others, ?view, rfl⟩
  case counters =>
    rintro r i j rfl hc hv hr hi hj
    simp only [State.take, tgetD_tput_same]
    exact State.tgetD_snapshot hc hv hr hi hj
  case accessErr =>
    rintro rfl
    simp only [State.take, tgetD_tput_same]
    exact State.tgetD_snapshot_accessErr s fn
  case seq => exact tgetD_tput_same ..
  case others => exact fun j hj => ⟨tget_tput_other _ _ _ _ hj, tget_tput_other _ _ _ _ hj⟩
  case view =>
    intro j
    by_cases hj : j = bankOf fn b
    · rw [hj]; exact tgetD_tput_same ..
    · exact tgetD_tput_other _ _ _ _ _ hj

/-! ## What a write of SAT bits reaches (R12, R355, R368) -/

/-- The state after the audit record of a function's write: PF0's writes are recorded. -/
def State.recorded (s : State) (fn : Fn) (off : Nat) (v : W64) : State :=
  match fn with
  | .pf => s.audit auditPf 0 0 off v.toNat
  | .vf _ => s

/-- A record changes nothing outside the security unit. -/
theorem State.recorded_eq (s : State) (fn : Fn) (off : Nat) (v : W64) :
    s.recorded fn off v = { s with sec := (s.recorded fn off v).sec } := by
  cases fn <;> rfl

@[simp] theorem State.recorded_regs (s : State) (fn : Fn) (off : Nat) (v : W64) : (s.recorded fn off v).regs = s.regs := by
  rw [State.recorded_eq]
@[simp] theorem State.recorded_stamps (s : State) (fn : Fn) (off : Nat) (v : W64) : (s.recorded fn off v).stamps = s.stamps := by
  rw [State.recorded_eq]
@[simp] theorem State.recorded_hif (s : State) (fn : Fn) (off : Nat) (v : W64) : (s.recorded fn off v).hif = s.hif := by
  rw [State.recorded_eq]

/-- Table 19.4 gives no register of SAT bits a second place. -/
theorem n2_of_hasSat {r : RegName} (h : hasSat r = true) : (regRow r).n2 = 1 :=
  (by decide +kernel : ∀ r ∈ allRegs, hasSat r = true → (regRow r).n2 = 1) r (mem_allRegs r) h

/-- A write of PF0 to a register of SAT bits is recorded and clears them. -/
theorem State.pfEffect_of_hasSat {r : RegName} (s : State) (i : Nat) (v lanes : W64) (h : hasSat r = true) :
    s.pfEffect r i v lanes = s.pfWrite (regAddr r i 0) v fun t => t.satWrite .pf r i v := by
  unfold State.pfEffect
  dsimp only
  split
  rotate_right
  · rw [if_pos h]
  all_goals exact absurd h (by decide)

theorem State.pfWrite_recorded {s : State} {off : Nat} {v : W64} {eff : State → State} (hf : s.auditFull = false)
    (hk : s.headKnown = true) : s.pfWrite off v eff = eff (s.recorded .pf off v) := by
  rw [State.pfWrite, hf, hk]
  rfl

theorem State.vfEffect_of_hasSat {s : State} {p i : Nat} {r : RegName} (v : W64) (hv : s.sees (.vf p) r i = true)
    (h : hasSat r = true) : s.vfEffect p r i v = s.satWrite (.vf p) r i v := by
  have hb : r ≠ .blockSnap := by
    rintro rfl
    exact absurd h (by decide)
  simp [State.vfEffect, hv, hb, h]

/-- SAT_CLEAR at a register of SAT bits that the function sees: the write is recorded if it is PF0's, and then acts. -/
theorem doSatClear_eq {s : State} {fn : Fn} {off i j : Nat} {v : W64} {r : RegName} (ha : s.answers fn = true)
    (hs : s.flt.safe = false) (ho : off % 8 = 0) (hpf : fn = .pf → s.auditFull = false ∧ s.headKnown = true)
    (hr : resolve fn off = some (r, i, j)) (hv : s.sees fn r i = true) (h : hasSat r = true) :
    doSatClear fn off v s = (s.recorded fn (regAddr r i 0) v).satWrite fn r i v := by
  simp only [doSatClear, hr, h, if_true]
  cases fn with
  | pf =>
    obtain ⟨hf, hk⟩ := hpf rfl
    rw [State.regWrite_pf v ha hs ho hr (n2_of_hasSat h), State.pfEffect_of_hasSat _ _ _ _ h, State.pfWrite_recorded hf hk]
  | vf p =>
    rw [State.regWrite_vf v ha hs ho hr, State.vfEffect_of_hasSat v hv h]
    rfl

theorem exec_satClear (fn : Fn) (off : Nat) (v : W64) (s : State) : exec (.satClear fn off v) s = .next (doSatClear fn off v s) := rfl

/-! ## A register with one SAT bit -/

theorem hasSat_of_kind {r : RegName} (h : (regRow r).kind = .sat) : hasSat r = true := by
  simp [hasSat, h]

theorem State.satWrite_of_kind {r : RegName} (s : State) (fn : Fn) (i : Nat) {v : W64} (h : (regRow r).kind = .sat)
    (hv : bit v 63 = true) : s.satWrite fn r i v = s.clearSat r i := by
  unfold State.satWrite
  split
  rotate_right
  · rw [if_pos hv]
  all_goals exact absurd h (by decide)

/-! ## Registers of several counters -/

/-- The state differs in its registers alone. -/
def State.RegsOnly (s t : State) : Prop := t = { s with regs := t.regs }

theorem State.RegsOnly.refl (s : State) : s.RegsOnly s := rfl

theorem State.RegsOnly.setReg {s t : State} (h : s.RegsOnly t) (r : RegName) (i j : Nat) (v : W64) :
    s.RegsOnly (t.setReg r i j v) := by
  rw [State.RegsOnly, State.setReg, h]

theorem State.RegsOnly.stamps {s t : State} (h : s.RegsOnly t) : t.stamps = s.stamps := by
  rw [h]

/-- Acts on separate cells, each of which happens if its bit is set: every cell ends as its own act leaves it, or as it was. -/
theorem foldl_range_cells {σ β : Type} {I : σ → Prop} {act : σ → Nat → σ} {cell : σ → Nat → β} {val : Nat → β} {N : Nat}
    (c : Nat → Bool) (hI : ∀ t k, I t → I (act t k)) (hsame : ∀ t k, I t → k < N → cell (act t k) k = val k)
    (hother : ∀ t j k, j < N → k < N → k ≠ j → cell (act t j) k = cell t k) {s : σ} (hs : I s) {n : Nat} (hn : n ≤ N) :
    I ((List.range n).foldl (fun t k => if c k then act t k else t) s) ∧
    ∀ k < N, cell ((List.range n).foldl (fun t k => if c k then act t k else t) s) k =
      if k < n ∧ c k = true then val k else cell s k := by
  induction n with
  | zero => exact ⟨hs, fun k _ => by simp⟩
  | succ n ih =>
    obtain ⟨hI', hcell⟩ := ih (by omega)
    rw [List.range_succ, List.foldl_append, List.foldl_cons, List.foldl_nil]
    by_cases hc : c n = true
    · rw [if_pos hc]
      refine ⟨hI _ _ hI', fun k hk => ?_⟩
      by_cases hkn : k = n
      · subst hkn
        rw [hsame _ _ hI' hk, if_pos ⟨Nat.lt_succ_self k, hc⟩]
      · rw [hother _ _ _ hn hk hkn, hcell k hk]
        simp only [show k < n + 1 ↔ k < n by omega]
    · rw [if_neg hc]
      refine ⟨hI', fun k hk => ?_⟩
      rw [hcell k hk]
      by_cases hkn : k = n
      · simp [hkn, hc]
      · simp only [show k < n + 1 ↔ k < n by omega]

/-! ## ENG_NUMERIC -/

/-- Counter k of an engine's ENG_NUMERIC: its SAT bit and its count. -/
def State.numericCell (s : State) (e k : Nat) : Bool × Nat :=
  (bit (s.reg .engNumeric e) (61 + k), bits (s.reg .engNumeric e) (16 * k + 15) (16 * k))

theorem State.clearNumeric_cell_same (t : State) (e : Nat) {k : Nat} (hk : k < 3) :
    (t.clearNumeric e k).numericCell e k = (false, min 0xFFFF (tgetD t.stamps (regAddr .engNumeric e 0 + k) 0)) := by
  have hmin : ∀ n : Nat, min 0xFFFF n % 2 ^ (16 * k + 15 - 16 * k + 1) = min 0xFFFF n := fun n => by
    rw [show 16 * k + 15 - 16 * k + 1 = 16 by omega]
    exact Nat.mod_eq_of_lt (by omega)
  unfold State.numericCell State.clearNumeric
  rw [State.reg_setReg_same, bit_setBits_apart (by omega) (by omega) (by omega), bit_setBit_same _ (by omega),
    bits_setBits_same (by omega) (by omega), hmin]

theorem State.clearNumeric_cell_other (t : State) (e : Nat) {j k : Nat} (hj : j < 3) (hk : k < 3) (h : k ≠ j) :
    (t.clearNumeric e j).numericCell e k = t.numericCell e k := by
  unfold State.numericCell State.clearNumeric
  rw [State.reg_setReg_same, bit_setBits_apart (by omega) (by omega) (by omega), bit_setBit_other (by omega) (by omega),
    bits_setBits_apart (by omega) (by omega) (by omega) (by omega), bits_setBit_apart (by omega) (by omega) (by omega)]

theorem State.satWrite_engNumeric (s : State) (fn : Fn) (e : Nat) (v : W64) :
    s.RegsOnly (s.satWrite fn .engNumeric e v) ∧
    ∀ k < 3, (s.satWrite fn .engNumeric e v).numericCell e k =
      if bit v (61 + k) = true then (false, min 0xFFFF (tgetD s.stamps (regAddr .engNumeric e 0 + k) 0)) else s.numericCell e k := by
  obtain ⟨hI, hcell⟩ := foldl_range_cells (I := s.RegsOnly) (cell := fun t k => t.numericCell e k)
    (act := fun t k => t.clearNumeric e k) (N := 3) (fun k => bit v (61 + k)) (fun t k ht => ht.setReg ..)
    (fun t k ht hk => ht.stamps ▸ t.clearNumeric_cell_same e hk)
    (fun t j k hj hk h => t.clearNumeric_cell_other e hj hk h) (State.RegsOnly.refl s) (Nat.le_refl 3)
  refine ⟨hI, fun k hk => (hcell k hk).trans ?_⟩
  simp [hk]

/-! ## SHP_HIST_SAT -/

/-- The histogram that bin k of a queue stands in. -/
def histReg (k : Nat) : RegName := if k < 16 then .shpHistDepth else .shpHistDelay

/-- Bin k of a queue's histograms: its SAT bit and its count. -/
def State.binCell (s : State) (q k : Nat) : Bool × Nat :=
  (bit (s.reg .shpHistSat q) k, bits (s.reg (histReg k) q (k % 16 / 2)) (32 * (k % 2) + 31) (32 * (k % 2)))

/-- Increments of bin k in this instant. -/
def State.binStamp (s : State) (q k : Nat) : Nat := tgetD s.stamps (regAddr (histReg k) q (k % 16 / 2) + k % 2) 0

theorem State.clearBin_eq (t : State) (q k : Nat) :
    t.clearBin q k = (t.setReg .shpHistSat q 0 (setBit (t.reg .shpHistSat q) k false)).setReg (histReg k) q (k % 16 / 2)
      (setBits (t.reg (histReg k) q (k % 16 / 2)) (32 * (k % 2) + 31) (32 * (k % 2)) (min satMax (t.binStamp q k))) := by
  have h : k % 16 % 2 = k % 2 := by omega
  unfold State.clearBin State.binStamp
  simp only [h]
  rfl

theorem histReg_row (k : Nat) : histReg k ≠ .shpHistSat ∧ (regRow (histReg k)).n1 = 4096 ∧ (regRow (histReg k)).n2 = 8 := by
  unfold histReg
  split <;> decide

/-- Two bins stand in one register only in its two halves. -/
theorem histReg_apart {q j k : Nat} (hq : q < 4096) (hj : j < 32) (hk : k < 32) (h : k ≠ j) :
    regAddr (histReg k) q (k % 16 / 2) ≠ regAddr (histReg j) q (j % 16 / 2) ∨
    (histReg k = histReg j ∧ k % 16 / 2 = j % 16 / 2 ∧ k % 2 ≠ j % 2) := by
  by_cases ha : regAddr (histReg k) q (k % 16 / 2) = regAddr (histReg j) q (j % 16 / 2)
  · obtain ⟨-, hk1, hk2⟩ := histReg_row k
    obtain ⟨-, hj1, hj2⟩ := histReg_row j
    obtain ⟨hr, -, hw⟩ := regAddr_inj (by omega) (by omega) (by omega) (by omega) ha
    refine .inr ⟨hr, hw, ?_⟩
    have hside : (k < 16 ↔ j < 16) := by
      unfold histReg at hr
      by_cases h1 : k < 16 <;> by_cases h2 : j < 16 <;> simp [h1, h2] at hr ⊢
    omega
  · exact .inl ha

theorem regAddr_histSat_ne {q : Nat} (hq : q < 4096) (k : Nat) :
    regAddr .shpHistSat q 0 ≠ regAddr (histReg k) q (k % 16 / 2) := fun h => by
  obtain ⟨hne, hn1, hn2⟩ := histReg_row k
  exact hne (regAddr_inj hq Nat.zero_lt_one (by omega) (by omega) h).1.symm

theorem State.clearBin_cell_same (t : State) {q k : Nat} (hq : q < 4096) (hk : k < 32) :
    (t.clearBin q k).binCell q k = (false, min satMax (t.binStamp q k)) := by
  have hmin : ∀ n : Nat, min satMax n % 2 ^ (32 * (k % 2) + 31 - 32 * (k % 2) + 1) = min satMax n := fun n => by
    rw [show 32 * (k % 2) + 31 - 32 * (k % 2) + 1 = 32 by omega]
    exact Nat.mod_eq_of_lt (Nat.lt_of_le_of_lt (Nat.min_le_left ..) (by decide))
  rw [State.clearBin_eq]
  unfold State.binCell
  rw [State.reg_setReg_same, State.reg_setReg_other _ _ _ _ _ _ _ _ (regAddr_histSat_ne hq k), State.reg_setReg_same,
    bit_setBit_same _ (by omega), bits_setBits_same (by omega) (by omega), hmin]

theorem State.clearBin_cell_other (t : State) {q j k : Nat} (hq : q < 4096) (hj : j < 32) (hk : k < 32) (h : k ≠ j) :
    (t.clearBin q j).binCell q k = t.binCell q k := by
  rw [State.clearBin_eq]
  unfold State.binCell
  rw [State.reg_setReg_other _ _ _ _ _ _ _ _ (regAddr_histSat_ne hq j), State.reg_setReg_same, bit_setBit_other (by omega) h]
  congr 1
  rcases histReg_apart hq hj hk h with ha | ⟨hr, hw, hside⟩
  · rw [State.reg_setReg_other _ _ _ _ _ _ _ _ ha, State.reg_setReg_other _ _ _ _ _ _ _ _ (regAddr_histSat_ne hq k).symm]
  · rw [hr, hw, State.reg_setReg_same, bits_setBits_apart (by omega) (by omega) (by omega) (by omega)]

theorem State.satWrite_shpHistSat (s : State) (fn : Fn) {q : Nat} (v : W64) (hq : q < 4096) :
    s.RegsOnly (s.satWrite fn .shpHistSat q v) ∧
    ∀ k < 32, (s.satWrite fn .shpHistSat q v).binCell q k =
      if bit v k = true then (false, min satMax (s.binStamp q k)) else s.binCell q k := by
  obtain ⟨hI, hcell⟩ := foldl_range_cells (I := s.RegsOnly) (cell := fun t k => t.binCell q k)
    (act := fun t k => t.clearBin q k) (val := fun k => (false, min satMax (s.binStamp q k))) (N := 32) (fun k => bit v k)
    (fun t k ht => by rw [State.clearBin_eq]; exact (ht.setReg ..).setReg ..)
    (fun t k ht hk => by rw [t.clearBin_cell_same hq hk, State.binStamp, ht.stamps, State.binStamp])
    (fun t j k hj hk h => t.clearBin_cell_other hq hj hk h) (State.RegsOnly.refl s) (Nat.le_refl 32)
  refine ⟨hI, fun k hk => (hcell k hk).trans ?_⟩
  simp [hk]

/-! ## SAT_CLEAR (R12) -/

/-- A change of registers alone after a record leaves all but the registers and the security unit. -/
theorem State.RegsOnly.of_recorded {s t : State} {fn : Fn} {off : Nat} {v : W64} (h : (s.recorded fn off v).RegsOnly t) :
    t = { s with regs := t.regs, sec := t.sec } := by
  rw [h, State.recorded_eq]

@[simp] theorem State.recorded_reg (s : State) (fn : Fn) (off : Nat) (v : W64) (r : RegName) (i j : Nat) :
    (s.recorded fn off v).reg r i j = s.reg r i j := by
  rw [State.reg, State.recorded_regs, State.reg]

@[simp] theorem State.recorded_numericCell (s : State) (fn : Fn) (off : Nat) (v : W64) (e k : Nat) :
    (s.recorded fn off v).numericCell e k = s.numericCell e k := by
  simp [State.numericCell]

@[simp] theorem State.recorded_binCell (s : State) (fn : Fn) (off : Nat) (v : W64) (q k : Nat) :
    (s.recorded fn off v).binCell q k = s.binCell q k := by
  simp [State.binCell]

@[simp] theorem State.recorded_binStamp (s : State) (fn : Fn) (off : Nat) (v : W64) (q k : Nat) :
    (s.recorded fn off v).binStamp q k = s.binStamp q k := by
  simp [State.binStamp]

/-- The two halves of a statement on a cell: its bit was written 1, or was not. -/
theorem cell_cases {c : Bool} {x a b : Bool × Nat} (h : x = if c = true then a else b) :
    (c = true → x.1 = a.1 ∧ x.2 = a.2) ∧ (c = false → x.1 = b.1 ∧ x.2 = b.2) := by
  subst h
  cases c <;> simp

/-- Settles O52: SAT_CLEAR is `State.satWrite` after PF0's record, and each counter of the register is a cell of its own. -/
theorem satBitsClear : Obligations.SatBitsClear := by
  intro fn off v s ha hs ho hpf
  refine ⟨?oneBit, ?numeric, ?histogram, ?accessErr⟩
  case oneBit =>
    intro r i j hr hkind hv h63
    refine ⟨_, exec_satClear fn off v s, ?_⟩
    rw [doSatClear_eq ha hs ho hpf hr hv (hasSat_of_kind hkind), State.satWrite_of_kind _ _ _ hkind h63]
    refine ⟨?_, fun hn => ?_, ((State.RegsOnly.refl _).setReg ..).of_recorded⟩
    · rw [State.clearSat, State.reg_setReg_same, bits_satAdd_zero, State.recorded_stamps]
    · rw [State.clearSat, State.reg_setReg_same, State.recorded_stamps, bit_satAdd_zero hn]
  case numeric =>
    intro i j k hr hv hk
    refine ⟨_, exec_satClear fn off v s, ?_⟩
    rw [doSatClear_eq ha hs ho hpf hr hv rfl]
    obtain ⟨hregs, hcell⟩ := (s.recorded fn (regAddr .engNumeric i 0) v).satWrite_engNumeric fn i v
    have hk' := hcell k hk
    rw [State.recorded_stamps, State.recorded_numericCell] at hk'
    obtain ⟨hset, hkept⟩ := cell_cases hk'
    exact ⟨hset, hkept, hregs.of_recorded⟩
  case histogram =>
    intro i j k hr hv hi hk
    refine ⟨_, exec_satClear fn off v s, ?_⟩
    rw [doSatClear_eq ha hs ho hpf hr hv rfl]
    obtain ⟨hregs, hcell⟩ := (s.recorded fn (regAddr .shpHistSat i 0) v).satWrite_shpHistSat fn v hi
    have hk' := hcell k hk
    rw [State.recorded_binStamp, State.recorded_binCell] at hk'
    obtain ⟨hset, hkept⟩ := cell_cases hk'
    exact ⟨hset, hkept, hregs.of_recorded⟩
  case accessErr =>
    intro i j hr hv h63
    refine ⟨_, exec_satClear fn off v s, ?_⟩
    rw [doSatClear_eq ha hs ho hpf hr hv rfl]
    simp only [State.satWrite, h63, if_true, State.recorded_stamps, State.recorded_hif, tgetD_tput_same, true_and]
    rw [State.recorded_eq]

end Machine
end Sys2Proof

/-!
PROOFS. Settling O15 (VerbsAreColoured): what a verb enters its policer as, what colouring leaves of the buckets, and the rows of
Table 10.2.
-/
namespace Sys2Proof
namespace Machine

/-! ## The policer of a queue -/

@[simp] theorem State.policer_setPolicer_same (s : State) (q : Nat) (x : Policer) : (s.setPolicer q x).policer q = x :=
  tgetD_tput_same ..

@[simp] theorem State.policer_modVerb (s : State) (p vid q : Nat) (f : Verb → Verb) :
    (s.modVerb p vid f).policer q = s.policer q := by
  rw [State.policer, State.modVerb_shp, State.policer]

theorem State.RegsOnly.policer {s t : State} (h : s.RegsOnly t) (q : Nat) : t.policer q = s.policer q := by
  rw [h, State.policer, State.policer]

/-- Counting a colour writes a register at most (R214). -/
theorem State.RegsOnly.countColour (s : State) (q : Nat) (c : Colour) : s.RegsOnly (s.countColour q c) := by
  unfold State.countColour
  split
  · cases c <;> exact (State.RegsOnly.refl s).setReg ..
  · exact .refl s

@[simp] theorem State.policer_countColour (s : State) (k q : Nat) (c : Colour) : (s.countColour k c).policer q = s.policer q :=
  (State.RegsOnly.countColour s k c).policer q

/-! ## Pre-colour and colour of a verb -/

theorem State.preColour_of_blind {s : State} {q : Nat} (prio : Nat) (h : s.colorAware q = false) : s.preColour q prio = .green := by
  simp [State.preColour, h]

theorem State.preColour_of_aware {s : State} {q : Nat} (prio : Nat) (h : s.colorAware q = true) :
    s.preColour q prio = if bits (s.reg .shpQueueCfg q) 42 40 ≤ prio then .green
      else if bits (s.reg .shpQueueCfg q) 39 37 ≤ prio then .yellow else .red := by
  simp [State.preColour, h]

/-- R213 as one case distinction on COLOR_AWARE, bit 45 of SHP_QUEUE_CFG. -/
theorem State.preColour_eq (s : State) (q prio : Nat) :
    s.preColour q prio =
      if bit (s.reg .shpQueueCfg q) 45 = false then .green
      else if bits (s.reg .shpQueueCfg q) 42 40 ≤ prio then .green
      else if bits (s.reg .shpQueueCfg q) 39 37 ≤ prio then .yellow else .red := by
  split
  · next h => exact s.preColour_of_blind prio h
  · next h => exact s.preColour_of_aware prio (eq_true_of_ne_false h)

/-- A verb is coloured for the first time from its pre-colour; what follows (counter, mark on the verb) leaves the buckets. -/
theorem State.colourVerb_first {v : Verb} (p : Nat) (s : State) (h : v.coloured = false) :
    let c := colourOf (s.polMode v.queue) (s.preColour v.queue v.prio) (s.policedLen p v) (s.cbs v.queue) (s.ebs v.queue)
      (s.refilled v.queue)
    (s.colourVerb p v).1 = c.1 ∧ (s.colourVerb p v).2.policer v.queue = c.2 := by
  simp [State.colourVerb, State.colour, h]

/-! ## Table 10.2 -/

/-- srTCM (mode 1) of a length that can pass: green from the committed bucket, else yellow from the excess one, else red. -/
theorem colourOf_srTCM {pre : Colour} {len cbs ebs : Nat} (x : Policer) (hpre : pre ≠ .never) (hlen : len ≤ cbs + ebs) :
    colourOf 1 pre len cbs ebs x =
      if pre = .green ∧ mu len ≤ x.tc then (.green, { x with tc := x.tc - mu len })
      else if (pre = .green ∨ pre = .yellow) ∧ mu len ≤ x.te then (.yellow, { x with te := x.te - mu len })
      else (.red, x) := by
  have hred : pre ≠ .red ↔ pre = .green ∨ pre = .yellow := by
    cases pre <;> simp_all
  simp only [colourOf, if_true, if_neg (Nat.not_lt.mpr hlen), ge_iff_le, hred]

section trTCM
variable {pre : Colour} {len cbs ebs : Nat} {x : Policer}

/-- trTCM (mode 2) of a length that can pass, in the order of the table's rows. -/
theorem colourOf_trTCM (hlen : len ≤ ebs) :
    colourOf 2 pre len cbs ebs x =
      if pre = .red ∨ x.te < mu len then (.red, x)
      else if pre = .yellow ∨ x.tc < mu len then (.yellow, { x with te := x.te - mu len })
      else (.green, { x with te := x.te - mu len, tc := x.tc - mu len }) := by
  rw [colourOf, if_neg (by decide), if_pos rfl, if_neg (Nat.not_lt.mpr hlen)]

theorem colourOf_trTCM_red (hlen : len ≤ ebs) (h : pre = .red ∨ x.te < mu len) : colourOf 2 pre len cbs ebs x = (.red, x) := by
  rw [colourOf_trTCM hlen, if_pos h]

theorem colourOf_trTCM_yellow (hlen : len ≤ ebs) (h : pre = .yellow ∨ pre = .green ∧ x.tc < mu len) (hte : mu len ≤ x.te) :
    colourOf 2 pre len cbs ebs x = (.yellow, { x with te := x.te - mu len }) := by
  have hnotRed : ¬(pre = .red ∨ x.te < mu len) := by
    rintro (rfl | hlt)
    · simp at h
    · exact absurd hte (Nat.not_le.mpr hlt)
  rw [colourOf_trTCM hlen, if_neg hnotRed, if_pos (h.imp_right And.right)]

theorem colourOf_trTCM_green (hlen : len ≤ ebs) (h : pre = .green) (hte : mu len ≤ x.te) (htc : mu len ≤ x.tc) :
    colourOf 2 pre len cbs ebs x = (.green, { x with te := x.te - mu len, tc := x.tc - mu len }) := by
  subst h
  rw [colourOf_trTCM hlen, if_neg (by simpa using hte), if_neg (by simpa using htc)]

end trTCM

/-- Settles O15: the first colouring starts from `State.preColour`, and `colourOf` follows the rows of Table 10.2. -/
theorem verbsAreColoured : Obligations.VerbsAreColoured := by
  refine ⟨fun p v s h => ?first, fun pre len cbs ebs x hpre => ⟨colourOf_srTCM x hpre, fun hlen => ⟨?red, ?yellow, ?green⟩⟩⟩
  case first =>
    have hfirst := s.colourVerb_first p h
    rwa [State.preColour_eq] at hfirst
  case red => exact colourOf_trTCM_red hlen
  case yellow => exact colourOf_trTCM_yellow hlen
  case green => exact colourOf_trTCM_green hlen

end Machine
end Sys2Proof

/-!
PROOFS. Settling O47 (KeyAuthorities): what a management command that the firmware serves answers, where KEY_AUTH_SET leaves the
authority, and what a key message under no authority is answered.
-/
namespace Sys2Proof
namespace Machine

/-! ## Management commands that are served -/

/-- A served command acts, and what it answers is recorded. -/
theorem State.mgmtCommand_of_serves {s : State} (opcode value : Nat) (arg : Bytes) (eff : State → MgmtCode × State)
    (h : s.serves = true) : s.mgmtCommand opcode value arg eff = (eff s).2.answered opcode value arg (eff s).1 := by
  simp only [State.serves, Bool.and_eq_true, Bool.not_eq_true'] at h
  obtain ⟨⟨hup, hfree⟩, hrun⟩ := h
  simp [State.mgmtCommand, State.answered, hup, hfree, hrun]

/-- Record and answer leave the key authorities of the battery-backed file. -/
@[simp] theorem State.answered_battery_keyAuth (t : State) (opcode value : Nat) (arg : Bytes) (r : MgmtCode) :
    (t.answered opcode value arg r).sec.battery.keyAuth = t.sec.battery.keyAuth := rfl

/-! ## KEY_AUTH_SET (R358) -/

/-- The battery-backed file names a key authority, and MCTP_OK, for the partition. -/
def State.setKeyAuth (s : State) (p : Nat) (a : Bytes × Bool) : State :=
  { s with sec := { s.sec with battery :=
    { s.sec.battery with formatted := true, keyAuth := tput s.sec.battery.keyAuth p a } } }

@[simp] theorem State.setKeyAuth_battery_keyAuth (s : State) (p : Nat) (a : Bytes × Bool) :
    (s.setKeyAuth p a).sec.battery.keyAuth = tput s.sec.battery.keyAuth p a := rfl

section
variable {p : Nat} {hash : Bytes} {s : State} (ok : Bool) (hs : s.serves = true) (hp : p < Config.partitions)
  (hh : hash.length = 48)
include hs hp hh

theorem doKeyAuthSet_inUse (hused : s.hasPrk p = true ∨ s.recordInUse p = true) :
    doKeyAuthSet p hash ok s = s.answered 0x05 p hash .inUse := by
  rw [doKeyAuthSet, State.mgmtCommand_of_serves _ _ _ _ hs]
  simp [Nat.not_le.mpr hp, hh, hused]

theorem doKeyAuthSet_ok (hprk : s.hasPrk p = false) (hrec : s.recordInUse p = false) :
    doKeyAuthSet p hash ok s = (s.setKeyAuth p (hash, ok)).answered 0x05 p hash .ok := by
  rw [doKeyAuthSet, State.mgmtCommand_of_serves _ _ _ _ hs]
  simp [Nat.not_le.mpr hp, hh, hprk, hrec, State.setKeyAuth]

end

theorem State.keyAuth_of_tget {s : State} {p : Nat} {a : Bytes × Bool} (h : tget s.sec.battery.keyAuth p = some a) :
    s.keyAuth p = a := by
  rw [State.keyAuth, tgetD, h, Option.getD_some]

/-- Measurement block 0x40 + p begins with the key authority and its MCTP_OK (R358, R365). -/
theorem State.measurement_keyAuth_prefix (s : State) {p : Nat} (hp : p < Config.partitions) :
    (s.keyAuth p).1 ++ natLe 1 (s.keyAuth p).2.toNat <+: s.measurement (0x40 + p) := by
  have hblock : 0x40 ≤ 0x40 + p ∧ 0x40 + p < 0x50 := ⟨Nat.le_add_right .., Nat.add_lt_add_left hp 0x40⟩
  have hother : ∀ k, k < 0x40 → 0x40 + p ≠ k := fun k hk => by omega
  simp [State.measurement, hother, hblock, List.append_assoc]

theorem State.measurement_take_keyAuth {s : State} {p : Nat} (hp : p < Config.partitions) (hlen : (s.keyAuth p).1.length = 48) :
    (s.measurement (0x40 + p)).take 49 = (s.keyAuth p).1 ++ natLe 1 (s.keyAuth p).2.toNat := by
  have hhead := List.prefix_iff_eq_take.mp (s.measurement_keyAuth_prefix hp)
  rw [List.length_append, hlen, natLe_length] at hhead
  exact hhead.symm

/-! ## Key messages of a requester that is not the authority (R359) -/

/-- No requester is the authority of a partition whose KEY_AUTH is zero. -/
theorem State.kmAuth_of_zero {s : State} {m : KeyMsg} (h : ∀ b ∈ (s.keyAuth (kmPart m)).1, b = 0) : s.kmAuth m = false := by
  have hall : (s.keyAuth (kmPart m)).1.all (· == 0) = true := List.all_eq_true.mpr fun b hb => beq_iff_eq.mpr (h b hb)
  simp only [State.kmAuth, hall, Bool.not_true, Bool.and_false, Bool.false_and]

/-- A message that is heard and well formed, but not of the authority, is answered NO_AUTH whatever it asks for. -/
theorem State.keyMessage_noAuth {s : State} {code : Nat} {m : KeyMsg} (eff : Nat → State → KeyResult × Bytes × State)
    (hup : s.mgmtUp = true) (hfree : m.mgmt = true → s.auditFull = false) (hlink : m.mgmt = false → s.hif.linkUp = true)
    (hsafe : s.flt.safe = false) (hdebug : s.sec.battery.debugUnlocked = false) (hform : kmMalformed code m = false)
    (hauth : s.kmAuth m = false) : s.keyMessage code m eff = s.keyAnswered m .noAuth := by
  have hheard : (!s.mgmtUp || (!m.mgmt && !s.hif.linkUp)) = false ∧ (m.mgmt && s.auditFull) = false := by
    cases hm : m.mgmt
    · simp [hup, hlink hm]
    · simp [hup, hfree hm]
  obtain ⟨hport, hlog⟩ := hheard
  simp [State.keyMessage, State.keyAnswered, hport, hlog, hsafe, hdebug, hform, hauth]

/-- Settles O47: a served KEY_AUTH_SET writes the file's entry that the measurement reads, and a zero authority matches no requester. -/
theorem keyAuthorities : Obligations.KeyAuthorities := by
  refine ⟨fun p hash ok s hs hp hh => ⟨fun hused => ?inUse, fun hprk hrec => ?stands⟩,
    fun m s hup hfree hlink hsafe hdebug hzero => ?noAuth⟩
  case inUse => exact congrArg Host.Outcome.next (doKeyAuthSet_inUse ok hs hp hh hused)
  case stands =>
    refine ⟨_, congrArg Host.Outcome.next (doKeyAuthSet_ok ok hs hp hh hprk hrec), ?_⟩
    have hfile : tget ((s.setKeyAuth p (hash, ok)).answered 0x05 p hash .ok).sec.battery.keyAuth p = some (hash, ok) := by simp
    have hread := State.keyAuth_of_tget hfile
    refine ⟨hfile, ?_, fun q hq => by simp [hq]⟩
    rw [State.measurement_take_keyAuth hp (by rw [hread]; exact hh), hread]
  case noAuth =>
    have hanswer := fun code eff (hform : kmMalformed code m = false) =>
      State.keyMessage_noAuth eff hup hfree hlink hsafe hdebug hform (State.kmAuth_of_zero hzero)
    simp only [List.forall_mem_cons]
    refine ⟨fun h => ?pkey, fun h => ?pool, fun h => ?ck, fun h => ?status, fun _ h => absurd h List.not_mem_nil⟩
    case pkey => exact congrArg Host.Outcome.next (hanswer kmPkey _ h)
    case pool => exact congrArg Host.Outcome.next (hanswer kmPool _ h)
    case ck => exact congrArg Host.Outcome.next (hanswer kmCk _ h)
    case status => exact congrArg Host.Outcome.next (hanswer kmStatus _ h)

end Machine
end Sys2Proof

/-!
PROOFS. Settling O54 (EventMessages): what a cause leaves of HIF_EVENT_CAUSE and whether it sends its message, and what a W1C of
that register by PF0 keeps and sends again.
-/
namespace Sys2Proof
namespace Machine

/-! ## Messages of PF0 -/

/-- PF0 sends MSI-X vector n. -/
def State.sendMsix (s : State) (n : Nat) : State :=
  ({ s with hif := { s.hif with pfMsix := s.hif.pfMsix ++ [n] } } : State).emit (.msix .pf n)

/-- Messages sent in turn stand in that order behind the earlier ones, and nothing else changes. -/
theorem State.foldl_sendMsix (s : State) (l : List Nat) :
    l.foldl State.sendMsix s =
      { s with hif := { s.hif with pfMsix := s.hif.pfMsix ++ l }, out := s.out ++ l.map (.msix .pf) } := by
  induction l generalizing s with
  | nil => simp
  | cons n l ih => simp [ih, State.sendMsix, State.emit]

/-! ## A cause sets its bit (R408) -/

/-- The cause bit is set, and marked as set in this instant (R9). -/
def State.setCause (s : State) (n : Nat) : State :=
  (s.setReg .hifEventCause 0 0 (setBit (s.reg .hifEventCause) n true)).stampSet (regAddr .hifEventCause 0 0) (2 ^ n)

theorem State.setCause_reg (s : State) (n : Nat) :
    (s.setCause n).reg .hifEventCause = setBit (s.reg .hifEventCause) n true :=
  s.reg_setReg_same ..

/-- A bit that becomes 1 unmasked, in a powered device outside the safe state, sends its message. -/
theorem State.cause_sends {s : State} {n : Nat} (hbit : bit (s.reg .hifEventCause) n = false)
    (hmask : bit (s.reg .hifEventMask) n = false) (hsafe : s.flt.safe = false) (hpwr : s.pwr.pwrok = true) :
    s.cause n = (s.setCause n).sendMsix n := by
  unfold State.cause
  exact if_pos (by simp [hbit, hmask, hsafe, hpwr])

/-- A bit that was 1 already, a masked bit and the safe state send nothing. -/
theorem State.cause_silent {s : State} {n : Nat}
    (h : bit (s.reg .hifEventCause) n = true ∨ bit (s.reg .hifEventMask) n = true ∨ s.flt.safe = true) :
    s.cause n = s.setCause n := by
  unfold State.cause
  exact if_neg (by rcases h with h | h | h <;> simp [h])

theorem State.cause_reg (s : State) (n : Nat) :
    (s.cause n).reg .hifEventCause = setBit (s.reg .hifEventCause) n true := by
  unfold State.cause
  dsimp only
  split
  all_goals exact s.setCause_reg n

/-! ## A W1C of HIF_EVENT_CAUSE by PF0 (R9, R408) -/

theorem bit_eq_getLsbD (w : W64) (n : Nat) : bit w n = w.getLsbD n := rfl

/-- A W1C clears the bits written 1, but for those set in its instant. -/
theorem State.bit_w1cWord (s : State) (r : RegName) (i : Nat) (v : W64) {n : Nat} (hn : n < 64) :
    bit (s.w1cWord r i v) n = (bit (s.reg r i) n && !(bit v n && !(tgetD s.stamps (regAddr r i 0) 0).testBit n)) := by
  simp only [bit_eq_getLsbD, State.w1cWord, w64, BitVec.getLsbD_and, BitVec.getLsbD_not, BitVec.getLsbD_ofNat, hn, decide_true,
    Bool.true_and]

/-- The bits that send a message again: written 1, set in this instant, unmasked. -/
def State.resent (s : State) (v : W64) : List Nat :=
  (List.range 8).filter fun n =>
    bit v n && (tgetD s.stamps (regAddr .hifEventCause 0 0) 0).testBit n && !bit (s.reg .hifEventMask) n

theorem State.causeWrite_eq (s : State) (v : W64) :
    s.causeWrite v = (s.resent v).foldl State.sendMsix (s.setReg .hifEventCause 0 0 (s.w1cWord .hifEventCause 0 v)) := rfl

theorem State.causeWrite_reg (s : State) (v : W64) :
    (s.causeWrite v).reg .hifEventCause = s.w1cWord .hifEventCause 0 v := by
  rw [State.causeWrite_eq, State.foldl_sendMsix]
  exact s.reg_setReg_same ..

theorem State.causeWrite_out (s : State) (v : W64) : (s.causeWrite v).out = s.out ++ (s.resent v).map (.msix .pf) := by
  rw [State.causeWrite_eq, State.foldl_sendMsix, State.setReg_out]

theorem State.causeWrite_frame (s : State) (v : W64) :
    s.causeWrite v = { s with
      regs := (s.causeWrite v).regs, hif := { s.hif with pfMsix := (s.causeWrite v).hif.pfMsix }, out := (s.causeWrite v).out } := by
  rw [State.causeWrite_eq, State.foldl_sendMsix]
  rfl

@[simp] theorem State.recorded_out (s : State) (fn : Fn) (off : Nat) (v : W64) : (s.recorded fn off v).out = s.out := by
  rw [State.recorded_eq]

/-- A 64-bit write of HIF_EVENT_CAUSE by PF0 is recorded and then acts. -/
theorem doRegisterWrite_hifEventCause {s : State} (v : W64) (ha : s.answers .pf = true) (hs : s.flt.safe = false)
    (hf : s.auditFull = false) (hk : s.headKnown = true) :
    doRegisterWrite .pf (regAddr .hifEventCause 0 0) 8 v s =
      (s.recorded .pf (regAddr .hifEventCause 0 0) v).causeWrite v := by
  have hat : resolve .pf (regAddr .hifEventCause 0 0) = some (.hifEventCause, 0, 0) := regAt_regAddr (by decide) (by decide)
  calc doRegisterWrite .pf (regAddr .hifEventCause 0 0) 8 v s
    _ = s.pfEffect .hifEventCause 0 v 0xFFFFFFFFFFFFFFFF := State.regWrite_pf v ha hs (by decide) hat rfl
    _ = s.pfWrite (regAddr .hifEventCause 0 0) v fun t => t.causeWrite v := rfl
    _ = _ := State.pfWrite_recorded hf hk

theorem exec_registerWrite (fn : Fn) (off width : Nat) (v : W64) (s : State) :
    exec (.registerWrite fn off width v) s = .next (doRegisterWrite fn off width v s) := rfl

/-- Settles O54: a cause is `State.setCause`, with `State.sendMsix` only where the bit rises unmasked; a W1C of the register is
`State.causeWrite` after PF0's record. -/
theorem eventMessages : Obligations.EventMessages := by
  refine ⟨fun n s hn hpwr => ⟨?set, fun k _ hne => ?others, fun hbit hmask hsafe => ?sent, fun h => ?silent⟩,
    fun v s ha hs hf hk => ⟨_, exec_registerWrite .pf _ 8 v s, ?write⟩⟩
  case set => rw [State.cause_reg, bit_setBit_same _ (by omega)]
  case others => rw [State.cause_reg, bit_setBit_other (by omega) hne]
  case sent => rw [State.cause_sends hbit hmask hsafe hpwr]; rfl
  case silent => rw [State.cause_silent h]; rfl
  case write =>
    rw [doRegisterWrite_hifEventCause v ha hs hf hk]
    refine ⟨fun n hn => ?kept, ?resent, ?frame⟩
    case kept => rw [State.causeWrite_reg, State.bit_w1cWord _ _ _ _ hn, State.recorded_reg, State.recorded_stamps]
    case resent => rw [State.causeWrite_out, State.recorded_out, State.resent, State.recorded_stamps, State.recorded_reg]
    case frame => rw [State.causeWrite_frame, State.recorded_eq]

end Machine
end Sys2Proof

/-!
PROOFS. Settling O4 (SafePinInvariant), O6 (CommandsKeepIdentityQueueAndTime) and O7 (FloorsSafeStateAndLatches): a step is a tick, which
moves the time of the anchor alone, or a command, whose single changes of the anchor `Moves.elim` lists.
-/
namespace Sys2Proof
namespace Machine

/-! ## The anchor over a step -/

/-- A relation between anchors that forgets time and queue and that each change of the front command keeps holds over a step. -/
theorem step_anchor {R : Anchor → Anchor → Prop} {s t : State} (e : step s = .next t) (htick : ∀ n, R s.anchor (s.anchor.atTime n))
    (hmove : ∀ c r, s.pending = c :: r → Moves c ({ s with pending := r } : State).anchor t.anchor → R s.anchor t.anchor) :
    R s.anchor t.anchor := by
  obtain ⟨-, rfl⟩ | ⟨c, r, hfront, hexec⟩ := step_cases e
  · obtain ⟨n, hn⟩ := s.tick_anchor
    rw [hn]
    exact htick n
  · exact hmove c r hfront (exec_moves c _ t hexec)

/-! ## SAFE# (R345, R419) -/

/-- SAFE# is asserted in the safe state and in a failed start. -/
def Anchor.SafePinned (a : Anchor) : Prop := a.safe = true ∨ a.stage = 15 → a.safePin = true

/-- No command releases SAFE# in the safe state or in a failed start. -/
theorem Moves.safePinned {c : Instr} {a b : Anchor} (m : Moves c a b) (h : a.SafePinned) : b.SafePinned := by
  refine m.elim (R := fun a b => a.SafePinned → b.SafePinned) (refl := id) (safed := fun _ _ => rfl) (perst := fun _ => id)
    (perstSafed := fun _ _ _ => rfl) (stage := fun k hk ha => ?stage) (time := fun _ _ => id) (failed := fun _ _ => rfl)
    (booted := fun _ _ => ?booted) (blank := fun _ => id) (blankInit := fun _ _ ha => ?blankInit) (off := fun _ _ => ?off)
    (cold := fun _ _ _ _ => ?cold) (reset := fun _ _ _ => ?reset) (trip := id) (floor := fun _ _ => id) (fwFloor := fun _ _ => id)
    (enrolled := fun _ _ _ => id) (unlock := fun _ => id) (lock := id) h
  case stage => exact fun hb => ha (.inl (hb.resolve_right hk))
  case blankInit => exact fun hb => ha (.inl (hb.resolve_right (Nat.ne_of_lt (show 4 < 15 by decide))))
  case booted | off | cold | reset => exact fun hb => by simp [Anchor.booted, Anchor.off, Anchor.cold, Anchor.withPin] at hb

/-- Settles O4: the anchor holds the safe state, the stage and the pin, and every change of it keeps `Anchor.SafePinned`. -/
theorem safePinInvariant : Obligations.SafePinInvariant := by
  intro s t hs hstep
  exact step_anchor (R := fun a b => a.SafePinned → b.SafePinned) hstep (fun _ => id) (fun _ _ _ hm => hm.safePinned) hs

/-! ## Every command completes -/

theorem exec_jtag_locked (j : JtagInstr) (s : State) (h : s.sec.battery.debugUnlocked = false) :
    exec (.jtagInstruction j) s = .next (s.emit (.jtag (s.jtagAnswer j))) := by
  change execJtagInstruction j s = _
  simp [execJtagInstruction, h]

theorem exec_jtag_unlocked (j : JtagInstr) (s : State) (h : s.sec.battery.debugUnlocked = true) (hj : ∀ k, j ≠ .other k) :
    exec (.jtagInstruction j) s = .next (s.emit (.jtag j)) := by
  change execJtagInstruction j s = _
  cases j with
  | other k => exact absurd rfl (hj k)
  | _ => simp [execJtagInstruction, h]

theorem exec_jtag_unspecified (k : Nat) (s : State) (h : s.sec.battery.debugUnlocked = true) :
    exec (.jtagInstruction (.other k)) s = .refused (.scanUnspecified k) := by
  change execJtagInstruction (.other k) s = _
  simp [execJtagInstruction, h]

/-- Every command but an unspecified JTAG scan of an unlocked device answers a next state. -/
theorem exec_completes (c : Instr) (s : State) (h : ∀ k, c = .jtagInstruction (.other k) → s.sec.battery.debugUnlocked = false) :
    ∃ t, exec c s = .next t := by
  cases c with
  | jtagInstruction j =>
    by_cases hd : s.sec.battery.debugUnlocked = true
    · exact ⟨_, exec_jtag_unlocked j s hd fun k hk => by simp [h k (congrArg _ hk)] at hd⟩
    · exact ⟨_, exec_jtag_locked j s (Bool.eq_false_iff.mpr hd)⟩
  | _ => exact ⟨_, rfl⟩

/-- The commands that move the timebase. -/
def movesTime (c : Instr) : Prop :=
  (∃ l t1 t2 t3 t4, c = .syncRsp l t1 t2 t3 t4) ∨ c = .powerDown ∨ c = .pwrokAssert ∨ c = .deviceReset ∨ ∃ ok, c = .memoryInitDone ok

theorem Moves.keepsIdentity {c : Instr} {a b : Anchor} (m : Moves c a b) :
    b.pending = a.pending ∧ b.uid = a.uid ∧ b.fusedSvn = a.fusedSvn ∧ (b.now ≠ a.now → movesTime c) := by
  have still : ∀ {P : Prop}, a.now ≠ a.now → P := fun h => absurd rfl h
  exact m.elim (R := fun a b => b.pending = a.pending ∧ b.uid = a.uid ∧ b.fusedSvn = a.fusedSvn ∧ (b.now ≠ a.now → movesTime c))
    (refl := ⟨rfl, rfl, rfl, still⟩) (safed := ⟨rfl, rfl, rfl, still⟩) (perst := fun _ => ⟨rfl, rfl, rfl, still⟩)
    (perstSafed := fun _ => ⟨rfl, rfl, rfl, still⟩) (stage := fun _ _ => ⟨rfl, rfl, rfl, still⟩)
    (time := fun hc _ => ⟨rfl, rfl, rfl, fun _ => .inl hc⟩) (failed := ⟨rfl, rfl, rfl, still⟩)
    (booted := fun _ => ⟨rfl, rfl, rfl, still⟩) (blank := fun _ => ⟨rfl, rfl, rfl, still⟩)
    (blankInit := fun hc _ => ⟨rfl, rfl, rfl, fun _ => .inr (.inr (.inr (.inr hc)))⟩)
    (off := fun hc => ⟨rfl, rfl, rfl, fun _ => .inr (.inl hc)⟩)
    (cold := fun hc _ _ => ⟨rfl, rfl, rfl, fun _ => .inr (.inr (.inl hc))⟩)
    (reset := fun hc _ => ⟨rfl, rfl, rfl, fun _ => .inr (.inr (.inr (.inl hc)))⟩) (trip := ⟨rfl, rfl, rfl, still⟩)
    (floor := fun _ _ => ⟨rfl, rfl, rfl, still⟩) (fwFloor := fun _ _ => ⟨rfl, rfl, rfl, still⟩)
    (enrolled := fun _ _ _ => ⟨rfl, rfl, rfl, still⟩) (unlock := fun _ => ⟨rfl, rfl, rfl, still⟩) (lock := ⟨rfl, rfl, rfl, still⟩)

/-- Settles O6: `exec_completes`, and what `Moves` allows the queue, the fuses and the time. -/
theorem commandsKeepIdentityQueueAndTime : Obligations.CommandsKeepIdentityQueueAndTime := by
  refine ⟨fun c s h => ?_, fun k s h => exec_jtag_unspecified k s h⟩
  obtain ⟨t, ht⟩ := exec_completes c s h
  exact ⟨t, ht, (exec_moves c s t ht).keepsIdentity⟩

/-! ## Floors, safe state and latches -/

theorem Moves.floors_le {c : Instr} {a b : Anchor} (m : Moves c a b) (hvbat : c ≠ .vbatLoss) (hinit : ∀ ok, c ≠ .memoryInitDone ok) :
    a.bindFloor ≤ b.bindFloor ∧ a.fwFloor ≤ b.fwFloor :=
  m.elim (R := fun a b => a.bindFloor ≤ b.bindFloor ∧ a.fwFloor ≤ b.fwFloor) (refl := ⟨Nat.le.refl, Nat.le.refl⟩)
    (safed := ⟨Nat.le.refl, Nat.le.refl⟩) (perst := fun _ => ⟨Nat.le.refl, Nat.le.refl⟩) (perstSafed := fun _ => ⟨Nat.le.refl, Nat.le.refl⟩)
    (stage := fun _ _ => ⟨Nat.le.refl, Nat.le.refl⟩) (time := fun _ _ => ⟨Nat.le.refl, Nat.le.refl⟩) (failed := ⟨Nat.le.refl, Nat.le.refl⟩)
    (booted := fun _ => ⟨Nat.le.refl, Nat.le.refl⟩) (blank := fun hc => absurd hc hvbat)
    (blankInit := fun ⟨ok, hc⟩ => absurd hc (hinit ok)) (off := fun _ => ⟨Nat.le.refl, Nat.le.refl⟩)
    (cold := fun _ _ _ => ⟨Nat.le.refl, Nat.le.refl⟩) (reset := fun _ _ => ⟨Nat.le.refl, Nat.le.refl⟩) (trip := ⟨Nat.le.refl, Nat.le.refl⟩)
    (floor := fun _ h => ⟨h, Nat.le.refl⟩) (fwFloor := fun _ h => ⟨Nat.le.refl, h⟩) (enrolled := fun _ _ h => ⟨h, Nat.le.refl⟩)
    (unlock := fun _ => ⟨Nat.le.refl, Nat.le.refl⟩) (lock := ⟨Nat.le.refl, Nat.le.refl⟩)

/-- The commands that take a device out of its safe state. -/
def endsSafe (c : Instr) : Prop := c = .powerDown ∨ c = .pwrokAssert ∨ c = .deviceReset ∨ ∃ l, c = .firmwareBoot l

/-- A bit that stays set is not clear afterwards. -/
theorem stays_set {b : Bool} {P : Prop} (h : b = true) (h' : b = false) : P := absurd (h.symm.trans h') (by decide)

theorem Moves.safe_ends {c : Instr} {a b : Anchor} (m : Moves c a b) : a.safe = true → b.safe = false → endsSafe c :=
  m.elim (R := fun a b => a.safe = true → b.safe = false → endsSafe c) (refl := stays_set) (safed := fun _ => stays_set rfl)
    (perst := fun _ => stays_set) (perstSafed := fun _ _ => stays_set rfl) (stage := fun _ _ => stays_set)
    (time := fun _ _ => stays_set) (failed := stays_set) (booted := fun hc _ _ => .inr (.inr (.inr hc)))
    (blank := fun _ => stays_set) (blankInit := fun _ _ => stays_set) (off := fun hc _ _ => .inl hc)
    (cold := fun hc _ _ _ _ => .inr (.inl hc)) (reset := fun hc _ _ _ => .inr (.inr (.inl hc)))
    (trip := stays_set) (floor := fun _ _ => stays_set) (fwFloor := fun _ _ => stays_set) (enrolled := fun _ _ _ => stays_set)
    (unlock := fun _ => stays_set) (lock := stays_set)

theorem Moves.thermtrip_stays {c : Instr} {a b : Anchor} (m : Moves c a b) (hoff : c ≠ .powerDown) :
    a.thermtrip = true → b.thermtrip = true :=
  m.elim (R := fun a b => a.thermtrip = true → b.thermtrip = true) (refl := id) (safed := id) (perst := fun _ => id)
    (perstSafed := fun _ => id) (stage := fun _ _ => id) (time := fun _ _ => id) (failed := id) (booted := fun _ => id)
    (blank := fun _ => id) (blankInit := fun _ _ => id) (off := fun hc => absurd hc hoff)
    (cold := fun _ _ _ => id) (reset := fun _ _ => id) (trip := fun _ => rfl) (floor := fun _ _ => id) (fwFloor := fun _ _ => id)
    (enrolled := fun _ _ _ => id) (unlock := fun _ => id) (lock := id)

/-- A bit that stays clear is not set afterwards. -/
theorem stays_clear {b : Bool} {P : Prop} (h : b = false) (h' : b = true) : P := stays_set h' h

theorem Moves.debug_unlocks {c : Instr} {a b : Anchor} (m : Moves c a b) :
    a.debugUnlocked = false → b.debugUnlocked = true → ∃ k, c = .debugUnlock k :=
  m.elim (R := fun a b => a.debugUnlocked = false → b.debugUnlocked = true → ∃ k, c = .debugUnlock k) (refl := stays_clear)
    (safed := stays_clear) (perst := fun _ => stays_clear) (perstSafed := fun _ => stays_clear) (stage := fun _ _ => stays_clear)
    (time := fun _ _ => stays_clear) (failed := stays_clear) (booted := fun _ => stays_clear) (blank := fun _ _ => stays_clear rfl)
    (blankInit := fun _ _ _ => stays_clear rfl) (off := fun _ => stays_clear) (cold := fun _ _ _ => stays_clear)
    (reset := fun _ _ => stays_clear) (trip := stays_clear) (floor := fun _ _ => stays_clear) (fwFloor := fun _ _ => stays_clear)
    (enrolled := fun _ _ _ => stays_clear) (unlock := fun hc _ _ => hc) (lock := fun _ => stays_clear rfl)

/-- Settles O7: what `Moves` lets each command do to the floors, the safe state and the latches. -/
theorem floorsSafeStateAndLatches : Obligations.FloorsSafeStateAndLatches := by
  refine ⟨fun s t e hvbat hinit => ?floors, fun s t e => ?safe, fun s t e htrip hoff => ?trip, fun s t e => ?debug⟩
  case floors =>
    refine step_anchor (R := fun a b => a.bindFloor ≤ b.bindFloor ∧ a.fwFloor ≤ b.fwFloor) e (fun _ => ⟨Nat.le.refl, Nat.le.refl⟩)
      fun c r hfront m => ?_
    simp only [hfront, List.head?_cons, ne_eq, Option.some.injEq] at hvbat hinit
    exact m.floors_le hvbat hinit
  case safe =>
    refine step_anchor (R := fun a b => a.safe = true → b.safe = false → _) e (fun _ => stays_set) fun c r hfront m hs ht => ?_
    simpa only [endsSafe, hfront, List.head?_cons, Option.some.injEq] using m.safe_ends hs ht
  case trip =>
    refine step_anchor (R := fun a b => a.thermtrip = true → b.thermtrip = true) e (fun _ => id) (fun c r hfront m => ?_) htrip
    simp only [hfront, List.head?_cons, ne_eq, Option.some.injEq] at hoff
    exact m.thermtrip_stays hoff
  case debug =>
    refine step_anchor (R := fun a b => a.debugUnlocked = false → b.debugUnlocked = true → _) e (fun _ => stays_clear)
      fun c r hfront m hs ht => ?_
    simpa only [hfront, List.head?_cons, Option.some.injEq] using m.debug_unlocks hs ht

end Machine
end Sys2Proof

/-!
PROOFS. Settling O1 (StepRunsFrontCommand), O2 (EmptyQueueTicks), O3 (ResetIsPowerOff), O5 (SafePinAtReset), O8 (MemoryWrites) and
O9 (RingsAndDoorbells): the step, the tick without power, the reset state, the byte memories, and the writes of a ring's registers.
-/
namespace Sys2Proof
namespace Machine

/-! ## Steps and ticks -/

/-- Settles O1: the definition of a step on a queue that is not empty. -/
theorem stepRunsFrontCommand : Obligations.StepRunsFrontCommand := fun _ _ _ => rfl

theorem step_of_empty {s : State} (h : s.pending = []) : step s = .next s.tick := by
  rw [step, h]

theorem State.tick_pending (s : State) : s.tick.pending = s.pending := by
  obtain ⟨n, hn⟩ := s.tick_anchor
  exact congrArg Anchor.pending hn

/-- The real-time counter counts, and nothing else of the power state changes. -/
theorem PwrState.rtcTick_eq (w : PwrState) : ∃ n f, w.rtcTick = { w with rtc := n, rtcFrac := f } := by
  unfold PwrState.rtcTick
  dsimp only
  split <;> exact ⟨_, _, rfl⟩

theorem State.tick_unpowered {s : State} (h : s.pwr.pwrok = false) :
    s.tick = { s.newInstant with pwr := s.newInstant.pwr.rtcTick } := by
  unfold State.tick
  rw [h]
  rfl

/-- Settles O2: without power a tick is a new instant in which the real-time counter counts. -/
theorem emptyQueueTicks : Obligations.EmptyQueueTicks := by
  refine ⟨fun s hq => ⟨step_of_empty hq, s.tick_pending.trans hq⟩, fun s hq hp => ?_⟩
  obtain ⟨n, f, hrtc⟩ := s.newInstant.pwr.rtcTick_eq
  rw [step_of_empty hq, State.tick_unpowered hp, hrtc]
  rfl

/-! ## Reset -/

/-- Settles O3: State.reset holds its default values. -/
theorem resetIsPowerOff : Obligations.ResetIsPowerOff :=
  ⟨rfl, rfl, rfl, rfl, rfl, rfl, rfl, rfl, rfl, rfl, rfl, rfl, fun _ _ _ => rfl⟩

theorem State.setSafePin_on (s : State) : (s.setSafePin true).pwr = { s.pwr with safePin := true } := by
  unfold State.setSafePin
  split
  · next h => rw [← beq_iff_eq.mp h]
  · rfl

/-- Settles O5: a failed start sets the stage and then the pin. -/
theorem safePinAtReset : Obligations.SafePinAtReset := by
  refine ⟨by decide, rfl, fun k s => ?_⟩
  rw [State.failStart, State.setSafePin_on]
  exact ⟨rfl, rfl⟩

/-! ## Byte memories -/

/-- Settles O8 by the laws of byte memories. -/
theorem memoryWrites : Obligations.MemoryWrites := fun m a l =>
  ⟨mreads_mwrites m a l, fun b => mread_mwrites_outside m a l b, mwrites_wf m a l⟩

/-! ## Rings (R401, R402) -/

section
variable {s : State} {p : Nat} (hon : s.vfOn p = true)
include hon

theorem doSqDoorbell_on (tail : Nat) :
    doSqDoorbell p tail s =
      if (s.vf p).sqEnable = false ∨ (s.vf p).tdi ≠ .run ∨ ringSlots (s.vf p).sqSize ≤ tail ∨
        ringSlots (s.vf p).sqSize - 1 <
          ((s.vf p).sqTail + ringSlots (s.vf p).sqSize - (s.vf p).sqHead) % ringSlots (s.vf p).sqSize +
          (tail + ringSlots (s.vf p).sqSize - (s.vf p).sqTail) % ringSlots (s.vf p).sqSize
      then s.countSat .hifDbErr p else s.setVf p { s.vf p with sqTail := tail } := by
  simp [doSqDoorbell, hon, State.dbErr, or_assoc]

theorem doCqDoorbell_on (head : Nat) :
    doCqDoorbell p head s =
      if (s.vf p).cqEnable = false ∨ (s.vf p).tdi ≠ .run ∨ ringSlots (s.vf p).cqSize ≤ head ∨
        (s.vf p).cqUsed < (head + ringSlots (s.vf p).cqSize - (s.vf p).cqHead) % ringSlots (s.vf p).cqSize
      then s.countSat .hifDbErr p
      else s.setVf p { s.vf p with
        cqHead := head,
        cqUsed := (s.vf p).cqUsed - (head + ringSlots (s.vf p).cqSize - (s.vf p).cqHead) % ringSlots (s.vf p).cqSize } := by
  simp [doCqDoorbell, hon, State.dbErr, or_assoc]

theorem doSqEnable_off (base log2 : Nat) (hen : (s.vf p).sqEnable = false) :
    doSqEnable p base log2 s = s.setVf p { s.vf p with
      sqBase := base, sqSize := log2, sqEnable := true, sqHead := 0, sqTail := 0, sqRead := 0, sqSlots := [] } := by
  simp [doSqEnable, hon, hen]

theorem doSqEnable_enabled (base log2 : Nat) (hen : (s.vf p).sqEnable = true) :
    doSqEnable p base log2 s = if (s.vf p).sqBase = base ∧ (s.vf p).sqSize = log2 then s else s.accessErr (.vf p) := by
  by_cases h : (s.vf p).sqBase = base <;> by_cases k : (s.vf p).sqSize = log2 <;> simp [doSqEnable, hon, hen, h, k]

theorem doCqEnable_off (base log2 : Nat) (hen : (s.vf p).cqEnable = false) :
    doCqEnable p base log2 s = s.setVf p { s.vf p with
      cqBase := base, cqSize := log2, cqEnable := true, cqIndex := 0, cqPhase := true, cqHead := 0, cqUsed := 0 } := by
  simp [doCqEnable, hon, hen]

theorem doCqEnable_enabled (base log2 : Nat) (hen : (s.vf p).cqEnable = true) :
    doCqEnable p base log2 s = if (s.vf p).cqBase = base ∧ (s.vf p).cqSize = log2 then s else s.accessErr (.vf p) := by
  by_cases h : (s.vf p).cqBase = base <;> by_cases k : (s.vf p).cqSize = log2 <;> simp [doCqEnable, hon, hen, h, k]

theorem doSqDisable_enabled (hen : (s.vf p).sqEnable = true) :
    doSqDisable p s = (s.setVf p { s.vf p with sqEnable := false, sqHead := (s.vf p).sqRead, sqSlots := [] }).setVerbs p
      ((s.verbs p).map fun x => { x with slot := none }) := by
  simp [doSqDisable, hon, hen]

theorem doCqDisable_on : doCqDisable p s = s.setVf p { s.vf p with cqEnable := false } := by
  simp [doCqDisable, hon]

end

@[simp] theorem State.vf_setVerbs (s : State) (p q : Nat) (l : List Verb) : (s.setVerbs p l).vf q = s.vf q := rfl
@[simp] theorem State.verbs_setVf (s : State) (p q : Nat) (x : Vf) : (s.setVf p x).verbs q = s.verbs q := rfl

/-- Settles O9: on a function that takes part each register write of a ring is one equation. -/
theorem ringsAndDoorbells : Obligations.RingsAndDoorbells := by
  refine ⟨⟨fun p tail s hon hen htdi hrange hroom => ?sqGood, fun p tail s hon hbad => ?sqBad,
      fun p head s hon hen htdi hrange hroom => ?cqGood, fun p head s hon hbad => ?cqBad⟩,
    fun p base log2 s hon hen => congrArg _ (doSqEnable_off hon base log2 hen),
    fun p base log2 s hon hen => congrArg _ (doSqEnable_enabled hon base log2 hen),
    fun p base log2 s hon hen => congrArg _ (doCqEnable_off hon base log2 hen),
    fun p base log2 s hon hen => congrArg _ (doCqEnable_enabled hon base log2 hen),
    fun p s hon hen => ⟨_, rfl, ?sqDisable⟩, fun p s hon => congrArg _ (doCqDisable_on hon)⟩
  case sqGood => exact congrArg _ ((doSqDoorbell_on hon tail).trans (if_neg (by simp [hen, htdi]; omega)))
  case sqBad => exact congrArg _ ((doSqDoorbell_on hon tail).trans (if_pos (.inr (.inr hbad))))
  case cqGood => exact congrArg _ ((doCqDoorbell_on hon head).trans (if_neg (by simp [hen, htdi]; omega)))
  case cqBad => exact congrArg _ ((doCqDoorbell_on hon head).trans (if_pos (.inr (.inr hbad))))
  case sqDisable =>
    rw [doSqDisable_enabled hon hen]
    simp only [State.vf_setVerbs, State.vf_setVf_same, State.verbs_setVerbs_same, List.forall_mem_map, implies_true, and_true]
    rfl

end Machine
end Sys2Proof

/-!
PROOFS. Settling O10 (RefusedEntries), O11 (GoodEntries), O12 (RecordsReachTheHost), O13 (VerbsBegin) and O14 (PolicedVerbs): a verb
read from its ring, the policer at ingress, the turn of a verb, and the writing of records.
-/
namespace Sys2Proof
namespace Machine

/-! ## Verbs in a state -/

/-- A verb that completes ends, and nothing outside the host interface changes. -/
theorem State.complete_ends {s : State} {p vid : Nat} {v : Verb} (h : s.verb? p vid = some v) (st : Status) (flags : Nat := 0)
    (body : RecBody := []) (hd : Option Nat := none) :
    Ended s (s.complete p vid st flags body hd) p v st flags body hd ∧
    s.complete p vid st flags body hd = { s with hif := (s.complete p vid st flags body hd).hif } :=
  ⟨s.complete_ended p vid st flags body hd v h, s.complete_only p vid st flags body hd⟩

theorem State.verb?_congr {s t : State} (h : t.hif.verbs = s.hif.verbs) (p vid : Nat) : t.verb? p vid = s.verb? p vid := by
  unfold State.verb? State.verbs
  rw [h]

theorem State.vf_congr {s t : State} (h : t.hif.vfs = s.hif.vfs) (p : Nat) : t.vf p = s.vf p := by
  unfold State.vf
  rw [h]

/-- A verb that stands is changed as asked. -/
theorem State.verb?_modVerb {s : State} {p vid : Nat} {v : Verb} (h : s.verb? p vid = some v) {f : Verb → Verb}
    (hf : ∀ w, (f w).id = w.id) : (s.modVerb p vid f).verb? p vid = some (f v) := by
  rw [State.verb?_modVerb_same hf, h, Option.map_some]

theorem State.verb?_releaseSlot {s : State} {p vid : Nat} {v : Verb} (h : s.verb? p vid = some v) :
    (s.releaseSlot p vid).verb? p vid = some { v with slot := none } := by
  rw [State.verb?_releaseSlot_same, h, Option.map_some]

/-- A change of a verb leaves the virtual functions. -/
@[simp] theorem State.vf_modVerb (s : State) (p q vid : Nat) (f : Verb → Verb) : (s.modVerb p vid f).vf q = s.vf q := rfl

/-! ## Reading an entry (R402) -/

theorem State.takeEntry_only (s : State) (p : Nat) (v : Verb) : s.takeEntry p v = { s with hif := (s.takeEntry p v).hif } := rfl

@[simp] theorem State.takeEntry_verbs (s : State) (p : Nat) (v : Verb) : (s.takeEntry p v).verbs p = s.verbs p ++ [v] :=
  State.verbs_setVerbs_same ..

@[simp] theorem State.takeEntry_waiting (s : State) (p : Nat) (v : Verb) : ((s.takeEntry p v).vf p).waiting = (s.vf p).waiting := by
  change ((s.setVf p _).vf p).waiting = _
  rw [State.vf_setVf_same]

/-- A verb that is read under a fresh number stands under it. -/
theorem State.takeEntry_verb? {s : State} {p : Nat} {v : Verb} (h : ∀ w ∈ s.verbs p, w.id ≠ v.id) :
    (s.takeEntry p v).verb? p v.id = some v := by
  have hnone : (s.verbs p).find? (fun w => w.id == v.id) = none := List.find?_eq_none.mpr fun w hw => by simpa using h w hw
  simp [State.verb?, hnone]

theorem doSqEntryRead_some {s : State} {p : Nat} (hr : s.canReadSq p = true) (b : Bytes) (edits : Option Bytes) :
    doSqEntryRead p (some b) edits s = (s.takeEntry p (s.entryVerb p b edits)).accept p b (s.entryVerb p b edits) := by
  simp [doSqEntryRead, hr]

theorem doSqEntryRead_none {s : State} {p : Nat} (hr : s.canReadSq p = true) (edits : Option Bytes) :
    doSqEntryRead p none edits s = ((s.takeEntry p (s.entryVerb p (zeros 128) edits)).complete p s.hif.nextVerb
      (if s.entriesFenced p = true then .fenced else .badArgument) 0x8000).countSat .hifDbErr p := by
  simp only [doSqEntryRead, hr]
  rfl

/-! ### The checks of an entry, in their order (R403, R32, R209) -/

section
variable {s : State} {p : Nat} {b : Bytes} {v : Verb}

theorem State.accept_fenced (h : s.entriesFenced p = true) : s.accept p b v = s.complete p v.id .fenced := by
  simp [State.accept, h]

variable (hf : s.entriesFenced p = false)
include hf

theorem State.accept_malformed (h : entryMalformed b = true) : s.accept p b v = s.complete p v.id .badArgument := by
  simp [State.accept, hf, h]

variable (hm : entryMalformed b = false)
include hm

theorem State.accept_badHandle (hp : v.scope ≠ .part) (h : s.checkHandle p v.handle v.seq v.scope = none) :
    s.accept p b v = s.complete p v.id .badHandle := by
  simp [State.accept, hf, hm, hp, h]

theorem State.accept_badQueue (hp : v.scope = .part) (hacts : v.acts = false) (h : s.queueIn p v.queueField = false) :
    s.accept p b v = s.complete p v.id .badArgument := by
  simp [State.accept, hf, hm, hp, hacts, h]

variable (hok : v.scope = .part ∨ (s.checkHandle p v.handle v.seq v.scope).isSome = true)
include hok

theorem State.accept_acts (hacts : v.acts = true) :
    s.accept p b v = ((s.releaseSlot p v.id).modVerb p v.id fun v => { v with phase := .begun }).markStopping v := by
  have hgood : (v.scope != .part && (s.checkHandle p v.handle v.seq v.scope).isNone) = false := by
    rcases hok with h | h <;> simp [h]
  simp [State.accept, hf, hm, hgood, hacts]

theorem State.accept_queued (hacts : v.acts = false) (hq : v.scope = .part → s.queueIn p v.queueField = true) :
    s.accept p b v = (s.modVerb p v.id fun w => { w with queue := s.queueOf v }).ingress p v.id := by
  have hgood : (v.scope != .part && (s.checkHandle p v.handle v.seq v.scope).isNone) = false := by
    rcases hok with h | h <;> simp [h]
  have hqueue : (v.scope == .part && !s.queueIn p v.queueField) = false := by
    by_cases hp : v.scope = .part
    · simp [hq hp]
    · simp [hp]
  simp only [State.accept, hf, hm, hgood, hacts, hqueue, Bool.false_eq_true, if_false]

end

/-- A part-scope verb is neither CLOSE nor STEP. -/
theorem Verb.acts_of_part {v : Verb} (h : v.scope = .part) : v.acts = false := by
  unfold Verb.scope at h
  unfold Verb.acts
  cases hop : v.op with
  | close =>
    rw [hop, scopeOf] at h
    split at h <;> cases h
  | step => rw [hop] at h; cases h
  | _ => rfl

/-- Whatever else a command changes outside the host interface, its verb ends. -/
theorem Ended.after {s t u : State} {p : Nat} {v : Verb} {st : Status} {flags : Nat} {body : RecBody} {h : Option Nat}
    (x : Ended s t p v st flags body h) (e : u.hif = t.hif) : Ended s u p v st flags body h := by
  obtain ⟨hverbs, hvf, hhif, hother⟩ := x
  have hv : ∀ q, u.verbs q = t.verbs q := fun q => by unfold State.verbs; rw [e]
  have hf : ∀ q, u.vf q = t.vf q := fun q => by unfold State.vf; rw [e]
  exact ⟨(hv p).trans hverbs, by rw [hf]; exact hvf, by rw [e]; exact hhif, fun q hq => by rw [hf, hv]; exact hother q hq⟩

/-- A saturating count changes registers, marks of the instant and the lines of faults. -/
theorem State.countSat_only (s : State) (r : RegName) (i n : Nat) :
    s.countSat r i n = { s with regs := (s.countSat r i n).regs, stamps := (s.countSat r i n).stamps,
                                flt := (s.countSat r i n).flt } := by
  unfold State.countSat
  dsimp only
  split <;> rfl

@[simp] theorem State.countSat_hif (s : State) (r : RegName) (i n : Nat) : (s.countSat r i n).hif = s.hif := by
  rw [State.countSat_only]

/-- Settles O10: each check of `State.accept` completes the verb that `State.takeEntry` has put last. -/
theorem refusedEntries : Obligations.RefusedEntries := by
  intro p b edits s hr hfresh
  dsimp only
  generalize hw : s.entryVerb p b edits = v
  have hid : v.id = s.hif.nextVerb := hw ▸ rfl
  have hv : (s.takeEntry p v).verb? p v.id = some v := State.takeEntry_verb? (hid ▸ hfresh)
  have ends : ∀ {st : Status}, (s.takeEntry p v).accept p b v = (s.takeEntry p v).complete p v.id st →
      Does (.sqEntryRead p (some b) edits) s fun t => Ended (s.takeEntry p v) t p v st ∧ t = { s with hif := t.hif } := by
    intro st h
    have hread : doSqEntryRead p (some b) edits s = (s.takeEntry p v).complete p v.id st := by rw [doSqEntryRead_some hr, hw, h]
    refine ⟨_, congrArg Host.Outcome.next hread, ?_, ?_⟩
    · exact (State.complete_ends hv st).1
    · exact hostOnly_trans (s.takeEntry_only p v) (State.complete_ends hv st).2
  refine ⟨fun hf => ends (State.accept_fenced hf), fun hf hm => ends (State.accept_malformed hf hm),
    fun hf hm hp h => ends (State.accept_badHandle hf hm hp h),
    fun hf hm hp h => ends (State.accept_badQueue hf hm hp (Verb.acts_of_part hp) h), ?failed⟩
  case failed =>
    have hz : (s.takeEntry p (s.entryVerb p (zeros 128) edits)).verb? p s.hif.nextVerb = some (s.entryVerb p (zeros 128) edits) :=
      State.takeEntry_verb? hfresh
    obtain ⟨hended, honly⟩ := State.complete_ends hz (if s.entriesFenced p = true then .fenced else .badArgument) 0x8000
    exact ⟨_, congrArg Host.Outcome.next (doSqEntryRead_none hr edits), hended.after (State.countSat_hif ..), _, rfl,
      hostOnly_trans (s.takeEntry_only p _) honly⟩

/-! ## The policer at ingress (R213, R214, R238, R309) -/

/-- The colour of a verb at the head of its queue's ingress, and the buckets after it. -/
def State.policeVerdict (s : State) (p : Nat) (v : Verb) : Colour × Policer :=
  colourOf (s.polMode v.queue)
    (if v.coloured = true then (if s.colorAware v.queue = true then .yellow else .green) else s.preColour v.queue v.prio)
    (s.policedLen p v) (s.cbs v.queue) (s.ebs v.queue) (s.refilled v.queue)

/-- Colouring debits the buckets, counts the colour, and marks the verb. -/
theorem State.colourVerb_eq (s : State) (p : Nat) (v : Verb) :
    (s.colourVerb p v).1 = (s.policeVerdict p v).1 ∧ ∃ u : State, u = { s with regs := u.regs, shp := u.shp } ∧
      u.policer v.queue = (s.policeVerdict p v).2 ∧ (s.colourVerb p v).2 = u.modVerb p v.id fun v => { v with coloured := true } := by
  generalize hx : (s.policeVerdict p v).2 = x
  have hcount := State.RegsOnly.countColour (s.setPolicer v.queue x) v.queue (s.policeVerdict p v).1
  by_cases hc : (s.policeVerdict p v).1 = .red ∧ v.coloured = true
  · refine ⟨rfl, s.setPolicer v.queue x, rfl, State.policer_setPolicer_same .., ?_⟩
    rw [← hx]
    exact congrArg (State.modVerb · p v.id _) (if_pos hc)
  · refine ⟨rfl, (s.setPolicer v.queue x).countColour v.queue (s.policeVerdict p v).1, ?_, ?_, ?_⟩
    · rw [hcount]; rfl
    · rw [State.policer_countColour, State.policer_setPolicer_same]
    · rw [← hx]
      exact congrArg (State.modVerb · p v.id _) (if_neg hc)

/-- What a verb becomes that its policer has let pass: it is held in its slot, or queued. -/
def State.admitted (s : State) (p : Nat) (v : Verb) : Verb :=
  if (s.fencedByChange p && v.epoch != s.epoch || s.heldByPoint p v) = true then { v with phase := .held }
  else { v with phase := .queued, slot := none }

theorem State.enterQueue_verb? {s : State} {p : Nat} {v : Verb} (h : s.verb? p v.id = some v) :
    (s.enterQueue p v.id).verb? p v.id = some (s.admitted p v) := by
  unfold State.enterQueue State.admitted
  rw [h]
  dsimp only
  split
  · exact State.verb?_modVerb h fun _ => rfl
  · exact State.verb?_modVerb (State.verb?_releaseSlot h) fun _ => rfl

theorem State.enterQueue_only (s : State) (p vid : Nat) : s.enterQueue p vid = { s with hif := (s.enterQueue p vid).hif } := by
  unfold State.enterQueue
  split
  · rfl
  · split
    · rfl
    · exact hostOnly_trans (s.releaseSlot_only p vid) rfl

/-- Where a verb that has been coloured stands (R214): refused with POLICED, held, or admitted. -/
def State.PolicedTo (s t : State) (p : Nat) (v : Verb) : Colour → Prop
  | .never => t.verb? p v.id = none ∧ (t.vf p).waiting = (s.vf p).waiting ++ [{ record := verbRec v .policed 0 [] none }]
  | .red =>
    if s.redDefers v.queue = true then t.verb? p v.id = some { v with phase := .deferred, coloured := true }
    else t.verb? p v.id = none ∧ (t.vf p).waiting = (s.vf p).waiting ++ [{ record := verbRec v .policed 0 [] none }]
  | _ => t.verb? p v.id = some (s.admitted p { v with coloured := true })

/-- A verb at the head of its queue's ingress is coloured and then stands where its colour puts it. -/
theorem State.policeVerb_spec {s : State} {p : Nat} {v : Verb} (h : s.verb? p v.id = some v) :
    (s.policeVerb p v).2.policer v.queue = (s.policeVerdict p v).2 ∧ (s.policeVerb p v).2.dir = s.dir ∧
    s.PolicedTo (s.policeVerb p v).2 p v (s.policeVerdict p v).1 := by
  obtain ⟨hc, u, hu, hpol, ht⟩ := s.colourVerb_eq p v
  generalize hg : (u.modVerb p v.id fun v => { v with coloured := true }) = g at ht
  have hgu : g = { u with hif := g.hif } := hg ▸ rfl
  have hgp : g.policer v.queue = (s.policeVerdict p v).2 := by rw [← hg, State.policer_modVerb, hpol]
  have hgd : g.dir = s.dir := by rw [hgu, hu]
  have hv : g.verb? p v.id = some { v with coloured := true } := by
    rw [← hg]
    exact State.verb?_modVerb ((State.verb?_congr (s := s) (by rw [hu]) p v.id).trans h) fun _ => rfl
  have hwait : (g.vf p).waiting = (s.vf p).waiting := by
    rw [← hg, State.vf_modVerb, State.vf_congr (s := s) (by rw [hu])]
  -- what follows the colouring changes the host interface alone
  have keep : ∀ {t : State}, t = { g with hif := t.hif } → t.policer v.queue = (s.policeVerdict p v).2 ∧ t.dir = s.dir := by
    intro t e
    rw [e]
    exact ⟨hgp, hgd⟩
  have refused : (g.complete p v.id .policed).verb? p v.id = none ∧
      ((g.complete p v.id .policed).vf p).waiting = (s.vf p).waiting ++ [{ record := verbRec v .policed 0 [] none }] := by
    obtain ⟨hgone, hrec⟩ := g.complete_some p v.id .policed 0 [] none _ hv
    exact ⟨hgone, by rw [hrec, hwait]; rfl⟩
  have hqueued : (g.enterQueue p v.id).verb? p v.id = some (s.admitted p { v with coloured := true }) := by
    rw [State.enterQueue_verb? (v := { v with coloured := true }) hv, hgu, hu]
    rfl
  generalize (s.policeVerdict p v).1 = c at hc ⊢
  have hcg : s.colourVerb p v = (c, g) := Prod.ext hc ht
  unfold State.policeVerb
  rw [hcg]
  cases c with
  | green => exact ⟨(keep (g.enterQueue_only ..)).1, (keep (g.enterQueue_only ..)).2, hqueued⟩
  | yellow => exact ⟨(keep (g.enterQueue_only ..)).1, (keep (g.enterQueue_only ..)).2, hqueued⟩
  | never => exact ⟨(keep (g.complete_only ..)).1, (keep (g.complete_only ..)).2, refused⟩
  | red =>
    dsimp only [State.PolicedTo]
    by_cases hd : s.redDefers v.queue = true
    · rw [if_pos hd, if_pos hd]
      by_cases hp : v.phase = .deferred
      · rw [if_pos (beq_iff_eq.mpr hp)]
        exact ⟨hgp, hgd, hv.trans (by rw [← hp])⟩
      · rw [if_neg (fun h => hp (beq_iff_eq.mp h))]
        exact ⟨hgp, hgd, State.verb?_modVerb hv fun _ => rfl⟩
    · rw [if_neg hd, if_neg hd]
      exact ⟨(keep (g.complete_only ..)).1, (keep (g.complete_only ..)).2, refused⟩

/-! ## Entries that are taken up (R37, R38, R209) -/

theorem State.markStopping_only (s : State) (v : Verb) : s.markStopping v = { s with dir := (s.markStopping v).dir } := by
  unfold State.markStopping State.modSeqs State.modSeq State.modSession
  split
  · split <;> rfl
  · split
    · split <;> rfl
    · rfl

/-- The verb of an entry that has just been read is no verb that its policer holds. -/
theorem State.deferred_takeEntry {s : State} {p q : Nat} {v : Verb} {f : Verb → Verb} (hfresh : ∀ w ∈ s.verbs p, w.id ≠ v.id)
    (hf : (f v).phase ≠ .deferred) : ((s.takeEntry p v).modVerb p v.id f).deferred p q = s.deferred p q := by
  have hold : lmod (fun w => w.id == v.id) f (s.verbs p) = s.verbs p :=
    (List.map_congr_left fun w hw => if_neg (by simpa using hfresh w hw)).trans (List.map_id _)
  have hlist : ((s.takeEntry p v).modVerb p v.id f).verbs p = s.verbs p ++ [f v] := by
    rw [State.modVerb, State.verbs_setVerbs_same, State.takeEntry_verbs]
    simpa [lmod] using hold
  simp [State.deferred, hlist, hf]

theorem State.ingress_behind {s : State} {p : Nat} {v : Verb} (h : s.verb? p v.id = some v)
    (hd : (s.deferred p v.queue).isEmpty = false) :
    s.ingress p v.id = (s.modVerb p v.id fun v => { v with phase := .deferred }).count .shpDeferred v.queue := by
  simp [State.ingress, h, hd]

theorem State.ingress_first {s : State} {p : Nat} {v : Verb} (h : s.verb? p v.id = some v)
    (hd : (s.deferred p v.queue).isEmpty = true) : s.ingress p v.id = (s.policeVerb p v).2 := by
  simp [State.ingress, h, hd]

/-- A verb that acts has begun as soon as it is read. -/
theorem State.acted_spec {s : State} {p : Nat} {v w : Verb} (h : s.verb? p v.id = some v) :
    let t := ((s.releaseSlot p v.id).modVerb p v.id fun v => { v with phase := .begun }).markStopping w
    t.verb? p v.id = some { v with slot := none, phase := .begun } ∧ t.hif.nextVerb = s.hif.nextVerb ∧
    t = { s with hif := t.hif, dir := t.dir } := by
  dsimp only
  generalize hg : (s.releaseSlot p v.id).modVerb p v.id (fun v => { v with phase := .begun }) = g
  have ht := g.markStopping_only w
  have hgs : g = { s with hif := g.hif } := hg ▸ hostOnly_trans (s.releaseSlot_only p v.id) rfl
  refine ⟨?_, ?_, ?_⟩
  · rw [State.verb?_congr (s := g) (by rw [ht]), ← hg]
    exact State.verb?_modVerb (State.verb?_releaseSlot h) fun _ => rfl
  · rw [ht]
    show g.hif.nextVerb = _
    rw [← hg]
    show (s.releaseSlot p v.id).hif.nextVerb = _
    rw [(s.releaseSlot_host p v.id).1]
  · rw [ht, hgs]

/-- Settles O11: a good entry acts, or comes to its queue's policer, which `State.policeVerb_spec` describes. -/
theorem goodEntries : Obligations.GoodEntries := by
  intro p b edits s hr hfresh hf hm
  have hread := doSqEntryRead_some hr b edits
  dsimp only
  generalize hw : s.entryVerb p b edits = v at hread
  have hid : v.id = s.hif.nextVerb := hw ▸ rfl
  have hphase : v.phase = .queued := hw ▸ rfl
  have hnew : v.coloured = false := hw ▸ rfl
  have hfresh' : ∀ w ∈ s.verbs p, w.id ≠ v.id := hid ▸ hfresh
  have hv : (s.takeEntry p v).verb? p v.id = some v := State.takeEntry_verb? hfresh'
  refine fun hok => ⟨fun hacts => ?acts, fun hacts hq => ?queued⟩
  case acts =>
    refine ⟨_, congrArg Host.Outcome.next (hread.trans (State.accept_acts hf hm hok hacts)), ?_⟩
    exact State.acted_spec hv
  case queued =>
    have haccept := hread.trans (State.accept_queued (s := s.takeEntry p v) hf hm hok hacts hq)
    have hqueue : (s.takeEntry p v).queueOf v = s.queueOf v := rfl
    rw [hqueue] at haccept
    generalize s.queueOf v = q at haccept
    generalize hg : (s.takeEntry p v).modVerb p v.id (fun w => { w with queue := q }) = g at haccept
    have hdef : g.deferred p q = s.deferred p q := hg ▸ State.deferred_takeEntry hfresh' (by rw [hphase]; decide)
    have hgv : g.verb? p v.id = some { v with queue := q } := hg ▸ State.verb?_modVerb hv fun _ => rfl
    have hgs : g = { s with hif := g.hif } := hg ▸ rfl
    have hwait : (g.vf p).waiting = (s.vf p).waiting := by rw [← hg, State.vf_modVerb, State.takeEntry_waiting]
    refine ⟨fun hd => ?behind, fun hd => ?first⟩
    case behind =>
      refine ⟨_, congrArg Host.Outcome.next (haccept.trans (State.ingress_behind (v := { v with queue := q }) hgv (hdef ▸ hd))),
        State.verb?_modVerb hgv fun _ => rfl, ?_⟩
      rw [hgs]
      rfl
    case first =>
      refine ⟨_, congrArg Host.Outcome.next (haccept.trans (State.ingress_first (v := { v with queue := q }) hgv (hdef ▸ hd))), ?_⟩
      obtain ⟨hpol, hdir, hto⟩ := State.policeVerb_spec (v := { v with queue := q }) hgv
      have hverdict : g.policeVerdict p { v with queue := q } = colourOf (s.polMode q) (s.preColour q v.prio) (s.policedLen p v)
          (s.cbs q) (s.ebs q) (s.refilled q) := by
        rw [State.policeVerdict, if_neg (by simp [hnew]), hgs]
        rfl
      rw [hverdict] at hpol hto
      refine ⟨hpol, hdir.trans (by rw [hgs]), ?_⟩
      generalize colourOf _ _ _ _ _ _ = c at hto
      have hadmit : g.admitted p { v with queue := q, coloured := true } =
          if (s.fencedByChange p && v.epoch != s.epoch || s.heldByPoint p v) = true then
            { v with queue := q, phase := .held, coloured := true }
          else { v with queue := q, phase := .queued, coloured := true, slot := none } := by
        rw [hgs]
        rfl
      have hred : g.redDefers q = s.redDefers q := by rw [hgs]; rfl
      obtain ⟨c, x⟩ := c
      cases c with
      | never => exact ⟨hto.1, _, hwait ▸ hto.2, rfl⟩
      | red =>
        simp only [State.PolicedTo, hred, hwait] at hto
        dsimp only
        split at hto
        · next hd => rw [if_pos hd]; exact hto
        · next hd => rw [if_neg hd]; exact ⟨hto.1, _, hto.2, rfl⟩
      | _ =>
        have hadmitted := Eq.trans (show _ = some (g.admitted p _) from hto) (congrArg some hadmit)
        dsimp only
        split at hadmitted
        · next hh => rw [if_pos hh]; exact hadmitted
        · next hh => rw [if_neg hh]; exact hadmitted

/-! ## Completion records (R406, R409) -/

theorem State.modSession_only (s : State) (d : Nat) (f : Session → Session) :
    s.modSession d f = { s with dir := (s.modSession d f).dir } := by
  unfold State.modSession
  split <;> rfl

theorem State.modSeq_only (s : State) (d n : Nat) (f : Seq → Seq) : s.modSeq d n f = { s with dir := (s.modSeq d n f).dir } := by
  unfold State.modSeq
  split
  · exact s.modSession_only d _
  · rfl

/-- What a change of a sequence makes of the directory depends on the directory alone. -/
theorem State.modSeq_dir_congr {s t : State} (h : t.dir = s.dir) (d n : Nat) (f : Seq → Seq) :
    (t.modSeq d n f).dir = (s.modSeq d n f).dir := by
  have hseq : t.seq? d n = s.seq? d n := by unfold State.seq? State.session?; rw [h]
  have hses : t.session? d = s.session? d := by unfold State.session?; rw [h]
  unfold State.modSeq State.modSession
  rw [hseq, hses]
  split
  · split
    · simp only [State.setSession, h]
    · exact h
  · exact h

/-- Vector 0 is sent at once where COAL_US is 0, and else at COAL_COUNT records (0 acts as 1). -/
abbrev Vf.fires (x : Vf) : Prop := x.coalUs = 0 ∨ max 1 x.coalCount ≤ x.unsignalled + 1

theorem State.coalesce_spec (s : State) (p : Nat) :
    (s.coalesce p).out = s.out ++ (if (s.vf p).fires then [.msix (.vf p) 0] else []) ∧
    (∃ since sent, (s.coalesce p).vf p = { s.vf p with
      unsignalled := if (s.vf p).fires then 0 else (s.vf p).unsignalled + 1, unsignalledSince := since, msix := sent }) ∧
    s.coalesce p = { s with hif := (s.coalesce p).hif, out := (s.coalesce p).out } := by
  unfold State.coalesce
  by_cases h : (s.vf p).fires
  · rw [if_pos h, if_pos h, if_pos (by simpa [Vf.fires] using h)]
    refine ⟨rfl, ?_, rfl⟩
    simp only [State.signal, State.vf_setVf_same]
    exact ⟨_, _, State.vf_setVf_same ..⟩
  · rw [if_neg h, if_neg h, if_neg (by simpa [Vf.fires] using h)]
    exact ⟨(List.append_nil _).symm, ⟨_, _, State.vf_setVf_same ..⟩, rfl⟩

/-- The oldest record has gone into the slot at the CQ's index. -/
def State.wroteRecord (s : State) (p : Nat) (w : Waiting) (rest : List Waiting) : State :=
  let v := s.vf p
  let last := v.cqIndex + 1 = ringSlots v.cqSize
  let t := (s.setVf p { v with
    waiting := ((rest.take Config.recordBuffer).map fun x => { x with inDir := false }) ++ rest.drop Config.recordBuffer,
    csnNext := (v.csnNext + 1) % two64, cqUsed := v.cqUsed + 1, cqIndex := if last then 0 else v.cqIndex + 1,
    cqPhase := if last then !v.cqPhase else v.cqPhase }).emit
      (.hostWrite (v.cqBase + 128 * v.cqIndex) (recordBytes w.record v.csnNext v.cqPhase))
  if w.notice.isSome then t else t.modSeq (hIndex w.record.handle) w.record.seq fun q => { q with csn := v.csnNext }

theorem doCqRecordWrite_eq {s : State} {p : Nat} {w : Waiting} {rest : List Waiting} (hc : s.canWriteCq p = true)
    (hw : (s.vf p).waiting = w :: rest) : doCqRecordWrite p s = (s.wroteRecord p w rest).coalesce p := by
  unfold doCqRecordWrite State.wroteRecord
  simp only [hc, hw]
  rfl

/-- The records that wait stay the same when some of them move from their directory records into the buffer. -/
theorem records_intoBuffer (rest : List Waiting) (n : Nat) :
    ((((rest.take n).map fun x : Waiting => { x with inDir := false }) ++ rest.drop n).map Waiting.record) = rest.map (·.record) := by
  rw [List.map_append, List.map_map]
  show (rest.take n).map (·.record) ++ (rest.drop n).map (·.record) = _
  rw [← List.map_append, List.take_append_drop]

theorem State.wroteRecord_spec (s : State) (p : Nat) (w : Waiting) (rest : List Waiting) :
    let v := s.vf p
    let t := s.wroteRecord p w rest
    t.vf p = { v with
      waiting := ((rest.take Config.recordBuffer).map fun x => { x with inDir := false }) ++ rest.drop Config.recordBuffer,
      csnNext := (v.csnNext + 1) % two64, cqUsed := v.cqUsed + 1,
      cqIndex := if v.cqIndex + 1 = ringSlots v.cqSize then 0 else v.cqIndex + 1,
      cqPhase := if v.cqIndex + 1 = ringSlots v.cqSize then !v.cqPhase else v.cqPhase } ∧
    t.out = s.out ++ [.hostWrite (v.cqBase + 128 * v.cqIndex) (recordBytes w.record v.csnNext v.cqPhase)] ∧
    t.dir = (if w.notice.isSome = true then s
             else s.modSeq (hIndex w.record.handle) w.record.seq fun q => { q with csn := v.csnNext }).dir ∧
    t = { s with hif := t.hif, dir := t.dir, out := t.out } := by
  dsimp only
  unfold State.wroteRecord
  by_cases h : w.notice.isSome = true
  · rw [if_pos h, if_pos h]
    exact ⟨State.vf_setVf_same .., rfl, rfl, rfl⟩
  · rw [if_neg h, if_neg h]
    refine ⟨?_, ?_, State.modSeq_dir_congr (by rfl) .., ?_⟩
    · rw [State.vf_congr (by rw [State.modSeq_only])]
      exact State.vf_setVf_same ..
    · rw [State.modSeq_only]
      rfl
    · rw [State.modSeq_only]
      rfl

/-- Settles O12: the slot is written by `State.wroteRecord`, and `State.coalesce` sends or keeps the signal. -/
theorem recordsReachTheHost : Obligations.RecordsReachTheHost := by
  refine ⟨fun p w rest s hc hw => ⟨_, congrArg Host.Outcome.next (doCqRecordWrite_eq hc hw), ?written⟩,
    fun p s hup hn htime => congrArg Host.Outcome.next (if_pos (by simp [hup, hn, htime]))⟩
  case written =>
    obtain ⟨hvf, hout, hdir, honly⟩ := s.wroteRecord_spec p w rest
    generalize s.wroteRecord p w rest = g at *
    obtain ⟨hsent, ⟨since, sent, hx⟩, hkeep⟩ := g.coalesce_spec p
    have hfires : (g.vf p).fires ↔ (s.vf p).fires := by rw [hvf]
    rw [hvf] at hx
    refine ⟨?_, ?_, ?_, ?_, ?_, ?_, ?_, ?_, ?_⟩
    · rw [hsent, hout, ite_cond_congr (propext hfires)]
    · rw [hx]
      exact records_intoBuffer rest Config.recordBuffer
    · rw [hx]
    · rw [hx]
    · rw [hx]
    · rw [hx]
    · rw [hx]
    · rw [hkeep, ← hdir]
    · rw [hkeep, honly]

/-! ## The turn of a verb (R37) -/

theorem doVerbBegin_eq {s : State} {p vid : Nat} {v : Verb} (hv : s.verb? p vid = some v) (hq : v.phase = .queued)
    (hlive : s.live = true) (hroom : s.bufferFull p = false) (hturn : s.turn p v = true) (hf : s.partFenced p = false)
    (him : (s.partImage? p).isSome = true) :
    doVerbBegin p vid s = match s.refuses p v with
      | some st => s.complete p vid st
      | none => s.modVerb p vid fun v => { v with phase := .begun } := by
  have him' : (s.partImage? p).isNone = false := by simpa using him
  simp only [doVerbBegin, hv, hq, hlive, hroom, hturn, hf, him']
  rfl

section
variable {s : State} {p : Nat} {v : Verb}

theorem State.refuses_noPrk (h : s.hasPrk p = false) : s.refuses p v = some .badState := by
  simp [State.refuses, h]

variable (hprk : s.hasPrk p = true)
include hprk

theorem State.refuses_noProgram (hn : needsProgram v.op = true) (h : s.program? p = none) : s.refuses p v = some .badState := by
  simp [State.refuses, hprk, hn, h]

variable (hprog : needsProgram v.op = true → (s.program? p).isSome = true)
include hprog

/-- With a key and the program that it needs, a verb of a session is judged by handle, record, sequence and state. -/
theorem State.refuses_eq : s.refuses p v =
    if v.scope = .part then none
    else match s.checkHandle p v.handle v.seq v.scope with
      | none => some .badHandle
      | some d =>
        if v.op = .close then none
        else if (s.recOf d).damaged = true then some .tierFailed
        else if (s.recOf d).expired = true then some .ttlExpired
        else match s.session? d with
          | none => some .badHandle
          | some x =>
            if ((v.scope == .sequence || v.op == .fork) &&
                (match tget x.seqs v.seq with | some q => q.state == .poisoned | none => false)) = true then some .poisoned
            else if (s.roleOf p == .state && stateRefuses v.op) = true then some .badState
            else if (v.op == .place && !s.objectMode p) = true then some .badState
            else if stateAccepts v x = true then none
            else some .badState := by
  have hn : (needsProgram v.op && (s.program? p).isNone) = false := by simpa using hprog
  unfold State.refuses
  simp only [hprk, hn, beq_iff_eq]
  rfl

end

/-- Settles O13: `doVerbBegin_eq`, and the checks of `State.refuses` in their order. -/
theorem verbsBegin : Obligations.VerbsBegin := by
  intro p vid v s hv hq hlive hroom hturn hf him
  have hbegin := doVerbBegin_eq hv hq hlive hroom hturn hf him
  refine ⟨fun st h => ?refused, fun h => congrArg Host.Outcome.next (by rw [hbegin, h]), State.refuses_noPrk,
    fun hprk => State.refuses_noProgram hprk, fun hprk hprog => ?judged⟩
  case refused => exact ⟨_, congrArg Host.Outcome.next (by rw [hbegin, h]), State.complete_ends hv st⟩
  case judged =>
    rw [State.refuses_eq hprk hprog]
    refine ⟨fun hp => if_pos hp, fun hp hh => by rw [if_neg hp, hh], fun d x hp hh hx hclose => ?_⟩
    rw [if_neg hp, hh]
    simp only [hclose, if_false, hx]
    refine ⟨fun h => if_pos h, fun h h' => by simp [h, h'], fun h h' => ?_⟩
    simp only [h, h', Bool.false_eq_true, if_false]
    refine ⟨fun q hq hs hp => by simp [hq, hs, hp], fun hpoison hrole hplace => ?_⟩
    have hsound : (match tget x.seqs v.seq with | some q => q.state == .poisoned | none => false) = false := by
      cases hq : tget x.seqs v.seq with
      | none => rfl
      | some q => simpa using hpoison q hq
    simp [hsound, hrole, hplace]

/-! ## Held verbs and the registers of a policer (R214, R215) -/

theorem State.retryQueue_one (s : State) (p : Nat) (v : Verb) : s.retryQueue p [v] = (s.policeVerb p v).2 := by
  unfold State.retryQueue
  split
  next on t h =>
    rw [h]
    split <;> rfl

theorem State.deferred_congr {s t : State} (h : t.hif = s.hif) (p q : Nat) : t.deferred p q = s.deferred p q := by
  unfold State.deferred State.verbs
  rw [h]

@[simp] theorem State.setReg_policer (s : State) (r : RegName) (i j : Nat) (v : W64) (q : Nat) :
    (s.setReg r i j v).policer q = s.policer q := rfl

/-- Buckets that are filled up stand at the present. -/
theorem State.refilled_time (s : State) (q : Nat) : (s.refilled q).time = s.now := by
  unfold State.refilled
  dsimp only
  split
  · rfl
  · split <;> rfl

/-- A policer's register is written, its buckets brought up to now before and clamped after; no held verb waits. -/
theorem State.policerWrite_idle {s : State} {q : Nat} {r : RegName} {v : W64} (hnone : ∀ p, s.deferred p q = []) :
    s.policerWrite q r v = ((s.setPolicer q (s.refilled q)).setReg r q 0 v).clampBuckets q := by
  unfold State.policerWrite
  dsimp only
  split
  · next p _ =>
    have hnone' : (((s.setPolicer q (s.refilled q)).setReg r q 0 v).clampBuckets q).deferred p q = [] := hnone p
    rw [hnone']
    rfl
  · rfl

/-- The registers of a policer that POLICER_WRITE names. -/
def policerReg (which : Nat) : RegName :=
  match which with
  | 0 => .shpPolRate
  | 1 => .shpPolBurst
  | _ => .shpQueueCfg

theorem State.pfEffect_policerReg (s : State) (which q : Nat) (v lanes : W64) :
    s.pfEffect (policerReg which) q v lanes = s.pfWrite (regAddr (policerReg which) q 0) v fun t =>
      t.policerWrite q (policerReg which) (t.rwWord (policerReg which) q v lanes) := by
  unfold policerReg
  split <;> rfl

theorem policerReg_row (which : Nat) : (regRow (policerReg which)).n1 = 4096 ∧ (regRow (policerReg which)).n2 = 1 := by
  unfold policerReg
  split <;> decide

theorem policerReg_aligned (which q : Nat) : regAddr (policerReg which) q 0 % 8 = 0 := by
  unfold policerReg
  split <;> simp only [regAddr, regRow, queueRow, blockBase] <;> omega

/-- Under all byte lanes the whole mask is written. -/
theorem and_allOnes (w : W64) : w &&& 0xFFFFFFFFFFFFFFFF = w := BitVec.and_allOnes

theorem doPolicerWrite_eq {s : State} {q : Nat} (which : Nat) (v : W64) (hq : q < 4096) (ha : s.answers .pf = true)
    (hs : s.flt.safe = false) (hf : s.auditFull = false) (hk : s.headKnown = true) :
    doPolicerWrite q which v s = (s.recorded .pf (regAddr (policerReg which) q 0) v).policerWrite q (policerReg which)
      ((s.reg (policerReg which) q &&& ~~~(w64 (rwMask (policerReg which) q))) ||| (v &&& w64 (rwMask (policerReg which) q))) := by
  obtain ⟨hn1, hn2⟩ := policerReg_row which
  have hat : resolve .pf (regAddr (policerReg which) q 0) = some (policerReg which, q, 0) :=
    regAt_regAddr (hn1.symm ▸ hq) (hn2 ▸ Nat.zero_lt_one)
  calc doPolicerWrite q which v s
    _ = s.regWrite .pf (regAddr (policerReg which) q 0) 8 v := if_pos hq
    _ = s.pfEffect (policerReg which) q v 0xFFFFFFFFFFFFFFFF := State.regWrite_pf v ha hs (policerReg_aligned which q) hat hn2
    _ = _ := by
      rw [State.pfEffect_policerReg, State.pfWrite_recorded hf hk, State.rwWord, State.recorded_reg, and_allOnes]

/-- Settles O14: a held verb alone in its queue is judged by `State.policeVerb_spec`; a policer's register is written by
`State.policerWrite_idle` after PF0's record. -/
theorem policedVerbs : Obligations.PolicedVerbs := by
  refine ⟨fun p q v s hlive hd hv hcol hchange hpoint => ⟨_, congrArg Host.Outcome.next (if_pos hlive), ?passes⟩,
    fun q which v s hq ha hs hf hk hnone =>
      ⟨_, congrArg Host.Outcome.next ((doPolicerWrite_eq which v hq ha hs hf hk).trans (State.policerWrite_idle ?none)), ?write⟩⟩
  case none => exact fun p => (State.deferred_congr (by rw [State.recorded_hif]) p q).trans (hnone p)
  case passes =>
    have hmem : v ∈ s.deferred p q := hd ▸ List.mem_singleton.mpr rfl
    obtain ⟨-, hheld⟩ := List.mem_filter.mp hmem
    obtain ⟨hphase, rfl⟩ : v.phase = .deferred ∧ v.queue = q := by simpa using hheld
    rw [hd, State.retryQueue_one]
    obtain ⟨hpol, hdir, hto⟩ := State.policeVerb_spec hv
    have hmark : { v with phase := .deferred, coloured := true } = v := by rw [← hphase, ← hcol]
    have hmark' : { v with coloured := true } = v := by rw [← hcol]
    have hadmit : s.admitted p v = { v with phase := .queued, slot := none } := by simp [State.admitted, hchange, hpoint]
    simp only [State.policeVerdict, hcol, if_true] at hpol hto
    refine ⟨hpol, hdir, ?_⟩
    generalize colourOf _ _ _ _ _ _ = c at hto
    obtain ⟨c, x⟩ := c
    cases c with
    | never => exact hto
    | red => rwa [State.PolicedTo, hmark] at hto
    | _ =>
      have hpassed : (s.policeVerb p v).2.verb? p v.id = some (s.admitted p { v with coloured := true }) := hto
      rwa [hmark', hadmit] at hpassed
  case write =>
    change State.reg _ (policerReg which) q = _ ∧ _
    have hrec := s.recorded_eq .pf (regAddr (policerReg which) q 0) v
    have hrefill : (s.recorded .pf (regAddr (policerReg which) q 0) v).refilled q = s.refilled q := by rw [hrec]; rfl
    have hsec : (s.recorded .pf (regAddr (policerReg which) q 0) v).sec.audit = s.sec.audit ++ [auditBytes
      (s.sec.battery.auditSeq + 1) s.now auditPf 0 0 (regAddr (policerReg which) q 0) v.toNat [] s.sec.battery.auditHash] := rfl
    generalize s.recorded .pf (regAddr (policerReg which) q 0) v = u at hrec hrefill hsec
    refine ⟨State.reg_setReg_same .., ?_, ?_, hsec⟩
    · rw [State.clampBuckets, State.policer_setPolicer_same]
      simp only [State.setReg_policer, State.policer_setPolicer_same, hrefill, ← s.refilled_time q]
      rfl
    · rw [hrec]
      rfl

end Machine
end Sys2Proof

/-!
PROOFS. Settling O17 (SessionsRevive) and O19 (PlacesAndClocksOfSessions): revives and what waits for them, expiry,
wake-ahead, PLACE.
-/
namespace Sys2Proof
namespace Machine

/-! ## Sessions and sequences after an update -/

section
variable {s t : State} (h : t.dir = s.dir)
include h

theorem State.session?_congr (d : Nat) : t.session? d = s.session? d := by
  rw [State.session?, h, State.session?]

theorem State.seq?_congr (d n : Nat) : t.seq? d n = s.seq? d n := by
  unfold State.seq?
  rw [State.session?_congr h]

theorem State.recOf_congr (d : Nat) : t.recOf d = s.recOf d := by
  rw [State.recOf, h, State.recOf]

end

theorem State.session?_modSession (s : State) (d : Nat) (f : Session → Session) :
    (s.modSession d f).session? d = (s.session? d).map f := by
  unfold State.modSession
  split
  · next x hx => rw [hx, State.session?_setSession_same, Option.map_some]
  · next hx => rw [hx, Option.map_none]

theorem State.recOf_modSession (s : State) (d : Nat) (f : Session → Session) (k : Nat) :
    (s.modSession d f).recOf k = s.recOf k := by
  unfold State.modSession
  split <;> rfl

theorem State.modSession_some {s : State} {d : Nat} {x : Session} (h : s.session? d = some x) (f : Session → Session) :
    s.modSession d f = s.setSession d (f x) := by
  rw [State.modSession, h]

/-- A sequence that stands is changed as asked. -/
theorem State.seq?_modSeq {s : State} {d n : Nat} {q : Seq} (h : s.seq? d n = some q) (f : Seq → Seq) :
    (s.modSeq d n f).seq? d n = some (f q) := by
  unfold State.modSeq
  rw [h]
  unfold State.seq? at h ⊢
  rw [State.session?_modSession]
  split at h
  · next x hx => rw [hx]; exact tget_tput_same ..
  · cases h

/-! ## Revives (R39, R54) -/

/-- What a revive that cannot start, for a verb that needs it, leads to. -/
def State.reviveFor (s : State) (d vid : Nat) (x : Session) : Option Status × Option State :=
  if x.revive.isSome = true then (none, some s)
  else match s.startRevive d (some vid) false with
    | some t => (none, some t)
    | none => (some ((s.reviveBad d).getD .noCapacity), none)

theorem State.resident_of_resident {s : State} {p : Nat} {v : Verb} {x : Session} (hx : s.session? v.dir = some x)
    (hq : x.quire = none) : s.resident p v = (true, s) := by
  simp [State.resident, hx, hq]

section
variable {s : State} {p : Nat} {v : Verb} {x : Session} (hx : s.session? v.dir = some x) (hq : x.quire.isSome = true)
include hx hq

/-- A parked session revives for its verb, or a revive under way goes on. -/
theorem State.resident_revives {t : State} (h : s.reviveFor v.dir v.id x = (none, some t)) : s.resident p v = (false, t) := by
  have hq' : x.quire.isNone = false := by simpa using hq
  unfold State.reviveFor at h
  unfold State.resident
  rw [hx]
  simp only [hq', Bool.false_eq_true, if_false]
  split at h
  · next hr => rw [if_pos hr, ← Option.some.inj (Prod.mk.inj h).2]
  · next hr =>
    rw [if_neg hr]
    cases hu : s.startRevive v.dir (some v.id) false with
    | some u =>
      simp only [hu] at h
      exact congrArg (Prod.mk false) (Option.some.inj (Prod.mk.inj h).2)
    | none =>
      simp only [hu] at h
      cases (Prod.mk.inj h).1

theorem State.resident_refused {st : Status} (h : s.reviveFor v.dir v.id x = (some st, none)) :
    s.resident p v = (false, s.complete p v.id st) := by
  have hq' : x.quire.isNone = false := by simpa using hq
  unfold State.reviveFor at h
  unfold State.resident
  rw [hx]
  simp only [hq', Bool.false_eq_true, if_false]
  split at h
  · cases (Prod.mk.inj h).1
  · next hr =>
    rw [if_neg hr]
    cases hu : s.startRevive v.dir (some v.id) false with
    | some u =>
      simp only [hu] at h
      cases (Prod.mk.inj h).1
    | none =>
      simp only [hu] at h
      exact congrArg (fun st => (false, s.complete p v.id st)) (Option.some.inj (Prod.mk.inj h).1)

end

/-! ### Verbs that find their session parked (Table 2.3) -/

section
variable {s t : State} {p vid : Nat} {v : Verb}

theorem doAppend_waits (hv : s.begun? p vid .append = some v) (harg : v.f 0x2C 1 ≤ 1) (data : Option Bytes)
    (h : s.resident p v = (false, t)) : doAppend p vid data s = t := by
  simp [doAppend, hv, Nat.not_lt.mpr harg, h]

theorem doStepGen_waits {q : Seq} {stops : Option Bytes} (hv : s.begun? p vid .step = some v) (hstop : v.flag flagStop = false)
    (harg : stepArgsOk v = true) (hsl : (s.stopsOf p v stops).isSome = true) (hq : s.seq? v.dir v.seq = some q)
    (hg : (s.stepGrammar p v q).isSome = true) (h : s.resident p v = (false, t)) : doStepGen p vid stops s = t := by
  obtain ⟨sl, hsl⟩ := Option.isSome_iff_exists.mp hsl
  obtain ⟨g, hg⟩ := Option.isSome_iff_exists.mp hg
  simp [doStepGen, hv, hstop, harg, hsl, hq, hg, h]

theorem doFork_waits (hv : s.begun? p vid .fork = some v) (h : s.resident p v = (false, t)) : doFork p vid s = t := by
  simp [doFork, hv, h]

end

/-- A verb whose command leaves it to its session's revive waits for that, or completes with what refuses it. -/
theorem parkedVerb_waits {s : State} {p vid : Nat} {v : Verb} {x : Session} {op : VerbOp} {c : Instr}
    (hx : s.session? v.dir = some x) (hq : x.quire.isSome = true) (hv : s.begun? p vid op = some v)
    (hc : ∀ {t}, s.resident p v = (false, t) → exec c s = .next t) :
    (∀ t, s.reviveFor v.dir vid x = (none, some t) → exec c s = .next t) ∧
    ∀ st, s.reviveFor v.dir vid x = (some st, none) → Does c s fun t => Ended s t p v st ∧ t = { s with hif := t.hif } := by
  obtain ⟨hverb, rfl, -⟩ := State.begun?_verb hv
  exact ⟨fun t ht => hc (State.resident_revives hx hq ht),
    fun st ht => ⟨_, hc (State.resident_refused hx hq ht), State.complete_ends hverb ..⟩⟩

/-! ### REVIVE -/

section
variable {s : State} {p vid : Nat} {v : Verb} {x : Session} (hv : s.begun? p vid .revive = some v)
  (hx : s.session? v.dir = some x)
include hv hx

theorem doRevive_resident (hq : x.quire = none) : doRevive p vid s = s.complete p vid .badState := by
  simp [doRevive, hv, hx, hq]

variable (hq : x.quire.isSome = true)
include hq

theorem doRevive_joins {o : ReviveOp} (hr : x.revive = some o) :
    doRevive p vid s = (s.runVerb p vid).setSession v.dir { x with revive := some { o with joined := o.joined ++ [vid] } } := by
  have hx' : (s.runVerb p vid).session? v.dir = some x := hx
  simp [doRevive, hv, hx, Option.isSome_iff_ne_none.mp hq, hr, State.modSession_some hx']

theorem doRevive_refused (hr : x.revive = none) (hs : s.startRevive v.dir (some vid) false = none) :
    doRevive p vid s = s.complete p vid ((s.reviveBad v.dir).getD .noCapacity) := by
  simp [doRevive, hv, hx, Option.isSome_iff_ne_none.mp hq, hr, hs]

theorem doRevive_starts {t : State} (hr : x.revive = none) (hs : s.startRevive v.dir (some vid) false = some t) :
    doRevive p vid s = t.runVerb p vid := by
  simp [doRevive, hv, hx, Option.isSome_iff_ne_none.mp hq, hr, hs]

end

theorem State.carry_dir (s : State) (l : List (PortId × Nat)) (cls : ArbClass) (o : PortOwner) : (s.carry l cls o).dir = s.dir := by
  rw [State.carry_only]

/-- Every value of a mapped table comes from one of the table. -/
theorem mem_tmap {α β : Type} {f : Nat → α → β} {t : Tab α} {e : Nat × β} (h : e ∈ tmap f t) : ∃ a ∈ t, e = (a.1, f a.1 a.2) := by
  obtain ⟨a, ha, rfl⟩ := List.mem_map.mp h
  exact ⟨a, ha, rfl⟩

/-- A revive that has started: nothing refused it, the session says why and when, and its live sequences are REVIVING. -/
theorem State.startRevive_spec {s t : State} {d : Nat} {cause : Option Nat} {wake : Bool}
    (h : s.startRevive d cause wake = some t) : s.reviveBad d = none ∧
    ∀ x, t.session? d = some x → (∃ o, x.revive = some o ∧ o.cause = cause ∧ o.began = s.now ∧ o.wake = wake) ∧
      ∀ e ∈ x.seqs, e.2.state = .closed ∨ e.2.state = .reviving := by
  unfold State.startRevive at h
  split at h
  · next x hx hbad =>
    refine ⟨hbad, fun y hy => ?_⟩
    split at h
    · cases h
    · split at h
      · cases h
      · split at h
        · cases h
        · dsimp only at h
          rw [← Option.some.inj h, State.modSeqs, State.session?_modSession, State.session?_congr (State.carry_dir ..),
            State.session?_modSession, Option.map_map] at hy
          obtain ⟨z, -, rfl⟩ := Option.map_eq_some_iff.mp hy
          refine ⟨⟨_, rfl, rfl, rfl, rfl⟩, fun e he => ?_⟩
          dsimp only [Function.comp] at he
          obtain ⟨a, -, rfl⟩ := mem_tmap he
          dsimp only
          split
          · next hc => exact .inl (by simpa using hc)
          · exact .inr rfl
  · cases h


/-- A session that REVIVE_DONE has made resident: its record is not parked, it has its data key again, and no quire. -/
def State.Revived (t : State) (d : Nat) (o : ReviveOp) : Prop :=
  (t.recOf d).parked = false ∧ (t.recOf d).tier = 0 ∧ (t.recOf d).parkId = 0 ∧
    ∀ y, t.session? d = some y → y.quire = none ∧ y.revive = none ∧ y.sdk = some y.wrappedSdk ∧ y.flyleaf = o.descs.head?

theorem State.Revived.congr {s t : State} {d : Nat} {o : ReviveOp} (h : t.dir = s.dir) (hs : s.Revived d o) : t.Revived d o := by
  unfold State.Revived
  rwa [State.recOf_congr h, State.session?_congr h]

theorem State.revived_of (t : State) {d : Nat} {o : ReviveOp} (f : Session → Session) (r : DirRec) (hp : r.parked = false)
    (ht : r.tier = 0) (hk : r.parkId = 0) (hf : ∀ z, (f z).quire = none ∧ (f z).revive = none ∧
      (f z).sdk = some (f z).wrappedSdk ∧ (f z).flyleaf = o.descs.head?) : ((t.modSession d f).setRec d r).Revived d o := by
  unfold State.Revived
  rw [State.recOf_setRec_same]
  refine ⟨hp, ht, hk, fun y hy => ?_⟩
  have hy : (t.modSession d f).session? d = some y := hy
  rw [State.session?_modSession] at hy
  obtain ⟨z, -, rfl⟩ := Option.map_eq_some_iff.mp hy
  exact hf z

section
variable {s : State} {d latNs ns : Nat} {x : Session} {o : ReviveOp} {q : Quire} (hx : s.session? d = some x)
  (hr : x.revive = some o) (hq : x.quire = some q) (hlive : s.live = true)
include hx hr hq hlive

theorem doReviveDone_fails (h : s.quireOpens d x q = false) : doReviveDone d latNs ns s = s.failRevive d .tierFailed := by
  simp [doReviveDone, hx, hr, hq, hlive, h]

theorem doReviveDone_done (h : s.quireOpens d x q = true) : (doReviveDone d latNs ns s).Revived d o := by
  unfold doReviveDone
  rw [hx]
  simp only [hr, hq, hlive, h, Bool.not_true, Bool.false_eq_true, if_false]
  refine State.Revived.congr (State.completeAll_dir ..) ?_
  split
  · exact State.Revived.congr (State.count_dir ..) (State.revived_of _ _ _ rfl rfl rfl fun z => ⟨rfl, rfl, rfl, rfl⟩)
  · exact State.revived_of _ _ _ rfl rfl rfl fun z => ⟨rfl, rfl, rfl, rfl⟩

end

/-- Settles O17: each verb goes through the revive of its session, and REVIVE_DONE ends in `State.Revived`. -/
theorem sessionsRevive : Obligations.SessionsRevive := by
  unfold Obligations.SessionsRevive
  refine ⟨⟨fun p vid v x s hv hx => ⟨fun hq => ?_, fun hq o hr => ?_, fun hq hr hs => ?_, fun hq hr t hs => ?_⟩, ?_, ?_⟩, ?_⟩
  · exact ⟨_, congrArg Host.Outcome.next (doRevive_resident hv hx hq), State.complete_ends (State.begun?_verb hv).1 ..⟩
  · exact congrArg Host.Outcome.next (doRevive_joins hv hx hq hr)
  · exact ⟨_, congrArg Host.Outcome.next (doRevive_refused hv hx hq hr hs), State.complete_ends (State.begun?_verb hv).1 ..⟩
  · exact congrArg Host.Outcome.next (doRevive_starts hv hx hq hr hs)
  · exact fun d cause wake s t h => State.startRevive_spec h
  · intro d latNs ns x o q s hx hr hq hlive
    exact ⟨fun h => ⟨_, rfl, doReviveDone_done hx hr hq hlive h⟩,
      fun h => congrArg Host.Outcome.next (doReviveDone_fails hx hr hq hlive h)⟩
  · intro p vid v x q s hx hq hs after
    refine ⟨fun hv harg data => ?_, fun hv hstop harg stops hsl hg => ?_, fun hv => ?_⟩
    · exact parkedVerb_waits hx hq hv fun h => congrArg Host.Outcome.next (doAppend_waits hv harg data h)
    · exact parkedVerb_waits hx hq hv fun h => congrArg Host.Outcome.next (doStepGen_waits hv hstop harg hsl hs hg h)
    · exact parkedVerb_waits hx hq hv fun h => congrArg Host.Outcome.next (doFork_waits hv h)

/-! ## PLACE (R85) -/

section
variable {s : State} {p vid : Nat} {v : Verb} {q : Seq} (hv : s.begun? p vid .place = some v) (hq : s.seq? v.dir v.seq = some q)
include hv hq

theorem doPlace_badArgument (h : ¬ (v.f 0x28 1 = 1 ∨ v.f 0x28 1 = 3 ∨ v.f 0x28 1 = 4) ∨ q.spans.length < v.f 0x20 4 + v.f 0x24 4) :
    doPlace p vid s = s.complete p vid .badArgument := by
  have hbad : (v.f 0x28 1 ≠ 1 ∧ v.f 0x28 1 ≠ 3) ∧ v.f 0x28 1 ≠ 4 ∨ q.spans.length < v.f 0x20 4 + v.f 0x24 4 := by
    simpa [not_or, and_assoc] using h
  simp [doPlace, hv, hq, hbad]

variable (hgood : v.f 0x28 1 = 1 ∨ v.f 0x28 1 = 3 ∨ v.f 0x28 1 = 4) (hn : v.f 0x20 4 + v.f 0x24 4 ≤ q.spans.length)
  (hres : (s.resident p v).1 = true) (hst : q.state = .new ∨ q.state = .wait)
include hgood hn hres hst

theorem doPlace_badEntry (h : s.badEntry p ((q.spans.drop (v.f 0x20 4)).take (v.f 0x24 4)) = true) :
    doPlace p vid s = (s.pteFault p v.dir v.seq).complete p vid .tierFailed := by
  have hbad : ¬ ((v.f 0x28 1 ≠ 1 ∧ v.f 0x28 1 ≠ 3) ∧ v.f 0x28 1 ≠ 4) := fun ⟨⟨h1, h3⟩, h4⟩ => hgood.elim h1 fun h => h.elim h3 h4
  have hstate : ¬ (q.state ≠ .new ∧ q.state ≠ .wait) := fun ⟨hn, hw⟩ => hst.elim hn hw
  simp [doPlace, hv, hq, hbad, Nat.not_lt.mpr hn, hres, hstate, h]

theorem doPlace_starts (h : s.badEntry p ((q.spans.drop (v.f 0x20 4)).take (v.f 0x24 4)) = false) {o : PlaceOp}
    (ho : o = { verb := vid, left := (((q.spans.drop (v.f 0x20 4)).take (v.f 0x24 4)).flatMap Span.refs).eraseDups,
                tier := v.f 0x28 1 }) :
    doPlace p vid s = ((s.runVerb p vid).modFolPart p fun x => { x with places := x.places ++ [o] }).placeStep p o := by
  have hbad : ¬ ((v.f 0x28 1 ≠ 1 ∧ v.f 0x28 1 ≠ 3) ∧ v.f 0x28 1 ≠ 4) := fun ⟨⟨h1, h3⟩, h4⟩ => hgood.elim h1 fun h => h.elim h3 h4
  have hstate : ¬ (q.state ≠ .new ∧ q.state ≠ .wait) := fun ⟨hn, hw⟩ => hst.elim hn hw
  simp [doPlace, hv, hq, hbad, Nat.not_lt.mpr hn, hres, hstate, h, ho]

end

theorem doPlaceDone_spec {s : State} {p vid : Nat} {v : Verb} (hv : s.running? p vid .place = some v)
    (h : (s.folPart p).places.any (fun o => o.verb == vid && o.left.isEmpty) = true) :
    Ended s (doPlaceDone p vid s) p v .ok ∧
      ((doPlaceDone p vid s).folPart p).places = (s.folPart p).places.filter (fun o => o.verb != vid) ∧
      doPlaceDone p vid s = { s with hif := (doPlaceDone p vid s).hif, fol := (doPlaceDone p vid s).fol } := by
  obtain ⟨hverb, -⟩ := State.running?_verb hv
  unfold doPlaceDone
  rw [hv]
  dsimp only
  rw [if_pos h]
  generalize hu : s.setFolPart p _ = u
  obtain ⟨he, hh⟩ := State.complete_ends (s := u) (hu ▸ hverb : u.verb? p vid = some v) .ok 0 [] none
  refine ⟨hu ▸ he, ?_, ?_⟩
  · rw [hh, ← hu]
    exact congrArg FolPart.places (State.folPart_setFolPart_same ..)
  · rw [hh, ← hu]
    rfl

/-! ## Expiry and wake-ahead (R52, R53) -/

/-- An expired session: erased, EXPIRED, one notice with its handle. -/
theorem State.expire_spec {s : State} {d : Nat} {x : Session} (hx : s.session? d = some x) :
    ((s.expire d).recOf d).expired = true ∧ ((s.expire d).recOf d).parked = false ∧ ((s.expire d).recOf d).salt = 0 ∧
      (∃ l w, ((s.expire d).vf x.part).waiting = l ++ [w] ∧ w.notice = some d ∧ w.record.handle = x.handle ∧
        w.record.status = .ttlExpired) ∧
      ∀ y, (s.expire d).session? d = some y → y.sdk = none ∧ y.quire = none ∧ y.flyleaf = none ∧
        ∀ e ∈ y.seqs, e.2.state = .closed ∨ e.2.state = .expired := by
  unfold State.expire State.erase
  simp only [hx]
  refine ⟨?_, ?_, ?_, ⟨_, _, congrArg Vf.waiting (State.vf_setVf_same ..), rfl, rfl, rfl⟩, fun y hy => ?_⟩
  · rw [State.recOf_congr (State.notice_dir ..), State.recOf_setRec_same]
  · rw [State.recOf_congr (State.notice_dir ..), State.recOf_setRec_same]
  · rw [State.recOf_congr (State.notice_dir ..), State.recOf_setRec_same]
    change (State.recOf (State.modSeqs (State.modSession _ d _) d _) d).salt = 0
    rw [State.modSeqs, State.recOf_modSession, State.recOf_modSession, State.recOf_setRec_same]
  · rw [State.session?_congr (State.notice_dir ..)] at hy
    change State.session? (State.modSeqs (State.modSession _ d _) d _) d = some y at hy
    rw [State.modSeqs, State.session?_modSession, State.session?_modSession, Option.map_map] at hy
    obtain ⟨z, -, rfl⟩ := Option.map_eq_some_iff.mp hy
    refine ⟨rfl, rfl, rfl, fun e he => ?_⟩
    dsimp only [Function.comp] at he
    obtain ⟨a, -, rfl⟩ := mem_tmap he
    dsimp only
    split
    · next hc => exact .inl (by simpa using hc)
    · exact .inr rfl

/-- Settles O19: the branches of PLACE, and what expiry and wake-ahead do once their instant has come. -/
theorem placesAndClocksOfSessions : Obligations.PlacesAndClocksOfSessions := by
  unfold Obligations.PlacesAndClocksOfSessions
  refine ⟨⟨fun p vid v q s hv hq => ?_, fun p vid v s hv h => ⟨_, rfl, doPlaceDone_spec hv h⟩⟩, ?_, ?_⟩
  · intro n good
    obtain ⟨hverb, -⟩ := State.begun?_verb hv
    refine ⟨fun h => ?_, fun hgood hn hres hst h => ?_, fun hgood hn hres hst h => ?_⟩
    · exact ⟨_, congrArg Host.Outcome.next (doPlace_badArgument hv hq h), State.complete_ends hverb ..⟩
    · exact ⟨_, congrArg Host.Outcome.next (doPlace_badEntry hv hq hgood hn hres hst h),
        State.complete_ends (s := s.pteFault p v.dir v.seq) hverb ..⟩
    · exact congrArg Host.Outcome.next (doPlace_starts hv hq hgood hn hres hst h rfl)
  · intro d x s hx hlive hmode hpark hinst hnow hheld
    have h : doTtlExpire d s = s.expire d := by simp [doTtlExpire, hx, hlive, hmode, hpark, hinst, hnow, hheld]
    exact ⟨_, congrArg Host.Outcome.next h, State.expire_spec hx⟩
  · intro d x q s hx hq hlive hprk hpark hhint hwoken hdmg hexp hrole hfence hmode httl hstart u
    refine congrArg Host.Outcome.next ?_
    simp [doWakeAheadStart, hx, hq, hlive, hprk, hpark, hhint, hwoken, hdmg, hexp, hrole, hfence, hmode, httl, hstart,
      State.modSession_some hx, u] <;> rfl

end Machine
end Sys2Proof

/-!
PROOFS. Settling O45 (ManagementGates), O46 (FloorsAndAuthorities), O49 (KeysAreSet) and O56 (FaultsAreSetAndReported): what stops a
management command, and what the ones that are served do.
-/
namespace Sys2Proof
namespace Machine

/-! ## The gates of a management command (R346, R370) -/

section
variable {s : State} {opcode : Nat} (value : Nat) (arg : Bytes) (eff : State → MgmtCode × State)

theorem State.mgmtCommand_down (h : s.mgmtUp = false) : s.mgmtCommand opcode value arg eff = s := by
  simp [State.mgmtCommand, h]

theorem State.mgmtCommand_full (hup : s.mgmtUp = true) (hfull : s.auditFull = true) (hop : keptCommand opcode = false) :
    s.mgmtCommand opcode value arg eff = s.emit (.mgmt .auditFull) := by
  simp [State.mgmtCommand, hup, hfull, hop]

theorem State.mgmtCommand_safe (hup : s.mgmtUp = true) (hfree : s.auditFull = false) (hsafe : s.flt.safe = true)
    (hop : (opcode != 0x08 && opcode != 0x09) = true) :
    s.mgmtCommand opcode value arg eff = s.answered opcode value arg .denied := by
  simp [State.mgmtCommand, State.answered, hup, hfree, hsafe, by simpa using hop]

end

theorem doSafeRestart_running {s : State} (hup : s.mgmtUp = true) (hrun : s.flt.safe = false) :
    doSafeRestart s = s.answered 0x08 0 [] .denied := by
  simp [doSafeRestart, State.mgmtCommand, State.answered, keptCommand, hup, hrun]

/-- Settles O45: every audited command is a `State.mgmtCommand`, whose gates come before its own effect. -/
theorem managementGates : Obligations.ManagementGates := by
  intro s im h fl p v w d ok tok
  refine ⟨fun hup => ?down, fun hup hfull => ?full, fun hup hfree hsafe => ?safe,
    fun hup hrun => congrArg Host.Outcome.next (doSafeRestart_running hup hrun)⟩
  case down =>
    have hall {c : Instr} {op v : Nat} {arg : Bytes} {eff} (hc : exec c s = .next (s.mgmtCommand op v arg eff)) :
        exec c s = .next s := hc.trans (congrArg _ (State.mgmtCommand_down v arg eff hup))
    simp only [List.forall_mem_cons]
    exact ⟨hall rfl, hall rfl, hall rfl, hall rfl, hall rfl, hall rfl, hall rfl, hall rfl, hall rfl, hall rfl, hall rfl, hall rfl,
      fun _ h => absurd h List.not_mem_nil⟩
  case full =>
    have hall {c : Instr} {op v : Nat} {arg : Bytes} {eff} (hc : exec c s = .next (s.mgmtCommand op v arg eff))
        (hop : keptCommand op = false) : exec c s = .next (s.emit (.mgmt .auditFull)) :=
      hc.trans (congrArg _ (State.mgmtCommand_full v arg eff hup hfull hop))
    simp only [List.forall_mem_cons]
    exact ⟨hall rfl rfl, hall rfl rfl, hall rfl rfl, hall rfl rfl, hall rfl rfl, hall rfl rfl, hall rfl rfl, hall rfl rfl,
      hall rfl rfl, fun _ h => absurd h List.not_mem_nil⟩
  case safe =>
    have hall {c : Instr} {op v : Nat} {arg : Bytes} {eff} (hc : exec c s = .next (s.mgmtCommand op v arg eff))
        (hop : (op != 0x08 && op != 0x09) = true) : exec c s = .next (s.answered op v arg .denied) :=
      hc.trans (congrArg _ (State.mgmtCommand_safe v arg eff hup hfree hsafe hop))
    simp only [List.forall_mem_cons]
    exact ⟨hall rfl rfl, hall rfl rfl, hall rfl rfl, hall rfl rfl, hall rfl rfl, hall rfl rfl, hall rfl rfl, hall rfl rfl,
      hall rfl rfl, hall rfl rfl, fun _ h => absurd h List.not_mem_nil⟩

/-! ## Floors and the enrolled key (R232, R355) -/

/-- The battery-backed file with other contents. -/
def State.setBattery (s : State) (b : Battery) : State := { s with sec := { s.sec with battery := b } }

section
variable {s : State} (hs : s.serves = true)
include hs

theorem doFloorSet_low {v : Nat} (h : v < s.sec.battery.bindFloor ∨ two32 ≤ v) :
    doFloorSet v s = s.answered 0x03 v [] .badArgument := by
  rw [doFloorSet, State.mgmtCommand_of_serves _ _ _ _ hs]
  simp [h]

theorem doFloorSet_raises {v : Nat} (hlow : s.sec.battery.bindFloor ≤ v) (hhigh : v < two32) :
    doFloorSet v s = ({ (s.setBattery { s.sec.battery with formatted := true, bindFloor := v }) with
      sec := { (s.setBattery { s.sec.battery with formatted := true, bindFloor := v }).sec with
        batteryLost := false } } : State).settlePhase.answered 0x03 v [] .ok := by
  rw [doFloorSet, State.mgmtCommand_of_serves _ _ _ _ hs]
  simp [Nat.not_lt.mpr hlow, Nat.not_le.mpr hhigh, State.setBattery]

theorem doFwFloorSet_low {v : Nat} (h : v < s.sec.battery.fwFloor ∨ two32 ≤ v) :
    doFwFloorSet v s = s.answered 0x04 v [] .badArgument := by
  rw [doFwFloorSet, State.mgmtCommand_of_serves _ _ _ _ hs]
  simp [h]

theorem doFwFloorSet_raises {v : Nat} (hlow : s.sec.battery.fwFloor ≤ v) (hhigh : v < two32) :
    doFwFloorSet v s = (s.setBattery { s.sec.battery with formatted := true, fwFloor := v }).answered 0x04 v [] .ok := by
  rw [doFwFloorSet, State.mgmtCommand_of_serves _ _ _ _ hs]
  simp [Nat.not_lt.mpr hlow, Nat.not_le.mpr hhigh, State.setBattery]

theorem doKeyEnroll_alone {h : Bytes} (hlen : h.length = 48) (him : s.bind.image = none) :
    doKeyEnroll h none s = (s.setBattery { s.sec.battery with
      formatted := true, keyHash := some h, bindFloor := s.sec.battery.bindFloor }).settlePhase.answered 0x02 0 h .ok := by
  rw [doKeyEnroll, State.mgmtCommand_of_serves _ _ _ _ hs]
  simp [hlen, him, State.setBattery]

theorem doKeyEnroll_alone_inUse {h : Bytes} (hlen : h.length = 48) (him : s.bind.image.isSome = true) :
    doKeyEnroll h none s = s.answered 0x02 0 h .inUse := by
  rw [doKeyEnroll, State.mgmtCommand_of_serves _ _ _ _ hs]
  simp [hlen, him]

theorem doKeyEnroll_bad {h : Bytes} {f : Nat} (hbad : h.length ≠ 48 ∨ f < s.sec.battery.bindFloor ∨ f = 0 ∨ two32 ≤ f) :
    doKeyEnroll h (some f) s = s.answered 0x02 f h .badArgument := by
  rw [doKeyEnroll, State.mgmtCommand_of_serves _ _ _ _ hs]
  have hbad' : h.length ≠ 48 ∨ (f < s.sec.battery.bindFloor ∨ f = 0) ∨ two32 ≤ f := hbad.imp_right or_assoc.mpr
  simp [hbad']

variable {h : Bytes} {f : Nat} (hlen : h.length = 48) (hlow : s.sec.battery.bindFloor ≤ f) (hpos : f ≠ 0) (hhigh : f < two32)
include hlen hlow hpos hhigh

theorem doKeyEnroll_raises (him : s.bind.image = none ∨ s.sec.battery.bindFloor < f) :
    doKeyEnroll h (some f) s = (s.setBattery { s.sec.battery with
      formatted := true, keyHash := some h, bindFloor := f }).settlePhase.answered 0x02 f h .ok := by
  have him' : ¬ (s.bind.image.isSome = true ∧ f ≤ s.sec.battery.bindFloor) := by
    rintro ⟨hi, hf⟩
    rcases him with hn | hl
    · simp [hn] at hi
    · omega
  rw [doKeyEnroll, State.mgmtCommand_of_serves _ _ _ _ hs]
  simp [hlen, Nat.not_lt.mpr hlow, hpos, Nat.not_le.mpr hhigh, him', State.setBattery]

theorem doKeyEnroll_inUse (him : s.bind.image.isSome = true) (heq : f = s.sec.battery.bindFloor) :
    doKeyEnroll h (some f) s = s.answered 0x02 f h .inUse := by
  rw [doKeyEnroll, State.mgmtCommand_of_serves _ _ _ _ hs]
  subst heq
  simp [hlen, hpos, Nat.not_le.mpr hhigh, him]

end

theorem doKeyAuthSet_bad {s : State} {p : Nat} {h : Bytes} (ok : Bool) (hs : s.serves = true)
    (hbad : Config.partitions ≤ p ∨ h.length ≠ 48) : doKeyAuthSet p h ok s = s.answered 0x05 p h .badArgument := by
  rw [doKeyAuthSet, State.mgmtCommand_of_serves _ _ _ _ hs]
  simp [hbad]

/-- Settles O46: each command's own branches, behind `State.mgmtCommand_of_serves`. -/
theorem floorsAndAuthorities : Obligations.FloorsAndAuthorities := by
  intro s hs b put
  refine ⟨fun v h => congrArg Host.Outcome.next (doFloorSet_low hs h),
    fun v hlow hhigh => congrArg Host.Outcome.next (doFloorSet_raises hs hlow hhigh),
    fun v h => congrArg Host.Outcome.next (doFwFloorSet_low hs h),
    fun v hlow hhigh => congrArg Host.Outcome.next (doFwFloorSet_raises hs hlow hhigh),
    fun h hlen him => congrArg Host.Outcome.next (doKeyEnroll_alone hs hlen him),
    fun h f hlen hlow hpos hhigh him => congrArg Host.Outcome.next (doKeyEnroll_raises hs hlen hlow hpos hhigh him),
    fun h hlen him => congrArg Host.Outcome.next (doKeyEnroll_alone_inUse hs hlen him),
    fun f h hlen him heq hpos hhigh => congrArg Host.Outcome.next (doKeyEnroll_inUse hs hlen (Nat.le_of_eq heq.symm) hpos hhigh him heq),
    fun h f hbad => congrArg Host.Outcome.next (doKeyEnroll_bad hs hbad),
    fun p h ok => ⟨fun hbad => congrArg Host.Outcome.next (doKeyAuthSet_bad ok hs hbad), fun hp hlen => ?authority⟩⟩
  case authority =>
    split
    · next hused => exact congrArg Host.Outcome.next (doKeyAuthSet_inUse ok hs hp hlen hused)
    · next hfree =>
      obtain ⟨hprk, hrec⟩ := not_or.mp hfree
      exact congrArg Host.Outcome.next (doKeyAuthSet_ok ok hs hp hlen (by simpa using hprk) (by simpa using hrec))

/-! ## Key messages (R359) -/

/-- A key message is heard: the firmware answers, and its mailbox or the audit log takes it. -/
def State.hears (s : State) (m : KeyMsg) : Prop :=
  s.mgmtUp = true ∧ (m.mgmt = true → s.auditFull = false) ∧ (m.mgmt = false → s.hif.linkUp = true)

/-- What a message that is heard is answered: the first refusal that applies, or its own effect. -/
theorem State.keyMessage_of_hears {s : State} {m : KeyMsg} (h : s.hears m) (code : Nat)
    (eff : Nat → State → KeyResult × Bytes × State) :
    s.keyMessage code m eff =
      if s.flt.safe = true then s.keyAnswered m .safe
      else if s.sec.battery.debugUnlocked = true then s.keyAnswered m .debug
      else if kmMalformed code m = true then s.keyAnswered m .badArgument
      else if s.kmAuth m = false then s.keyAnswered m .noAuth
      else (eff (kmPart m) s).2.2.keyAnswered m (eff (kmPart m) s).1 (eff (kmPart m) s).2.1 := by
  obtain ⟨hup, hfree, hlink⟩ := h
  have hheard : (!s.mgmtUp || (!m.mgmt && !s.hif.linkUp)) = false ∧ (m.mgmt && s.auditFull) = false := by
    cases hm : m.mgmt
    · simp [hup, hlink hm]
    · simp [hup, hfree hm]
  obtain ⟨hport, hlog⟩ := hheard
  unfold State.keyMessage State.keyAnswered
  rw [hport, hlog]
  simp only [Bool.false_eq_true, if_false, Bool.not_eq_true']
  by_cases hsafe : s.flt.safe = true
  · simp only [hsafe, if_true]
  by_cases hdebug : s.sec.battery.debugUnlocked = true
  · simp only [hsafe, hdebug, if_true, if_false, Bool.false_eq_true]
  by_cases hform : kmMalformed code m = true
  · simp only [hsafe, hdebug, hform, if_true, if_false, Bool.false_eq_true]
  by_cases hauth : s.kmAuth m = false
  · simp only [hsafe, hdebug, hform, hauth, if_true, if_false, Bool.false_eq_true]
  · simp only [hsafe, hdebug, hform, if_neg hauth, if_false, Bool.false_eq_true]

section
variable {s : State} {m : KeyMsg} (h : s.hears m) (code : Nat) (eff : Nat → State → KeyResult × Bytes × State)
include h

/-- The refusals that every message shares, in their order. -/
theorem State.keyMessage_refused :
    (s.flt.safe = true → s.keyMessage code m eff = s.keyAnswered m .safe) ∧
    (s.flt.safe = false → s.sec.battery.debugUnlocked = true → s.keyMessage code m eff = s.keyAnswered m .debug) ∧
    (s.flt.safe = false → s.sec.battery.debugUnlocked = false → kmMalformed code m = true →
      s.keyMessage code m eff = s.keyAnswered m .badArgument) ∧
    (s.flt.safe = false → s.sec.battery.debugUnlocked = false → kmMalformed code m = false → s.kmAuth m = false →
      s.keyMessage code m eff = s.keyAnswered m .noAuth) := by
  rw [State.keyMessage_of_hears h]
  exact ⟨fun h1 => by simp [h1], fun h1 h2 => by simp [h1, h2], fun h1 h2 h3 => by simp [h1, h2, h3],
    fun h1 h2 h3 h4 => by simp [h1, h2, h3, h4]⟩

variable (hsafe : s.flt.safe = false) (hdebug : s.sec.battery.debugUnlocked = false) (hauth : s.kmAuth m = true)
include hsafe hdebug hauth

theorem State.keyMessage_served (hform : kmMalformed code m = false) :
    s.keyMessage code m eff = (eff (kmPart m) s).2.2.keyAnswered m (eff (kmPart m) s).1 (eff (kmPart m) s).2.1 := by
  rw [State.keyMessage_of_hears h]
  simp [hsafe, hdebug, hauth, hform]

end

section
variable {s : State} {p epoch : Nat} {key : Bytes}

theorem State.pkeyResult_present (h : s.hasPrk p = true) : s.pkeyResult p epoch key = .keyPresent := by
  simp [State.pkeyResult, h]

theorem State.pkeyResult_stale (h : s.hasPrk p = false) (he : epoch < (s.epochs p).1) : s.pkeyResult p epoch key = .stale := by
  simp [State.pkeyResult, h, he]

end

/-- Settles O49: a message that is heard is refused in the order of `State.keyMessage_of_hears`, or has its own effect. -/
theorem keysAreSet : Obligations.KeysAreSet := by
  refine ⟨fun m s hup hfree hlink => ?refused, fun m s hup hfree hlink hsafe hdebug hauth => ?served⟩
  case refused =>
    have href := State.keyMessage_refused (m := m) ⟨hup, hfree, hlink⟩
    have hall (code : Nat) (eff : Nat → State → KeyResult × Bytes × State) {c : Instr}
        (hc : exec c s = .next (s.keyMessage code m eff)) :
        (s.flt.safe = true → exec c s = .next (s.keyAnswered m .safe)) ∧
        (s.flt.safe = false → s.sec.battery.debugUnlocked = true → exec c s = .next (s.keyAnswered m .debug)) ∧
        (s.flt.safe = false → s.sec.battery.debugUnlocked = false → kmMalformed code m = true →
          exec c s = .next (s.keyAnswered m .badArgument)) ∧
        (s.flt.safe = false → s.sec.battery.debugUnlocked = false → kmMalformed code m = false → s.kmAuth m = false →
          exec c s = .next (s.keyAnswered m .noAuth)) := by
      obtain ⟨hs, hd, hb, hn⟩ := href code eff
      rw [hc]
      exact ⟨fun h => congrArg _ (hs h), fun h h' => congrArg _ (hd h h'), fun h h' h'' => congrArg _ (hb h h' h''),
        fun h h' h'' h''' => congrArg _ (hn h h' h'' h''')⟩
    simp only [List.forall_mem_cons]
    exact ⟨hall kmPkey _ rfl, hall kmPool _ rfl, hall kmCk _ rfl, hall kmStatus _ rfl, fun _ h => absurd h List.not_mem_nil⟩
  case served =>
    intro p x e
    have hserved := State.keyMessage_served (m := m) ⟨hup, hfree, hlink⟩ (hsafe := hsafe) (hdebug := hdebug) (hauth := hauth)
    refine ⟨fun hform => ⟨fun hbad => congrArg Host.Outcome.next ?_, fun hok => congrArg Host.Outcome.next ?_,
      State.pkeyResult_present, State.pkeyResult_stale⟩, fun hform => congrArg Host.Outcome.next ?_,
      fun hform => congrArg Host.Outcome.next ?_, fun hform => congrArg Host.Outcome.next ?_⟩
    · rw [doPkeySet, hserved _ _ hform]
      simp [hbad, p]
    · rw [doPkeySet, hserved _ _ hform]
      simp [hok, p, x, e]
    · rw [doPoolKeySet, hserved _ _ hform]
      dsimp only
      split <;> rfl
    · rw [doCkSet, hserved _ _ hform]
      simp only [bne_iff_ne]
      split <;> rfl
    · rw [doKeyStatus, hserved _ _ hform]

/-! ## Faults set and reported (R329, R330, R350) -/

section
variable {s : State} (hs : s.serves = true)
include hs

theorem doFaultCfg_bad {k n w : Nat} (h : faultRow k = none ∨ 65536 ≤ n ∨ 65536 ≤ w) :
    doFaultCfg k n w s = s.answered 0x06 (n % 65536 * 65536 + w % 65536) [] .badArgument := by
  rw [doFaultCfg, State.mgmtCommand_of_serves _ _ _ _ hs]
  cases hrow : faultRow k with
  | none => rfl
  | some r =>
    have hrange : 65536 ≤ n ∨ 65536 ≤ w := h.resolve_left (by simp [hrow])
    simp [hrange]

theorem doFaultCfg_sets {k n w : Nat} (h : (faultRow k).isSome = true) (hn : n < 65536) (hw : w < 65536) :
    doFaultCfg k n w s = ({ s with flt := { s.flt with srcs := tput s.flt.srcs k { s.faultSrc k with
      threshold := n, windowS := w } } } : State).answered 0x06 (n % 65536 * 65536 + w % 65536) [] .ok := by
  rw [doFaultCfg, State.mgmtCommand_of_serves _ _ _ _ hs]
  obtain ⟨r, hrow⟩ := Option.isSome_iff_exists.mp h
  simp [hrow, Nat.not_le.mpr hn, Nat.not_le.mpr hw]

theorem doPartReset_bad {p : Nat} (h : (s.partImage? p).isNone = true ∨ Config.partitions ≤ p) :
    doPartReset p s = s.answered 0x07 p [] .badArgument := by
  rw [doPartReset, State.mgmtCommand_of_serves _ _ _ _ hs]
  simp [Or.symm (by simpa using h)]

theorem doPartReset_event {p : Nat} (h : (s.partImage? p).isSome = true) (hp : p < Config.partitions) :
    doPartReset p s = (s.event (0xE0 + p) {} (some .part)).answered 0x07 p [] .ok := by
  rw [doPartReset, State.mgmtCommand_of_serves _ _ _ _ hs]
  simp [Nat.not_le.mpr hp, Option.isSome_iff_ne_none.mp h]

end

theorem doSysHangReport_event {s : State} (v : W64) (hlive : s.live = true) (hd3 : s.hif.pfD3hot = false)
    (hlink : s.hif.linkUp = true) (hfree : s.auditFull = false) (hhead : s.headKnown = true) :
    doSysHangReport v s = (s.audit auditPf 0 0 (regAddr .sysHangReport 0 0) v.toNat).event (0xE0 + (v.toNat % 16))
      { engine := if v.toNat / 16 % 2 = 1 then some (v.toNat / 32 % 32) else none } := by
  have hbit : bit v 4 = true ↔ v.toNat / 16 % 2 = 1 := by
    rw [bit, Nat.testBit_eq_decide_div_mod_eq, decide_eq_true_iff]
  have hfields : bits v 3 0 = v.toNat % 16 ∧ bits v 9 5 = v.toNat / 32 % 32 := by
    simp [bits, Nat.shiftRight_eq_div_pow]
  simp only [doSysHangReport, State.pfWrite, hlive, hd3, hlink, hfree, hhead, hbit, hfields, Bool.not_true, Bool.or_self,
    Bool.false_eq_true, if_false]

/-- Settles O56: a source's entry, an event, and PF0's record of it. -/
theorem faultsAreSetAndReported : Obligations.FaultsAreSetAndReported := by
  refine ⟨fun k n w s hs => ⟨fun h => congrArg Host.Outcome.next (doFaultCfg_bad hs h),
      fun h hn hw => congrArg Host.Outcome.next (doFaultCfg_sets hs h hn hw)⟩,
    fun p s hs => ⟨fun h => congrArg Host.Outcome.next (doPartReset_bad hs h),
      fun h hp => ⟨_, congrArg Host.Outcome.next (doPartReset_event hs h hp), _, rfl, rfl⟩⟩,
    fun v s hlive hd3 hlink hfree hhead => congrArg Host.Outcome.next ?_,
    fun v s hlive hd3 hlink hfull => congrArg Host.Outcome.next ?_⟩
  · exact doSysHangReport_event v hlive hd3 hlink hfree hhead
  · simp [doSysHangReport, State.pfWrite, hlive, hd3, hlink, hfull]

end Machine
end Sys2Proof

/-!
PROOFS. Settling O58 (StartsProceed): the stages of a start, each with what it keeps.
-/
namespace Sys2Proof
namespace Machine

/-- What every step of a fold keeps, the fold keeps. -/
theorem foldl_keeps {σ α β : Type} (π : σ → β) {g : σ → α → σ} (h : ∀ s a, π (g s a) = π s) (l : List α) (s : σ) :
    π (l.foldl g s) = π s := by
  induction l generalizing s with
  | nil => rfl
  | cons a l ih => rw [List.foldl_cons, ih, h]

/-! ## Pins, phase and causes -/

/-- SAFE# stands as asked, and nothing else of the power unit has changed. -/
theorem State.setSafePin_pwr (s : State) (on : Bool) : (s.setSafePin on).pwr = { s.pwr with safePin := on } := by
  unfold State.setSafePin
  split
  · next h => rw [← beq_iff_eq.mp h]
  · rfl

theorem State.setSafePin_only (s : State) (on : Bool) :
    s.setSafePin on = { s with pwr := (s.setSafePin on).pwr, out := (s.setSafePin on).out } := by
  unfold State.setSafePin
  split <;> rfl

theorem State.setNandPins_pwr (s : State) (on : Bool) : (s.setNandPins on).pwr = { s.pwr with nandHigh := on } := by
  unfold State.setNandPins
  split
  · next h => rw [← beq_iff_eq.mp h]
  · cases on <;> rfl

theorem State.setNandPins_only (s : State) (on : Bool) :
    s.setNandPins on = { s with pwr := (s.setNandPins on).pwr, out := (s.setNandPins on).out } := by
  unfold State.setNandPins
  split
  · rfl
  · cases on <;> rfl

/-- A cause at PF0 writes HIF_EVENT_CAUSE and may send a message. -/
theorem State.cause_only (s : State) (n : Nat) : s.cause n = { s with
    regs := (s.cause n).regs, stamps := (s.cause n).stamps, out := (s.cause n).out,
    hif := { s.hif with pfMsix := (s.cause n).hif.pfMsix } } := by
  unfold State.cause
  dsimp only
  split <;> rfl

theorem State.setPhase_only (s : State) (ph : BindPhase) : s.setPhase ph = { s with
    regs := (s.setPhase ph).regs, stamps := (s.setPhase ph).stamps, out := (s.setPhase ph).out,
    hif := { s.hif with pfMsix := (s.setPhase ph).hif.pfMsix }, bind := { s.bind with phase := (s.setPhase ph).bind.phase } } := by
  unfold State.setPhase
  split
  · rfl
  · rw [State.cause_only]

theorem State.settlePhase_only (s : State) : s.settlePhase = { s with
    regs := s.settlePhase.regs, stamps := s.settlePhase.stamps, out := s.settlePhase.out,
    hif := { s.hif with pfMsix := s.settlePhase.hif.pfMsix }, bind := { s.bind with phase := s.settlePhase.bind.phase } } := by
  unfold State.settlePhase
  split
  · rfl
  · rw [State.setPhase_only]

theorem State.setPartMode_only (s : State) (p : Nat) (m : PartMode) : s.setPartMode p m = { s with
    regs := (s.setPartMode p m).regs, stamps := (s.setPartMode p m).stamps, out := (s.setPartMode p m).out,
    hif := { s.hif with pfMsix := (s.setPartMode p m).hif.pfMsix }, flt := (s.setPartMode p m).flt } := by
  unfold State.setPartMode
  dsimp only
  split
  · rfl
  · rw [State.cause_only]
    rfl

/-! ## The slot that the ROM starts (R382) -/

/-- The ROM may start a slot: it is signed, and not below the SVN that the fuses and the floor ask for. -/
def slotFits (least : Nat) (f : FwSlot) : Bool := f.sigOk && least ≤ f.svn

/-- The choice between slot A and slot B. -/
theorem bootSlot_pair (least : Nat) (a b : FwSlot) (r : List FwSlot) :
    bootSlot least (a :: b :: r) =
      if slotFits least a = true ∧ (slotFits least b = true → b.svn ≤ a.svn) then some (0, a)
      else if slotFits least b = true then some (1, b) else none := by
  change List.foldl _ none (List.filter (fun e => slotFits least e.2) [(0, a), (1, b)]) = _
  cases ha : slotFits least a <;> cases hb : slotFits least b
  · simp [ha, hb]
  · simp [ha, hb]
  · simp [ha, hb]
  · by_cases h : a.svn < b.svn
    · simp [ha, hb, h]
    · simp [ha, hb, h]

theorem bootSlot_one (least : Nat) (a : FwSlot) : bootSlot least [a] = if slotFits least a = true then some (0, a) else none := by
  change List.foldl _ none (List.filter (fun e => slotFits least e.2) [(0, a)]) = _
  cases ha : slotFits least a <;> simp [ha]

/-- The slot chosen is acceptable, and no acceptable one has a higher SVN, or the same and comes before it. -/
theorem bootSlot_spec {least : Nat} {slots : List FwSlot} {k : Nat} {f : FwSlot} (h : bootSlot least slots = some (k, f)) :
    slots[k]? = some f ∧ k < 2 ∧ f.sigOk = true ∧ least ≤ f.svn ∧
      ∀ j g, j < 2 → slots[j]? = some g → g.sigOk = true → least ≤ g.svn → g.svn < f.svn ∨ g.svn = f.svn ∧ k ≤ j := by
  have hfits (g : FwSlot) : slotFits least g = true ↔ g.sigOk = true ∧ least ≤ g.svn := by simp [slotFits]
  match slots with
  | [] => cases h
  | [a] =>
    rw [bootSlot_one] at h
    split at h
    · next ha =>
      obtain ⟨rfl, rfl⟩ := Prod.mk.inj (Option.some.inj h)
      refine ⟨rfl, Nat.two_pos, ((hfits _).mp ha).1, ((hfits _).mp ha).2, fun j g hj hg _ _ => .inr ?_⟩
      match j with
      | 0 => exact ⟨by rw [Option.some.inj hg], Nat.le_refl 0⟩
      | 1 => cases hg
    · cases h
  | a :: b :: r =>
    rw [bootSlot_pair] at h
    split at h
    · next hc =>
      obtain ⟨rfl, rfl⟩ := Prod.mk.inj (Option.some.inj h)
      refine ⟨rfl, Nat.two_pos, ((hfits _).mp hc.1).1, ((hfits _).mp hc.1).2, fun j g hj hg hsig hleast => ?_⟩
      match j with
      | 0 => exact .inr ⟨by rw [Option.some.inj hg], Nat.le_refl 0⟩
      | 1 =>
        cases Option.some.inj hg
        exact (Nat.lt_or_eq_of_le (hc.2 ((hfits _).mpr ⟨hsig, hleast⟩))).imp_right fun he => ⟨he, Nat.zero_le 1⟩
    · next hc =>
      split at h
      · next hb =>
        obtain ⟨rfl, rfl⟩ := Prod.mk.inj (Option.some.inj h)
        refine ⟨rfl, Nat.one_lt_two, ((hfits _).mp hb).1, ((hfits _).mp hb).2, fun j g hj hg hsig hleast => ?_⟩
        match j with
        | 0 =>
          cases Option.some.inj hg
          exact .inl (Nat.lt_of_not_le fun hle => hc ⟨(hfits _).mpr ⟨hsig, hleast⟩, fun _ => hle⟩)
        | 1 => exact .inr ⟨by rw [Option.some.inj hg], Nat.le_refl 1⟩
      · cases h

/-! ## The stages -/

section
variable {s : State} {n : Nat} (h : s.starting n = true)
include h

theorem State.starting_stage : s.pwr.stage = n := by
  simp only [State.starting, Bool.and_eq_true, decide_eq_true_eq] at h
  exact h.2

end

theorem doSafeRestart_safe {s : State} (hup : s.mgmtUp = true) (hsafe : s.flt.safe = true) :
    doSafeRestart s = (({ s with
      pwr := { s.pwr with stage := 0, kind := if s.pwr.kind = 0 ∧ s.pwr.stage < 5 then 0 else 1, startedAt := s.now, failCode := 0 },
      bind := { phase := s.bind.phase, lastResult := s.bind.lastResult } } : State).setPhase .none).answered 0x08 0 [] .ok := by
  simp [doSafeRestart, State.mgmtCommand, State.answered, keptCommand, hup, hsafe]

theorem doDeviceReset_up {s : State} (hup : s.mgmtUp = true) :
    doDeviceReset s = ((s.coldStart 1).setSafePin false).answered 0x09 0 [] .ok := by
  simp [doDeviceReset, State.mgmtCommand, State.answered, keptCommand, hup]

/-- The state that FIRMWARE_BOOT of slot k leaves, but for SAFE#. -/
def State.booted (s : State) (k : Nat) (f : FwSlot) : State :=
  ({ s with sec := { s.sec with fwDigest := f.digest, storageKey := true },
            pwr := { s.pwr with fwSlot := k, fwSvn := f.svn, stage := 2, failCode := 0 },
            flt := { s.flt with safe := false } } : State).testEngines

section
variable {slots : List FwSlot} {s : State} (hon : s.pwr.pwrok = true) (hst : s.pwr.stage ≤ 1)
include hon hst

theorem doFirmwareBoot_none (h : bootSlot (max s.sec.fusedSvn s.sec.battery.fwFloor) slots = none) :
    doFirmwareBoot slots s = s.failStart 1 := by
  simp [doFirmwareBoot, hon, Nat.not_lt.mpr hst, h]

theorem doFirmwareBoot_some {k : Nat} {f : FwSlot} (h : bootSlot (max s.sec.fusedSvn s.sec.battery.fwFloor) slots = some (k, f)) :
    doFirmwareBoot slots s = (s.booted k f).setSafePin false := by
  simp [doFirmwareBoot, hon, Nat.not_lt.mpr hst, h, State.booted]

end

theorem State.failStart_pwr (s : State) (n : Nat) :
    (s.failStart n).pwr = { s.pwr with stage := 15, failCode := n, safePin := true } := by
  rw [State.failStart, State.setSafePin_pwr]

theorem State.failStart_only (s : State) (n : Nat) :
    s.failStart n = { s with pwr := (s.failStart n).pwr, out := (s.failStart n).out } := by
  rw [State.failStart, State.setSafePin_only]

/-- How training ends in a state whose units and links are known. -/
theorem State.trainingEnds (r : TrainReport) {c : Prop} [Decidable c] {w t : State}
    (ht : t = if (!r.keyEngineOk) = true then w.failStart 2 else if c then w.failStart 3
      else ({ w with pwr := { w.pwr with stage := 3 } } : State)) :
    t.pwr.hbmFail = w.pwr.hbmFail ∧ t.pwr.engFail = w.pwr.engFail ∧ t.eng = w.eng ∧ t.pwr.nandHigh = w.pwr.nandHigh ∧
      (t.pwr.stage = 3 ∨ t.pwr.stage = 15 ∧ t.pwr.safePin = true) ∧
      (r.keyEngineOk = false → t.pwr.failCode = 2) ∧ (r.keyEngineOk = true → t.pwr.stage = 15 → t.pwr.failCode = 3) ∧
      t.hif = w.hif := by
  have hfail (n : Nat) : (w.failStart n).eng = w.eng ∧ (w.failStart n).hif = w.hif := by
    rw [State.failStart_only]
    exact ⟨rfl, rfl⟩
  subst ht
  cases hk : r.keyEngineOk
  · simp [State.failStart_pwr, hfail]
  · by_cases hc : c <;> simp [State.failStart_pwr, hfail, hc]

/-- The units of a device whose training has ended. -/
def State.trainUnits (s : State) (r : TrainReport) : State :=
  let t : State := { s with pwr := { s.pwr with hbmFail := r.hbmFail, engFail := r.engFail }, eng := [] }
  let t := t.setNandPins false
  let t := (List.range Config.nandChannels).foldl (fun (t : State) c =>
    t.modChan c fun x => x.trained t.opPct t.spareMin (tgetD r.nand c {})) t
  (List.range Config.links).foldl (fun (t : State) l =>
    t.setLink l { state := if r.linkFail.contains l then .down else .training, downSince := t.now }) t

/-- The host link of a device whose training has ended. -/
def State.trainHost (s : State) (r : TrainReport) : State :=
  let up := r.hostUp && !s.hif.perst
  { s with hif := { s.hif with linkUp := up, linkSpeed := if up then r.hostSpeed else 0, linkWidth := if up then r.hostWidth else 0,
                               cxlMem := up && r.cxlMem } }

theorem State.trainHost_pwr (s : State) (r : TrainReport) : (s.trainHost r).pwr = s.pwr := rfl
theorem State.trainHost_eng (s : State) (r : TrainReport) : (s.trainHost r).eng = s.eng := rfl
theorem State.trainHost_linkUp (s : State) (r : TrainReport) : (s.trainHost r).hif.linkUp = (r.hostUp && !s.hif.perst) := rfl

theorem doTrainingDone_eq (r : TrainReport) {s : State} (h : s.starting 2 = true) :
    doTrainingDone r s =
      if (!r.keyEngineOk) = true then ((s.trainUnits r).trainHost r).failStart 2
      else if (Config.hbmChannels - r.hbmFail.eraseDups.length) * Config.channelBytes < ((s.trainUnits r).trainHost r).reservedBytes
        then ((s.trainUnits r).trainHost r).failStart 3
      else ({ (s.trainUnits r).trainHost r with pwr := { ((s.trainUnits r).trainHost r).pwr with stage := 3 } } : State) := by
  simp only [doTrainingDone, h, Bool.not_true, Bool.false_eq_true, if_false, State.trainHost, State.trainUnits]
  rfl

theorem State.trainUnits_pwr (s : State) (r : TrainReport) :
    (s.trainUnits r).pwr = { s.pwr with hbmFail := r.hbmFail, engFail := r.engFail, nandHigh := false } := by
  rw [State.trainUnits, foldl_keeps State.pwr, foldl_keeps State.pwr, State.setNandPins_pwr] <;> intros <;> rfl

theorem State.trainUnits_eng (s : State) (r : TrainReport) : (s.trainUnits r).eng = [] := by
  rw [State.trainUnits, foldl_keeps State.eng, foldl_keeps State.eng, State.setNandPins_only] <;> intros <;> rfl

theorem State.trainUnits_hif (s : State) (r : TrainReport) : (s.trainUnits r).hif = s.hif := by
  rw [State.trainUnits, foldl_keeps State.hif, foldl_keeps State.hif, State.setNandPins_only] <;> intros <;> rfl

/-- Training has ended: the units that failed are known, the engines are zeroed, the host link is as reported; the start goes on or
stops with code 2 or 3. -/
theorem doTrainingDone_spec (r : TrainReport) {s : State} (h : s.starting 2 = true) :
    let t := doTrainingDone r s
    t.pwr.hbmFail = r.hbmFail ∧ t.pwr.engFail = r.engFail ∧ t.eng = [] ∧ t.pwr.nandHigh = false ∧
      (t.pwr.stage = 3 ∨ t.pwr.stage = 15 ∧ t.pwr.safePin = true) ∧
      (r.keyEngineOk = false → t.pwr.failCode = 2) ∧ (r.keyEngineOk = true → t.pwr.stage = 15 → t.pwr.failCode = 3) ∧
      t.hif.linkUp = (r.hostUp && !s.hif.perst) := by
  have hpwr := ((s.trainUnits r).trainHost_pwr r).trans (s.trainUnits_pwr r)
  have heng := ((s.trainUnits r).trainHost_eng r).trans (s.trainUnits_eng r)
  have hlink := (s.trainUnits r).trainHost_linkUp r
  rw [State.trainUnits_hif] at hlink
  obtain ⟨hhbm, heng', hzero, hnand, hstage, hcode2, hcode3, hhif⟩ := State.trainingEnds r (doTrainingDone_eq r h)
  rw [hpwr] at hhbm heng' hnand
  exact ⟨hhbm, heng', hzero.trans heng, hnand, hstage, hcode2, hcode3, (congrArg HifState.linkUp hhif).trans hlink⟩

theorem doMemoryInitDone_restart {s : State} (h : s.starting 3 = true) (hk : s.pwr.kind = 1) :
    doMemoryInitDone true s = { s with pwr := { s.pwr with stage := 4 } } := by
  simp [doMemoryInitDone, h, hk]

/-- A restart whose reserved regions are not intact goes on as a cold start. -/
theorem doMemoryInitDone_broken {s : State} (h : s.starting 3 = true) (hk : s.pwr.kind = 1) :
    let t := doMemoryInitDone false s
    t.pwr.stage = 3 ∧ t.pwr.kind = 0 ∧ t.dir.sessions = [] ∧ t.now = s.now ∧ t.sec.battery = s.sec.battery := by
  unfold doMemoryInitDone
  simp only [h, hk, Bool.not_true, Bool.false_eq_true, if_false, if_true]
  exact ⟨State.starting_stage h, trivial, rfl, trivial, rfl⟩

theorem doMemoryInitDone_cold (ok : Bool) {s : State} (h : s.starting 3 = true) (hk : s.pwr.kind ≠ 1) :
    let t := doMemoryInitDone ok s
    t.pwr.stage = 4 ∧ t.sec.auditWaiting = 0 ∧ (s.sec.battery.formatted = true → ok = true → t.sec.battery = s.sec.battery) ∧
      (s.sec.battery.formatted = false ∨ ok = false → t.sec.battery = {} ∧ t.sec.batteryLost = true) := by
  cases hb : s.sec.battery.formatted <;> cases ok <;>
    simp [doMemoryInitDone, h, hk, hb, State.blankBattery, State.dropWaiting]

/-- Recovering the head of a formatted file writes at least the record of the cold start. -/
theorem State.recoverHead_auditSeq {s : State} (h : s.sec.battery.formatted = true) :
    s.sec.battery.auditSeq < s.recoverHead.sec.battery.auditSeq := by
  unfold State.recoverHead
  simp only [h, Bool.not_true, Bool.false_eq_true, if_false]
  split
  · exact Nat.lt_succ_of_lt (Nat.lt_succ_self _)
  · exact Nat.lt_succ_self _

section
variable {bad : List Nat} {s : State} (h : s.starting 4 = true)
include h

theorem doFlashMapRebuilt_bad (hb : bad ≠ []) : doFlashMapRebuilt bad s = s.failStart 4 := by
  simp [doFlashMapRebuilt, h, hb]

theorem doFlashMapRebuilt_ok (hb : bad = []) :
    let t := doFlashMapRebuilt bad s
    t.pwr.stage = 5 ∧ (s.pwr.kind = 1 → t.nvf = s.nvf ∧ t.sec = s.sec) ∧
      (s.pwr.kind ≠ 1 → s.sec.battery.formatted = true → s.sec.battery.auditSeq < t.sec.battery.auditSeq) := by
  subst hb
  unfold doFlashMapRebuilt
  simp only [h, Bool.not_true, Bool.false_eq_true, if_false, List.isEmpty_nil]
  rw [State.settlePhase_only]
  refine ⟨rfl, fun hk => ?_, fun hk hf => ?_⟩
  · simp [hk]
  · simp only [hk, if_false]
    exact State.recoverHead_auditSeq (s := { s with nvf := { chans := tmap (fun _ => Chan.unmapped) s.nvf.chans } }) hf

end

theorem State.zeroEngine_pwr (s : State) (e : Nat) : (s.zeroEngine e).pwr = s.pwr := rfl
theorem State.zeroEngine_bind (s : State) (e : Nat) : (s.zeroEngine e).bind = s.bind := rfl

theorem State.enforce_pwr (s : State) (im : Image) : (s.enforce im).pwr = s.pwr := by
  rw [State.enforce, State.setPhase_only]
  rfl

theorem State.enforce_image (s : State) (im : Image) : (s.enforce im).bind.image = some im := by
  rw [State.enforce, State.setPhase_only]
  rfl

section
variable {s : State} {im : Image} (h : s.starting 7 = true) (him : s.bind.pendingImage = some im)
include h him

theorem doBringupFabricEnd_waits (hs : s.fabricSettled = false) (hn : s.now < s.bind.accepted + 20000000000) :
    doBringupFabricEnd s = s := by
  simp [doBringupFabricEnd, h, him, hs, Nat.not_le.mpr hn]

theorem doBringupFabricEnd_ends (hs : s.fabricSettled = true ∨ s.bind.accepted + 20000000000 ≤ s.now) :
    let t := doBringupFabricEnd s
    t.pwr.stage = 8 ∧ t.pwr.priorImage = none ∧ t.bind.image = some im := by
  unfold doBringupFabricEnd
  rw [him]
  have hgo : (!s.starting 7 || !(s.fabricSettled || decide (s.now ≥ s.bind.accepted + 20000000000))) = false := by
    rcases hs with hs | hs <;> simp [h, hs]
  simp only [hgo, Bool.false_eq_true, if_false]
  have hmode (t : State) (p : Nat) : (if (t.recPart p).mode == .safe then t.setPartMode p .normal else t).pwr = t.pwr ∧
      (if (t.recPart p).mode == .safe then t.setPartMode p .normal else t).bind = t.bind := by
    split
    · rw [State.setPartMode_only]
      exact ⟨rfl, rfl⟩
    · exact ⟨rfl, rfl⟩
  rw [foldl_keeps State.pwr fun t p => (hmode t p).1, foldl_keeps State.bind fun t p => (hmode t p).2,
    foldl_keeps State.pwr fun _ _ => State.zeroEngine_pwr .., foldl_keeps State.bind fun _ _ => State.zeroEngine_bind ..,
    State.enforce_pwr, State.enforce_image]
  exact ⟨rfl, rfl, rfl⟩

end

/-- Settles O58: each command of a start, stage by stage. -/
theorem startsProceed : Obligations.StartsProceed := by
  refine ⟨fun s h => ?pwrok, fun s h => congrArg Host.Outcome.next (doDeviceReset_up h),
    fun k s => ⟨rfl, rfl, rfl, rfl, rfl, rfl, rfl, rfl, rfl, rfl, rfl⟩, fun s hup hsafe => ?restart, fun slots s hon hst => ?boot,
    fun r s h => ⟨_, rfl, doTrainingDone_spec r h⟩, fun ok s h => ⟨fun hk => ?intact, fun hk => ?broken, fun hk => ?cold⟩,
    fun bad s h => ⟨fun hb => ?bad, fun hb => ⟨_, rfl, doFlashMapRebuilt_ok h hb⟩⟩,
    fun im s h him => ⟨fun hs hn => ?waits, fun hs => ⟨_, rfl, doBringupFabricEnd_ends h him hs⟩⟩⟩
  case pwrok => exact congrArg Host.Outcome.next (if_neg (by simp [h]))
  case restart =>
    refine ⟨_, congrArg Host.Outcome.next (doSafeRestart_safe hup hsafe), _, rfl, ?_⟩
    rw [State.setPhase_only]
    exact ⟨rfl, rfl, rfl, rfl, rfl, rfl, rfl, rfl⟩
  case boot =>
    refine ⟨fun h => congrArg Host.Outcome.next (doFirmwareBoot_none hon hst h), fun k f h => ?_⟩
    obtain ⟨hslot, hk, hsig, hleast, hbest⟩ := bootSlot_spec h
    refine ⟨hslot, hk, hsig, hleast, hbest, _, congrArg Host.Outcome.next (doFirmwareBoot_some hon hst h), ?_⟩
    rw [State.setSafePin_only, State.setSafePin_pwr]
    exact ⟨rfl, rfl, rfl, rfl, rfl, rfl, rfl, rfl⟩
  case intact => exact congrArg Host.Outcome.next (doMemoryInitDone_restart h hk)
  case broken => exact ⟨_, rfl, doMemoryInitDone_broken h hk⟩
  case cold => exact ⟨_, rfl, doMemoryInitDone_cold ok h hk⟩
  case bad => exact congrArg Host.Outcome.next (doFlashMapRebuilt_bad h hb)
  case waits => exact congrArg Host.Outcome.next (doBringupFabricEnd_waits h him hs hn)

end Machine
end Sys2Proof

/-!
PROOFS. Settling O51 (RegistersAnswer): reads and writes of registers by a function, and what R8 refuses of them.
-/
namespace Sys2Proof
namespace Machine

/-! ## Rows of Table 19.4 -/

/-- A register with SAT bits has fields that are neither RO nor RW. -/
theorem halfOk_of_hasSat {r : RegName} (h : hasSat r = true) : halfOk r = false :=
  (by decide +kernel : ∀ r ∈ allRegs, hasSat r = true → halfOk r = false) r (mem_allRegs r) h

/-- The registers that PF0's write acts on in a way of their own. -/
def ownEffect : List RegName :=
  [.blockSnap, .hifT3Base, .hifT3SealBase, .hifT3Cfg, .hifT3Status, .hifEventCause, .sysFaultStatus, .sysFaultLogPtr, .sysHangReport,
   .shpQueueCfg, .shpPolRate, .shpPolBurst]

/-- The register is RW throughout. -/
def RegKind.isRw : RegKind → Bool
  | .rw _ => true
  | _ => false

/-- An RW register has one place, no SAT bits, and but for the window of tier 3 and the policers no effect of its own. -/
theorem rwReg_plain {r : RegName} (h : (regRow r).kind.isRw = true)
    (hr : r ∉ [RegName.hifT3Base, .hifT3SealBase, .hifT3Cfg, .shpQueueCfg, .shpPolRate, .shpPolBurst]) :
    (regRow r).n2 = 1 ∧ hasSat r = false ∧ r ∉ ownEffect :=
  (by decide +kernel : ∀ r ∈ allRegs, (regRow r).kind.isRw = true →
    r ∉ [RegName.hifT3Base, .hifT3SealBase, .hifT3Cfg, .shpQueueCfg, .shpPolRate, .shpPolBurst] →
    (regRow r).n2 = 1 ∧ hasSat r = false ∧ r ∉ ownEffect) r (mem_allRegs r) h hr

/-- Registers stand at multiples of 8 bytes. -/
theorem regAddr_aligned (r : RegName) (i : Nat) : regAddr r i 0 % 8 = 0 := by
  have hrow : (regRow r).off % 8 = 0 ∧ (regRow r).s1 % 8 = 0 ∧ blockBase (regRow r).block % 8 = 0 :=
    (by decide +kernel : ∀ r ∈ allRegs, (regRow r).off % 8 = 0 ∧ (regRow r).s1 % 8 = 0 ∧ blockBase (regRow r).block % 8 = 0) r
      (mem_allRegs r)
  obtain ⟨hoff, hs, hb⟩ := hrow
  simp [regAddr, Nat.add_mod, Nat.mul_mod, hoff, hs, hb]

/-! ## What an access may be (R8) -/

theorem accessOk_eight (fn : Fn) (off : Nat) : accessOk fn off 8 = true ↔ off % 8 = 0 := by simp [accessOk]

theorem accessOk_otherWidth (fn : Fn) (off : Nat) {w : Nat} (h8 : w ≠ 8) (h4 : w ≠ 4) : accessOk fn off w = false := by
  simp [accessOk, h8, h4]

theorem accessOk_unaligned (fn : Fn) {off : Nat} (h : off % 4 ≠ 0) : accessOk fn off 4 = false := by simp [accessOk, h]

/-- Half of a register with SAT bits cannot be accessed. -/
theorem accessOk_sat {fn : Fn} {off i j : Nat} {r : RegName} (hr : resolve fn (off / 8 * 8) = some (r, i, j))
    (h : hasSat r = true) : accessOk fn off 4 = false := by
  cases fn <;> simp [accessOk, hr, halfOk_of_hasSat h]

/-- A permitted access has 8 or 4 bytes and stands at a multiple of its width. -/
theorem accessOk_shape {fn : Fn} {off w : Nat} (h : accessOk fn off w = true) : w = 8 ∧ off % 8 = 0 ∨ w = 4 ∧ off % 4 = 0 := by
  by_cases h8 : w = 8
  · subst h8
    exact .inl ⟨rfl, (accessOk_eight fn off).mp h⟩
  · by_cases h4 : w = 4
    · subst h4
      exact .inr ⟨rfl, Decidable.of_not_not fun hn => by rw [accessOk_unaligned fn hn] at h; cases h⟩
    · rw [accessOk_otherWidth fn off h8 h4] at h
      cases h

/-! ## Reads -/

section
variable {fn : Fn} {off width : Nat} {s : State} (ha : s.answers fn = true)
include ha

theorem doRcRead_refused (h : accessOk fn off width = false) :
    doRcRead fn off width s = (s.accessErr fn).emit (.regRead fn 0) := by
  simp [doRcRead, ha, h]

/-- A permitted read returns the word or its half, and PF0's read of SYS_PWR_STATUS clears PEAK_W. -/
theorem doRcRead_permitted (h : accessOk fn off width = true) :
    let t := doRcRead fn off width s
    t.out = s.out ++ [.regRead fn (if width = 8 then s.readAt fn off else if off % 8 = 0 then s.readAt fn off &&& 0xFFFFFFFF
      else s.readAt fn (off / 8 * 8) >>> 32)] ∧
    t = { s with out := t.out, pwr := { s.pwr with peakW := t.pwr.peakW } } ∧
    ((fn ≠ .pf ∨ ∀ i j, resolve fn off ≠ some (.sysPwrStatus, i, j)) → t.pwr.peakW = s.pwr.peakW) ∧
    (fn = .pf → (∃ i j, resolve fn off = some (.sysPwrStatus, i, j)) → t.pwr.peakW = 0) := by
  have hword : halfWord off width (s.readAt fn (off / 8 * 8)) =
      if width = 8 then s.readAt fn off else if off % 8 = 0 then s.readAt fn off &&& 0xFFFFFFFF
        else s.readAt fn (off / 8 * 8) >>> 32 := by
    have hoff (h0 : off % 8 = 0) : off / 8 * 8 = off := by omega
    unfold halfWord
    obtain ⟨rfl, h0⟩ | ⟨rfl, h0⟩ := accessOk_shape h
    · rw [hoff h0]
    · by_cases h8 : off % 8 = 0
      · rw [hoff h8]
      · simp [h8]
  unfold doRcRead
  simp only [ha, h, Bool.not_true, Bool.false_eq_true, if_false]
  rw [hword]
  split
  · next i j hr => exact ⟨rfl, rfl, fun hn => absurd hr ((hn.resolve_left (fun hf => hf rfl)) i j), fun _ _ => rfl⟩
  · next hn => exact ⟨rfl, rfl, fun _ => rfl, fun hf ⟨i, j, hr⟩ => (hn i j hf hr).elim⟩

end

/-! ## Writes -/

/-- A register of no effect of its own is written under its mask. -/
theorem State.pfEffect_plain {r : RegName} (s : State) (i : Nat) (v lanes : W64) (h : r ∉ ownEffect) (hsat : hasSat r = false)
    (hmask : w64 (rwMask r i) &&& lanes ≠ 0) :
    s.pfEffect r i v lanes = s.pfWrite (regAddr r i 0) v fun t => t.setReg r i 0 (t.rwWord r i v lanes) := by
  unfold State.pfEffect
  dsimp only
  split
  rotate_right
  · rw [if_neg (by simp [hsat]), if_neg hmask]
  all_goals exact absurd h (by decide)

section
variable {fn : Fn} {off width : Nat} {v : W64} {s : State}

theorem doRegisterWrite_noAnswer (ha : s.answers fn = false) : doRegisterWrite fn off width v s = s.noAnswer := by
  simp [doRegisterWrite, State.regWrite, ha]

theorem doRegisterWrite_refused (ha : s.answers fn = true) (h : accessOk fn off width = false) :
    doRegisterWrite fn off width v s = s.accessErr fn := by
  simp [doRegisterWrite, State.regWrite, ha, h]

theorem doRegisterWrite_safe (ha : s.answers fn = true) (h : accessOk fn off width = true) (hs : s.flt.safe = true) :
    doRegisterWrite fn off width v s = s := by
  simp [doRegisterWrite, State.regWrite, ha, h, hs]

end

/-- PF0's write of an RW register without effects of its own sets the bits of its mask, once it is recorded. -/
theorem doRegisterWrite_rw {r : RegName} {i m : Nat} (v : W64) {s : State} (ha : s.answers .pf = true) (hs : s.flt.safe = false)
    (hi : i < (regRow r).n1) (hk : (regRow r).kind = .rw m) (hmask : w64 (rwMask r i) ≠ 0)
    (hr : r ∉ [RegName.hifT3Base, .hifT3SealBase, .hifT3Cfg, .shpQueueCfg, .shpPolRate, .shpPolBurst]) :
    doRegisterWrite .pf (regAddr r i 0) 8 v s =
      s.pfWrite (regAddr r i 0) v fun t => t.setReg r i 0 ((t.reg r i &&& ~~~w64 (rwMask r i)) ||| (v &&& w64 (rwMask r i))) := by
  obtain ⟨hn2, hsat, hown⟩ := rwReg_plain (by rw [hk]; rfl) hr
  have hat : resolve .pf (regAddr r i 0) = some (r, i, 0) := regAt_regAddr hi (by omega)
  have hlanes := and_allOnes (w64 (rwMask r i))
  calc doRegisterWrite .pf (regAddr r i 0) 8 v s
    _ = s.pfEffect r i v 0xFFFFFFFFFFFFFFFF := State.regWrite_pf v ha hs (regAddr_aligned r i) hat hn2
    _ = _ := s.pfEffect_plain i v _ hown hsat (by rwa [hlanes])
    _ = _ := by simp only [State.rwWord, hlanes]

/-- Settles O51: the reads of `doRcRead_permitted`, and a write that is refused, ignored, or sets the bits of its register's mask. -/
theorem registersAnswer : Obligations.RegistersAnswer := by
  refine ⟨fun fn off width s ha => congrArg Host.Outcome.next (if_pos (by simp [ha])),
    fun fn off => ⟨accessOk_eight fn off, fun w => accessOk_otherWidth fn off, accessOk_unaligned fn,
      fun r i j hr h => accessOk_sat hr h⟩,
    fun fn off width s ha => ⟨fun h => congrArg Host.Outcome.next (doRcRead_refused ha h),
      fun h => ⟨_, rfl, doRcRead_permitted ha h⟩⟩,
    fun fn off width v s => ⟨fun ha => congrArg Host.Outcome.next (doRegisterWrite_noAnswer ha),
      fun ha h => congrArg Host.Outcome.next (doRegisterWrite_refused ha h),
      fun ha h hs => congrArg Host.Outcome.next (doRegisterWrite_safe ha h hs)⟩,
    fun r i m v s ha hs hi hk hmask hr => ?rw, fun p off v r i j s ha hs ho hr hsat hv => ?unseen⟩
  case rw =>
    have hw := doRegisterWrite_rw v ha hs hi hk hmask hr
    refine ⟨fun hf hh => congrArg Host.Outcome.next (hw.trans ?_), fun hfull => congrArg Host.Outcome.next (hw.trans ?_)⟩
    · rw [State.pfWrite_recorded hf hh, State.recorded_reg]
      rfl
    · rcases hfull with hf | hh
      · simp [State.pfWrite, hf]
      · simp [State.pfWrite, hh]
  case unseen =>
    refine congrArg Host.Outcome.next ?_
    rw [doSatClear, hr]
    simp only [hsat, if_true]
    rw [State.regWrite_vf v ha hs ho hr, State.vfEffect, hv]
    rfl

end Machine
end Sys2Proof

/-!
PROOFS. Settling O24 (GrammarsLoadAndDrop), O27 (ProgramsLoad), O35 (HandoffsSend) and O36 (HandoffsClaim): grammars and model
programs come and go, and the requests that a hand-off makes.
-/
namespace Sys2Proof
namespace Machine

/-- A verb that completes after a change outside the host interface ends, and the change stands. -/
theorem State.complete_ends_after {s u : State} {p vid : Nat} {v : Verb} (h : s.verb? p vid = some v) (hu : u.hif = s.hif)
    (st : Status) (flags : Nat := 0) (body : RecBody := []) (hd : Option Nat := none) :
    Ended s (u.complete p vid st flags body hd) p v st flags body hd ∧
      u.complete p vid st flags body hd = { u with hif := (u.complete p vid st flags body hd).hif } := by
  obtain ⟨hend, honly⟩ := State.complete_ends ((State.verb?_congr (congrArg HifState.verbs hu) p vid).trans h) st flags body hd
  exact ⟨hend.congr hu, honly⟩

/-! ## Model programs (R144, R235) -/

section
variable {s : State} {p vid : Nat} {v : Verb}

theorem doProgramLoad_refused (hv : s.begun? p vid .programLoad = some v)
    (h : (s.partImage p).prog.source = 0 ∨ (s.program? p).isSome = true) : doProgramLoad p vid s = s.complete p vid .badState := by
  simp [doProgramLoad, hv, h]

theorem doProgramLoad_reads (hv : s.begun? p vid .programLoad = some v) (hsrc : (s.partImage p).prog.source ≠ 0)
    (hprog : s.program? p = none) :
    doProgramLoad p vid s = (s.runVerb p vid).request .host { cls := .d, len := v.f 0x28 8, owner := some (.verb p vid) } := by
  simp [doProgramLoad, hv, hsrc, hprog]

variable (hv : s.running? p vid .programLoad = some v)
include hv

theorem doProgramLoadDone_unread : doProgramLoadDone p vid none s = s.complete p vid .badArgument := by
  simp [doProgramLoadDone, hv]

theorem doProgramLoadDone_bad {g : Program} (h : v.f 0x28 8 ≠ g.bytes.length ∨ progOk (s.partImage p).prog g = false) :
    doProgramLoadDone p vid (some g) s = s.complete p vid .badArgument := by
  have h' : ¬ (v.f 0x28 8 = g.bytes.length ∧ progOk (s.partImage p).prog g = true) := by
    rintro ⟨hlen, hok⟩
    rcases h with h | h
    · exact h hlen
    · rw [hok] at h
      cases h
  simp [doProgramLoadDone, hv, h']

theorem doProgramLoadDone_loads {g : Program} (hlen : v.f 0x28 8 = g.bytes.length) (hok : progOk (s.partImage p).prog g = true) :
    doProgramLoadDone p vid (some g) s = (s.loadProgram p g).complete p vid .ok := by
  simp [doProgramLoadDone, hv, hlen, hok]

end

/-- A program that is loaded stands in its partition, and is measured. -/
theorem State.loadProgram_spec (s : State) (p : Nat) (g : Program) :
    (s.loadProgram p g).program? p = some g ∧ tget (s.loadProgram p g).sec.blocks (0x30 + p) = some (sha384 g.bytes) ∧
      s.loadProgram p g = { s with spn := (s.loadProgram p g).spn, sec := (s.loadProgram p g).sec } :=
  ⟨congrArg SpnPart.program (State.spnOf_setSpn_same ..), tget_tput_same .., rfl⟩

theorem doProgramFetch_eq {s : State} {p : Nat} {r : Option Program} (hlive : s.live = true) (him : (s.partImage? p).isSome = true)
    (hsrc : (s.partImage p).prog.source = 0) (hprk : s.hasPrk p = true) (hprog : s.program? p = none)
    (hfail : (s.spnOf p).fetchFailed = false) (hlink : s.hif.linkUp = true) (hd3 : s.hif.pfD3hot = false)
    (hfence : s.partFenced p = false) :
    doProgramFetch p r s = match r with
      | some g => if progOk (s.partImage p).prog g then s.loadProgram p g
        else (s.modSpn p fun y => { y with fetchFailed := true }).post p { status := .badArgument }
      | none => (s.modSpn p fun y => { y with fetchFailed := true }).post p { status := .badArgument } := by
  have him' : (s.partImage? p).isNone = false := by simpa using him
  cases r <;> simp [doProgramFetch, hlive, him', hsrc, hprk, hprog, hfail, hlink, hd3, hfence]

/-- Settles O27: the branches of the three commands, and `State.loadProgram_spec`. -/
theorem programsLoad : Obligations.ProgramsLoad := by
  refine ⟨fun p vid v s hv => ⟨fun h => ?refused, fun hsrc hprog => congrArg Host.Outcome.next (doProgramLoad_reads hv hsrc hprog)⟩,
    fun p vid v s hv => ⟨?unread, fun g => ⟨fun h => ?bad, fun hlen hok => ?loads⟩⟩,
    fun p s hlive him hsrc hprk hprog hfail hlink hd3 hfence => ⟨fun g hok => ?fetched, fun r hr => ?failed⟩⟩
  case refused =>
    exact ⟨_, congrArg Host.Outcome.next (doProgramLoad_refused hv h), State.complete_ends (State.begun?_verb hv).1 ..⟩
  case unread =>
    exact ⟨_, congrArg Host.Outcome.next (doProgramLoadDone_unread hv), State.complete_ends (State.running?_verb hv).1 ..⟩
  case bad =>
    exact ⟨_, congrArg Host.Outcome.next (doProgramLoadDone_bad hv h), State.complete_ends (State.running?_verb hv).1 ..⟩
  case loads =>
    obtain ⟨hend, honly⟩ := State.complete_ends_after (u := s.loadProgram p g) (State.running?_verb hv).1 rfl .ok
    obtain ⟨hprog, hblock, hframe⟩ := s.loadProgram_spec p g
    refine ⟨_, congrArg Host.Outcome.next (doProgramLoadDone_loads hv hlen hok), hend, ?_, ?_, ?_⟩
    · rw [honly]; exact hprog
    · rw [honly]; exact hblock
    · rw [honly]; rfl
  case fetched =>
    refine congrArg Host.Outcome.next ?_
    rw [doProgramFetch_eq hlive him hsrc hprk hprog hfail hlink hd3 hfence]
    simp [hok]
  case failed =>
    refine congrArg Host.Outcome.next ?_
    rw [doProgramFetch_eq hlive him hsrc hprk hprog hfail hlink hd3 hfence]
    cases r with
    | none => rfl
    | some g => simp [hr g rfl]

/-! ## Grammars (R175 to R183) -/

section
variable {s : State} {p vid : Nat} {v : Verb}

theorem doGrammarLoad_reserved (hv : s.begun? p vid .grammarLoad = some v) (h : v.f 0x2C 4 = 0 ∨ v.f 0x2C 4 = 0xFFFFFFFF) :
    doGrammarLoad p vid s = s.complete p vid .badArgument := by
  simp [doGrammarLoad, hv, h]

theorem doGrammarLoad_reads (hv : s.begun? p vid .grammarLoad = some v) (h0 : v.f 0x2C 4 ≠ 0) (h1 : v.f 0x2C 4 ≠ 0xFFFFFFFF) :
    doGrammarLoad p vid s = (s.runVerb p vid).request .host { cls := .d, len := v.f 0x28 4, owner := some (.verb p vid) } := by
  simp [doGrammarLoad, hv, h0, h1]

section
variable (hv : s.running? p vid .grammarLoad = some v)
include hv

theorem doGrammarLoadDone_unread : doGrammarLoadDone p vid none s = s.complete p vid .badArgument := by
  simp [doGrammarLoadDone, hv]

variable {g : GrammarImage}

theorem doGrammarLoadDone_bad (hok : ({ g with len := v.f 0x28 4 } : GrammarImage).ok (s.vocab p) = false) :
    doGrammarLoadDone p vid (some g) s = s.complete p vid .badArgument := by
  simp [doGrammarLoadDone, hv, hok]

variable (hok : ({ g with len := v.f 0x28 4 } : GrammarImage).ok (s.vocab p) = true)
include hok

theorem doGrammarLoadDone_loaded (hid : (tget (s.txtPart p).grammars (v.f 0x2C 4)).isSome = true) :
    doGrammarLoadDone p vid (some g) s = s.complete p vid .badState := by
  simp [doGrammarLoadDone, hv, hok, hid]

variable (hid : tget (s.txtPart p).grammars (v.f 0x2C 4) = none)
include hid

theorem doGrammarLoadDone_new : doGrammarLoadDone p vid (some g) s =
    if s.grammarMax p < (s.txtPart p).grammars.length + 1 ∨
        s.grammarMib p * 1048576 < s.grammarUse p + grammarSpace (v.f 0x28 4)
    then s.complete p vid .noCapacity
    else (s.setTxtPart p { s.txtPart p with
      grammars := tput (s.txtPart p).grammars (v.f 0x2C 4) { image := { g with len := v.f 0x28 4 } } }).complete p vid .ok := by
  unfold doGrammarLoadDone
  rw [hv]
  dsimp only
  rw [hok, hid]
  simp only [Bool.not_true, Bool.false_eq_true, if_false, Option.isSome_none, Bool.or_eq_true, decide_eq_true_eq, gt_iff_lt]

theorem doGrammarLoadDone_noRoom (h : s.grammarMax p < (s.txtPart p).grammars.length + 1 ∨
    s.grammarMib p * 1048576 < s.grammarUse p + grammarSpace (v.f 0x28 4)) :
    doGrammarLoadDone p vid (some g) s = s.complete p vid .noCapacity :=
  (doGrammarLoadDone_new hv hok hid).trans (if_pos h)

theorem doGrammarLoadDone_loads (hmax : (s.txtPart p).grammars.length + 1 ≤ s.grammarMax p)
    (hmib : s.grammarUse p + grammarSpace (v.f 0x28 4) ≤ s.grammarMib p * 1048576) :
    doGrammarLoadDone p vid (some g) s = (s.setTxtPart p { s.txtPart p with
      grammars := tput (s.txtPart p).grammars (v.f 0x2C 4) { image := { g with len := v.f 0x28 4 } } }).complete p vid .ok :=
  (doGrammarLoadDone_new hv hok hid).trans (if_neg fun h => h.elim (Nat.not_lt.mpr hmax) (Nat.not_lt.mpr hmib))

end

/-- The drops of a grammar that end with one of them: those that wait, and verb `vid`. -/
def State.dropsOf (s : State) (p gid vid : Nat) : List Nat :=
  ((s.verbs p).filter fun w => w.op == .grammarDrop && w.f 0x2C 4 == gid && (w.phase == .running || w.id == vid)).map (·.id)

/-- A dropped grammar is gone, its bitmaps with it, and its drops complete. -/
theorem State.dropGrammar_spec (s : State) (p gid vid : Nat) :
    tget ((s.dropGrammar p gid vid).txtPart p).grammars gid = none ∧
    (∀ k, k ≠ gid → tget ((s.dropGrammar p gid vid).txtPart p).grammars k = tget (s.txtPart p).grammars k) ∧
    s.dropGrammar p gid vid = { s with hif := (s.dropGrammar p gid vid).hif, txt := (s.dropGrammar p gid vid).txt } ∧
    ∃ u : State, s.dropGrammar p gid vid = u.completeAll p (s.dropsOf p gid vid) .ok ∧ u.hif = s.hif := by
  have hdrop : s.dropGrammar p gid vid = (s.setTxtPart p { s.txtPart p with
      grammars := tdel (s.txtPart p).grammars gid,
      cache := (s.txtPart p).cache.filter fun e => e.1 != gid }).completeAll p (s.dropsOf p gid vid) .ok := rfl
  rw [hdrop]
  generalize hu : s.setTxtPart p _ = u
  have htxt : (u.completeAll p (s.dropsOf p gid vid) .ok).txtPart p = u.txtPart p := by
    rw [State.txtPart, State.completeAll_txt, State.txtPart]
  rw [htxt]
  refine ⟨?_, fun k hk => ?_, ?_, u, rfl, ?_⟩
  · rw [← hu, State.txtPart_setTxtPart_same, tget_tdel_same]
  · rw [← hu, State.txtPart_setTxtPart_same, tget_tdel_other _ _ _ hk]
  · rw [State.completeAll_only, ← hu]
    rfl
  · rw [← hu]
    rfl

section
variable (hv : s.begun? p vid .grammarDrop = some v)
include hv

theorem doGrammarDrop_unknown (h : tget (s.txtPart p).grammars (v.f 0x2C 4) = none) :
    doGrammarDrop p vid s = s.complete p vid .badArgument := by
  simp [doGrammarDrop, hv, h]

theorem doGrammarDrop_drops {g : Grammar} (h : tget (s.txtPart p).grammars (v.f 0x2C 4) = some g)
    (huse : s.grammarInUse p (v.f 0x2C 4) = false) (hjob : (s.ckpOf p).jobs.contains (.grammar (v.f 0x2C 4)) = false) :
    doGrammarDrop p vid s = s.dropGrammar p (v.f 0x2C 4) vid := by
  simp only [doGrammarDrop, hv, h, huse, hjob, Bool.or_self, Bool.false_eq_true, if_false]

theorem doGrammarDrop_waits {g : Grammar} (h : tget (s.txtPart p).grammars (v.f 0x2C 4) = some g)
    (huse : s.grammarInUse p (v.f 0x2C 4) = true ∨ (s.ckpOf p).jobs.contains (.grammar (v.f 0x2C 4)) = true) :
    doGrammarDrop p vid s = (s.setTxtPart p { s.txtPart p with
      grammars := tput (s.txtPart p).grammars (v.f 0x2C 4) { g with dropping := true } }).runVerb p vid := by
  simp only [doGrammarDrop, hv, h, Bool.or_eq_true, huse, if_true]

theorem mem_dropsOf : vid ∈ s.dropsOf p (v.f 0x2C 4) vid := by
  obtain ⟨hverb, hid, hop, -⟩ := State.begun?_verb hv
  refine List.mem_map.mpr ⟨v, List.mem_filter.mpr ⟨(State.verb?_mem hverb).1, ?_⟩, hid⟩
  simp [hop, hid]

end

end

theorem doGrammarDropEffect_drops {s : State} {p gid : Nat} {g : Grammar} {v : Verb} (hlive : s.live = true)
    (huse : s.grammarInUse p gid = false) (hjob : (s.ckpOf p).jobs.contains (.grammar gid) = false)
    (hg : tget (s.txtPart p).grammars gid = some g) (hdrop : g.dropping = true)
    (hv : (s.verbs p).find? (fun v => v.op == .grammarDrop && v.phase == .running && v.f 0x2C 4 == gid) = some v) :
    doGrammarDropEffect p gid s = s.dropGrammar p gid v.id := by
  simp only [doGrammarDropEffect, hlive, huse, hjob, hg, hv, hdrop, Bool.not_true, Bool.or_self, Bool.false_eq_true, if_false,
    if_true]

/-- Settles O24: the branches of the four commands; a drop that takes effect is `State.dropGrammar`. -/
theorem grammarsLoadAndDrop : Obligations.GrammarsLoadAndDrop := by
  refine ⟨⟨fun p vid v s hv => ⟨fun h => ?reserved, fun h0 h1 => congrArg Host.Outcome.next (doGrammarLoad_reads hv h0 h1)⟩,
      fun p vid v s hv => ⟨?unread, fun g => ⟨fun hok => ?bad, fun hok hid => ?loaded, fun hok hid => ⟨fun h => ?noRoom,
        fun hmax hmib => ?loads⟩⟩⟩⟩,
    fun p vid v s hv => ⟨fun h => ?unknown, fun g hg => ⟨fun huse hjob => ?drops,
      fun huse => congrArg Host.Outcome.next (doGrammarDrop_waits hv hg huse)⟩⟩,
    fun p gid g v s hlive huse hjob hg hdrop hv => ?effect⟩
  case reserved =>
    exact ⟨_, congrArg Host.Outcome.next (doGrammarLoad_reserved hv h), State.complete_ends (State.begun?_verb hv).1 ..⟩
  case unread =>
    exact ⟨_, congrArg Host.Outcome.next (doGrammarLoadDone_unread hv), State.complete_ends (State.running?_verb hv).1 ..⟩
  case bad =>
    exact ⟨_, congrArg Host.Outcome.next (doGrammarLoadDone_bad hv hok), State.complete_ends (State.running?_verb hv).1 ..⟩
  case loaded =>
    exact ⟨_, congrArg Host.Outcome.next (doGrammarLoadDone_loaded hv hok hid), State.complete_ends (State.running?_verb hv).1 ..⟩
  case noRoom =>
    exact ⟨_, congrArg Host.Outcome.next (doGrammarLoadDone_noRoom hv hok hid h), State.complete_ends (State.running?_verb hv).1 ..⟩
  case loads =>
    refine ⟨_, congrArg Host.Outcome.next (doGrammarLoadDone_loads hv hok hid hmax hmib), ?_⟩
    generalize hu : s.setTxtPart p _ = u
    obtain ⟨hend, honly⟩ := State.complete_ends_after (u := u) (State.running?_verb hv).1 (by rw [← hu]; rfl) .ok
    refine ⟨hend, ?_, ?_⟩
    · rw [State.txtPart, State.complete_txt, ← State.txtPart, ← hu, State.txtPart_setTxtPart_same]
    · rw [honly, ← hu]
      rfl
  case unknown =>
    exact ⟨_, congrArg Host.Outcome.next (doGrammarDrop_unknown hv h), State.complete_ends (State.begun?_verb hv).1 ..⟩
  case drops =>
    obtain ⟨hgone, hothers, honly, hall⟩ := s.dropGrammar_spec p (v.f 0x2C 4) vid
    exact ⟨_, congrArg Host.Outcome.next (doGrammarDrop_drops hv hg huse hjob), hgone, hothers, honly, mem_dropsOf hv, hall⟩
  case effect =>
    obtain ⟨hgone, -, honly, u, hall, hhif⟩ := s.dropGrammar_spec p gid v.id
    exact ⟨_, congrArg Host.Outcome.next (doGrammarDropEffect_drops hlive huse hjob hg hdrop hv), hgone, honly, u, hhif, hall⟩

/-- A fold whose elements do nothing leaves its start. -/
theorem foldl_idle {σ α : Type} (g : σ → α → σ) (l : List α) (s : σ) (h : ∀ a ∈ l, ∀ t, g t a = t) : l.foldl g s = s := by
  induction l with
  | nil => rfl
  | cons a l ih => rw [List.foldl_cons, h a List.mem_cons_self, ih fun b hb => h b (List.mem_cons_of_mem _ hb)]

/-! ## Requests of a hand-off that is sent (R278, R279) -/

theorem State.region?_num {s : State} {n : Nat} {r : XRegion} (h : s.region? n = some r) : r.num = n := by
  simpa using List.find?_some h

section
variable {s : State} {d : Nat} {x : Session} {o : SendOp} (hx : s.session? d = some x) (ho : x.send = some o)
include hx ho

/-- A hand-off that waits for a request it has just made: the request stands, its tag is noted, and nothing else has changed. -/
theorem State.waitSend_made (f : SendOp → SendOp) (who : Asker) (type p : Nat) (cls : ArbClass) (dst : Nat × Nat)
    (offset addr len : Nat) (data : Bytes) :
    let t := s.waitSend d f (s.startRequest who type p cls dst offset addr len data)
    t.session? d = some { x with send := some { f o with tag := s.fab.nextTag, retry := none } } ∧
      t.awaits s.fab.nextTag who dst len ∧ t = { s with dir := t.dir, fab := t.fab, shp := t.shp, out := t.out } := by
  obtain ⟨htag, hsame, hmade⟩ := s.startRequest_made who type p cls dst offset addr len data
  generalize s.startRequest who type p cls dst offset addr len data = y at htag hsame hmade ⊢
  have hxy : y.2.session? d = some x := (State.session?_congr (by rw [hsame]) d).trans hx
  have hw : s.waitSend d f y =
      y.2.setSession d { x with send := some { f o with tag := s.fab.nextTag, retry := none } } := by
    rw [State.waitSend, State.modSend, State.modSession_some hxy, ho, htag, Option.map_some]
  dsimp only
  rw [hw]
  exact ⟨State.session?_setSession_same .., hmade, by rw [hsame]; rfl⟩

variable {r : XRegion} (hr : s.region? o.region = some r)
include hr

theorem State.sendAct_readRecord :
    let t := s.sendAct d .readRecord
    t.session? d = some { x with send := some { o with phase := .readRecord, tag := s.fab.nextTag, retry := none } } ∧
      t.awaits s.fab.nextTag (.send d) (r.dev, r.part) 16 ∧ t = { s with dir := t.dir, fab := t.fab, shp := t.shp, out := t.out } := by
  have hact : s.sendAct d .readRecord =
      s.waitSend d (fun o => { o with phase := .readRecord }) (s.askRecord (.send d) x.part r o.record) := by
    simp [State.sendAct, hx, ho, hr]
  rw [hact]
  exact State.waitSend_made hx ho _ (.send d) tyReadReq x.part .c (r.dev, r.part) (recordAt r o.record) 0 16 []

theorem State.sendAct_sent :
    let t := s.sendAct d .sent
    t.session? d = some { x with send := some { o with phase := .sent, lastPoll := s.now, tag := s.fab.nextTag, retry := none } } ∧
      t.awaits s.fab.nextTag (.send d) (r.dev, r.part) 16 ∧ t = { s with dir := t.dir, fab := t.fab, shp := t.shp, out := t.out } := by
  have hact : s.sendAct d .sent =
      s.waitSend d (fun o => { o with phase := .sent, lastPoll := s.now }) (s.askRecord (.send d) x.part r o.record) := by
    simp [State.sendAct, hx, ho, hr]
  rw [hact]
  exact State.waitSend_made hx ho _ (.send d) tyReadReq x.part .c (r.dev, r.part) (recordAt r o.record) 0 16 []

theorem State.sendAct_reclaim : s.sendAct d .reclaim =
    s.waitSend d (fun o => { o with phase := .reclaim }) (s.askCas (.send d) x.part r o.record (s.handoffRec x.part o)
      (s.ownedRec x.part (nextEpoch (nextEpoch o.epoch)))) := by
  simp [State.sendAct, hx, ho, hr]

end

theorem State.sendIn_some {s : State} {d : Nat} {ph : SendPhase} {x : Session} {o : SendOp} (h : s.sendIn d ph = some (x, o)) :
    s.session? d = some x ∧ x.send = some o ∧ o.phase = ph ∧ s.live = true := by
  unfold State.sendIn at h
  split at h
  · cases h
  · next y hy =>
    split at h
    · next w hw =>
      split at h
      · next hc =>
        obtain ⟨rfl, rfl⟩ := Prod.mk.inj (Option.some.inj h)
        simp only [Bool.and_eq_true, beq_iff_eq] at hc
        exact ⟨hy, hw, hc.1, hc.2⟩
      · cases h
    · cases h

/-! ## HANDOFF_SEND -/

/-- What HANDOFF_SEND asks of its region and its operands. -/
def State.sendFits (s : State) (p : Nat) (v : Verb) (r : XRegion) : Bool :=
  s.regionGranted p r && decide (v.f 0x22 2 < r.records) && s.fabSec.peers.any (fun y => y.id == (unpackPair (v.f 0x24 2)).1) &&
    (v.f 0x28 4 == 0 || (10 ≤ v.f 0x28 4 && v.f 0x28 4 ≤ 1000000))

theorem State.sendFits_iff (s : State) (p : Nat) (v : Verb) (r : XRegion) : s.sendFits p v r = true ↔
    s.regionGranted p r = true ∧ v.f 0x22 2 < r.records ∧
      s.fabSec.peers.any (fun y => y.id == (unpackPair (v.f 0x24 2)).1) = true ∧
      (v.f 0x28 4 = 0 ∨ (10 ≤ v.f 0x28 4 ∧ v.f 0x28 4 ≤ 1000000)) := by
  unfold State.sendFits
  generalize s.fabSec.peers.any _ = peer
  simp [and_assoc]

/-- The hand-off that a HANDOFF_SEND begins. -/
def State.newSend (s : State) (p vid : Nat) (v : Verb) (r : XRegion) : SendOp :=
  { verb := vid, region := r.num, record := v.f 0x22 2, tdev := (unpackPair (v.f 0x24 2)).1, tpart := (unpackPair (v.f 0x24 2)).2,
    claimUs := if v.f 0x28 4 = 0 then s.claimDefault p else v.f 0x28 4 }

section
variable {s : State} {p vid : Nat} {v : Verb} {x : Session} (hv : s.begun? p vid .handoffSend = some v)
  (hx : s.session? v.dir = some x) (hsend : x.send = none)
include hv hx hsend

theorem doHandoffSend_badState (h : x.parkOp.isSome = true ∨ x.revive.isSome = true ∨ (s.keysOf p).plk = none) :
    doHandoffSend p vid s = s.complete p vid .badState := by
  have h' : (x.parkOp.isSome || x.revive.isSome || (s.keysOf p).plk.isNone) = true := by
    simpa [or_assoc] using h
  simp only [doHandoffSend, hv, hx, hsend, h', Option.isSome_none, Bool.false_eq_true, if_false, if_true]

variable (hpark : x.parkOp = none) (hrev : x.revive = none) (hkey : (s.keysOf p).plk.isSome = true)
include hpark hrev hkey

theorem doHandoffSend_noRegion (h : s.region? (v.f 0x20 1) = none) : doHandoffSend p vid s = s.complete p vid .badArgument := by
  simp [doHandoffSend, hv, hx, hsend, hpark, hrev, Option.isSome_iff_ne_none.mp hkey, h]

variable {r : XRegion} (hr : s.region? (v.f 0x20 1) = some r)
include hr

theorem doHandoffSend_eq : doHandoffSend p vid s =
    if s.sendFits p v r = false then s.complete p vid .badArgument
    else if r.slotBytes < slotUse (s.quireCount x) then s.complete p vid .noCapacity
    else ((s.runVerb p vid).modSession v.dir fun x => { x with send := some (s.newSend p vid v r) }).sendAct v.dir .readRecord := by
  have hbad : (!s.regionGranted p r || decide (v.f 0x22 2 ≥ r.records) ||
      !s.fabSec.peers.any (fun y => y.id == (unpackPair (v.f 0x24 2)).1) ||
      (v.f 0x28 4 != 0 && (decide (v.f 0x28 4 < 10) || decide (v.f 0x28 4 > 1000000)))) = !s.sendFits p v r := by
    simp [State.sendFits, Bool.not_and, Bool.not_or, ← decide_not]
    rfl
  simp only [doHandoffSend, hv, hx, hsend, hpark, hrev, Option.isNone_eq_false_iff.mpr hkey, hr, hbad, Option.isSome_none,
    Bool.or_self, Bool.false_eq_true, if_false, Bool.not_eq_true']
  rfl

end

/-- Settles O35: the branches of HANDOFF_SEND, the requests of `State.sendAct`, and RECORD_RETRY of the one operation that waits. -/
theorem handoffsSend : Obligations.HandoffsSend := by
  refine ⟨fun p vid v x s hv hx hsend => ?send, fun d x o r s hin hr => ⟨fun hpoll => ?poll, fun hdl => ?reclaim⟩,
    fun d w x o s hlive hx ho hw hnow hacks hclaims => ?retrySend,
    fun d w o before after s hlive hx hc hothers hw hland hnow hleft => ?retryClaim⟩
  case send =>
    intro us target
    obtain ⟨hverb, hid, -⟩ := State.begun?_verb hv
    refine ⟨fun h => ⟨_, congrArg Host.Outcome.next (doHandoffSend_badState hv hx hsend h), State.complete_ends hverb ..⟩,
      fun hpark hrev hkey => ⟨fun h => ⟨_, congrArg Host.Outcome.next (doHandoffSend_noRegion hv hx hsend hpark hrev hkey h),
        State.complete_ends hverb ..⟩, fun r hr => ?_⟩⟩
    have heq := doHandoffSend_eq hv hx hsend hpark hrev hkey hr
    refine ⟨fun hbad => ?_, fun hgood hroom => ?_, fun hgood hroom => ?_⟩
    · rw [if_pos (Bool.eq_false_iff.mpr (mt (s.sendFits_iff p v r).mp hbad))] at heq
      exact ⟨_, congrArg Host.Outcome.next heq, State.complete_ends hverb ..⟩
    · rw [if_neg (by simp [(s.sendFits_iff p v r).mpr hgood]), if_pos hroom] at heq
      exact ⟨_, congrArg Host.Outcome.next heq, State.complete_ends hverb ..⟩
    · rw [if_neg (by simp [(s.sendFits_iff p v r).mpr hgood]), if_neg (Nat.not_lt.mpr hroom)] at heq
      refine ⟨_, congrArg Host.Outcome.next heq, ?_⟩
      have hx' : (s.runVerb p vid).session? v.dir = some x := hx
      rw [State.modSession_some hx']
      generalize hu : (s.runVerb p vid).setSession v.dir _ = u
      have hxu : u.session? v.dir = some { x with send := some (s.newSend p vid v r) } := by
        rw [← hu, State.session?_setSession_same]
      have hru : u.region? (s.newSend p vid v r).region = some r := by
        rw [← hu]
        change s.region? r.num = some r
        rwa [State.region?_num hr]
      have htag : u.fab.nextTag = s.fab.nextTag := by rw [← hu]; rfl
      obtain ⟨hses, hmade, hframe⟩ := State.sendAct_readRecord hxu rfl hru
      rw [htag] at hses hmade
      generalize u.sendAct v.dir .readRecord = t at hses hmade hframe ⊢
      refine ⟨?_, hses, hmade, ?_⟩
      · rw [State.verb?_congr (s := s.runVerb p vid) (by rw [hframe, ← hu]; rfl)]
        exact State.verb?_modVerb hverb fun _ => rfl
      · rw [hframe, ← hu]
        rfl
  case poll =>
    obtain ⟨hx, ho, hph, -⟩ := State.sendIn_some hin
    have hact : doHandoffPoll d s = s.sendAct d .sent := by
      rw [doHandoffPoll, hin]
      exact if_pos hpoll
    obtain ⟨hses, hmade, hframe⟩ := State.sendAct_sent hx ho hr
    rw [← hph] at hses
    exact ⟨_, congrArg Host.Outcome.next hact, by rw [← hph]; exact hses, hmade, hframe⟩
  case reclaim =>
    obtain ⟨hx, ho, -⟩ := State.sendIn_some hin
    have hact : doHandoffReclaim d s = s.sendAct d .reclaim := by
      rw [doHandoffReclaim, hin]
      exact if_pos hdl
    rw [State.sendAct_reclaim hx ho hr] at hact
    obtain ⟨hses, hmade, hframe⟩ := State.waitSend_made hx ho (fun o => { o with phase := .reclaim }) (.send d) tyCasReq
      x.part .c (r.dev, r.part) (recordAt r o.record) 0 32
      (natLe 16 (s.handoffRec x.part o) ++ natLe 16 (s.ownedRec x.part (nextEpoch (nextEpoch o.epoch))))
    exact ⟨_, congrArg Host.Outcome.next hact, hses, rfl, hmade, hframe⟩
  case retrySend =>
    refine congrArg Host.Outcome.next ?_
    have hready : (s.now ≥ w + s.pollNs x.part && (o.phase != .writing || decide (o.acksLeft = 0))) = true := by
      by_cases hph : o.phase = .writing <;> simp [hnow, hph, hacks]
    simp only [doRecordRetry, hlive, hx, ho, hw, hready, Bool.not_true, Bool.false_eq_true, if_false, if_true]
    exact foldl_idle _ _ _ fun c hc t => by rw [hclaims c hc]
  case retryClaim =>
    refine congrArg Host.Outcome.next ?_
    have hready : (((decide (o.dir = d)) || o.landed.isNone) && s.now ≥ w + s.pollNs o.part && (o.phase != 2 || decide (o.left = 0))) = true := by
      by_cases hph : o.phase = 2 <;> simp [hnow, hph, hland, hleft]
    simp only [doRecordRetry, hlive, hx, Bool.not_true, Bool.false_eq_true, if_false]
    have hidle (c : ClaimOp) (hc : c ∈ before ++ after) := hothers c hc
    rw [hc, List.foldl_append, List.foldl_cons, foldl_idle _ before _ fun c hc t => by rw [hidle c (List.mem_append_left _ hc)],
      foldl_idle _ after _ fun c hc t => by rw [hidle c (List.mem_append_right _ hc)], hw]
    exact if_pos hready

/-! ## HANDOFF_CLAIM (R281) -/

theorem lmod_append {α : Type} (c : α → Bool) (f : α → α) (l r : List α) : lmod c f (l ++ r) = lmod c f l ++ lmod c f r :=
  List.map_append

/-- Elements of which none is meant stay. -/
theorem lmod_of_none {α : Type} {c : α → Bool} (f : α → α) {l : List α} (h : l.find? c = none) : lmod c f l = l := by
  rw [List.find?_eq_none] at h
  exact (List.map_congr_left fun a ha => if_neg (h a ha)).trans (List.map_id l)

/-- What HANDOFF_CLAIM asks of its region and its operands. -/
def State.claimFits (s : State) (p : Nat) (v : Verb) (r : XRegion) : Bool :=
  s.regionGranted p r && s.queueIn p (v.f 0x26 2) && decide (v.f 0x22 2 < r.records)

/-- The claim that a HANDOFF_CLAIM begins. -/
def newClaim (p vid : Nat) (v : Verb) (r : XRegion) : ClaimOp :=
  { part := p, verb := vid, region := r.num, record := v.f 0x22 2, queue := v.f 0x26 2 }

section
variable {s : State} {p vid : Nat} {v : Verb} (hv : s.begun? p vid .handoffClaim = some v)
include hv

theorem doHandoffClaim_noRegion (h : s.region? (v.f 0x20 1) = none) : doHandoffClaim p vid s = s.complete p vid .badArgument := by
  simp [doHandoffClaim, hv, h]

theorem doHandoffClaim_eq {r : XRegion} (hr : s.region? (v.f 0x20 1) = some r) : doHandoffClaim p vid s =
    if s.claimFits p v r = false then s.complete p vid .badArgument
    else ({ (s.runVerb p vid) with ho := { s.ho with claims := s.ho.claims ++ [newClaim p vid v r] } } : State).claimAct p vid 0 := by
  have hbad : (!s.regionGranted p r || !s.queueIn p (v.f 0x26 2) || decide (v.f 0x22 2 ≥ r.records)) = !s.claimFits p v r := by
    simp [State.claimFits, Bool.not_and, ← decide_not]
  simp only [doHandoffClaim, hv, hr, hbad, Bool.not_eq_true']
  rfl

end

/-- The first act of a claim that has just been noted: the record is read. -/
theorem State.claimAct_reads {u : State} {p vid : Nat} {r : XRegion} {o : ClaimOp} {l : List ClaimOp} (hc : u.ho.claims = l ++ [o])
    (hl : l.find? (fun o => o.part == p && o.verb == vid) = none) (ho : (o.part == p && o.verb == vid) = true)
    (hr : u.region? o.region = some r) :
    let t := u.claimAct p vid 0
    t.ho.claims = l ++ [{ o with phase := 0, retry := none, left := 1 }] ∧ t.awaits u.fab.nextTag (.claim p vid) (r.dev, r.part) 16 ∧
      t = { u with ho := { u.ho with claims := t.ho.claims }, fab := t.fab, shp := t.shp, out := t.out } := by
  have hclaim : u.claim? p vid = some o := by
    rw [State.claim?, hc, List.find?_append, hl]
    simp [ho]
  obtain ⟨-, hsame, hmade⟩ := u.startRequest_made (.claim p vid) tyReadReq p .c (r.dev, r.part) (recordAt r o.record) 0 16 []
  have hact : u.claimAct p vid 0 =
      (u.askRecord (.claim p vid) p r o.record).2.modClaim p vid fun o => { o with phase := 0, retry := none, left := 1 } := by
    simp [State.claimAct, hclaim, hr]
  rw [hact, State.askRecord]
  generalize (u.startRequest (.claim p vid) tyReadReq p .c (r.dev, r.part) (recordAt r o.record) 0 16 []).2 = y at hsame hmade ⊢
  have hho : y.ho.claims = l ++ [o] := by rw [hsame]; exact hc
  refine ⟨?_, hmade, by rw [State.modClaim, hsame]⟩
  change lmod _ _ y.ho.claims = _
  rw [hho, lmod_append, lmod_of_none _ hl, lmod, List.map_singleton, if_pos ho]

/-- Settles O36: the refusals of HANDOFF_CLAIM, and the first act of the claim that it notes. -/
theorem handoffsClaim : Obligations.HandoffsClaim := by
  intro p vid v s hv hnone
  obtain ⟨hverb, hid, -⟩ := State.begun?_verb hv
  refine ⟨fun h => ⟨_, congrArg Host.Outcome.next (doHandoffClaim_noRegion hv h), State.complete_ends hverb ..⟩, fun r hr => ?_⟩
  intro good
  have hiff : s.claimFits p v r = true ↔ good := by simp [State.claimFits, good, and_assoc]
  have heq := doHandoffClaim_eq hv hr
  refine ⟨fun hbad => ?_, fun hgood => ?_⟩
  · rw [if_pos (Bool.eq_false_iff.mpr (mt hiff.mp hbad))] at heq
    exact ⟨_, congrArg Host.Outcome.next heq, State.complete_ends hverb ..⟩
  · rw [if_neg (by simp [hiff.mpr hgood])] at heq
    refine ⟨_, congrArg Host.Outcome.next heq, ?_⟩
    generalize hu : ({ (s.runVerb p vid) with ho := { s.ho with claims := s.ho.claims ++ [newClaim p vid v r] } } : State) = u
    obtain ⟨hclaims, hmade, hframe⟩ := State.claimAct_reads (u := u) (o := newClaim p vid v r) (r := r) (by rw [← hu]) hnone
      (by simp [newClaim]) (by rw [← hu]; exact (congrArg s.region? (State.region?_num hr)).trans hr)
    have htag : u.fab.nextTag = s.fab.nextTag := by rw [← hu]; rfl
    rw [htag] at hmade
    generalize u.claimAct p vid 0 = t at hclaims hmade hframe ⊢
    refine ⟨?_, hclaims, hmade, ?_⟩
    · rw [State.verb?_congr (s := s.runVerb p vid) (by rw [hframe, ← hu])]
      exact State.verb?_modVerb hverb fun _ => rfl
    · rw [hframe, ← hu]
      rfl

end Machine
end Sys2Proof

/-! PROOFS. Settling O29, O30 and O31 (commands of the engines): what a command does that stands next, that is malformed, or that is
not the one that stands next; the effect of each task kind; budgets, barriers, ends and context switches. -/
namespace Sys2Proof
namespace Machine

/-! ### Whether the command that stands next starts -/

/-- The opcode of a command is defined, and so is the kind of a TASK. -/
def cmdDefined (m : Cmd) : Bool := 1 ≤ m.opcode && m.opcode ≤ 5 && (m.opcode != 1 || m.kind ≤ 4)

theorem cmdDefined_iff (m : Cmd) :
    cmdDefined m = true ↔ 1 ≤ m.opcode ∧ m.opcode ≤ 5 ∧ (m.opcode = 1 → m.kind ≤ 4) := by
  simp [cmdDefined, and_assoc, Decidable.imp_iff_not_or]

/-- A command that passes R146 is defined. -/
theorem State.cmdDefined_of_instOk {s : State} {i : Inst} (h : s.instOk i = true) : cmdDefined i.cmd = true := by
  rw [cmdDefined_iff]
  simp only [State.instOk, State.cmdOk, Bool.and_eq_true, decide_eq_true_eq] at h
  obtain ⟨-, ⟨⟨-, h1⟩, h5⟩, hop⟩ := h
  refine ⟨h1, h5, fun ht => ?_⟩
  rw [if_pos ht] at hop
  simp only [State.taskOk, Bool.and_eq_true, decide_eq_true_eq] at hop
  exact hop.1.1.1.1.1

theorem State.runCmd_eq {s : State} {e : Nat} {i : Inst} (h : s.current e = some i) (is : Cmd → Bool) (eff : Inst → State → State) :
    s.runCmd e is eff = if !cmdDefined i.cmd then s.malformed e i else if !is i.cmd then s
      else if !s.instOk i then s.malformed e i else eff i s := by
  simp only [State.runCmd, h, cmdDefined]
  rfl

theorem State.runCmd_undefined {s : State} {e : Nat} {i : Inst} (h : s.current e = some i) (hd : cmdDefined i.cmd = false)
    (is : Cmd → Bool) (eff : Inst → State → State) : s.runCmd e is eff = s.malformed e i := by
  simp [State.runCmd_eq h, hd]

theorem State.runCmd_other {s : State} {e : Nat} {i : Inst} (h : s.current e = some i) (hd : cmdDefined i.cmd = true)
    {is : Cmd → Bool} (hi : is i.cmd = false) (eff : Inst → State → State) : s.runCmd e is eff = s := by
  simp [State.runCmd_eq h, hd, hi]

theorem State.runCmd_malformed {s : State} {e : Nat} {i : Inst} (h : s.current e = some i) (hd : cmdDefined i.cmd = true)
    (ho : s.instOk i = false) {is : Cmd → Bool} (hi : is i.cmd = true) (eff : Inst → State → State) :
    s.runCmd e is eff = s.malformed e i := by
  simp [State.runCmd_eq h, hd, hi, ho]

theorem State.runCmd_runs {s : State} {e : Nat} {i : Inst} (h : s.current e = some i) (ho : s.instOk i = true)
    {is : Cmd → Bool} (hi : is i.cmd = true) (eff : Inst → State → State) : s.runCmd e is eff = eff i s := by
  simp [State.runCmd_eq h, State.cmdDefined_of_instOk ho, hi, ho]

theorem State.runTask_runs {s : State} {e : Nat} {i : Inst} (h : s.current e = some i) (ho : s.instOk i = true)
    (hop : i.cmd.opcode = 1) (hb : s.overBudget e i = false) {kind : Nat} (hk : i.cmd.kind = kind) (eff : Inst → State → State) :
    s.runTask e kind eff = eff i s := by
  rw [State.runTask, State.runCmd_runs h ho (by simp [hop, hk])]
  simp [hb]

/-- The TASK commands of an engine. -/
def taskCmds (e : Nat) : List Instr := [.taskProduct e, .taskVector e, .taskAttention e, .taskSample e, .taskMove e]

/-- The commands that act on the command at which engine `e` stands. -/
def engineCmds (e : Nat) : List Instr :=
  taskCmds e ++ [.issueRead e, .issueWrite e, .await e, .barrier e, .endStream e]

/-- A TASK command is a run of a command with opcode 1. -/
theorem exec_taskCmd {e : Nat} {c : Instr} (hc : c ∈ taskCmds e) (s : State) :
    ∃ t, exec c s = .next t ∧ ∃ kind eff, t = s.runTask e kind eff := by
  simp only [taskCmds, List.mem_cons, List.not_mem_nil, or_false] at hc
  rcases hc with rfl | rfl | rfl | rfl | rfl <;> exact ⟨_, rfl, _, _, rfl⟩

/-- Every command of an engine is a run of the command at which it stands. -/
theorem exec_engineCmd {e : Nat} {c : Instr} (hc : c ∈ engineCmds e) (s : State) :
    ∃ t, exec c s = .next t ∧ ∃ is eff, t = s.runCmd e is eff := by
  rcases List.mem_append.mp hc with h | h
  · obtain ⟨t, ht, kind, eff, h⟩ := exec_taskCmd h s
    exact ⟨t, ht, _, _, h⟩
  · simp only [List.mem_cons, List.not_mem_nil, or_false] at h
    rcases h with rfl | rfl | rfl | rfl | rfl <;> exact ⟨_, rfl, _, _, rfl⟩

theorem State.runTask_malformed {s : State} {e : Nat} {i : Inst} (h : s.current e = some i) (hd : cmdDefined i.cmd = true)
    (ho : s.instOk i = false) (hop : i.cmd.opcode = 1) {kind : Nat} (hk : i.cmd.kind = kind) (eff : Inst → State → State) :
    s.runTask e kind eff = s.malformed e i := by
  rw [State.runTask, State.runCmd_malformed h hd ho (by simp [hop, hk])]

/-- Settles O29. Every command of an engine is a run of the command at which the engine stands, and that run begins with the checks
of R146. -/
theorem malformedCommandsStop : Obligations.MalformedCommandsStop := by
  unfold Obligations.MalformedCommandsStop
  intro e i s hcur
  dsimp only
  rw [Decidable.not_not, ← cmdDefined_iff, Bool.not_eq_true]
  refine ⟨fun hd c hc => ?_, fun hd ho => ?_, fun hd hop c hc => ?_⟩
  · obtain ⟨t, h, is, eff, ht⟩ := exec_engineCmd hc s
    rw [h, ht, State.runCmd_undefined hcur hd]
    rfl
  · have task {kind : Nat} (eff : Inst → State → State) (hop : i.cmd.opcode = 1) (hk : i.cmd.kind = kind) :=
      congrArg (Host.Outcome.next (φ := Fault) (ρ := Refusal)) (State.runTask_malformed hcur hd ho hop hk eff)
    have stop (is : Cmd → Bool) (eff : Inst → State → State) (hi : is i.cmd = true) :=
      congrArg (Host.Outcome.next (φ := Fault) (ρ := Refusal)) (State.runCmd_malformed hcur hd ho hi eff)
    exact ⟨task _, task _, task _, task _, task _, fun h k => stop (fun m => m.opcode == 2 && m.issueOp == 0) _ (by simp [h, k]),
      fun h k => stop (fun m => m.opcode == 2 && m.issueOp == 1) _ (by simp [h, k]), fun h => stop (fun m => m.opcode == 3) _ (by simp [h]),
      fun h => stop (fun m => m.opcode == 4) _ (by simp [h]), fun h => stop (fun m => m.opcode == 5) _ (by simp [h])⟩
  · obtain ⟨t, h, kind, eff, ht⟩ := exec_taskCmd hc s
    rw [h, ht, State.runTask, State.runCmd_other hcur hd (by simp [hop])]

/-! ### What the tasks compute -/

theorem State.engOf_modEng (s : State) (e : Nat) (f : Engine → Engine) : (s.modEng e f).engOf e = f (s.engOf e) :=
  tgetD_tput_same ..

theorem State.recPart_setRecPart (s : State) (p : Nat) (x : RecPart) : (s.setRecPart p x).recPart p = x := tgetD_tput_same ..

theorem mreads_length (m : Mem) (a n : Nat) : (mreads m a n).length = n := by
  induction n generalizing a with
  | zero => rfl
  | succ n ih => simp [mreads, ih]

theorem space3_length (g : Option Gather) (off n : Nat) : (space3 g off n).length = n := by
  unfold space3
  split <;> simp [zeros]

theorem State.readSpace_length (s : State) (p e slot a n : Nat) : (s.readSpace p e slot a n).length = n := by
  unfold State.readSpace
  split
  · exact mreads_length ..
  · exact mreads_length ..
  · exact mreads_length ..
  · exact space3_length ..

/-- What a task writes: an engine store, a state buffer or HBM share, or the scratch of a replay. -/
theorem State.writeSpace_only (s : State) (p e slot a : Nat) (b : Bytes) :
    s.writeSpace p e slot a b =
      { s with eng := (s.writeSpace p e slot a b).eng, spn := (s.writeSpace p e slot a b).spn,
               flt := (s.writeSpace p e slot a b).flt } := by
  unfold State.writeSpace
  dsimp only
  split
  · rfl
  · split <;> rfl
  · split <;> rfl
  · rfl

/-- A write to one of the spaces that take one reads back. -/
theorem State.readSpace_writeSpace (s : State) (p e slot a : Nat) (b : Bytes) (h : spaceOf a ≤ 2) :
    (s.writeSpace p e slot a b).readSpace p e slot a b.length = b := by
  have hc : spaceOf a = 0 ∨ spaceOf a = 1 ∨ spaceOf a = 2 := by omega
  rcases hc with h | h | h
  · simp only [State.readSpace, State.writeSpace, h, State.engOf_modEng, mreads_mwrites]
  · simp only [State.readSpace, State.writeSpace, h]
    by_cases hs : slot = 1
    · simp only [if_pos hs, State.recPart_setRecPart, mreads_mwrites]
    · simp only [if_neg hs, State.modSpn, spnOf_setSpn_same, mreads_mwrites]
  · simp only [State.readSpace, State.writeSpace, h]
    by_cases hs : slot = 1
    · simp only [if_pos hs, State.recPart_setRecPart, mreads_mwrites]
    · simp only [if_neg hs, State.modSpn, spnOf_setSpn_same, mreads_mwrites]

/-- R146 keeps the destination of a MOVE out of space 3. -/
theorem State.moveDest_of_instOk {s : State} {i : Inst} (h : s.instOk i = true) (hop : i.cmd.opcode = 1) (hk : i.cmd.kind = 4) :
    spaceOf i.cmd.addrC ≤ 2 := by
  simp only [State.instOk, State.cmdOk, Bool.and_eq_true, if_pos hop] at h
  obtain ⟨-, -, ht⟩ := h
  simp only [State.taskOk, hk, Bool.and_eq_true, State.addrOk] at ht
  obtain ⟨-, -, ⟨⟨-, h3⟩, hne⟩, -⟩ := ht
  simp only [decide_eq_true_eq] at h3
  have : spaceOf i.cmd.addrC ≠ 3 := by simpa using hne
  omega

/-- The elements of a mapped range with their places. -/
theorem enum_map_range {α : Type} (f : Nat → α) (n : Nat) : enum ((List.range n).map f) = (List.range n).map fun k => (k, f k) := by
  unfold enum
  rw [List.length_map, List.length_range]
  simpa using List.zip_map' (f := id) (g := f) (l := List.range n)

theorem any_congr_mem {α : Type} {f g : α → Bool} : ∀ {l : List α}, (∀ x ∈ l, f x = g x) → l.any f = l.any g
  | [], _ => rfl
  | x :: l, h => by
    rw [List.any_cons, List.any_cons, h x List.mem_cons_self, any_congr_mem fun y hy => h y (List.mem_cons_of_mem x hy)]

/-- A PRODUCT, with its rows and columns named by their numbers. -/
theorem State.product_eq (s : State) (e : Nat) (i : Inst) {r : PairRule} (hr : pairRule (i.cmd.fmt % 16) (i.cmd.fmt / 16) = some r) :
    let m := i.cmd
    let ra := rowBytes (m.fmt % 16) m.k
    let rb := rowBytes (m.fmt / 16) m.k
    let row := fun k => rowOf (m.fmt % 16) m.k (s.readSpace i.p e i.slot (m.addrA + k * ra) ra)
    let col := fun k => rowOf (m.fmt / 16) m.k (s.readSpace i.p e i.slot (m.addrB + k * rb) rb)
    let acc := if m.out < 16 then [] else unpackF (s.readSpace i.p e i.slot m.addrC (4 * m.m * m.n))
    let res := fun a => (List.range m.n).map fun b => columnAcc r (acc.getD (a * m.n + b) 0) (row a) (col b)
    let clip := (List.range m.m).any fun a => (encodeRow (m.out % 16) (res a)).2.1
    let nan := ((List.range m.m).any fun a => (List.range m.n).any fun b =>
        isNaN32 ((res a).getD b 0) && !(row a).contains .nan && !(col b).contains .nan && !isNaN32 (acc.getD (a * m.n + b) 0)) ||
      (List.range m.m).any fun a => (encodeRow (m.out % 16) (res a)).2.2
    let u := (List.range m.m).foldl (fun u a => u.writeSpace i.p e i.slot (m.addrC + a * rowBytes (m.out % 16) m.n)
        (encodeRow (m.out % 16) (res a)).1) s
    s.product e i = ((u.countClip e clip).countNan e nan).finishCmd e i := by
  unfold State.product
  simp only [hr, enum_map_range, List.map_map, List.foldl_map, List.any_map, Function.comp_def]
  congr 3
  refine any_congr_mem fun a ha => ?_
  have hget {β : Type} (f : Nat → β) (d : β) : ((List.range i.cmd.m).map f).getD a d = f a := by
    simp [List.getD_eq_getElem?_getD, List.mem_range.mp ha]
  rw [hget]

/-- The folios that an attention task needs: those it reads keys of, and those its new tokens go to. -/
def State.attFolios (s : State) (i : Inst) (x : AttParam) (a : AttCtx) : List Nat :=
  spansRead a (partKeys x i.cmd.part (s.keyOrder a.p a.seq a.en)) ++ (s.placesOf a.p a.seq a.en a.en.slotCount).map (·.1)

section
variable {s : State} {e : Nat} {i : Inst}

theorem doTaskMove_moves (hcur : s.current e = some i) (ho : s.instOk i = true) (hop : i.cmd.opcode = 1)
    (hb : s.overBudget e i = false) (hk : i.cmd.kind = 4) : doTaskMove e s =
      (s.writeSpace i.p e i.slot i.cmd.addrC (s.readSpace i.p e i.slot i.cmd.addrA i.cmd.note.moveBytes)).finishCmd e i :=
  State.runTask_runs hcur ho hop hb hk _

theorem State.vector_one {o : VecOp} (h : i.cmd.note.vops = [o]) : s.vector e i =
    (((s.modEng e fun g => { g with store := mwrites g.store o.dst (vecResult (s.engOf e).store o).1 }).countClip e
      (vecResult (s.engOf e).store o).2.1).countNan e (vecResult (s.engOf e).store o).2.2).finishCmd e i := by
  simp [State.vector, h]

section
variable {x : AttParam} {freqs : List Nat} {a : AttCtx}
variable (hcur : s.current e = some i) (ho : s.instOk i = true) (hop : i.cmd.opcode = 1) (hb : s.overBudget e i = false)
  (hk : i.cmd.kind = 2)
include hcur ho hop hb hk

theorem doTaskAttention_badParam (hp : s.attParam e i = none) : doTaskAttention e s = s.malformed e i := by
  rw [doTaskAttention, State.runTask_runs hcur ho hop hb hk]
  simp only [hp]

theorem doTaskAttention_noEntry (hp : s.attParam e i = some (x, freqs)) (ha : s.attCtx i x = none) :
    doTaskAttention e s = s.finishCmd e i := by
  rw [doTaskAttention, State.runTask_runs hcur ho hop hb hk]
  simp only [hp, ha]

/-- With a parameter block and an entry, the operands, the page tables and the lines are looked at in this order. -/
theorem doTaskAttention_entry (hp : s.attParam e i = some (x, freqs)) (ha : s.attCtx i x = some a) :
    doTaskAttention e s = if !s.attOperands i a then s.malformed e i
      else if (s.attFolios i x a).any fun n => (s.attFolio a n).isNone then s.ptFault e i a
      else match (s.attFolios i x a).findSome? (s.lostIn a) with
        | some f => s.lineFault e i f
        | none => s.attend e i a freqs := by
  rw [doTaskAttention, State.runTask_runs hcur ho hop hb hk]
  simp only [hp, ha]
  rfl

theorem doTaskAttention_resident (hp : s.attParam e i = some (x, freqs)) (ha : s.attCtx i x = some a)
    (hok : s.attOperands i a = true) (hf : ∀ n ∈ s.attFolios i x a, s.attFolio a n ≠ none) :
    doTaskAttention e s = match (s.attFolios i x a).findSome? (s.lostIn a) with
      | some f => s.lineFault e i f
      | none => s.attend e i a freqs := by
  have hnone : ((s.attFolios i x a).any fun n => (s.attFolio a n).isNone) = false := by
    simpa [Option.isSome_iff_ne_none] using hf
  rw [doTaskAttention_entry hcur ho hop hb hk hp ha, hok, hnone]
  rfl

end

theorem doTaskSample_samples (hcur : s.current e = some i) (ho : s.instOk i = true) (hop : i.cmd.opcode = 1)
    (hb : s.overBudget e i = false) (hk : i.cmd.kind = 3) : doTaskSample e s =
      if s.sampleOperands i then s.sampleTask e i else s.malformed e i :=
  State.runTask_runs hcur ho hop hb hk _

theorem State.sampleTask_waits (h : ∃ x ∈ s.sampled i, x.2.2.maskWait ≠ []) : s.sampleTask e i =
    if i.ctx.maskLate = true then s else (s.count .txtMaskLate i.p).modCtx e i.slot fun y => { y with maskLate := true } := by
  have hany : ((s.sampled i).any fun x => !x.2.2.maskWait.isEmpty) = true := by
    simpa [List.any_eq_true] using h
  simp only [State.sampleTask, hany, if_true]

theorem State.sampleTask_samples (h : ∀ x ∈ s.sampled i, x.2.2.maskWait = []) : s.sampleTask e i =
    (((s.sampled i).filter fun x => x.2.2.kind == 0).foldl (fun t x => t.sampleEntry e i x.1 x.2.1 x.2.2) s).finishCmd e i := by
  have hany : ((s.sampled i).any fun x => !x.2.2.maskWait.isEmpty) = false := by
    simpa [List.any_eq_false] using h
  simp only [State.sampleTask, hany, Bool.false_eq_true, if_false]

end

/-- Settles O30, kind by kind: a task that starts and stays inside its budget takes the effect of its kind. -/
theorem tasksCompute : Obligations.TasksCompute := by
  unfold Obligations.TasksCompute
  refine ⟨fun e i s hcur ho hop hb => ⟨fun hk => ?_, fun hk o hv => ?_, fun hk => ⟨fun hp => ?_, fun x freqs hp => ⟨fun ha => ?_,
    fun a ha => ⟨fun hok => ?_, fun hok hm => ?_, fun f hok hf hl => ?_, fun hok hf => ?_⟩⟩⟩,
    fun hk => ⟨fun h => ?_, fun h hw => ?_, fun h hw => ?_⟩⟩, fun e i r s hcur ho hop hk hb hr => ?_⟩
  · have hread := State.readSpace_writeSpace s i.p e i.slot i.cmd.addrC
      (s.readSpace i.p e i.slot i.cmd.addrA i.cmd.note.moveBytes) (State.moveDest_of_instOk ho hop hk)
    rw [State.readSpace_length] at hread
    exact ⟨_, congrArg Host.Outcome.next (doTaskMove_moves hcur ho hop hb hk), _, rfl, hread, State.writeSpace_only ..⟩
  · exact ⟨_, congrArg Host.Outcome.next ((State.runTask_runs hcur ho hop hb hk _).trans (State.vector_one hv)), _, rfl,
      by rw [State.engOf_modEng], rfl⟩
  · exact congrArg Host.Outcome.next (doTaskAttention_badParam hcur ho hop hb hk hp)
  · exact congrArg Host.Outcome.next (doTaskAttention_noEntry hcur ho hop hb hk hp ha)
  · exact congrArg Host.Outcome.next ((doTaskAttention_entry hcur ho hop hb hk hp ha).trans (by simp [hok]))
  · have hany : ((s.attFolios i x a).any fun n => (s.attFolio a n).isNone) = true := by
      obtain ⟨n, hn, hnone⟩ := hm
      exact List.any_eq_true.mpr ⟨n, hn, by simp [hnone]⟩
    exact congrArg Host.Outcome.next ((doTaskAttention_entry hcur ho hop hb hk hp ha).trans (by simp [hok, hany]))
  · exact congrArg Host.Outcome.next ((doTaskAttention_resident hcur ho hop hb hk hp ha hok hf).trans
      (by rw [show (s.attFolios i x a).findSome? (s.lostIn a) = some f from hl]; rfl))
  · have hl : (s.attFolios i x a).findSome? (s.lostIn a) = none := List.findSome?_eq_none_iff.mpr fun n hn => (hf n hn).2
    exact congrArg Host.Outcome.next ((doTaskAttention_resident hcur ho hop hb hk hp ha hok fun n hn => (hf n hn).1).trans (by rw [hl]))
  · exact congrArg Host.Outcome.next ((doTaskSample_samples hcur ho hop hb hk).trans (by simp [h]))
  · exact congrArg Host.Outcome.next
      ((doTaskSample_samples hcur ho hop hb hk).trans ((if_pos h).trans (State.sampleTask_waits hw)))
  · exact congrArg Host.Outcome.next
      ((doTaskSample_samples hcur ho hop hb hk).trans ((if_pos h).trans (State.sampleTask_samples hw)))
  · exact congrArg Host.Outcome.next ((State.runTask_runs hcur ho hop hb hk _).trans (State.product_eq s e i hr))

/-! ### Budgets, barriers, ends and switches -/

/-- Between two states only what a task writes differs; no error line has been driven. -/
def SameButOutputs (s t : State) : Prop :=
  t = { s with free := t.free, eng := t.eng, spn := t.spn, flt := t.flt, fol := t.fol } ∧ t.flt.lines = s.flt.lines

theorem SameButOutputs.refl (s : State) : SameButOutputs s s := ⟨rfl, rfl⟩

theorem SameButOutputs.trans {s t u : State} (a : SameButOutputs s t) (b : SameButOutputs t u) : SameButOutputs s u :=
  ⟨by rw [b.1, a.1], b.2.trans a.2⟩

theorem foldl_outputs {α : Type} {g : State → α → State} (h : ∀ s a, SameButOutputs s (g s a)) (l : List α) (s : State) :
    SameButOutputs s (l.foldl g s) := by
  induction l generalizing s with
  | nil => exact .refl s
  | cons a l ih => exact (h s a).trans (ih _)

theorem State.writeSpace_outputs (s : State) (p e slot a : Nat) (b : Bytes) : SameButOutputs s (s.writeSpace p e slot a b) := by
  unfold State.writeSpace
  dsimp only
  split
  · exact ⟨rfl, rfl⟩
  · split <;> exact ⟨rfl, rfl⟩
  · split <;> exact ⟨rfl, rfl⟩
  · exact .refl s

theorem State.freed_outputs (s : State) (n : Nat) : SameButOutputs s { s with free := n } := ⟨rfl, rfl⟩

theorem State.smear_outputs (s : State) (p e slot a n : Nat) : SameButOutputs s (s.smear p e slot a n) :=
  (s.freed_outputs _).trans (State.writeSpace_outputs ..)

theorem State.modFolio_outputs (s : State) (k : Nat) (f : Folio → Folio) : SameButOutputs s (s.modFolio k f) := by
  unfold State.modFolio
  split
  · exact ⟨rfl, rfl⟩
  · exact .refl s

theorem State.putKv_outputs (s : State) (a : AttCtx) (w : Nat × Nat) (key val : Bytes) : SameButOutputs s (s.putKv a w key val) := by
  unfold State.putKv
  dsimp only
  split
  · exact .refl s
  · split
    · exact ⟨rfl, rfl⟩
    · exact State.modFolio_outputs ..

theorem State.putTree_outputs (s : State) (a : AttCtx) (n : Nat) (key val : Bytes) : SameButOutputs s (s.putTree a n key val) := by
  unfold State.putTree
  dsimp only
  split <;> exact ⟨rfl, rfl⟩

theorem State.modEntry_outputs (s : State) (p slot k : Nat) (f : GEntry → GEntry) : SameButOutputs s (s.modEntry p slot k f) := by
  unfold State.modEntry
  dsimp only
  split
  · exact ⟨rfl, rfl⟩
  · split
    · exact ⟨rfl, rfl⟩
    · exact .refl s

theorem State.smearKv_outputs (s : State) (e : Nat) (i : Inst) : SameButOutputs s (s.smearKv e i) := by
  unfold State.smearKv
  split
  · exact .refl s
  · split
    · exact .refl s
    · refine (s.freed_outputs _).trans (foldl_outputs (fun t k => ?_) _ _)
      dsimp only
      split
      · exact State.putTree_outputs ..
      · split
        · exact State.putKv_outputs ..
        · exact .refl t

theorem State.cutSamples_outputs (s : State) (e : Nat) (i : Inst) : SameButOutputs s (s.cutSamples e i) := by
  unfold State.cutSamples
  refine foldl_outputs (fun t x => ?_) _ _
  split
  · exact .refl t
  · exact (t.freed_outputs _).trans (State.modEntry_outputs ..)

/-- A task that stops at its budget leaves what it writes incomplete, and touches nothing else. -/
theorem State.incomplete_outputs (s : State) (e : Nat) (i : Inst) : SameButOutputs s (s.incomplete e i) := by
  have h := foldl_outputs (fun (u : State) (x : Nat × Nat) => u.smear_outputs i.p e i.slot x.1 x.2) (s.outputsOf e i) s
  unfold State.incomplete
  dsimp only
  split
  · exact h.trans (State.smearKv_outputs ..)
  · split
    · exact h.trans (State.cutSamples_outputs ..)
    · exact h

@[simp] theorem State.reg_count_same (s : State) (r : RegName) (i n j : Nat) :
    (s.count r i n j).reg r i j = s.reg r i j + BitVec.ofNat 64 n := tgetD_tput_same ..

theorem State.reg_count_other (s : State) {r q : RegName} {i k j l : Nat} (n : Nat) (h : regAddr q k l ≠ regAddr r i j) :
    (s.count r i n j).reg q k l = s.reg q k l := tgetD_tput_other _ _ _ _ _ h

theorem State.ctx?_modCtx (s : State) (e slot : Nat) (f : Ctx → Ctx) : (s.modCtx e slot f).ctx? e slot = (s.ctx? e slot).map f := by
  unfold State.ctx? State.modCtx
  rw [State.engOf_modEng]
  cases h : tget (s.engOf e).slots slot <;> simp [h]

theorem State.reg_of_regs {s t : State} (h : t.regs = s.regs) (r : RegName) (i j : Nat) : t.reg r i j = s.reg r i j :=
  congrArg (tgetD · (regAddr r i j) (regReset r i)) h

/-- A context is stopped with its engine, and the budget log tells which. -/
def State.stopAndLog (s : State) (e slot : Nat) (l : Nat × Nat × Nat) : State :=
  (s.stopCtx e slot).modEng e fun x => { x with budgetLog := l }

theorem State.reg_stopAndLog (s : State) (e slot : Nat) (l : Nat × Nat × Nat) (src : Nat) (d : FaultDetail) (r : RegName) (i j : Nat) :
    ((s.stopAndLog e slot l).raise src d).reg r i j = s.reg r i j := State.reg_of_regs rfl r i j

theorem State.engOf_stopAndLog (s : State) (e slot : Nat) (l : Nat × Nat × Nat) : (s.stopAndLog e slot l).engOf e =
    { (s.modCtx e slot fun y => { y with faulted := true }).engOf e with stopped := true, budgetLog := l } := by
  rw [State.stopAndLog, State.engOf_modEng, State.stopCtx, State.engOf_modEng]

theorem State.engOf_stopAndLog_raise (s : State) (e slot : Nat) (l : Nat × Nat × Nat) (src : Nat) (d : FaultDetail) :
    ((s.stopAndLog e slot l).raise src d).engOf e = (s.stopAndLog e slot l).engOf e := rfl

theorem State.stopped_stopAndLog (s : State) (e slot : Nat) (l : Nat × Nat × Nat) (src : Nat) (d : FaultDetail) :
    (((s.stopAndLog e slot l).raise src d).engOf e).stopped = true := by
  rw [State.engOf_stopAndLog_raise, State.engOf_stopAndLog]

theorem State.budgetLog_stopAndLog (s : State) (e slot : Nat) (l : Nat × Nat × Nat) (src : Nat) (d : FaultDetail) :
    (((s.stopAndLog e slot l).raise src d).engOf e).budgetLog = l := by
  rw [State.engOf_stopAndLog_raise, State.engOf_stopAndLog]

theorem State.faulted_stopAndLog {s : State} {e slot : Nat} {l : Nat × Nat × Nat} {src : Nat} {d : FaultDetail} {y : Ctx}
    (h : ((s.stopAndLog e slot l).raise src d).ctx? e slot = some y) : y.faulted = true := by
  rw [State.ctx?, State.engOf_stopAndLog_raise, State.engOf_stopAndLog] at h
  have h := (State.ctx?_modCtx s e slot fun y => { y with faulted := true }).symm.trans h
  obtain ⟨z, -, rfl⟩ := Option.map_eq_some_iff.mp h
  rfl

section
variable {s : State} {e : Nat} {i : Inst}

theorem doBudgetFault_over {unit : Nat} (hcur : s.current e = some i) (ho : s.instOk i = true) (hop : i.cmd.opcode = 1)
    (hu : taskUnit i.cmd.kind = unit) (hb : s.overBudget e i = true) : doBudgetFault e unit s =
      (((s.incomplete e i).count .engAttWaves e (if i.cmd.kind = 2 then i.cmd.budget + 1 else 0)).stopAndLog e i.slot
        (i.slot, i.ctx.index, unit)).raise (0x20 + e) (seqDetail e i unit 3) := by
  rw [doBudgetFault, State.runCmd_runs hcur ho (by simp [hop, hu])]
  simp [hb, State.stopAndLog]

theorem doEndStream_ends (hcur : s.current e = some i) (ho : s.instOk i = true) (hop : i.cmd.opcode = 5) (hs : i.slot ≠ 1) :
    doEndStream e s = ((s.count .engHeartbeat e).modCtx e i.slot fun y => { y with ended := true }).choose i.p e := by
  rw [doEndStream, State.runCmd_runs hcur ho (by simp [hop])]
  simp [hs]

theorem doBarrier_eq (hcur : s.current e = some i) (ho : s.instOk i = true) (hop : i.cmd.opcode = 4) (hs : i.slot ≠ 1) :
    doBarrier e s =
      if (s.barrierEngines i.p i.slot).all (fun k => k == e || s.atBarrier k i.slot i.cmd.tag) then
        (s.barrierEngines i.p i.slot).foldl (fun t k =>
          let u := t.advanceCtx i.p k i.slot
          if (u.engOf k).running = i.slot ∧ (u.engOf k).switching = none then u.choose i.p k else u) s
      else s.block e i 3 i.cmd.tag := by
  rw [doBarrier, State.runCmd_runs hcur ho (by simp [hop])]
  simp only [if_neg hs, Bool.and_eq_true, decide_eq_true_eq, Option.isNone_iff_eq_none]

end

theorem doContextSwitchDone_switches {s : State} {e k : Nat} {y z : Ctx} (hsw : (s.engOf e).switching = some k) (hl : s.live = true)
    (hy : tget (s.engOf e).slots k = some y) (hz : tget (s.engOf e).slots (s.engOf e).running = some z) : doContextSwitchDone e s =
      ((s.setEng e { s.engOf e with
          store := y.saved,
          slots := tput (tput (s.engOf e).slots (s.engOf e).running { z with saved := (s.engOf e).store }) k
            { y with saved := [], resumedAt := s.now, startedAt := s.now },
          running := k, switching := none, overrunSince := none }).count .engSwitches e).count .engSwitchNs e
        (s.now - (s.engOf e).switchSince) := by
  simp [doContextSwitchDone, hsw, hl, hy, hz]

theorem regAddr_switches_ne (e : Nat) : regAddr .engSwitches e 0 ≠ regAddr .engSwitchNs e 0 := by
  dsimp only [regAddr, regRow, engRow]
  omega

theorem doStepSliceExpire_expires {s : State} {e p : Nat} {y : Ctx} (ho : s.ownerOfEngine e = some p) (hl : s.live = true)
    (hr : (s.engOf e).running = 0) (hsw : (s.engOf e).switching = none) (hst : (s.engOf e).stopped = false)
    (hy : s.ctx? e 0 = some y) (hp : ((s.grantRounds e).firstPositive e ((s.grantRounds e).privReady e)).isSome = true)
    (ht : y.resumedAt + cfgSliceNs (s.sliceCfg p e) ≤ s.now) : doStepSliceExpire e s =
      if y.ready = true ∧ y.blocked = false then
        (s.grantRounds e).modEng e fun x => { x with overrunSince := some (x.overrunSince.getD s.now) }
      else (s.grantRounds e).choose p e := by
  have hnone : ((s.grantRounds e).firstPositive e ((s.grantRounds e).privReady e)).isNone = false := by
    simpa [Option.isSome_iff_ne_none] using hp
  cases hrd : y.ready <;> cases hbl : y.blocked <;>
    simp [doStepSliceExpire, ho, hl, hr, hsw, hst, hnone, hy, Nat.not_lt.mpr ht, hrd, hbl]

theorem doTestContextLoad_loads {s : State} {e p : Nat} (prog : List Cmd) (ho : s.ownerOfEngine e = some p) (hl : s.live = true) :
    doTestContextLoad e true prog s =
      (s.modEng e fun x => { x with slots := tput x.slots 2 (newCtx none 2 { cmds := prog } s.now) }).rechoose p e := by
  simp [doTestContextLoad, ho, hl, State.loadTest]

/-- An engine chooses again under the conditions of R159 and R161, read of the engine as it stands. -/
theorem State.rechoose_eq (s : State) (p e : Nat) : s.rechoose p e =
    if (s.engOf e).switching = none ∧ (s.engOf e).stopped = false ∧
      (tget (s.engOf e).slots (s.engOf e).running = none ∨ (s.engOf e).pointAt = some s.now) then s.choose p e else s := by
  simp [State.rechoose, and_assoc]

theorem budgetFault_stops {s : State} {e unit : Nat} {i : Inst} (hcur : s.current e = some i) (ho : s.instOk i = true)
    (hop : i.cmd.opcode = 1) (hu : taskUnit i.cmd.kind = unit) (hb : s.overBudget e i = true) :
    Does (.budgetFault e unit) s fun t =>
      (t.engOf e).stopped = true ∧ (t.engOf e).budgetLog = (i.slot, i.ctx.index, unit) ∧
      (∀ y, t.ctx? e i.slot = some y → y.faulted = true) ∧
      t.flt.lines = s.flt.lines ++ [(0x20 + e, seqDetail e i unit 3)] ∧
      t.reg .engAttWaves e = s.reg .engAttWaves e + BitVec.ofNat 64 (if i.cmd.kind = 2 then i.cmd.budget + 1 else 0) ∧
      t = { s with free := t.free, eng := t.eng, spn := t.spn, flt := t.flt, fol := t.fol, regs := t.regs } := by
  refine ⟨_, congrArg Host.Outcome.next (doBudgetFault_over hcur ho hop hu hb), ?_⟩
  have hf := s.incomplete_outputs e i
  generalize s.incomplete e i = u at hf ⊢
  generalize (if i.cmd.kind = 2 then i.cmd.budget + 1 else 0) = n
  obtain ⟨hf, hlines⟩ := hf
  dsimp only
  refine ⟨State.stopped_stopAndLog .., State.budgetLog_stopAndLog .., fun y hy => ?_, ?_, ?_, ?_⟩
  · exact State.faulted_stopAndLog hy
  · exact congrArg (· ++ _) hlines
  · rw [State.reg_stopAndLog, State.reg_count_same, State.reg_of_regs (by rw [hf] : u.regs = s.regs)]
  · rw [hf]; rfl

theorem contextSwitchDone_switches {s : State} {e k : Nat} {y z : Ctx} (hsw : (s.engOf e).switching = some k) (hl : s.live = true)
    (hy : tget (s.engOf e).slots k = some y) (hz : tget (s.engOf e).slots (s.engOf e).running = some z)
    (hk : k ≠ (s.engOf e).running) :
    Does (.contextSwitchDone e) s fun t =>
      (t.engOf e).running = k ∧ (t.engOf e).switching = none ∧ (t.engOf e).store = y.saved ∧
      t.ctx? e (s.engOf e).running = some { z with saved := (s.engOf e).store } ∧
      t.ctx? e k = some { y with saved := [], resumedAt := s.now, startedAt := s.now } ∧
      t.reg .engSwitches e = s.reg .engSwitches e + 1 ∧
      t.reg .engSwitchNs e = s.reg .engSwitchNs e + BitVec.ofNat 64 (s.now - (s.engOf e).switchSince) ∧
      t = { s with eng := t.eng, regs := t.regs } := by
  refine ⟨_, congrArg Host.Outcome.next (doContextSwitchDone_switches hsw hl hy hz), ?_⟩
  generalize hx : { s.engOf e with
        store := y.saved,
        slots := tput (tput (s.engOf e).slots (s.engOf e).running { z with saved := (s.engOf e).store }) k
          { y with saved := [], resumedAt := s.now, startedAt := s.now },
        running := k, switching := none, overrunSince := none } = x
  have he : (s.setEng e x).engOf e = x := tgetD_tput_same ..
  refine ⟨(congrArg Engine.running he).trans (by rw [← hx]), (congrArg Engine.switching he).trans (by rw [← hx]),
    (congrArg Engine.store he).trans (by rw [← hx]), ?_, ?_, ?_, ?_, rfl⟩
  · refine (congrArg (fun x : Engine => tget x.slots _) he).trans ?_
    rw [← hx, tget_tput_other _ _ _ _ hk.symm, tget_tput_same]
  · refine (congrArg (fun x : Engine => tget x.slots _) he).trans ?_
    rw [← hx, tget_tput_same]
  · rw [State.reg_count_other _ _ (regAddr_switches_ne e), State.reg_count_same]
    rfl
  · rw [State.reg_count_same, State.reg_count_other _ _ (regAddr_switches_ne e).symm]
    rfl

/-- Settles O31: a budget fault, END and BARRIER through the run of the command at which the engine stands; the switches through one
equation for each command. -/
theorem streamsStopAndSwitch : Obligations.StreamsStopAndSwitch := by
  unfold Obligations.StreamsStopAndSwitch
  refine ⟨⟨fun e unit i s hcur ho hop hu hb => ?_, fun e i s hcur ho hop hs => ?_, fun e i s hcur ho hop hs => ⟨?_, ?_⟩⟩,
    fun e k y z s hsw hl hy hz hk => ?_, fun e target i s hcur hbl ht hch => ?_,
    fun e p y s ho hl hr hsw hst hy hp ht => ?_, fun e p prog s ho hl => ?_⟩
  · exact budgetFault_stops hcur ho hop hu hb
  · exact congrArg Host.Outcome.next (doEndStream_ends hcur ho hop hs)
  · rintro ⟨k, hk, hne, hat⟩
    refine congrArg Host.Outcome.next ((doBarrier_eq hcur ho hop hs).trans (if_neg fun hall => ?_))
    simpa [hne, hat] using List.all_eq_true.mp hall k hk
  · intro hall
    exact congrArg Host.Outcome.next ((doBarrier_eq hcur ho hop hs).trans (if_pos (List.all_eq_true.mpr fun k hk => by
      simpa using hall k hk)))
  · exact contextSwitchDone_switches hsw hl hy hz hk
  · refine congrArg Host.Outcome.next (?_ : doAwaitSwitchTimeout e target s = _)
    simp [doAwaitSwitchTimeout, hcur, hbl, ht, hch]
  · exact congrArg Host.Outcome.next (doStepSliceExpire_expires ho hl hr hsw hst hy hp ht)
  · refine congrArg Host.Outcome.next ((doTestContextLoad_loads prog ho hl).trans ?_)
    rw [State.rechoose_eq, State.engOf_modEng]
    rfl

end Machine
end Sys2Proof

/-! PROOFS. Settling O33 and O34 (folios that move between tiers, failed tiers, the timing wheel, histograms, rounds, ports and
scrub). -/
namespace Sys2Proof
namespace Machine

/-! ### Places in the tiers -/

/-- A place that is given back touches the tables of tiers and flash, and no folio. -/
theorem State.freeTier_only (s : State) (p tier loc : Nat) :
    s.freeTier p tier loc = { s with fol := (s.freeTier p tier loc).fol, nvf := (s.freeTier p tier loc).nvf } ∧
    (s.freeTier p tier loc).fol.folios = s.fol.folios := by
  unfold State.freeTier
  split
  · exact ⟨rfl, rfl⟩
  · split
    · unfold State.freeT4
      dsimp only
      generalize locChans loc = l
      suffices h : ∀ g : Nat → Chan → Chan, ∀ t : State,
          l.foldl (fun t c => t.modChan c (g c)) t = { t with nvf := (l.foldl (fun t c => t.modChan c (g c)) t).nvf } by
        rw [h]
        exact ⟨rfl, rfl⟩
      intro g
      induction l with
      | nil => exact fun t => rfl
      | cons c l ih => exact fun t => by rw [List.foldl_cons, ih]; rfl
    · exact ⟨rfl, rfl⟩

theorem State.countRead_only (s : State) (p tier : Nat) : s.countRead p tier = { s with regs := (s.countRead p tier).regs } := by
  unfold State.countRead
  split <;> rfl

theorem State.countWrite_only (s : State) (p tier : Nat) : s.countWrite p tier = { s with regs := (s.countWrite p tier).regs } := by
  unfold State.countWrite
  split <;> rfl

section
variable {s : State} {i : Nat} {f : Folio}

/-- What stands in a folio once its promotion has committed. -/
def Folio.promoted (f : Folio) (kept : Bool) : Folio :=
  { f with tier := 1, loc := 0, promoting := false, nonce := 0, tag := 0,
           oldPlaces := if kept then f.oldPlaces ++ [(f.tier, f.loc)] else f.oldPlaces }

/-- The tables once a promotion has committed, before what waits for it goes on. -/
def State.promoted (s : State) (i : Nat) (f : Folio) : State :=
  let t := s.countRead f.part f.tier
  let t := if s.sourceRead i then t else t.freeTier f.part f.tier f.loc
  let t := if f.moveCls == .b then t.subDemand f.part f.tier Config.folioBytes else t
  t.setFolio i (f.promoted (s.sourceRead i))

theorem State.promoted_only (s : State) (i : Nat) (f : Folio) :
    s.promoted i f = { s with regs := (s.promoted i f).regs, fol := (s.promoted i f).fol, nvf := (s.promoted i f).nvf } := by
  unfold State.promoted
  dsimp only
  rw [State.countRead_only, (State.freeTier_only ..).1]
  split <;> split <;> rfl

theorem doPromotionCommit_commits (hf : s.folio? i = some f) (hl : s.live = true) (hp : f.promoting = true) :
    doPromotionCommit i s = (((s.promoted i f).unpins [i]).placeAll f.part).landed f.part := by
  simp only [doPromotionCommit, hf, hl, hp, Bool.and_self, if_true]
  rfl

theorem doDemotionCommit_pinned (hf : s.folio? i = some f) (hl : s.live = true) (hd : f.demoting = true) (hp : f.pin ≠ 0) :
    doDemotionCommit i s =
      (((s.setFolio i { f with demoting := false }).freeTier f.part f.target f.targetLoc).pressureStep f.part).placeAll f.part := by
  simp [doDemotionCommit, hf, hl, hd, hp]

/-- The tables and the frame once a demotion has committed, before pressure and PLACE go on. -/
def State.demotedTo (s : State) (i : Nat) (f : Folio) : State :=
  let t := ({ s with free := s.free + 1 }).setFolio i
    { f with tier := f.target, loc := f.targetLoc, demoting := false, nonce := s.free, tag := s.sealTag f s.free }
  let t := t.modFolPart f.part fun x => { x with t1Use := x.t1Use - 1 }
  let t := if f.target = 3 then t.writeT3 (s.demoted f s.free) f.targetLoc false else t
  t.countWrite f.part f.target

theorem State.demotedTo_eq (s : State) (i : Nat) (f : Folio) : s.demotedTo i f =
    { s with
      free := s.free + 1, regs := (s.demotedTo i f).regs,
      out := s.out ++ (if f.target = 3 then [.hostWrite (bits (s.reg .hifT3Base) 63 16 * 65536 + Config.folioBytes * f.targetLoc)
        (s.demoted f s.free).bytes] else []),
      fol := { s.fol with
        folios := tput s.fol.folios i
          { f with tier := f.target, loc := f.targetLoc, demoting := false, nonce := s.free, tag := s.sealTag f s.free },
        parts := tput s.fol.parts f.part { s.folPart f.part with t1Use := (s.folPart f.part).t1Use - 1 } } } := by
  unfold State.demotedTo
  dsimp only
  rw [State.countWrite_only]
  split
  · rfl
  · rw [List.append_nil]; rfl

theorem doDemotionCommit_commits (hf : s.folio? i = some f) (hl : s.live = true) (hd : f.demoting = true) (hp : f.pin = 0) :
    doDemotionCommit i s = ((s.demotedTo i f).pressureStep f.part).placeAll f.part := by
  have hp' : (f.pin != 0) = false := by simp [hp]
  simp only [doDemotionCommit, hf, hl, hd, hp', Bool.and_self, if_true, Bool.false_eq_true, if_false]
  rfl

theorem doEagerDemotion_starts (hf : s.folio? i = some f) (hl : s.live = true) (hk : s.hasPrk f.part = true) (hkv : f.kind = .kv)
    (hp : f.promoting = false) (he : bit (s.reg .folHeatCfg f.part) 33 = true) (ho : bit (s.reg .folHeatCfg f.part) 32 = false)
    (ht : f.tier = 1) (hpin : f.pin = 0) (hd : f.demoting = false)
    (hh : (heatNow (s.reg .folHeatCfg f.part) f s.now).1 < bits (s.reg .folHeatCfg f.part) 63 56) :
    doEagerDemotion i s = s.startDemotion f.part i .d (s.demoteTo f.part) := by
  simp [doEagerDemotion, hf, hl, hk, hkv, hp, he, ho, ht, hpin, hd, hh]

theorem doPrefetchStart_starts (hf : s.folio? i = some f) (hl : s.live = true) (hk : s.hasPrk f.part = true) (hkv : f.kind = .kv)
    (hp : f.promoting = false) (ht : f.tier = 3 ∨ f.tier = 4) (ho : s.objectMode f.part = false)
    (hh : bits (s.reg .folHeatCfg f.part) 55 48 ≤ (heatNow (s.reg .folHeatCfg f.part) f s.now).1)
    (hu : (s.folPart f.part).t1Use + 1 ≤ s.t1High f.part) (hr : s.t1Room f.part 1 = true) (hres : s.residentFolio f.part i = true) :
    doPrefetchStart i s = s.startPromotion i .d := by
  have ht' : (f.tier == 3 || f.tier == 4) = true := by simpa using ht
  simp only [doPrefetchStart, hf, hl, hk, hkv, ht', hp, ho, hr, hres, beq_self_eq_true, Bool.not_false, Bool.and_true, ge_iff_le,
    decide_eq_true hh, decide_eq_true hu, if_true]

end

/-! ### Failed transfers -/

theorem doTierFailure_fails {s : State} {x : TierTarget} {p tier : Nat} (tag : Bool) (h : s.failedAt x = some (p, tier))
    (hl : s.live = true) : doTierFailure x tag s = (s.countT3 p tier tag).tierFail x := by
  simp [doTierFailure, h, hl]

theorem doT3Timeout_fails {s : State} {x : TierTarget} {p : Nat} (h : s.failedAt x = some (p, 3)) (hl : s.live = true)
    (ht : s.transferSince x + s.t3TimeoutNs ≤ s.now) : doT3Timeout x s = (s.countT3 p 3 false).tierFail x := by
  simp [doT3Timeout, h, hl, ht]

theorem State.countT3_reports (s : State) (p : Nat) (tag : Bool) :
    (s.countT3 p 3 tag).flt.lines.getLast? = some (0xA1, { part := some p }) := by
  simp [State.countT3, State.raise]

theorem State.quireFailed_park {s : State} {d : Nat} {x : Session} {o : ParkOp} (hx : s.session? d = some x)
    (ho : x.parkOp = some o) : s.quireFailed d = (s.abandonPark d).complete x.part o.verb .tierFailed := by
  simp [State.quireFailed, hx, ho]

theorem State.quireFailed_revive {s : State} {d : Nat} {x : Session} {o : ReviveOp} (hx : s.session? d = some x)
    (hp : x.parkOp = none) (ho : x.revive = some o) : s.quireFailed d = s.failRevive d .tierFailed := by
  simp [State.quireFailed, hx, hp, ho]

theorem State.folioFailed_demotion {s : State} {i : Nat} {f : Folio} (hf : s.folio? i = some f) (hd : f.demoting = true) :
    s.folioFailed i = (((s.setFolio i { f with demoting := false }).freeTier f.part f.target f.targetLoc).failPlace f.part
      i).pressureStep f.part := by
  simp [State.folioFailed, hf, hd]

theorem State.folioFailed_prefetch {s : State} {i : Nat} {f : Folio} (hf : s.folio? i = some f) (hd : f.demoting = false)
    (hp : f.promoting = true) (hc : f.moveCls = .d) :
    s.folioFailed i = (s.abandonPromotion i).count .folPrefetchFail f.part := by
  simp [State.folioFailed, hf, hd, hp, hc]

/-- A change of one search leaves it found under its verb. -/
theorem State.query?_setQueries {s : State} {p vid : Nat} {q : QueryOp} {g : QueryOp → QueryOp} (hg : ∀ x, (g x).verb = x.verb)
    (h : s.query? p vid = some q) :
    (s.setQueries p (lmod (fun (x : QueryOp) => x.verb == vid) g (s.queriesOf p))).query? p vid = some (g q) := by
  unfold State.query? State.queriesOf State.setQueries
  rw [tgetD_tput_same, find?_lmod _ _ (fun a ha => by simpa [hg] using ha)]
  exact congrArg (Option.map g) h

/-- Settles O33. -/
theorem foliosMoveOrFail : Obligations.FoliosMoveOrFail := by
  unfold Obligations.FoliosMoveOrFail
  refine ⟨⟨fun i f s hf hl hp => ?_, fun i f s hf hl hd => ⟨fun hp => ?_, fun hp => ?_⟩, fun i f s hf hl hk hkv hp => ⟨?_, ?_⟩⟩,
    fun x tag p tier s h hl => congrArg Host.Outcome.next (doTierFailure_fails tag h hl),
    fun x p s h hl ht => congrArg Host.Outcome.next (doT3Timeout_fails h hl ht),
    fun p tag s => ⟨s.countT3_reports p tag, rfl⟩,
    fun d x o s hx ho => State.quireFailed_park hx ho,
    fun d x o s hx hp ho => State.quireFailed_revive hx hp ho,
    fun i f s hf hd => State.folioFailed_demotion hf hd,
    fun i f s hf hd hp hc => State.folioFailed_prefetch hf hd hp hc,
    fun p vid q s h => State.query?_setQueries (fun _ => rfl) h⟩
  · exact ⟨_, congrArg Host.Outcome.next (doPromotionCommit_commits hf hl hp), s.promoted i f, rfl, State.folio?_setFolio_same ..,
      State.promoted_only ..⟩
  · obtain ⟨honly, hfol⟩ := (s.setFolio i { f with demoting := false }).freeTier_only f.part f.target f.targetLoc
    refine ⟨_, congrArg Host.Outcome.next (doDemotionCommit_pinned hf hl hd hp), _, rfl, ?_, honly⟩
    exact (congrArg (tget · i) hfol).trans (State.folio?_setFolio_same ..)
  · refine ⟨_, congrArg Host.Outcome.next (doDemotionCommit_commits hf hl hd hp), s.demotedTo i f, rfl, ?_⟩
    have h := s.demotedTo_eq i f
    generalize s.demotedTo i f = u at h ⊢
    refine ⟨?_, by rw [h], ?_, by rw [h], by rw [h]⟩
    · rw [h]; exact tget_tput_same ..
    · rw [h]; exact congrArg FolPart.t1Use (tgetD_tput_same ..)
  · intro he ho ht hpin hd hh
    exact congrArg Host.Outcome.next (doEagerDemotion_starts hf hl hk hkv hp he ho ht hpin hd hh)
  · intro ht ho hh hu hr hres
    exact congrArg Host.Outcome.next (doPrefetchStart_starts hf hl hk hkv hp ht ho hh hu hr hres)

/-! ### The timing wheel, histograms and rounds -/

theorem mem_of_tget {α : Type} {t : Tab α} {k : Nat} {v : α} (h : tget t k = some v) : (k, v) ∈ t := by
  induction t with
  | nil => cases h
  | cons b r ih =>
    rw [tget_cons] at h
    split at h
    · next hk => rw [← hk, ← Option.some.inj h]; exact List.mem_cons_self
    · exact List.mem_cons_of_mem _ (ih h)

theorem tget_foldl_tput {α : Type} {l : List (Nat × α)} {k : Nat} (h : ∀ e ∈ l, e.1 ≠ k) (t : Tab α) :
    tget (l.foldl (fun t e => tput t e.1 e.2) t) k = tget t k := by
  induction l generalizing t with
  | nil => rfl
  | cons e l ih =>
    rw [List.foldl_cons, ih (fun x hx => h x (List.mem_cons_of_mem _ hx)), tget_tput_other _ _ _ _ (h e List.mem_cons_self).symm]

/-- What a turn of the wheel leaves: nothing due on the wheel, nothing within its span on the overflow list, and a queue held back only
if its time has not come. -/
theorem State.turnWheel_spec (s : State) :
    (∀ e ∈ s.turnWheel.shp.wheel, s.now < e.2) ∧ (∀ e ∈ s.turnWheel.shp.overflow, s.now + wheelSpan < e.2) ∧
    ∀ q ∈ s.turnWheel.shp.ineligible, q ∈ s.shp.ineligible ∧ ∀ w, tget s.shp.wheel q = some w →
      (∀ e ∈ s.shp.overflow, e.1 ≠ q) → s.now < w := by
  refine ⟨fun e he => by simpa using (List.mem_filter.mp he).2, fun e he => by simpa using (List.mem_filter.mp he).2,
    fun q hq => ?_⟩
  obtain ⟨hq, hout⟩ := List.mem_filter.mp hq
  refine ⟨hq, fun w hw hno => ?_⟩
  refine Nat.lt_of_not_le fun hle => ?_
  have hget := (tget_foldl_tput (l := s.shp.overflow.filter fun e => e.2 ≤ s.now + wheelSpan)
    (fun e he => hno e (List.mem_filter.mp he).1) s.shp.wheel).trans hw
  have hmem : q ∈ ((((s.shp.overflow.filter fun e => e.2 ≤ s.now + wheelSpan).foldl (fun w e => tput w e.1 e.2) s.shp.wheel).filter
      fun e => e.2 ≤ s.now).map (·.1)) :=
    List.mem_map_of_mem (List.mem_filter.mpr ⟨mem_of_tget hget, by simpa using hle⟩)
  exact Bool.noConfusion ((List.contains_iff_mem.mpr hmem).symm.trans ((Bool.not_eq_true' _).mp hout))

theorem doWheelTick_turns {s : State} (hl : s.live = true) (hn : s.now % 1000 = 0) : doWheelTick s = s.turnWheel.grantText := by
  simp [doWheelTick, hl, hn]

theorem doHistSample_samples {s : State} (hl : s.live = true) (hn : s.now % 100000 = 0) :
    doHistSample s = (List.range Config.partitions).foldl (fun t p =>
      if (t.recPart p).mode = .safe then t
      else (List.range (t.qcount p)).foldl (fun t i => t.sampleQueue p (t.qbase p + i)) t) s := by
  simp only [doHistSample, hl, hn, beq_self_eq_true, Bool.and_self, if_true, beq_iff_eq]

theorem doDrrRoundStart_rounds {id : SchedId} {s : State} (hl : s.live = true) (hd : s.roundDue id (s.privWork id) = true) :
    doDrrRoundStart id s = (s.drrRound id (s.privWork id)).grantText := by
  simp [doDrrRoundStart, hl, hd]

theorem State.setSched_spec (s : State) (id : SchedId) (x : Sched) :
    (s.setSched id x).sched id = x ∧ s.setSched id x = { s with shp := (s.setSched id x).shp } := by
  cases id
  · exact ⟨tgetD_tput_same .., rfl⟩
  · exact ⟨rfl, rfl⟩
  · exact ⟨rfl, rfl⟩
  · exact ⟨tgetD_tput_same .., rfl⟩

/-- A round's gain or loss of one privileged queue. -/
def roundOf (work : List Nat) (quantum : Nat → Nat) (k : Nat) (d : Int) : Int :=
  if work.contains k = true then d + (quantum k : Int) else min d 0

theorem round_step (work : List Nat) (quantum : Nat → Nat) (d : Tab Int) (j k : Nat) :
    tgetD (if work.contains j = true then tput d j (tgetD d j 0 + (quantum j : Int))
      else if tgetD d j (0 : Int) > 0 then tput d j 0 else d) k 0 =
    if k = j then roundOf work quantum k (tgetD d k 0) else tgetD d k 0 := by
  by_cases hk : k = j
  · subst hk
    rw [if_pos rfl, roundOf]
    split
    · rw [tgetD_tput_same]
    · split
      · rw [tgetD_tput_same]; omega
      · omega
  · rw [if_neg hk]
    split
    · rw [tgetD_tput_other _ _ _ _ _ hk]
    · split
      · rw [tgetD_tput_other _ _ _ _ _ hk]
      · rfl

/-- Over a list of queues without repetition, each gains or loses once. -/
theorem round_foldl (work : List Nat) (quantum : Nat → Nat) {l : List Nat} (hl : l.Nodup) (d : Tab Int) (k : Nat) :
    tgetD (l.foldl (fun d j => if work.contains j = true then tput d j (tgetD d j 0 + (quantum j : Int))
      else if tgetD d j (0 : Int) > 0 then tput d j 0 else d) d) k 0 =
    if k ∈ l then roundOf work quantum k (tgetD d k 0) else tgetD d k 0 := by
  induction l generalizing d with
  | nil => rfl
  | cons j l ih =>
    obtain ⟨hj, hl⟩ := List.nodup_cons.mp hl
    rw [List.foldl_cons, ih hl, round_step]
    by_cases hk : k = j
    · subst hk
      simp [hj]
    · simp [hk]

theorem State.drrRound_deficit (s : State) (id : SchedId) (work : List Nat) {k : Nat} (hk : k < 8) :
    ((s.drrRound id work).sched id).deficit k = roundOf work s.quantum k ((s.sched id).deficit k) := by
  rw [State.drrRound, (State.setSched_spec ..).1]
  exact (round_foldl work s.quantum List.nodup_range _ k).trans (if_pos (List.mem_range.mpr hk))

/-! ### Ports -/

theorem doPortGrantEnd_next {id : PortId} {s : State} (hl : s.live = true) (hid : ∀ l, id ≠ .link l) :
    doPortGrantEnd id s = s.grantNext id := by
  cases id with
  | link l => exact absurd rfl (hid l)
  | hbm c => simp [doPortGrantEnd, hl]
  | buf => simp [doPortGrantEnd, hl]
  | nand c => simp [doPortGrantEnd, hl]
  | host => simp [doPortGrantEnd, hl]

/-- The port as its open requests compete for the next grant. -/
def State.competing (s : State) (id : PortId) (open_ : List PortReq) : Port :=
  { s.port id with reqs := open_.filter fun r => s.waiting id r && (!s.held id || classRank r.cls ≤ classRank .b) }

theorem State.grantOf_idle {s : State} {id : PortId} {open_ : List PortReq} (h : nextGrant (s.competing id open_) = none) :
    s.grantOf id open_ = s.setPort id { s.port id with cur := none } := by
  unfold State.competing at h
  simp only [State.grantOf, h]

/-- The bytes of one grant of a request. -/
def grantLen (id : PortId) (r : PortReq) : Nat := match grantBytes id with | some b => min b r.len | none => r.len

theorem State.grantOf_grants {s : State} {id : PortId} {open_ : List PortReq} {cls : ArbClass} {r : PortReq}
    (h : nextGrant (s.competing id open_) = some cls) (hr : s.pick id cls (s.competing id open_).reqs = some r) :
    s.grantOf id open_ = s.setPort id
      { win := (cls :: (s.port id).win).take 32, reqs := takeGrant r (grantLen id r) (s.port id).reqs,
        cur := some { r with len := grantLen id r }, holds := (s.competing id open_).countHolds cls } := by
  unfold State.competing at h hr ⊢
  simp only [State.grantOf, h, hr]
  rfl

/-- A port's arbitration changes the counters and the shaper alone. -/
def SameButShaper (s t : State) : Prop := t = { s with regs := t.regs, shp := t.shp }

theorem SameButShaper.trans {s t u : State} (a : SameButShaper s t) (b : SameButShaper t u) : SameButShaper s u := by
  unfold SameButShaper at *
  rw [b, a]

theorem State.dropIdle_shaper (s : State) (id : SchedId) (work : List Nat) : SameButShaper s (s.dropIdle id work) := by
  unfold SameButShaper State.dropIdle
  rw [(State.setSched_spec ..).2]

theorem State.endGrant_shaper (s : State) (id : PortId) (work : List PortReq) : SameButShaper s (s.endGrant id work) := by
  unfold State.endGrant
  split
  · refine SameButShaper.trans ?_ (State.dropIdle_shaper ..)
    split
    · unfold SameButShaper
      rw [(State.setSched_spec ..).2]
    · split
      · exact State.charge_quiet ..
      · exact rfl
  · exact rfl

theorem State.grantOf_shaper (s : State) (id : PortId) (open_ : List PortReq) : SameButShaper s (s.grantOf id open_) := by
  unfold State.grantOf
  dsimp only
  split
  · exact rfl
  · split <;> exact rfl

theorem State.mem_out_returnCredit {s : State} {o : Out} (h : o ∈ s.out) (i : Option Nat) (f : Frame) :
    o ∈ (s.returnCredit i f).out := by
  unfold State.returnCredit
  split
  · exact List.mem_append_left _ h
  · exact h

theorem State.trackOld_keeps (s : State) : s.trackOld.out = s.out ∧ s.trackOld.fab.links = s.fab.links := by
  unfold State.trackOld
  split <;> exact ⟨rfl, rfl⟩

theorem State.linkOf_congr {s t : State} (h : t.fab.links = s.fab.links) (l : Nat) : t.linkOf l = s.linkOf l :=
  congrArg (fun k : Tab Link => tgetD k l {}) h

/-- A frame that leaves on a link stands among the outputs under the link's counter and phase, and the counter goes on by one. -/
theorem State.transmit_sends (s : State) (l : Nat) (r : PortReq) (f : Frame) :
    .frame l { f with frameCtr := (s.linkOf l).txFrames, keyPhase := (s.linkOf l).txPhase } ∈ (s.transmit l r f).out ∧
    ((s.transmit l r f).linkOf l).txFrames = (s.linkOf l).txFrames + 1 := by
  unfold State.transmit
  extract_lets x g y t u v
  have ht : (t.linkOf l).txFrames = x.txFrames + 1 := congrArg Link.txFrames (State.linkOf_setLink_same ..)
  have hv : v.out = u.out ∧ v.fab = u.fab := by
    show (if _ then _ else u).out = _ ∧ (if _ then _ else u).fab = _
    split
    · split <;> exact ⟨rfl, rfl⟩
    · exact ⟨rfl, rfl⟩
  obtain ⟨hvo, hvf⟩ := hv
  obtain ⟨ho, hl⟩ := v.trackOld_keeps
  have hu : u.fab = (t.emit (.frame l g)).fab := (State.returnCredit_same ..).2
  refine ⟨?_, ?_⟩
  · rw [ho, hvo]
    exact State.mem_out_returnCredit (List.mem_append_right _ (List.mem_singleton.mpr rfl)) _ _
  · rw [State.linkOf_congr hl, State.linkOf_congr (congrArg FabState.links hvf), State.linkOf_congr (congrArg FabState.links hu)]
    exact ht

theorem doPortGrantEnd_link {l : Nat} {s : State} (hl : s.live = true) : doPortGrantEnd (.link l) s = s.grantLink l := by
  simp [doPortGrantEnd, hl]

/-- The lanes' oldest frames that can be sent now. -/
def State.openHeads (s : State) (l : Nat) : List PortReq :=
  (laneHeads (s.port (.link l)).reqs []).filter fun r => match r.frame with | some f => s.sendable l f | none => false

/-- The link's port after the choice of its next grant. -/
def State.linkGranted (s : State) (l : Nat) : State :=
  (s.endGrant (.link l) (s.port (.link l)).reqs).grantOf (.link l) (s.openHeads l)

theorem State.grantLink_eq (s : State) (l : Nat) : s.grantLink l =
    match ((s.linkGranted l).port (.link l)).cur with
    | some r => (match r.frame with | some f => (s.linkGranted l).transmit l r f | none => s.linkGranted l)
    | none => (s.linkGranted l).modLink l fun y => { y with txFill := 0 } := rfl

theorem State.grantLink_idle {l : Nat} {s : State} (h : ((s.linkGranted l).port (.link l)).cur = none) :
    s.grantLink l = (s.linkGranted l).modLink l fun y => { y with txFill := 0 } := by
  rw [State.grantLink_eq, h]

theorem State.grantLink_sends {l : Nat} {s : State} {r : PortReq} {f : Frame} (h : ((s.linkGranted l).port (.link l)).cur = some r)
    (hf : r.frame = some f) : s.grantLink l = (s.linkGranted l).transmit l r f := by
  rw [State.grantLink_eq, h]
  simp only [hf]

theorem State.linkGranted_fab (s : State) (l : Nat) : (s.linkGranted l).fab = s.fab := by
  have h : SameButShaper s (s.linkGranted l) := (State.endGrant_shaper ..).trans (State.grantOf_shaper ..)
  unfold SameButShaper at h
  rw [h]

/-! ### Scrub -/

section
variable {s : State} {line : Nat} (hl : s.live = true) (hs : 3 ≤ s.pwr.stage) (hc : line / channelLines < Config.hbmChannels)
include hl hs hc

/-- Where a line is scrubbed, the report depends on what the read found and on who owns its channel. -/
theorem doScrubRead_eq (corrected uncorrectable : Bool) : doScrubRead line corrected uncorrectable s =
    let c := line / channelLines
    let d : FaultDetail := { raw := at' line 80 + at' (c % 256) 72 }
    if uncorrectable then
      match (List.range Config.partitions).find? fun p => (s.partImage p).part.hbm.contains c with
      | some p => s.raise (0x48 + c / 32) { d with part := some p }
      | none => s.raise 0x58 d
    else if corrected then (s.emit (.hbmLine line)).raise (0x40 + c / 32) d
    else s := by
  have hready : (!s.live || decide (s.pwr.stage < 3) || decide (line / channelLines ≥ Config.hbmChannels)) = false := by
    rw [hl, decide_eq_false (Nat.not_lt.mpr hs), decide_eq_false (Nat.not_le.mpr hc)]
    rfl
  exact (if_neg (Bool.eq_false_iff.mp hready)).trans rfl

end

/-- Settles O34. -/
theorem shapersAndPorts : Obligations.ShapersAndPorts := by
  unfold Obligations.ShapersAndPorts
  refine ⟨⟨fun s hl hn => ?_, fun s hl hn => congrArg Host.Outcome.next (doHistSample_samples hl hn), fun id s hl hd => ?_⟩,
    fun id s hl hid => ⟨fun h => ?_, fun cls r h hr => ?_⟩, fun l s hl => ⟨fun h => ?_, fun r f hr hf => ?_⟩,
    fun line s hl hs hc => ⟨?_, ?_, fun fixed => ⟨fun ho => ?_, fun p ho => ?_⟩⟩⟩
  · obtain ⟨hw, ho, hq⟩ := s.turnWheel_spec
    exact ⟨_, congrArg Host.Outcome.next (doWheelTick_turns hl hn), s.turnWheel, rfl, hw, ho, rfl, hq, rfl⟩
  · refine ⟨_, congrArg Host.Outcome.next (doDrrRoundStart_rounds hl hd), s.drrRound id (s.privWork id), rfl,
      fun k hk => s.drrRound_deficit id _ hk, ?_, ?_⟩
    · exact congrArg Sched.lastRound (State.setSched_spec ..).1
    · exact (State.setSched_spec ..).2
  · exact congrArg Host.Outcome.next ((doPortGrantEnd_next hl hid).trans (State.grantOf_idle h))
  · exact congrArg Host.Outcome.next ((doPortGrantEnd_next hl hid).trans (State.grantOf_grants h hr))
  · exact congrArg Host.Outcome.next ((doPortGrantEnd_link hl).trans (State.grantLink_idle h))
  · refine ⟨_, congrArg Host.Outcome.next ((doPortGrantEnd_link hl).trans (State.grantLink_sends hr hf)), ?_⟩
    have h := (s.linkGranted l).transmit_sends l r f
    rwa [State.linkOf_congr (congrArg FabState.links (s.linkGranted_fab l))] at h
  · exact congrArg Host.Outcome.next (doScrubRead_eq hl hs hc true false)
  · exact congrArg Host.Outcome.next (doScrubRead_eq hl hs hc false false)
  · exact congrArg Host.Outcome.next ((doScrubRead_eq hl hs hc fixed true).trans (by simp only [ho, if_true]))
  · exact congrArg Host.Outcome.next ((doScrubRead_eq hl hs hc fixed true).trans (by simp only [ho, if_true]))

end Machine
end Sys2Proof

/-! PROOFS. Settling O37, O38 and O39 (checkpoints: taking, the consistency point, the commit, restoring, and the messages between
members). -/
namespace Sys2Proof
namespace Machine

/-! ### Messages between members -/

/-- Between two states only messages have gone out: what waited still waits, what was sent stands. -/
def SameButMessages (s t : State) : Prop :=
  t = { s with ckp := { s.ckp with inbox := t.ckp.inbox }, out := t.out } ∧
  (∀ x ∈ s.ckp.inbox, x ∈ t.ckp.inbox) ∧ ∀ o ∈ s.out, o ∈ t.out

theorem SameButMessages.refl (s : State) : SameButMessages s s := ⟨rfl, fun _ h => h, fun _ h => h⟩

theorem SameButMessages.trans {s t u : State} (a : SameButMessages s t) (b : SameButMessages t u) : SameButMessages s u := by
  obtain ⟨a0, a1, a2⟩ := a
  obtain ⟨b0, b1, b2⟩ := b
  exact ⟨by rw [b0, a0], fun x h => b1 x (a1 x h), fun o h => b2 o (a2 o h)⟩

theorem SameButMessages.group? {s t : State} (h : SameButMessages s t) (p : Nat) : t.group? p = s.group? p := by
  rw [h.1]; rfl

/-- A message to another member has gone out, or waits at the member of this device. -/
def State.told (t : State) (s : State) (g : CkptGroup) (m : Nat) (msg : CkptMsg) : Prop :=
  ∀ dev q, g.members[m]? = some (dev, q) → if dev = s.fab.devId then (q, msg) ∈ t.ckp.inbox else .ckpt m msg ∈ t.out

theorem State.told.mono {s t u : State} {g : CkptGroup} {m : Nat} {msg : CkptMsg} (h : t.told s g m msg) (a : SameButMessages t u) :
    u.told s g m msg := by
  intro dev q hm
  have := h dev q hm
  split at this
  · next hd => rw [if_pos hd]; exact a.2.1 _ this
  · next hd => rw [if_neg hd]; exact a.2.2 _ this

theorem State.tellMember_same (s : State) (p m : Nat) (msg : CkptMsg) : SameButMessages s (s.tellMember p m msg) := by
  unfold State.tellMember
  split
  · exact .refl s
  · split
    · exact .refl s
    · split
      · exact ⟨rfl, fun x h => List.mem_append_left _ h, fun _ h => h⟩
      · exact ⟨rfl, fun _ h => h, fun o h => List.mem_append_left _ h⟩

theorem State.tellMember_told {s : State} {p : Nat} {g : CkptGroup} (hg : s.group? p = some g) (m : Nat) (msg : CkptMsg) :
    (s.tellMember p m msg).told s g m msg := by
  intro dev q hm
  simp only [State.tellMember, hg, hm]
  split
  · exact List.mem_append_right _ (List.mem_singleton.mpr rfl)
  · exact List.mem_append_right _ (List.mem_singleton.mpr rfl)

/-- A message to every member of a list that a test selects. -/
def State.tellAll (s : State) (p : Nat) (skip : Nat → Bool) (msg : CkptMsg) (l : List Nat) : State :=
  l.foldl (fun t m => if skip m then t else t.tellMember p m msg) s

theorem State.tellAll_same (s : State) (p : Nat) (skip : Nat → Bool) (msg : CkptMsg) (l : List Nat) :
    SameButMessages s (s.tellAll p skip msg l) := by
  induction l generalizing s with
  | nil => exact .refl s
  | cons m l ih =>
    refine SameButMessages.trans (t := if skip m then s else s.tellMember p m msg) ?_ (ih _)
    split
    · exact .refl s
    · exact s.tellMember_same p m msg

theorem State.tellAll_told {s u : State} {p : Nat} {g : CkptGroup} (hu : SameButMessages s u) (hg : s.group? p = some g)
    (skip : Nat → Bool) (msg : CkptMsg) {l : List Nat} {m : Nat} (hm : m ∈ l) (hs : skip m = false) :
    (u.tellAll p skip msg l).told s g m msg := by
  induction l generalizing u with
  | nil => cases hm
  | cons k l ih =>
    have hk : SameButMessages u (if skip k then u else u.tellMember p k msg) := by
      split
      · exact .refl u
      · exact u.tellMember_same p k msg
    rcases List.mem_cons.mp hm with rfl | hm
    · have ht : (u.tellMember p m msg).told s g m msg := by
        have h := State.tellMember_told ((hu.group? p).trans hg) m msg
        have hd : u.fab = s.fab := by rw [hu.1]
        unfold State.told at h ⊢
        rwa [hd] at h
      have hmem := ht.mono (State.tellAll_same _ p skip msg l)
      show (State.tellAll (if skip m then u else u.tellMember p m msg) p skip msg l).told s g m msg
      rwa [if_neg (by simp [hs])]
    · exact ih (hu.trans hk) hm

theorem State.ckpOf_of_same {s t : State} (h : SameButMessages s t) (p : Nat) : t.ckpOf p = s.ckpOf p := by
  rw [h.1]; rfl

/-! ### CKPT_TAKE and CKPT_REQUEST (R308) -/

/-- The members of this device are idle and keyed, and the group can begin a checkpoint here. -/
def State.takeReady (s : State) (g : CkptGroup) (p : Nat) (others : Bool) : Bool :=
  !(s.memberNo g p != 0 || !others || s.changing || (s.localMembers g).any fun q => (s.ckpOf q).phase != 0 || (s.keysOf q).ck.isNone)

theorem State.takeReady_iff (s : State) (g : CkptGroup) (p : Nat) (others : Bool) : s.takeReady g p others = true ↔
    (s.memberNo g p = 0 ∧ others = true ∧ s.changing = false ∧
      ∀ q ∈ s.localMembers g, (s.ckpOf q).phase = 0 ∧ (s.keysOf q).ck.isSome = true) := by
  simp [State.takeReady, and_assoc, Option.isSome_iff_ne_none]

theorem State.mem_localMembers {s : State} {g : CkptGroup} {p : Nat} (h : (s.fab.devId, p) ∈ g.members) : p ∈ s.localMembers g :=
  List.mem_map.mpr ⟨(s.fab.devId, p), List.mem_filter.mpr ⟨h, beq_self_eq_true _⟩, rfl⟩

/-- T_C of a CKPT_TAKE (0: the verb's own arrival). -/
def takeTc (v : Verb) : Nat := if v.f 0x20 8 = 0 then v.arrival else v.f 0x20 8

section
variable {s : State} {p vid : Nat} {v : Verb} {others : Bool} {g : CkptGroup}

theorem doCkptTake_ungrouped (hv : s.begun? p vid .ckptTake = some v) (hg : s.group? p = none) :
    doCkptTake p vid others s = s.complete p vid .badState := by
  simp [doCkptTake, hv, hg]

theorem doCkptTake_eq (hv : s.begun? p vid .ckptTake = some v) (hg : s.group? p = some g) : doCkptTake p vid others s =
    if !s.takeReady g p others then s.complete p vid .badState
    else if takeTc v > v.arrival + tcLimit then s.complete p vid .badArgument
    else (((s.runVerb p vid).takeRequest p ((s.ckpOf p).seq + 1) (takeTc v)).modCkp p fun k =>
      { k with verb := some vid, reports := [] }).tellAll p (fun m => decide (m = 0)) (.request ((s.ckpOf p).seq + 1) (takeTc v))
        (List.range g.members.length) := by
  simp only [doCkptTake, hv, hg, State.takeReady, Bool.not_not, State.tellAll, decide_eq_true_eq]
  rfl

theorem doCkptTake_late (hv : s.begun? p vid .ckptTake = some v) (hg : s.group? p = some g) (hr : s.takeReady g p others = true)
    (ht : v.arrival + tcLimit < takeTc v) : doCkptTake p vid others s = s.complete p vid .badArgument := by
  rw [doCkptTake_eq hv hg, hr, Bool.not_true, if_neg Bool.false_ne_true, if_pos ht]

/-- What a coordinator that takes a checkpoint notes of it. -/
def CkpPart.taken (k : CkpPart) (vid tc : Nat) : CkpPart :=
  { k with phase := 1, run := k.seq + 1, tc := tc, written := 0, found := 0, verb := some vid, reports := [] }

theorem State.takeRequest_idle {p : Nat} (h : (s.ckpOf p).phase = 0) (seq tc : Nat) : s.takeRequest p seq tc =
    s.setCkp p { s.ckpOf p with phase := 1, run := seq, tc := tc, written := 0, found := 0 } := by
  simp [State.takeRequest, h, State.modCkp]

theorem State.taken_eq (h : (s.ckpOf p).phase = 0) (tc : Nat) :
    ((s.runVerb p vid).takeRequest p ((s.ckpOf p).seq + 1) tc).modCkp p (fun k => { k with verb := some vid, reports := [] }) =
    { s.runVerb p vid with ckp := { s.ckp with
      parts := tput (tput s.ckp.parts p { s.ckpOf p with phase := 1, run := (s.ckpOf p).seq + 1, tc := tc, written := 0, found := 0 }) p
        ((s.ckpOf p).taken vid tc) } } := by
  rw [State.takeRequest_idle (s := s.runVerb p vid) h, State.modCkp, State.ckpOf_setCkp_same]
  rfl

theorem ckptTake_takes (hv : s.begun? p vid .ckptTake = some v) (hg : s.group? p = some g) (hp : (s.fab.devId, p) ∈ g.members)
    (hr : s.takeReady g p others = true) (ht : takeTc v ≤ v.arrival + tcLimit) :
    Does (.ckptTake p vid others) s fun t =>
      t.verb? p vid = some { v with phase := .running } ∧ t.ckpOf p = (s.ckpOf p).taken vid (takeTc v) ∧
      (∀ m dev q, 0 < m → g.members[m]? = some (dev, q) →
        if dev = s.fab.devId then (q, CkptMsg.request ((s.ckpOf p).seq + 1) (takeTc v)) ∈ t.ckp.inbox
        else .ckpt m (.request ((s.ckpOf p).seq + 1) (takeTc v)) ∈ t.out) ∧
      t = { s with hif := t.hif, ckp := t.ckp, out := t.out } := by
  have hidle : (s.ckpOf p).phase = 0 := (((s.takeReady_iff g p others).mp hr).2.2.2 p (State.mem_localMembers hp)).1
  refine ⟨_, congrArg Host.Outcome.next (doCkptTake_eq hv hg), ?_⟩
  rw [hr, Bool.not_true, if_neg Bool.false_ne_true, if_neg (Nat.not_lt.mpr ht), State.taken_eq hidle]
  generalize hu : ({ s.runVerb p vid with ckp := _ } : State) = u
  have hsame := u.tellAll_same p (fun m => decide (m = 0)) (.request ((s.ckpOf p).seq + 1) (takeTc v)) (List.range g.members.length)
  have htold := fun (m : Nat) (hm : m ∈ List.range g.members.length) (h0 : decide (m = 0) = false) =>
    State.tellAll_told (SameButMessages.refl u) (by rw [← hu]; exact hg) (fun m => decide (m = 0))
      (.request ((s.ckpOf p).seq + 1) (takeTc v)) hm h0
  generalize u.tellAll p _ _ _ = t at hsame htold ⊢
  obtain ⟨hframe, -, -⟩ := id hsame
  refine ⟨?_, ?_, fun m dev q h0 hm => ?_, ?_⟩
  · rw [State.verb?_congr (s := s.runVerb p vid) (by rw [hframe, ← hu])]
    exact State.verb?_modVerb (State.begun?_verb hv).1 fun _ => rfl
  · rw [State.ckpOf_of_same hsame, ← hu]
    exact tgetD_tput_same ..
  · have hlt : m < g.members.length := (List.getElem?_eq_some_iff.mp hm).1
    have h := htold m (List.mem_range.mpr hlt) (decide_eq_false (by omega)) dev q hm
    rwa [show u.fab = s.fab by rw [← hu]; rfl] at h
  · rw [hframe, ← hu]; rfl

end

theorem doCkptRequest_idle {s : State} {p : Nat} (hl : s.live = true) (hg : (s.group? p).isSome = true)
    (hp : (s.ckpOf p).phase = 0) (seq tc : Nat) : doCkptRequest p seq tc s =
      s.setCkp p { s.ckpOf p with phase := 1, run := seq, tc := tc, written := 0, found := 0 } := by
  simp only [doCkptRequest, hl, hg, Bool.and_self, if_true]
  exact State.takeRequest_idle hp seq tc

/-! ### The consistency point (R309 to R311) -/

theorem foldl_folios {α : Type} {g : State → α → State} (h : ∀ s a, SameButFolios s (g s a)) (l : List α) (s : State) :
    SameButFolios s (l.foldl g s) := by
  induction l generalizing s with
  | nil => exact .refl s
  | cons a l ih => exact (h s a).trans (ih _)

theorem State.modFolio_fol (s : State) (i : Nat) (f : Folio → Folio) : s.modFolio i f = { s with fol := (s.modFolio i f).fol } := by
  unfold State.modFolio
  split <;> rfl

theorem foldl_modFolio_only (l : List Nat) (f : Folio → Folio) (s : State) :
    l.foldl (fun t i => t.modFolio i f) s = { s with fol := (l.foldl (fun t i => t.modFolio i f) s).fol } := by
  induction l generalizing s with
  | nil => rfl
  | cons i l ih => rw [List.foldl_cons, ih, State.modFolio_fol]

theorem foldl_modSession_only {α : Type} (l : List (Nat × α)) (f : Session → Session) (s : State) :
    l.foldl (fun t e => t.modSession e.1 f) s = { s with dir := (l.foldl (fun t e => t.modSession e.1 f) s).dir } := by
  induction l generalizing s with
  | nil => rfl
  | cons e l ih => rw [List.foldl_cons, ih, State.modSession_only]

/-- Folios and quires of a member that has reached its consistency point: none has been copied. -/
def State.clearCopied (s : State) (p : Nat) : State :=
  let t : State := { s with fol := { s.fol with
    folios := tmap (fun _ (f : Folio) => if f.part == p then { f with copied := false } else f) s.fol.folios } }
  let t := (s.reservedDescs p).foldl (fun t i => t.modFolio i fun f => { f with copied := true }) t
  (t.dir.sessions.filter fun e => e.2.part == p).foldl (fun t e =>
    t.modSession e.1 fun x => { x with quire := x.quire.map fun q => { q with uncopied := true } }) t

theorem State.clearCopied_only (s : State) (p : Nat) :
    s.clearCopied p = { s with fol := (s.clearCopied p).fol, dir := (s.clearCopied p).dir } := by
  unfold State.clearCopied
  dsimp only
  rw [foldl_modSession_only, foldl_modFolio_only]

theorem doConsistencyPoint_captures {s : State} {p : Nat} (hl : s.live = true) (hp : s.pointDue p = true) :
    doConsistencyPoint p s = ((s.clearCopied p).modCkp p fun c =>
      { c with phase := 2, capture := some (s.capture p), jobs := jobsOf (s.capture p), sectionsFrozen := true, announced := [],
               index := [], roots := [], indexed := false, reported := false }).releaseHeld p := by
  simp only [doConsistencyPoint, hl, hp, Bool.not_true, Bool.or_self, Bool.false_eq_true, if_false]
  rfl

theorem consistencyPoint_captures {s : State} {p : Nat} (hl : s.live = true) (hp : s.pointDue p = true) :
    Does (.consistencyPoint p) s fun t => ∃ u : State, t = u.releaseHeld p ∧
      u.ckpOf p = { s.ckpOf p with phase := 2, capture := some (s.capture p), jobs := jobsOf (s.capture p), sectionsFrozen := true,
                                   announced := [], index := [], roots := [], indexed := false, reported := false } ∧
      u = { s with ckp := u.ckp, fol := u.fol, dir := u.dir } := by
  refine ⟨_, congrArg Host.Outcome.next (doConsistencyPoint_captures hl hp), _, rfl, ?_, ?_⟩
  · rw [State.modCkp, State.ckpOf_setCkp_same, State.clearCopied_only]
    rfl
  · rw [State.clearCopied_only]
    rfl

/-! ### The commit (R317, R319) -/

theorem State.freeTier_folios (s : State) (p tier loc : Nat) : SameButFolios s (s.freeTier p tier loc) := by
  unfold SameButFolios
  rw [(State.freeTier_only ..).1]

theorem State.modFolPart_folios (s : State) (p : Nat) (f : FolPart → FolPart) : SameButFolios s (s.modFolPart p f) := rfl

theorem State.setFolio_folios (s : State) (i : Nat) (f : Folio) : SameButFolios s (s.setFolio i f) := rfl

theorem State.modFolio_folios (s : State) (i : Nat) (f : Folio → Folio) : SameButFolios s (s.modFolio i f) := by
  unfold SameButFolios
  rw [State.modFolio_fol]

theorem State.pressureStep_folios (s : State) (p : Nat) : SameButFolios s (s.pressureStep p) := by
  unfold State.pressureStep
  dsimp only
  split
  · exact .refl s
  · split
    · exact rfl
    · split
      · exact .refl s
      · split
        · exact rfl
        · exact State.startDemotion_folios ..

theorem State.reapFolio_folios (s : State) (i : Nat) : SameButFolios s (s.reapFolio i) := by
  unfold State.reapFolio
  split
  · exact .refl s
  · next f _ =>
    split
    · exact .refl s
    · split
      · exact State.setFolio_folios ..
      · extract_lets t1 t2 t3 t4 t5
        have h1 : SameButFolios s t1 := by
          show SameButFolios s (if _ then _ else _)
          split
          · exact State.freeTier_folios ..
          · exact .refl s
        have h2 : SameButFolios t1 t2 := by
          show SameButFolios t1 (if _ then _ else _)
          split
          · exact State.modFolPart_folios ..
          · exact .refl t1
        have h3 : SameButFolios t2 t3 := by
          show SameButFolios t2 (if _ then _ else _)
          split
          · exact .refl t2
          · exact State.freeTier_folios ..
        have h4 : SameButFolios t3 t4 := foldl_folios (fun (t : State) (e : Nat × Nat) => t.freeTier_folios f.part e.1 e.2) _ t3
        have h5 : SameButFolios t4 t5 := State.setFolio_folios ..
        exact (((((h1.trans h2).trans h3).trans h4).trans h5).trans (State.modFolPart_folios ..)).trans (State.pressureStep_folios ..)

/-- What waited for a checkpoint's copies goes: the folios, the flash and the shaper change, and of the checkpoint only what was
owed. -/
theorem State.releaseOwed_spec (s : State) (p : Nat) :
    (s.releaseOwed p).ckpOf p = { s.ckpOf p with owed := [] } ∧ (s.releaseOwed p).hif = s.hif := by
  unfold State.releaseOwed
  extract_lets t u
  have ht : SameButFolios s t := foldl_folios (fun (t : State) (e : Nat × Nat) => t.freeTier_folios p e.1 e.2) _ s
  generalize ((u.fol.folios.filter fun e => e.2.zombie && e.2.part == p).map (·.1)) = l
  have hu : SameButFolios u (l.foldl (fun t i => (t.modFolio i fun f => { f with zombie := false, copied := true }).reapFolio i) u) :=
    foldl_folios (fun t i => (State.modFolio_folios ..).trans (State.reapFolio_folios ..)) _ u
  rw [hu]
  refine ⟨(State.ckpOf_setCkp_same ..).trans ?_, ?_⟩
  · rw [ht]; rfl
  · show t.hif = s.hif
    rw [ht]

theorem State.takeColophon_spec {s : State} {p : Nat} (h : (s.ckpOf p).phase = 3) (c : Colophon) :
    ((s.takeColophon p c).ckpOf p).phase = 0 ∧ ((s.takeColophon p c).ckpOf p).lastStatus = .ok ∧
    ((s.takeColophon p c).ckpOf p).seq = c.seq ∧ tget ((s.takeColophon p c).ckpOf p).slots (c.seq % 2) = some c ∧
    ((s.takeColophon p c).ckpOf p).capture = none ∧ ((s.takeColophon p c).ckpOf p).verb = none ∧
    (s.takeColophon p c).hif = s.hif := by
  unfold State.takeColophon
  dsimp only
  rw [if_neg (by simp [h]), (State.releaseOwed_spec ..).1, (State.releaseOwed_spec ..).2, State.ckpOf_setCkp_same]
  exact ⟨rfl, rfl, rfl, tget_tput_same .., rfl, rfl, rfl⟩

section
variable {s : State} {p vid : Nat} {g : CkptGroup} (hg : s.group? p = some g) (hv : (s.ckpOf p).verb = some vid) (hl : s.live = true)
include hg hv hl

theorem doCkptCommit_fails (hp : (s.ckpOf p).phase ≠ 4) : doCkptCommit p false s = s.endAll p .tierFailed := by
  simp [doCkptCommit, hg, hv, hl, hp]

/-- The body of the completion record of CKPT_TAKE. -/
def State.takeBody (s : State) (p : Nat) (g : CkptGroup) : RecBody :=
  [(0x20, 8, (s.colophonOf p g).seq), (0x28, 8, (s.colophonOf p g).tc),
   (0x30, 8, ((((s.ckpOf p).reports.map (·.2)).map (·.units)).sum * shardBytes)),
   (0x38, 8, (((s.ckpOf p).reports.map (·.2)).map (·.found)).sum), (0x40, 2, (s.unreachable g).length)]

theorem doCkptCommit_commits (hp : (s.ckpOf p).phase = 3) : doCkptCommit p true s =
    ((s.complete p vid .ok 0 (s.takeBody p g)).takeColophon p (s.colophonOf p g)).tellAll p
      (fun m => decide (m = 0) || (s.unreachable g).contains m) (.colophon (s.colophonOf p g)) (List.range g.members.length) := by
  simp only [doCkptCommit, hg, hv, hl, hp, State.tellAll, Bool.or_eq_true, decide_eq_true_eq]
  rfl

end

/-- Settles O37. -/
theorem checkpointsTake : Obligations.CheckpointsTake := by
  unfold Obligations.CheckpointsTake
  refine ⟨⟨fun p vid others v s hv => ⟨fun hg => ?_, fun g hg hp => ⟨fun hbad => ?_, fun hgood ht => ?_, fun hgood ht => ?_⟩⟩,
    fun p seq tc s hl hg hp => congrArg Host.Outcome.next (doCkptRequest_idle hl hg hp seq tc),
    fun p s hl hp => consistencyPoint_captures hl hp⟩,
    fun p vid g s hg hv hl => ⟨fun hp => congrArg Host.Outcome.next (doCkptCommit_fails hg hv hl hp), fun v hw hp => ?_⟩⟩
  · exact ⟨_, congrArg Host.Outcome.next (doCkptTake_ungrouped hv hg), State.complete_ends (State.begun?_verb hv).1 .badState⟩
  · have hr : s.takeReady g p others = false := by rw [← Bool.not_eq_true, State.takeReady_iff]; exact hbad
    exact ⟨_, congrArg Host.Outcome.next ((doCkptTake_eq hv hg).trans (by rw [hr]; rfl)),
      State.complete_ends (State.begun?_verb hv).1 .badState⟩
  · exact ⟨_, congrArg Host.Outcome.next (doCkptTake_late hv hg ((State.takeReady_iff ..).mpr hgood) ht),
      State.complete_ends (State.begun?_verb hv).1 .badArgument⟩
  · exact ckptTake_takes hv hg hp ((State.takeReady_iff ..).mpr hgood) ht
  · refine ⟨_, congrArg Host.Outcome.next (doCkptCommit_commits hg hv hl hp), ?_⟩
    obtain ⟨hend, honly⟩ := State.complete_ends hw .ok 0 (s.takeBody p g)
    have hphase : ((s.complete p vid .ok 0 (s.takeBody p g)).ckpOf p).phase = 3 := by rw [honly]; exact hp
    obtain ⟨h0, h1, h2, h3, h4, h5, h6⟩ := State.takeColophon_spec hphase (s.colophonOf p g)
    have hsame := ((s.complete p vid .ok 0 (s.takeBody p g)).takeColophon p (s.colophonOf p g)).tellAll_same p
      (fun m => decide (m = 0) || (s.unreachable g).contains m) (.colophon (s.colophonOf p g)) (List.range g.members.length)
    rw [← State.ckpOf_of_same hsame] at h0 h1 h2 h3 h4 h5
    exact ⟨hend.after ((show _ = _ by rw [hsame.1]).trans h6), h0, h1, h2, h3, h4, h5⟩

/-! ### CKPT_RESTORE (R321 to R323) -/

/-- The members of this device are empty, idle and keyed, and the group can restore here. -/
def State.restoreReady (s : State) (g : CkptGroup) (p : Nat) (others : Bool) : Bool :=
  !(s.memberNo g p != 0 || !others || !(s.localMembers g).all s.memberReady)

theorem State.restoreReady_iff (s : State) (g : CkptGroup) (p : Nat) (others : Bool) : s.restoreReady g p others = true ↔
    (s.memberNo g p = 0 ∧ others = true ∧ ∀ q ∈ s.localMembers g, s.memberReady q = true) := by
  simp [State.restoreReady, and_assoc]

/-- What a coordinator that restores notes of a colophon. -/
def CkpPart.restoring (k : CkpPart) (vid : Nat) (c : Colophon) (lost : List Nat) : CkpPart :=
  { k with phase := 4, run := c.seq, tc := c.tc, verb := some vid, lost := lost,
           chains := (List.range c.rows).flatMap fun r => lost.map fun m => (r, m) }

section
variable {s : State} {p vid : Nat} {v : Verb} {others : Bool} {seen : List (Nat × Colophon)} {g : CkptGroup}

theorem doCkptRestore_ungrouped (hv : s.begun? p vid .ckptRestore = some v) (hg : s.group? p = none) :
    doCkptRestore p vid others seen s = s.complete p vid .badState := by
  simp [doCkptRestore, hv, hg]

theorem doCkptRestore_unready (hv : s.begun? p vid .ckptRestore = some v) (hg : s.group? p = some g)
    (hr : s.restoreReady g p others = false) : doCkptRestore p vid others seen s = s.complete p vid .badState := by
  rw [State.restoreReady, Bool.not_eq_false'] at hr
  simp only [doCkptRestore, hv, hg, hr, if_true]

theorem doCkptRestore_ready (hv : s.begun? p vid .ckptRestore = some v) (hg : s.group? p = some g)
    (hr : s.restoreReady g p others = true) : doCkptRestore p vid others seen s =
      match pickColophon (v.f 0x20 8) (s.colophons g seen) with
      | none => s.complete p vid .tierFailed
      | some c =>
        if !s.shapeOk g c then s.complete p vid .badState
        else if (s.lostMembers g (s.colophons g seen) c).length > 2 then s.complete p vid .tierFailed
        else ((s.runVerb p vid).modCkp p fun k => k.restoring vid c (s.lostMembers g (s.colophons g seen) c)).tellAll p
          (fun m => decide (m = 0)) (.restore c.seq) (List.range g.members.length) := by
  rw [State.restoreReady, Bool.not_eq_true'] at hr
  simp only [doCkptRestore, hv, hg, hr, Bool.false_eq_true, if_false, State.tellAll, decide_eq_true_eq]
  rfl

theorem doCkptRestore_without (hv : s.begun? p vid .ckptRestore = some v) (hg : s.group? p = some g)
    (hr : s.restoreReady g p others = true) (hc : pickColophon (v.f 0x20 8) (s.colophons g seen) = none) :
    doCkptRestore p vid others seen s = s.complete p vid .tierFailed := by
  rw [doCkptRestore_ready hv hg hr, hc]

theorem doCkptRestore_picked {c : Colophon} (hv : s.begun? p vid .ckptRestore = some v) (hg : s.group? p = some g)
    (hr : s.restoreReady g p others = true) (hc : pickColophon (v.f 0x20 8) (s.colophons g seen) = some c) :
    doCkptRestore p vid others seen s =
      if !s.shapeOk g c then s.complete p vid .badState
      else if (s.lostMembers g (s.colophons g seen) c).length > 2 then s.complete p vid .tierFailed
      else ((s.runVerb p vid).modCkp p fun k => k.restoring vid c (s.lostMembers g (s.colophons g seen) c)).tellAll p
        (fun m => decide (m = 0)) (.restore c.seq) (List.range g.members.length) := by
  rw [doCkptRestore_ready hv hg hr, hc]

theorem ckptRestore_restores {c : Colophon} (hv : s.begun? p vid .ckptRestore = some v) (hg : s.group? p = some g)
    (hr : s.restoreReady g p others = true) (hc : pickColophon (v.f 0x20 8) (s.colophons g seen) = some c)
    (hs : s.shapeOk g c = true) (hl : (s.lostMembers g (s.colophons g seen) c).length ≤ 2) :
    Does (.ckptRestore p vid others seen) s fun t =>
      t.verb? p vid = some { v with phase := .running } ∧
      t.ckpOf p = (s.ckpOf p).restoring vid c (s.lostMembers g (s.colophons g seen) c) ∧
      t = { s with hif := t.hif, ckp := t.ckp, out := t.out } := by
  refine ⟨_, congrArg Host.Outcome.next (doCkptRestore_picked hv hg hr hc), ?_⟩
  rw [hs, Bool.not_true, if_neg Bool.false_ne_true, if_neg (Nat.not_lt.mpr hl)]
  generalize s.lostMembers g (s.colophons g seen) c = lost
  generalize hu : (s.runVerb p vid).modCkp p (fun k => k.restoring vid c lost) = u
  have hsame := u.tellAll_same p (fun m => decide (m = 0)) (.restore c.seq) (List.range g.members.length)
  generalize u.tellAll p _ _ _ = t at hsame ⊢
  obtain ⟨hframe, -, -⟩ := id hsame
  refine ⟨?_, ?_, ?_⟩
  · rw [State.verb?_congr (s := s.runVerb p vid) (by rw [hframe, ← hu]; rfl)]
    exact State.verb?_modVerb (State.begun?_verb hv).1 fun _ => rfl
  · rw [State.ckpOf_of_same hsame, ← hu]
    exact State.ckpOf_setCkp_same ..
  · rw [hframe, ← hu]; rfl

end

/-- What a member that has restored notes. -/
def CkpPart.restored (k : CkpPart) (seq n : Nat) : CkpPart :=
  { k with phase := 0, lastStatus := .ok, seq := seq, verb := none, lost := [], chains := [], degraded := n != 0 }

section
variable {s : State} {p : Nat} (hl : s.live = true) (hp : (s.ckpOf p).phase = 4)
include hl hp

theorem doCkptRestoreDone_fails : doCkptRestoreDone p false s = s.abortCkpt p .tierFailed := by
  simp [doCkptRestoreDone, hl, hp]

/-- Once no chain is left and no other member on this device restores for the coordinator's verb, the capture is installed. -/
theorem doCkptRestoreDone_installs (hc : (s.ckpOf p).chains = [])
    (hm : (s.ckpOf p).verb = none ∨ ∃ g, s.group? p = some g ∧ ∀ q ∈ s.localMembers g, q ≠ p → (s.ckpOf q).phase ≠ 4) :
    doCkptRestoreDone p true s = match s.install p (s.captureOf p) with
      | none => s.abortCkpt p .tierFailed
      | some t =>
        let t := t.modCkp p fun c => c.restored (s.ckpOf p).run (s.rebuilt p)
        match (s.ckpOf p).verb with
        | some v => t.complete p v .ok 0 [(0x20, 8, (s.ckpOf p).run), (0x40, 2, s.rebuilt p)]
        | none => t := by
  have hmates : ((s.ckpOf p).verb.isSome && (match s.group? p with
      | some g => (s.localMembers g).filter (· != p)
      | none => []).any fun q => (s.ckpOf q).phase == 4) = false := by
    rcases hm with h | ⟨g, hg, h⟩
    · rw [h]; rfl
    · rw [hg]
      simpa using fun _ q hq hne => h q hq hne
  unfold doCkptRestoreDone
  dsimp only
  rw [if_neg (by simp [hl, hp]), if_neg (by simp), if_neg]
  · rfl
  · rw [hc]
    exact fun h => Bool.noConfusion (hmates.symm.trans h)

end

section
variable {s u : State} {p : Nat} (hl : s.live = true) (hp : (s.ckpOf p).phase = 4) (hc : (s.ckpOf p).chains = [])
include hl hp hc

theorem doCkptRestoreDone_overfull (hv : (s.ckpOf p).verb = none) (hi : s.install p (s.captureOf p) = none) :
    doCkptRestoreDone p true s = s.abortCkpt p .tierFailed := by
  rw [doCkptRestoreDone_installs hl hp hc (.inl hv), hi]

theorem doCkptRestoreDone_member (hv : (s.ckpOf p).verb = none) (hi : s.install p (s.captureOf p) = some u) :
    doCkptRestoreDone p true s = u.modCkp p fun c => c.restored (s.ckpOf p).run (s.rebuilt p) := by
  rw [doCkptRestoreDone_installs hl hp hc (.inl hv), hi, hv]

theorem doCkptRestoreDone_coordinator {vid : Nat} {g : CkptGroup} (hv : (s.ckpOf p).verb = some vid) (hg : s.group? p = some g)
    (hm : ∀ q ∈ s.localMembers g, q ≠ p → (s.ckpOf q).phase ≠ 4) (hi : s.install p (s.captureOf p) = some u) :
    doCkptRestoreDone p true s = (u.modCkp p fun c => c.restored (s.ckpOf p).run (s.rebuilt p)).complete p vid .ok 0
      [(0x20, 8, (s.ckpOf p).run), (0x40, 2, s.rebuilt p)] := by
  rw [doCkptRestoreDone_installs hl hp hc (.inr ⟨g, hg, hm⟩), hi, hv]

end

/-- Settles O38. -/
theorem checkpointsRestore : Obligations.CheckpointsRestore := by
  unfold Obligations.CheckpointsRestore
  refine ⟨fun p vid others seen v s hv => ⟨fun hg => ?_, fun g hg => ⟨fun hbad => ?_, fun hready hc => ?_, fun c hready hc =>
    ⟨fun hs => ?_, fun hs hlost => ?_, fun hs hlost => ?_⟩⟩⟩, fun p s hl hp => ⟨?_, fun hc hv => ⟨fun hi => ?_, fun u hi => ?_⟩,
    fun vid v g u hc hv hg hm hi hw => ?_⟩⟩
  · exact ⟨_, congrArg Host.Outcome.next (doCkptRestore_ungrouped hv hg), State.complete_ends (State.begun?_verb hv).1 .badState⟩
  · have hr : s.restoreReady g p others = false := by rw [← Bool.not_eq_true, State.restoreReady_iff]; exact hbad
    exact ⟨_, congrArg Host.Outcome.next (doCkptRestore_unready hv hg hr), State.complete_ends (State.begun?_verb hv).1 .badState⟩
  · exact ⟨_, congrArg Host.Outcome.next (doCkptRestore_without hv hg ((State.restoreReady_iff ..).mpr hready) hc),
      State.complete_ends (State.begun?_verb hv).1 .tierFailed⟩
  · exact ⟨_, congrArg Host.Outcome.next ((doCkptRestore_picked hv hg ((State.restoreReady_iff ..).mpr hready) hc).trans
      (by rw [hs]; rfl)), State.complete_ends (State.begun?_verb hv).1 .badState⟩
  · exact ⟨_, congrArg Host.Outcome.next ((doCkptRestore_picked hv hg ((State.restoreReady_iff ..).mpr hready) hc).trans
      (by rw [hs]; exact if_pos hlost)), State.complete_ends (State.begun?_verb hv).1 .tierFailed⟩
  · exact ckptRestore_restores hv hg ((State.restoreReady_iff ..).mpr hready) hc hs hlost
  · exact congrArg Host.Outcome.next (doCkptRestoreDone_fails hl hp)
  · exact congrArg Host.Outcome.next (doCkptRestoreDone_overfull hl hp hc hv hi)
  · exact ⟨_, congrArg Host.Outcome.next (doCkptRestoreDone_member hl hp hc hv hi), rfl, State.ckpOf_setCkp_same ..⟩
  · refine ⟨_, congrArg Host.Outcome.next (doCkptRestoreDone_coordinator hl hp hc hv hg hm hi), ?_⟩
    obtain ⟨hend, honly⟩ := State.complete_ends_after (u := u.modCkp p fun c => c.restored (s.ckpOf p).run (s.rebuilt p)) hw rfl .ok 0
      [(0x20, 8, (s.ckpOf p).run), (0x40, 2, s.rebuilt p)]
    generalize State.complete _ _ _ _ _ _ _ = t at hend honly ⊢
    have hk : t.ckpOf p = (u.ckpOf p).restored (s.ckpOf p).run (s.rebuilt p) := by
      rw [honly]; exact State.ckpOf_setCkp_same ..
    exact ⟨hend, by rw [hk]; rfl, by rw [hk]; rfl, by rw [honly]; rfl⟩

/-! ### Messages that are taken (SHARD_TRANSFER) -/

theorem taking_of_phase {n : Nat} (h : n = 1 ∨ n = 2 ∨ n = 3) :
    ((decide (n = 1) || decide (n = 2)) || decide (n = 3)) = true := by
  simpa [or_assoc] using h

section
variable {s : State} {p : Nat} {g : CkptGroup} (hl : s.live = true) (hg : s.group? p = some g)
include hl hg

/-- A member of a group in a running device takes each message in its own way. -/
theorem State.takeMessage_eq (m : CkptMsg) : s.takeMessage p m =
    let ph := (s.ckpOf p).phase
    let taking := ph = 1 || ph = 2 || ph = 3
    match m with
    | .request seq tc => s.takeRequest p seq tc
    | .digest src dg _ _ => if taking then s.answerDigest p src dg else s
    | .answer dg row => if ph = 2 then s.takeAnswer p dg row else s
    | .shard src x => if taking then s.storeShard p src x else s
    | .parity r j d => if taking then s.foldParity p r j d else s
    | .commitReport src r => s.takeReport p src r
    | .colophon c => s.takeColophon p c
    | .ended _ st => if s.memberNo g p = 0 then s.endAll p st else s.endMember p st
    | .restore seq => if ph = 0 then s.modCkp p fun k => { k with phase := 4, run := seq } else s
    | .partialSum r target lost rest d => if ph = 4 then s.chainStep p r target lost rest d else s := by
  have hguard : ¬ ((!s.live || (s.group? p).isNone) = true) := by simp [hl, hg]
  unfold State.takeMessage
  rw [if_neg hguard]
  cases m <;> simp only [hg]

variable (ht : (s.ckpOf p).phase = 1 ∨ (s.ckpOf p).phase = 2 ∨ (s.ckpOf p).phase = 3)

theorem takeMessage_request (h0 : (s.ckpOf p).phase = 0) (seq tc : Nat) : s.takeMessage p (.request seq tc) =
    s.setCkp p { s.ckpOf p with phase := 1, run := seq, tc := tc, written := 0, found := 0 } := by
  rw [State.takeMessage_eq hl hg]
  exact State.takeRequest_idle h0 seq tc

theorem takeMessage_restore (h0 : (s.ckpOf p).phase = 0) (seq : Nat) : s.takeMessage p (.restore seq) =
    s.setCkp p { s.ckpOf p with phase := 4, run := seq } := by
  rw [State.takeMessage_eq hl hg]
  exact if_pos h0

theorem takeMessage_report {src : Nat} (r : CommitReport) (hp : (s.ckpOf p).phase = 2 ∨ (s.ckpOf p).phase = 3)
    (hv : (s.ckpOf p).verb.isSome = true) : s.takeMessage p (.commitReport src r) =
    s.setCkp p { s.ckpOf p with
      reports := tput (s.ckpOf p).reports src r,
      phase := if (tput (s.ckpOf p).reports src r).length = g.members.length then 3 else (s.ckpOf p).phase } := by
  have hguard : ¬ (((s.ckpOf p).phase != 2 && (s.ckpOf p).phase != 3 || (s.ckpOf p).verb.isNone) = true) := by
    rcases hp with h | h <;> simp [h, Option.isSome_iff_ne_none.mp hv]
  rw [State.takeMessage_eq hl hg]
  simp only [State.takeReport, hg, if_neg hguard]

theorem takeMessage_ended {st : Status} (src : Nat) (hm : s.memberNo g p ≠ 0) : s.takeMessage p (.ended src st) = s.endMember p st := by
  rw [State.takeMessage_eq hl hg]
  exact if_neg hm

include ht

theorem takeMessage_digest_unknown {dg : Bytes} (src kind place : Nat) (hr : (s.ckpOf p).rowOf dg = none) :
    s.takeMessage p (.digest src dg kind place) = s.tellMember p src (.answer dg none) := by
  rw [State.takeMessage_eq hl hg]
  simp only [taking_of_phase ht, if_true, State.answerDigest, hr]

theorem takeMessage_digest_held {dg : Bytes} {r : Nat} (src kind place : Nat) (hr : (s.ckpOf p).rowOf dg = some r) :
    s.takeMessage p (.digest src dg kind place) = (s.setCkp p ((s.ckpOf p).refer r)).tellMember p src (.answer dg (some r)) := by
  rw [State.takeMessage_eq hl hg]
  simp only [taking_of_phase ht, if_true, State.answerDigest, hr]

theorem takeMessage_shard_full {ck : Bytes} {x : ShardContent} (src : Nat) (hk : (s.keysOf p).ck = some ck)
    (hr : (s.ckpOf p).rowOf (sha384 x.data) = none)
    (hf : (List.range g.reserve).find? (fun r => (s.ckpOf p).rowFree g.members.length (s.memberNo g p) r) = none) :
    s.takeMessage p (.shard src x) = s.abortCkpt p .noCapacity := by
  rw [State.takeMessage_eq hl hg]
  simp only [taking_of_phase ht, if_true, State.storeShard, hg, hk, hr, hf]

/-- The change of a data position that a stored shard makes. -/
def State.shardChange (s : State) (g : CkptGroup) (p r : Nat) (ck : Bytes) (x : ShardContent) : CkptMsg :=
  .parity r ((dataIndex g.members.length r (s.memberNo g p)).getD 0)
    (gfAdd (sealShard ck (sha384 x.data) x.data).1 (tgetD (s.ckpOf p).rows r {}).data)

theorem takeMessage_shard_stored {ck : Bytes} {x : ShardContent} {r : Nat} (src : Nat) (hk : (s.keysOf p).ck = some ck)
    (hr : (s.ckpOf p).rowOf (sha384 x.data) = none)
    (hf : (List.range g.reserve).find? (fun r => (s.ckpOf p).rowFree g.members.length (s.memberNo g p) r) = some r) :
    s.takeMessage p (.shard src x) =
      (((s.writeUnit p r { digest := some (sha384 x.data), data := (sealShard ck (sha384 x.data) x.data).1 }).tellMember p
        (pHolder g.members.length r) (s.shardChange g p r ck x)).tellMember p (qHolder g.members.length r)
          (s.shardChange g p r ck x)).tellMember p src (.answer (sha384 x.data) (some r)) := by
  rw [State.takeMessage_eq hl hg]
  simp only [taking_of_phase ht, if_true, State.storeShard, hg, hk, hr, hf]
  rfl

theorem takeMessage_parity (r j : Nat) (delta : Bytes) : s.takeMessage p (.parity r j delta) =
    if s.memberNo g p != pHolder g.members.length r && s.memberNo g p != qHolder g.members.length r then s
    else s.writeUnit p r { tgetD (s.ckpOf p).rows r {} with
      data := gfAdd (tgetD (s.ckpOf p).rows r {}).data
        (if s.memberNo g p = pHolder g.members.length r then delta else gfScale (gfPow j) delta) } := by
  rw [State.takeMessage_eq hl hg]
  simp only [taking_of_phase ht, if_true, State.foldParity, hg]

theorem takeMessage_parity_p {r : Nat} (j : Nat) (delta : Bytes) (hm : s.memberNo g p = pHolder g.members.length r) :
    s.takeMessage p (.parity r j delta) = s.writeUnit p r { tgetD (s.ckpOf p).rows r {} with
      data := gfAdd (tgetD (s.ckpOf p).rows r {}).data delta } := by
  rw [takeMessage_parity hl hg ht, if_neg (by simp [hm]), if_pos hm]

theorem takeMessage_parity_q {r : Nat} (j : Nat) (delta : Bytes) (hn : s.memberNo g p ≠ pHolder g.members.length r)
    (hm : s.memberNo g p = qHolder g.members.length r) :
    s.takeMessage p (.parity r j delta) = s.writeUnit p r { tgetD (s.ckpOf p).rows r {} with
      data := gfAdd (tgetD (s.ckpOf p).rows r {}).data (gfScale (gfPow j) delta) } := by
  rw [takeMessage_parity hl hg ht, if_neg (by simp [hm]), if_neg hn]

end

/-- Settles O39, message by message. -/
theorem shardTransfers : Obligations.ShardTransfers := by
  unfold Obligations.ShardTransfers
  intro p g s hl hg
  refine ⟨fun seq tc h0 => ?_, fun seq h0 => ?_, fun src dg kind place ht => ⟨fun hr => ?_, fun r hr => ?_⟩,
    fun src x ck ht hk hr => ⟨fun hf => ?_, fun r hf => ?_⟩, fun r j delta ht => ⟨fun hm => ?_, fun hn hm => ?_⟩,
    fun src r hp hv => ?_, fun c => ?_, fun src st hm => ?_⟩
  · exact congrArg Host.Outcome.next (takeMessage_request hl hg h0 seq tc)
  · exact congrArg Host.Outcome.next (takeMessage_restore hl hg h0 seq)
  · exact congrArg Host.Outcome.next (takeMessage_digest_unknown hl hg ht src kind place hr)
  · exact congrArg Host.Outcome.next (takeMessage_digest_held hl hg ht src kind place hr)
  · exact congrArg Host.Outcome.next (takeMessage_shard_full hl hg ht src hk hr hf)
  · exact congrArg Host.Outcome.next (takeMessage_shard_stored hl hg ht src hk hr hf)
  · exact congrArg Host.Outcome.next (takeMessage_parity_p hl hg ht j delta hm)
  · exact congrArg Host.Outcome.next (takeMessage_parity_q hl hg ht j delta hn hm)
  · exact congrArg Host.Outcome.next (takeMessage_report hl hg r hp hv)
  · exact congrArg Host.Outcome.next (State.takeMessage_eq hl hg (.colophon c))
  · exact congrArg Host.Outcome.next (takeMessage_ended hl hg src hm)

end Machine
end Sys2Proof

/-! PROOFS. Settling O25 and O26 (the recall unit: index images, tombstones, and searches). -/
namespace Sys2Proof
namespace Machine

/-! ### Indexes -/

theorem State.index?_setIndex (s : State) (p i : Nat) (x : RIndex) : (s.setIndex p i x).index? p i = some x := by
  unfold State.index? State.setIndex
  rw [State.indexesOf_setIndexes_same, tget_tput_same]

theorem State.index?_congr {s t : State} (h : t.rcl = s.rcl) (p i : Nat) : t.index? p i = s.index? p i := by
  unfold State.index? State.indexesOf
  rw [h]

/-- An index taken out of its table is not found. -/
theorem State.index?_tdel (s : State) (p i : Nat) : (s.setIndexes p (tdel (s.indexesOf p) i)).index? p i = none := by
  unfold State.index?
  rw [State.indexesOf_setIndexes_same, tget_tdel_same]

theorem State.freeGen_folios (s : State) (p : Nat) (g : IndexGen) : SameButFolios s (s.freeGen p g) := by
  unfold State.freeGen
  exact ((foldl_folios (fun t l => (State.freeTier_folios t p 4 l : SameButFolios t (t.freeT4 p l))) g.locs s).trans
    (State.modFolPart_folios ..)).trans (State.pressureStep_folios ..)

theorem State.takeT4_folios {s t : State} {p n : Nat} {acc locs : List Nat} (h : s.takeT4 p n acc = some (locs, t)) :
    SameButFolios s t := by
  induction n generalizing s acc with
  | zero => rw [← (Prod.mk.inj (Option.some.inj h)).2]; exact .refl s
  | succ n ih =>
    unfold State.takeT4 at h
    split at h
    · cases h
    · next loc u hu => exact (State.allocT4_folios hu).trans (ih h)

/-! ### INDEX_LOAD and INDEX_SWITCH (R193) -/

section
variable {s : State} {p vid : Nat} {v : Verb} {head : Option Bytes} {b : Bytes}

theorem doIndexLoad_badHeader (hv : s.begun? p vid .indexLoad = some v)
    (h : head = none ∨ v.f 0x30 2 = 0 ∨ ∃ b, head = some b ∧ ixHeadOk b (v.f 0x28 8) = false) :
    doIndexLoad p vid head s = s.complete p vid .badArgument := by
  rcases h with rfl | h0 | ⟨b, rfl, hb⟩
  · simp [doIndexLoad, hv]
  · cases head <;> simp [doIndexLoad, hv, h0]
  · simp [doIndexLoad, hv, hb]

/-- The tables, the nodes and T1 have room for the image of a header. -/
def State.loadRoom (s : State) (p i : Nat) (b : Bytes) : Bool :=
  !((s.index? p i).isNone && s.indexCount p ≥ maxIndexes || !s.t1Room p (ixT1 b) || s.nodesHeld + ixNodes b > Config.recallNodes)

theorem State.loadRoom_iff (s : State) (p i : Nat) (b : Bytes) : s.loadRoom p i b = true ↔
    ¬ (s.index? p i = none ∧ maxIndexes ≤ s.indexCount p) ∧ s.t1Room p (ixT1 b) = true ∧
      s.nodesHeld + ixNodes b ≤ Config.recallNodes := by
  simp only [State.loadRoom, Bool.not_eq_true', Bool.or_eq_false_iff, Bool.and_eq_false_iff, Option.isNone_eq_false_iff,
    decide_eq_false_iff_not, Bool.not_eq_false', ge_iff_le, gt_iff_lt, Nat.not_lt, Option.isSome_iff_ne_none, Classical.not_and_iff_not_or_not, and_assoc,
    ne_eq]

/-- What a load notes of an image. -/
def newLoad (p vid i : Nat) (b : Bytes) (locs : List Nat) : LoadOp :=
  { part := p, verb := vid, index := i, header := b.take ixHeader, t1 := ixT1 b, locs := locs, nodes := ixNodes b }

/-- An index that the device has is marked as loading. -/
def State.markLoading (s : State) (p i : Nat) : State :=
  match s.index? p i with | some x => s.setIndex p i { x with loading := true } | none => s

/-- The tables once the space of an image is held. -/
def State.loadBegun (u : State) (p i : Nat) (b : Bytes) (o : LoadOp) : State :=
  (((u.modFolPart p fun f => { f with t1Use := f.t1Use + ixT1 b }).checkPressure p).setLoads (u.rcl.loads ++ [o])).markLoading p i

theorem doIndexLoad_loads (hv : s.begun? p vid .indexLoad = some v) (h0 : v.f 0x30 2 ≠ 0) (hb : ixHeadOk b (v.f 0x28 8) = true) :
    doIndexLoad p vid (some b) s =
      if !s.loadRoom p (v.f 0x30 2) b then s.complete p vid .noCapacity
      else match s.takeT4 p (ixT4 b) [] with
        | none => s.complete p vid .noCapacity
        | some (locs, u) => ((u.loadBegun p (v.f 0x30 2) b (newLoad p vid (v.f 0x30 2) b locs)).runVerb p vid).request .host
            { cls := .c, len := v.f 0x28 8, owner := some (.verb p vid) } := by
  simp only [doIndexLoad, hv, h0, hb, State.loadRoom, Bool.not_not, decide_false, Bool.not_true, Bool.or_self, Bool.false_eq_true,
    if_false]
  rfl

theorem doIndexLoad_noRoom (hv : s.begun? p vid .indexLoad = some v) (h0 : v.f 0x30 2 ≠ 0) (hb : ixHeadOk b (v.f 0x28 8) = true)
    (h : s.loadRoom p (v.f 0x30 2) b = false ∨ s.takeT4 p (ixT4 b) [] = none) :
    doIndexLoad p vid (some b) s = s.complete p vid .noCapacity := by
  rw [doIndexLoad_loads hv h0 hb]
  rcases h with h | h
  · rw [h]; rfl
  · rw [h]; split <;> rfl

theorem doIndexLoad_takes {locs : List Nat} {u : State} (hv : s.begun? p vid .indexLoad = some v) (h0 : v.f 0x30 2 ≠ 0)
    (hb : ixHeadOk b (v.f 0x28 8) = true) (h : s.loadRoom p (v.f 0x30 2) b = true) (ht : s.takeT4 p (ixT4 b) [] = some (locs, u)) :
    doIndexLoad p vid (some b) s =
      ((u.loadBegun p (v.f 0x30 2) b (newLoad p vid (v.f 0x30 2) b locs)).runVerb p vid).request .host
        { cls := .c, len := v.f 0x28 8, owner := some (.verb p vid) } := by
  rw [doIndexLoad_loads hv h0 hb, h, ht]
  rfl

end

theorem State.loadBegun_spec (u : State) (p i : Nat) (b : Bytes) (o : LoadOp) :
    (u.loadBegun p i b o).hif = u.hif ∧ (u.loadBegun p i b o).rcl.loads = u.rcl.loads ++ [o] ∧
    ∀ x, u.index? p i = some x → (u.loadBegun p i b o).index? p i = some { x with loading := true } := by
  have hfol := (State.modFolPart_folios u p fun f => { f with t1Use := f.t1Use + ixT1 b }).trans (State.checkPressure_folios _ p)
  unfold State.loadBegun
  generalize (u.modFolPart p fun f => { f with t1Use := f.t1Use + ixT1 b }).checkPressure p = w at hfol ⊢
  have hi : (w.setLoads (u.rcl.loads ++ [o])).index? p i = u.index? p i := by rw [hfol]; rfl
  unfold State.markLoading
  rw [hi]
  refine ⟨?_, ?_, fun x hx => ?_⟩
  · split <;> (rw [hfol]; rfl)
  · split <;> rfl
  · rw [hx]
    exact State.index?_setIndex ..

section
variable {s : State} {p vid : Nat} {v : Verb} {o : LoadOp} {b : Bytes}

theorem doIndexSwitch_unread (hv : s.running? p vid .indexLoad = some v) (ho : s.load? p vid = some o) (stored : Bool) :
    doIndexSwitch p vid none stored s = (s.endLoad p vid false).complete p vid .badArgument := by
  simp [doIndexSwitch, hv, ho]

/-- The image that was read has the header that the load began with, and keeps to R190. -/
def loadedOk (o : LoadOp) (v : Verb) (b : Bytes) : Bool := !(b.take ixHeader != o.header || !ixOk b (min b.length (v.f 0x28 8)))

theorem loadedOk_iff (o : LoadOp) (v : Verb) (b : Bytes) : loadedOk o v b = true ↔
    b.take ixHeader = o.header ∧ ixOk b (min b.length (v.f 0x28 8)) = true := by
  simp [loadedOk]

/-- An index with a new current generation. -/
def State.switched (s : State) (x : RIndex) (o : LoadOp) (b : Bytes) : RIndex :=
  { x with changedAt := some s.now, before := s.taken x,
           gens := ({ gen := ((x.gens.head?.map (·.gen)).getD 0) + 1, image := b, t1 := o.t1, locs := o.locs } : IndexGen) ::
             (x.gens.map fun y => { y with pending := [] }) }

theorem doIndexSwitch_eq (hv : s.running? p vid .indexLoad = some v) (ho : s.load? p vid = some o) (b : Bytes) (stored : Bool) :
    doIndexSwitch p vid (some b) stored s =
      if !loadedOk o v b then (s.endLoad p vid false).complete p vid .badArgument
      else if !stored then (s.endLoad p vid false).complete p vid .tierFailed
      else (((s.setIndex p o.index (s.switched ((s.index? p o.index).getD {}) o b)).endLoad p vid true).complete p vid .ok 0
        [(0x28, 4, ((((s.index? p o.index).getD {}).gens.head?.map (·.gen)).getD 0) + 1)]) := by
  simp only [doIndexSwitch, hv, ho, loadedOk, Bool.not_not]
  rfl

theorem doIndexSwitch_switches (hv : s.running? p vid .indexLoad = some v) (ho : s.load? p vid = some o)
    (hb : b.take ixHeader = o.header ∧ ixOk b (min b.length (v.f 0x28 8)) = true) : doIndexSwitch p vid (some b) true s =
      ((s.setIndex p o.index (s.switched ((s.index? p o.index).getD {}) o b)).endLoad p vid true).complete p vid .ok 0
        [(0x28, 4, ((((s.index? p o.index).getD {}).gens.head?.map (·.gen)).getD 0) + 1)] := by
  rw [doIndexSwitch_eq hv ho b true, (loadedOk_iff o v b).mpr hb]
  rfl

/-- A load that has ended with its image kept is gone, and its index loads no longer. -/
theorem State.endLoad_kept {y : RIndex} (ho : s.load? p vid = some o) (hy : s.index? p o.index = some y) :
    s.endLoad p vid true = { s with rcl := (s.endLoad p vid true).rcl } ∧ (s.endLoad p vid true).load? p vid = none ∧
    (s.endLoad p vid true).index? p o.index = some { y with loading := false } := by
  have hy' : (s.setLoads (s.rcl.loads.filter fun x => !(x.part == p && x.verb == vid))).index? p o.index = some y := hy
  simp only [State.endLoad, ho, hy', if_true]
  refine ⟨rfl, ?_, State.index?_setIndex ..⟩
  exact List.find?_eq_none.mpr fun x hx =>
    Bool.eq_false_iff.mp ((Bool.not_eq_true' _).mp (List.mem_filter.mp hx).2)

end

/-! ### INDEX_DROP and GENERATION_RELEASE (R192, R194) -/

section
variable {s : State} {p vid : Nat} {v : Verb} {x : RIndex}

theorem doIndexDrop_unknown (hv : s.begun? p vid .indexDrop = some v) (hx : s.index? p (v.f 0x2A 2) = none) :
    doIndexDrop p vid s = s.complete p vid .badState := by
  simp [doIndexDrop, hv, hx]

theorem doIndexDrop_notServing (hv : s.begun? p vid .indexDrop = some v) (hx : s.index? p (v.f 0x2A 2) = some x)
    (h : x.gens = [] ∨ x.dropping = true) : doIndexDrop p vid s = s.complete p vid .badState := by
  have hguard : (x.gens.isEmpty || x.dropping) = true := by simpa using h
  simp [doIndexDrop, hv, hx, hguard]

theorem doIndexDrop_serving (hv : s.begun? p vid .indexDrop = some v) (hx : s.index? p (v.f 0x2A 2) = some x) (hg : x.gens ≠ [])
    (hd : x.dropping = false) : doIndexDrop p vid s =
      if x.gens.all fun g => g.users.isEmpty then
        let t := x.gens.foldl (fun t g => t.freeGen p g) s
        (t.setIndexes p (tdel (t.indexesOf p) (v.f 0x2A 2))).complete p vid .ok
      else (s.setIndex p (v.f 0x2A 2) { x with dropping := true }).runVerb p vid := by
  have hguard : (x.gens.isEmpty || x.dropping) = false := by simp [hg, hd]
  simp only [doIndexDrop, hv, hx, hguard, Bool.false_eq_true, if_false]

theorem indexDrop_unused (hv : s.begun? p vid .indexDrop = some v) (hx : s.index? p (v.f 0x2A 2) = some x) (hg : x.gens ≠ [])
    (hd : x.dropping = false) (hu : ∀ g ∈ x.gens, g.users = []) :
    Does (.indexDrop p vid) s fun t => (∃ u : State, t = u.complete p vid .ok) ∧ t.index? p (v.f 0x2A 2) = none := by
  have hall : (x.gens.all fun g => g.users.isEmpty) = true := List.all_eq_true.mpr fun g hg => by simp [hu g hg]
  refine ⟨_, congrArg Host.Outcome.next ((doIndexDrop_serving hv hx hg hd).trans (if_pos hall)), ⟨_, rfl⟩, ?_⟩
  rw [State.index?_congr (State.complete_rcl ..)]
  exact State.index?_tdel ..

theorem doIndexDrop_used (hv : s.begun? p vid .indexDrop = some v) (hx : s.index? p (v.f 0x2A 2) = some x) (hg : x.gens ≠ [])
    (hd : x.dropping = false) (hu : ∃ g ∈ x.gens, g.users ≠ []) :
    doIndexDrop p vid s = (s.setIndex p (v.f 0x2A 2) { x with dropping := true }).runVerb p vid := by
  rw [doIndexDrop_serving hv hx hg hd, if_neg]
  obtain ⟨g, hg, hne⟩ := hu
  exact fun hall => hne (List.isEmpty_iff.mp (List.all_eq_true.mp hall g hg))

end

theorem generationRelease_frees {s : State} {p i gen : Nat} {x : RIndex} {g : IndexGen} (hx : s.index? p i = some x)
    (hg : x.genOf gen = some g) (hl : s.live = true) (hu : g.users = [])
    (h : x.dropping = true ∨ x.gens.head?.map (·.gen) ≠ some gen ∧ ¬ (x.changedAt = some s.now ∧ x.before.map (·.1) = some gen)) :
    Does (.generationRelease p i gen) s fun t =>
      t.index? p i = (if (x.gens.filter fun y => y.gen != gen) = [] then none
        else some { x with gens := x.gens.filter fun y => y.gen != gen }) := by
  have hguard : (!s.live || !g.users.isEmpty || (!x.dropping && ((x.gens.head?.map (·.gen)) == some gen ||
      (x.changedAt == some s.now && x.before.map (·.1) == some gen)))) = false := by
    rcases h with h | ⟨h1, h2⟩
    · simp [hl, hu, h]
    · simp only [hl, hu, List.isEmpty_nil, Bool.not_true, Bool.or_self, Bool.false_or, Bool.and_eq_false_iff, Bool.or_eq_false_iff,
        beq_eq_false_iff_ne]
      exact .inr ⟨h1, Classical.not_and_iff_not_or_not.mp h2⟩
  refine ⟨_, congrArg Host.Outcome.next (?_ : doGenerationRelease p i gen s =
    if (x.gens.filter fun y => y.gen != gen).isEmpty then
      let t := (s.freeGen p g).setIndexes p (tdel ((s.freeGen p g).indexesOf p) i)
      t.completeAll p (((t.verbs p).filter fun v => v.op == .indexDrop && v.phase == .running && v.f 0x2A 2 == i).map (·.id)) .ok
    else (s.freeGen p g).setIndex p i { x with gens := x.gens.filter fun y => y.gen != gen }), ?_⟩
  · simp only [doGenerationRelease, hx, hg, hguard, Bool.false_eq_true, if_false]
  · simp only [List.isEmpty_iff]
    split
    · exact (State.index?_congr (State.completeAll_rcl ..) p i).trans (State.index?_tdel ..)
    · exact State.index?_setIndex ..

/-! ### DELETE (R195) -/

section
variable {s : State} {p vid : Nat} {v : Verb} {nodes : Option Bytes} {x : RIndex} {g : IndexGen} {b : Bytes}

theorem doDelete_badCounts (hv : s.begun? p vid .delete = some v) (h : 4096 < v.f 0x28 2 ∨ v.f 0x2A 2 = 0) :
    doDelete p vid nodes s = s.complete p vid .badArgument := by
  simp [doDelete, hv, h]

variable (hv : s.begun? p vid .delete = some v) (hc : v.f 0x28 2 ≤ 4096) (h0 : v.f 0x2A 2 ≠ 0)
include hv hc h0

theorem doDelete_notServing (hg : s.current? p (v.f 0x2A 2) = none) : doDelete p vid nodes s = s.complete p vid .badState := by
  cases hx : s.index? p (v.f 0x2A 2) <;> simp [doDelete, hv, Nat.not_lt.mpr hc, h0, hg, hx]

variable (hx : s.index? p (v.f 0x2A 2) = some x) (hg : s.current? p (v.f 0x2A 2) = some g)
include hx hg

theorem doDelete_otherGen (hn : g.gen ≠ v.f 0x2C 4) : doDelete p vid nodes s = s.complete p vid .badState := by
  simp [doDelete, hv, Nat.not_lt.mpr hc, h0, hg, hx, hn]

theorem doDelete_unread (hn : g.gen = v.f 0x2C 4) (hd : v.f 0x28 2 ≠ 0) : doDelete p vid none s = s.complete p vid .badArgument := by
  simp [doDelete, hv, Nat.not_lt.mpr hc, h0, hg, hx, hn, hd]

end

/-- The node numbers of a DELETE. -/
def deleteNodes (v : Verb) (b : Bytes) : List Nat := (List.range (v.f 0x28 2)).map fun k => fld b (4 * k) 4

/-- Those of them that are neither deleted nor waiting. -/
def IndexGen.newNodes (g : IndexGen) (l : List Nat) : List Nat := l.eraseDups.filter fun n => g.tomb n = 0 && !g.pending.contains n

/-- A generation after a DELETE of nodes that are new to it. -/
def IndexGen.deleteNew (g : IndexGen) (commit : Bool) (new : List Nat) : IndexGen :=
  if commit = true then
    { g with tombs := (g.pending ++ new).foldl (fun m n => tput m n (g.epoch + 1)) g.tombs, pending := [], epoch := g.epoch + 1 }
  else { g with pending := g.pending ++ new }

/-- An index after a DELETE of nodes that are new to its current generation. -/
def State.deletedFrom (s : State) (x : RIndex) (g : IndexGen) (commit : Bool) (new : List Nat) : RIndex :=
  { x with changedAt := if commit = true then some s.now else x.changedAt,
           before := if commit = true then s.taken x else x.before,
           gens := x.gens.map fun y => if y.gen = g.gen then g.deleteNew commit new else y }

section
variable {s : State} {p vid : Nat} {v : Verb} {nodes : Option Bytes} {x : RIndex} {g : IndexGen} {b : Bytes}
variable (hv : s.begun? p vid .delete = some v) (hc : v.f 0x28 2 ≤ 4096) (h0 : v.f 0x2A 2 ≠ 0)
variable (hx : s.index? p (v.f 0x2A 2) = some x) (hg : s.current? p (v.f 0x2A 2) = some g) (hn : g.gen = v.f 0x2C 4)
  (hb : (if v.f 0x28 2 = 0 then some [] else nodes) = some b)
include hv hc h0 hx hg hn hb

theorem doDelete_eq : doDelete p vid nodes s =
    if (deleteNodes v b).any (fun n => n ≥ ixNodes g.image) then s.complete p vid .badArgument
    else if g.pending.length + (g.newNodes (deleteNodes v b)).length > maxPending || (v.flag flagCommit && g.epoch + 1 > 0xFFFFFFFF)
      then s.complete p vid .noCapacity
    else (s.setIndex p (v.f 0x2A 2) (s.deletedFrom x g (v.flag flagCommit) (g.newNodes (deleteNodes v b)))).complete p vid .ok := by
  have hguard : (decide (v.f 0x28 2 > 4096) || decide (v.f 0x2A 2 = 0)) = false := by simp [Nat.not_lt.mpr hc, h0]
  have hgen : (g.gen != v.f 0x2C 4) = false := by simp [hn]
  simp only [doDelete, hv, hguard, hx, hg, hgen, hb, Bool.false_eq_true, if_false]
  unfold State.deletedFrom IndexGen.deleteNew
  cases v.flag flagCommit <;> rfl

theorem doDelete_outside (h : ∃ n ∈ deleteNodes v b, ixNodes g.image ≤ n) :
    doDelete p vid nodes s = s.complete p vid .badArgument := by
  rw [doDelete_eq hv hc h0 hx hg hn hb, if_pos]
  simpa using h

variable (hin : ∀ n ∈ deleteNodes v b, n < ixNodes g.image)
include hin

theorem doDelete_tooMany (h : maxPending < g.pending.length + (g.newNodes (deleteNodes v b)).length) :
    doDelete p vid nodes s = s.complete p vid .noCapacity := by
  rw [doDelete_eq hv hc h0 hx hg hn hb, if_neg (by simpa using hin), if_pos]
  simp [h]

theorem doDelete_deletes (h : g.pending.length + (g.newNodes (deleteNodes v b)).length ≤ maxPending)
    (he : g.epoch + 1 ≤ 0xFFFFFFFF) : doDelete p vid nodes s =
      (s.setIndex p (v.f 0x2A 2) (s.deletedFrom x g (v.flag flagCommit) (g.newNodes (deleteNodes v b)))).complete p vid .ok := by
  have he' : ¬ (g.epoch + 1 > 0xFFFFFFFF) := Nat.not_lt.mpr he
  rw [doDelete_eq hv hc h0 hx hg hn hb, if_neg (by simpa using hin), if_neg]
  simp only [Bool.or_eq_true, Bool.and_eq_true, decide_eq_true_eq, not_or, not_and]
  exact ⟨Nat.not_lt.mpr h, fun _ => he'⟩

end

/-- Settles O25. -/
theorem indexesLoadDropAndDelete : Obligations.IndexesLoadDropAndDelete := by
  unfold Obligations.IndexesLoadDropAndDelete
  refine ⟨⟨fun p vid v head s hv => ⟨fun h => ?_, fun b hb h0 hok => ?_⟩, fun p vid v o s hv ho => ⟨fun stored => ?_, fun b =>
      ⟨fun hbad stored => ?_, fun hgood => ?_, fun hgood => ?_⟩⟩,
    fun p vid v s hv => ⟨fun hx => ?_, fun x hx => ⟨fun h => ?_, fun hg hd => ⟨fun hu => ?_, fun hu => ?_⟩⟩⟩,
    fun p i gen x g s hx hg hl hu h => generationRelease_frees hx hg hl hu h⟩,
    fun p vid v nodes s hv => ⟨fun h => ?_, fun hc h0 => ⟨fun hg => ?_, fun x g hx hg => ⟨fun hn => ?_, fun hn hd hnone => ?_,
      fun b hn hb1 hb2 => ?_⟩⟩⟩⟩
  · exact ⟨_, congrArg Host.Outcome.next (doIndexLoad_badHeader hv h), State.complete_ends (State.begun?_verb hv).1 .badArgument⟩
  · subst hb
    refine ⟨fun h => ?_, fun hfull ht1 hn locs u ht4 => ?_⟩
    · refine ⟨_, congrArg Host.Outcome.next (doIndexLoad_noRoom hv h0 hok ?_),
        State.complete_ends (State.begun?_verb hv).1 .noCapacity⟩
      rcases h with h | h | h | h
      · exact .inl (by rw [← Bool.not_eq_true, State.loadRoom_iff]; exact fun hr => hr.1 h)
      · exact .inl (by rw [← Bool.not_eq_true, State.loadRoom_iff, h]; exact fun hr => Bool.noConfusion hr.2.1)
      · exact .inl (by rw [← Bool.not_eq_true, State.loadRoom_iff]; exact fun hr => Nat.not_lt.mpr hr.2.2 h)
      · exact .inr h
    · obtain ⟨hhif, hloads, hindex⟩ := u.loadBegun_spec p (v.f 0x30 2) b (newLoad p vid (v.f 0x30 2) b locs)
      exact ⟨_, congrArg Host.Outcome.next (doIndexLoad_takes hv h0 hok ((State.loadRoom_iff ..).mpr ⟨hfull, ht1, hn⟩) ht4), _, rfl,
        hhif, hloads, hindex⟩
  · exact congrArg Host.Outcome.next (doIndexSwitch_unread hv ho stored)
  · have hok : loadedOk o v b = false := by rw [← Bool.not_eq_true, loadedOk_iff]; exact hbad
    exact congrArg Host.Outcome.next ((doIndexSwitch_eq hv ho b stored).trans (by rw [hok]; rfl))
  · exact congrArg Host.Outcome.next ((doIndexSwitch_eq hv ho b false).trans (by rw [(loadedOk_iff o v b).mpr hgood]; rfl))
  · obtain ⟨honly, hload, hindex⟩ := State.endLoad_kept (s := s.setIndex p o.index (s.switched ((s.index? p o.index).getD {}) o b))
      (p := p) (vid := vid) ho (State.index?_setIndex ..)
    exact ⟨_, congrArg Host.Outcome.next (doIndexSwitch_switches hv ho hgood), _, rfl, honly, hload, hindex⟩
  · exact ⟨_, congrArg Host.Outcome.next (doIndexDrop_unknown hv hx), State.complete_ends (State.begun?_verb hv).1 .badState⟩
  · exact ⟨_, congrArg Host.Outcome.next (doIndexDrop_notServing hv hx h), State.complete_ends (State.begun?_verb hv).1 .badState⟩
  · exact indexDrop_unused hv hx hg hd hu
  · exact congrArg Host.Outcome.next (doIndexDrop_used hv hx hg hd hu)
  · exact ⟨_, congrArg Host.Outcome.next (doDelete_badCounts hv h), State.complete_ends (State.begun?_verb hv).1 .badArgument⟩
  · exact ⟨_, congrArg Host.Outcome.next (doDelete_notServing hv hc h0 hg), State.complete_ends (State.begun?_verb hv).1 .badState⟩
  · exact ⟨_, congrArg Host.Outcome.next (doDelete_otherGen hv hc h0 hx hg hn), State.complete_ends (State.begun?_verb hv).1 .badState⟩
  · subst hnone
    exact ⟨_, congrArg Host.Outcome.next (doDelete_unread hv hc h0 hx hg hn hd),
      State.complete_ends (State.begun?_verb hv).1 .badArgument⟩
  · have hb : (if v.f 0x28 2 = 0 then some [] else nodes) = some b := by
      split
      · next h => rw [hb2 h]
      · next h => exact hb1 h
    refine ⟨fun h => ?_, fun hin h => ?_, fun hin h he => ?_⟩
    · exact ⟨_, congrArg Host.Outcome.next (doDelete_outside hv hc h0 hx hg hn hb h),
        State.complete_ends (State.begun?_verb hv).1 .badArgument⟩
    · exact ⟨_, congrArg Host.Outcome.next (doDelete_tooMany hv hc h0 hx hg hn hb hin h),
        State.complete_ends (State.begun?_verb hv).1 .noCapacity⟩
    · refine ⟨_, congrArg Host.Outcome.next (doDelete_deletes hv hc h0 hx hg hn hb hin h he), ?_⟩
      obtain ⟨hend, honly⟩ := State.complete_ends_after (u := s.setIndex p (v.f 0x2A 2)
        (s.deletedFrom x g (v.flag flagCommit) (g.newNodes (deleteNodes v b)))) (State.begun?_verb hv).1 rfl .ok
      refine ⟨hend, ?_, ?_⟩
      · rw [honly]; rfl
      · exact (State.index?_congr (State.complete_rcl ..) p _).trans (State.index?_setIndex ..)

/-! ### QUERY (R188, R197) -/

section
variable {s : State} {p vid : Nat} {v : Verb} {vec : Option Bytes} {b : Bytes} {g : IndexGen} {epoch : Nat}

theorem endEarly_ends (hv : s.begun? p vid .query = some v) (st : Status) :
    Ended (s.count .rclQueries p) (s.endEarly p vid st) p v st ∧
      s.endEarly p vid st = { s.count .rclQueries p with hif := (s.endEarly p vid st).hif } :=
  State.complete_ends (s := s.count .rclQueries p) (State.begun?_verb hv).1 st

theorem doQuery_badPrm (hv : s.begun? p vid .query = some v) (h : v.f 0x38 2 = 0 ∨ prmOk (queryPrm v) = false) :
    doQuery p vid vec s = s.endEarly p vid .badArgument := by
  simp [doQuery, hv, h]

variable (hv : s.begun? p vid .query = some v) (h0 : v.f 0x38 2 ≠ 0) (hp : prmOk (queryPrm v) = true)
include hv h0 hp

theorem doQuery_waits (hs : s.slotFor p v = false) : doQuery p vid vec s = s := by
  simp [doQuery, hv, h0, hp, hs]

variable (hs : s.slotFor p v = true)
include hs

theorem doQuery_notServing (hf : v.flag flagSharded = false) (hn : s.serving p (v.f 0x38 2) = none) :
    doQuery p vid vec s = s.endEarly p vid .badState := by
  cases vec <;> simp [doQuery, hv, h0, hp, hs, hf, hn]

theorem doQuery_unread (hf : v.flag flagSharded = false) (hg : s.serving p (v.f 0x38 2) = some (g, epoch)) :
    doQuery p vid none s = s.endEarly p vid .badArgument := by
  simp [doQuery, hv, h0, hp, hs, hf, hg]

/-- What a QUERY that is not sharded notes when its search begins. -/
def State.newQuery (s : State) (v : Verb) (vid : Nat) (b : Bytes) : QueryOp :=
  { verb := vid, index := v.f 0x38 2, gen := 0, epoch := 0, vec := b, sharded := false, deadline := v.f 0x30 8,
    pipe := s.freePipe, since := s.now }

/-- The query suits the generation that serves. -/
def suits (v : Verb) (g : IndexGen) (b : Bytes) : Bool :=
  queryFits g.image (queryPrm v) (vecOf (ixBf16 g.image) (ixDims g.image) b)

theorem doQuery_served (hf : v.flag flagSharded = false) (hg : s.serving p (v.f 0x38 2) = some (g, epoch)) :
    doQuery p vid (some b) s =
      if suits v g b then (s.runVerb p vid).startWalk p vid (queryPrm v) g epoch b (s.newQuery v vid b)
      else s.endEarly p vid .badArgument := by
  simp only [doQuery, hv, decide_eq_false h0, hp, hs, hf, hg, Bool.not_true, Bool.or_self, Bool.false_eq_true, if_false]
  rfl

/-- The place of the partition's own shard in an index's table, and the other shards with their places. -/
def State.ownShard (s : State) (p i : Nat) : Option Nat := (s.shardTable p i).findIdx? fun e => e == (s.fab.devId, p)
def State.otherShards (s : State) (p i : Nat) : List (Nat × Nat × Nat) :=
  (enum (s.shardTable p i)).filter fun e => some e.1 != s.ownShard p i

/-- What a sharded QUERY notes when it begins. -/
def State.newSharded (s : State) (p : Nat) (v : Verb) (vid : Nat) (b : Bytes) : QueryOp :=
  { verb := vid, index := v.f 0x38 2, gen := 0, epoch := 0, vec := b, sharded := true, deadline := v.f 0x30 8, pipe := s.freePipe,
    since := s.now, waitShards := (s.otherShards p (v.f 0x38 2)).map (·.1), localDone := false }

/-- A sharded QUERY begins without a search of its own. -/
def State.searchless (s : State) (p vid : Nat) (v : Verb) (b : Bytes) (q : QueryOp) : State :=
  (((s.runVerb p vid).setQueries p ((s.runVerb p vid).queriesOf p ++ [q])).askShards p vid (v.f 0x38 2) (queryPrm v) b
    (s.otherShards p (v.f 0x38 2))).endQuery p vid

variable (hf : v.flag flagSharded = true)
include hf

theorem doQuery_noTable (ht : s.shardTable p (v.f 0x38 2) = []) : doQuery p vid (some b) s = s.endEarly p vid .badState := by
  simp [doQuery, hv, h0, hp, hs, hf, ht]

variable (ht : s.shardTable p (v.f 0x38 2) ≠ [])
include ht

/-- A sharded QUERY, by the place of the own shard and what serves there. -/
theorem doQuery_sharded : doQuery p vid (some b) s =
    let cur := match s.ownShard p (v.f 0x38 2) with | some _ => s.serving p (v.f 0x38 2) | none => none
    let bad := match cur with | some (g, _) => !suits v g b | none => false
    if bad then s.endEarly p vid .badArgument
    else
      let base := { s.newSharded p v vid b with
        missing := (match s.ownShard p (v.f 0x38 2), cur with | some k, none => [k] | _, _ => []), localDone := cur.isNone }
      let t := match cur with
        | some (g, epoch) => (s.runVerb p vid).startWalk p vid (queryPrm v) g epoch b base
        | none => (s.runVerb p vid).setQueries p ((s.runVerb p vid).queriesOf p ++ [base])
      (t.askShards p vid (v.f 0x38 2) (queryPrm v) b (s.otherShards p (v.f 0x38 2))).endQuery p vid := by
  have ht' : (s.shardTable p (v.f 0x38 2)).isEmpty = false := by simp [ht]
  simp only [doQuery, hv, decide_eq_false h0, hp, hs, hf, ht', Bool.not_true, Bool.or_self, Bool.false_eq_true, if_false, if_true]
  rfl

theorem doQuery_elsewhere (ho : s.ownShard p (v.f 0x38 2) = none) : doQuery p vid (some b) s =
    s.searchless p vid v b { s.newSharded p v vid b with localDone := true } := by
  rw [doQuery_sharded hv h0 hp hs hf ht, ho]
  rfl

variable {k : Nat} (ho : s.ownShard p (v.f 0x38 2) = some k)
include ho

theorem doQuery_ownMissing (hn : s.serving p (v.f 0x38 2) = none) : doQuery p vid (some b) s =
    s.searchless p vid v b { s.newSharded p v vid b with localDone := true, missing := [k] } := by
  rw [doQuery_sharded hv h0 hp hs hf ht, ho]
  dsimp only
  rw [hn]
  rfl

theorem doQuery_ownUnfit (hg : s.serving p (v.f 0x38 2) = some (g, epoch)) (hfit : suits v g b = false) :
    doQuery p vid (some b) s = s.endEarly p vid .badArgument := by
  rw [doQuery_sharded hv h0 hp hs hf ht, ho]
  dsimp only
  rw [hg]
  exact if_pos (by simp [hfit])

theorem doQuery_ownServes (hg : s.serving p (v.f 0x38 2) = some (g, epoch)) (hfit : suits v g b = true) :
    doQuery p vid (some b) s = (((s.runVerb p vid).startWalk p vid (queryPrm v) g epoch b (s.newSharded p v vid b)).askShards p vid
      (v.f 0x38 2) (queryPrm v) b (s.otherShards p (v.f 0x38 2))).endQuery p vid := by
  rw [doQuery_sharded hv h0 hp hs hf ht, ho]
  dsimp only
  rw [hg]
  exact if_neg (by simp [hfit])

end

/-- A partition that has its own shard has a shard table. -/
theorem State.table_of_ownShard {s : State} {p i k : Nat} (h : s.ownShard p i = some k) : s.shardTable p i ≠ [] := by
  intro ht
  rw [State.ownShard, ht] at h
  cases h

theorem State.useGen_only (s : State) (p i gen vid : Nat) (on : Bool) :
    s.useGen p i gen vid on = { s with rcl := (s.useGen p i gen vid on).rcl } ∧
    (s.useGen p i gen vid on).rcl.queries = s.rcl.queries := by
  unfold State.useGen
  split <;> exact ⟨rfl, rfl⟩

/-- A search that begins stands last among the partition's, with its generation, epoch and vector. -/
theorem State.startWalk_spec (s : State) (p vid : Nat) (prm : SearchPrm) (g : IndexGen) (epoch : Nat) (vec : Bytes) (base : QueryOp) :
    s.startWalk p vid prm g epoch vec base = { s with rcl := (s.startWalk p vid prm g epoch vec base).rcl } ∧
    ∃ queue visits budgetEnd visitFull,
      { base with gen := g.gen, epoch := epoch, vec := vec, queue := queue, visits := visits, budgetEnd := budgetEnd,
                  visitFull := visitFull } ∈ (s.startWalk p vid prm g epoch vec base).queriesOf p := by
  unfold State.startWalk
  extract_lets q w op
  obtain ⟨honly, hq⟩ := (s.setQueries p (s.queriesOf p ++ [op])).useGen_only p base.index g.gen vid true
  refine ⟨honly, op.queue, op.visits, op.budgetEnd, op.visitFull, ?_⟩
  have h : ((s.setQueries p (s.queriesOf p ++ [op])).useGen p base.index g.gen vid true).queriesOf p = s.queriesOf p ++ [op] := by
    exact (congrArg (tgetD · p []) hq).trans (tgetD_tput_same ..)
  rw [h]
  exact List.mem_append_right _ (List.mem_singleton.mpr rfl)

/-! ### QUERY_DONE and MERGE_DEADLINE_EXPIRE (R200, R203, R205) -/

section
variable {s : State} {p vid : Nat} {t4Ok : Bool} {prm : SearchPrm} {q : QueryOp} {x : RIndex} {g : IndexGen}
variable (hq : s.query? p vid = some q) (hl : s.live = true) (hd : q.localDone = false) (hp : s.searchPrm? p q = some prm)
  (hx : s.index? p q.index = some x) (hg : x.genOf q.gen = some g)

/-- What the device's own search of a query yields. -/
def State.found (s : State) (p : Nat) (q : QueryOp) (g : IndexGen) (prm : SearchPrm) : List HitRec × Nat × Nat :=
  finishSearch g q.epoch prm (vecOf (ixBf16 g.image) (ixDims g.image) q.vec) (q.queue.map (·.2)) (s.ownOrdinal p q)

/-- A query whose own search is over: its hits, or its shard among the missing ones. -/
def QueryOp.searched (q : QueryOp) (ok : Bool) (hits : List HitRec) (shard : Nat) : QueryOp :=
  { q with localDone := true, hits := if ok = true then q.hits ++ hits else q.hits,
           missing := if ok = true then q.missing else q.missing ++ [shard] }

include hq hl hd hp hx hg

theorem doQueryDone_eq (pipe : Nat) : doQueryDone p vid t4Ok pipe s =
    if q.pipe != pipe then s
    else
      let t := (s.count .rclPageReads p (s.found p q g prm).2.1).count .rclTombSkip p (s.found p q g prm).2.2
      match q.remote with
      | some f => t.endRemote p q f (t4Ok && !q.t4Failed) (s.found p q g prm).1
      | none => (t.modQuery p vid fun y =>
          y.searched (t4Ok && !q.t4Failed) (s.found p q g prm).1 (s.ownOrdinal p q)).endQuery p vid := by
  simp only [doQueryDone, hq, hp, hx, hg, Option.bind_some, hl, hd, Bool.not_true, Bool.false_or]
  rfl

theorem doQueryDone_otherPipe {pipe : Nat} (h : pipe ≠ q.pipe) : doQueryDone p vid t4Ok pipe s = s := by
  rw [doQueryDone_eq hq hl hd hp hx hg, if_pos (by simpa using h.symm)]

theorem doQueryDone_remote {f : Frame} (hr : q.remote = some f) : doQueryDone p vid t4Ok q.pipe s =
    ((s.count .rclPageReads p (s.found p q g prm).2.1).count .rclTombSkip p (s.found p q g prm).2.2).endRemote p q f
      (t4Ok && !q.t4Failed) (s.found p q g prm).1 := by
  rw [doQueryDone_eq hq hl hd hp hx hg, if_neg (by simp)]
  simp only [hr]

theorem queryDone_local (hr : q.remote = none) : Does (.queryDone p vid t4Ok q.pipe) s fun t => ∃ u : State,
    t = u.endQuery p vid ∧ u.query? p vid =
      some (q.searched (t4Ok && !q.t4Failed) (s.found p q g prm).1 (s.ownOrdinal p q)) := by
  refine ⟨_, congrArg Host.Outcome.next ((doQueryDone_eq hq hl hd hp hx hg q.pipe).trans (if_neg (by simp))), ?_⟩
  simp only [hr]
  exact ⟨_, rfl, State.query?_setQueries
    (s := (s.count .rclPageReads p (s.found p q g prm).2.1).count .rclTombSkip p (s.found p q g prm).2.2)
    (g := fun y => y.searched (t4Ok && !q.t4Failed) (s.found p q g prm).1 (s.ownOrdinal p q)) (fun _ => rfl) hq⟩

end

theorem doMergeDeadlineExpire_gives {s : State} {p vid : Nat} {q : QueryOp} (hq : s.query? p vid = some q) (hl : s.live = true)
    (hs : q.sharded = true) (h0 : q.deadline ≠ 0) (hd : q.deadline ≤ s.now) : doMergeDeadlineExpire p vid s =
      (s.modQuery p vid fun y => { y with
        missing := y.missing ++ y.waitShards ++ (if q.localDone = true then [] else [s.ownOrdinal p q]),
        waitShards := [], localDone := true }).endQuery p vid := by
  simp [doMergeDeadlineExpire, hq, hl, hs, h0, hd]

/-- Settles O26. -/
theorem queriesSearch : Obligations.QueriesSearch := by
  unfold Obligations.QueriesSearch
  refine ⟨fun p vid v vec s hv => ⟨fun h => ?_, fun h0 hp hs => ?_, fun h0 hp hs hf => ⟨fun hn => ?_, fun g epoch hg =>
      ⟨fun hnone => ?_, fun b hb => ⟨fun hfit => ?_, fun hfit => ?_⟩⟩⟩, fun h0 hp hs hf b hb => ⟨fun ht => ?_, fun ht ho => ?_,
      fun k ho => ⟨fun hn => ?_, fun g epoch hg => ⟨fun hfit => ?_, fun hfit => ?_⟩⟩⟩⟩,
    fun p vid t4Ok prm q x g s hq hl hd hp hx hg => ⟨fun hr => queryDone_local hq hl hd hp hx hg hr,
      fun f hr => congrArg Host.Outcome.next (doQueryDone_remote hq hl hd hp hx hg hr),
      fun pipe h => congrArg Host.Outcome.next (doQueryDone_otherPipe hq hl hd hp hx hg h)⟩,
    fun p vid q s hq hl hs h0 hd => congrArg Host.Outcome.next (doMergeDeadlineExpire_gives hq hl hs h0 hd)⟩
  · exact ⟨_, congrArg Host.Outcome.next (doQuery_badPrm hv h), endEarly_ends hv .badArgument⟩
  · exact congrArg Host.Outcome.next (doQuery_waits hv h0 hp hs)
  · exact ⟨_, congrArg Host.Outcome.next (doQuery_notServing hv h0 hp hs hf hn), endEarly_ends hv .badState⟩
  · subst hnone
    exact ⟨_, congrArg Host.Outcome.next (doQuery_unread hv h0 hp hs hf hg), endEarly_ends hv .badArgument⟩
  · subst hb
    exact ⟨_, congrArg Host.Outcome.next ((doQuery_served hv h0 hp hs hf hg).trans (if_neg (ne_true_of_eq_false hfit))),
      endEarly_ends hv .badArgument⟩
  · subst hb
    refine ⟨_, congrArg Host.Outcome.next ((doQuery_served hv h0 hp hs hf hg).trans (if_pos hfit)), ?_⟩
    obtain ⟨honly, queue, visits, budgetEnd, visitFull, hmem⟩ :=
      (s.runVerb p vid).startWalk_spec p vid (queryPrm v) g epoch b (s.newQuery v vid b)
    refine ⟨?_, ⟨_, hmem, rfl, rfl, rfl, rfl, rfl, rfl, rfl, rfl⟩, ?_⟩
    · rw [State.verb?_congr (s := s.runVerb p vid) (by rw [honly])]
      exact State.verb?_modVerb (State.begun?_verb hv).1 fun _ => rfl
    · rw [honly]; rfl
  · subst hb
    exact ⟨_, congrArg Host.Outcome.next (doQuery_noTable hv h0 hp hs hf ht), endEarly_ends hv .badState⟩
  · subst hb
    exact congrArg Host.Outcome.next (doQuery_elsewhere hv h0 hp hs hf ht ho)
  · subst hb
    exact congrArg Host.Outcome.next (doQuery_ownMissing hv h0 hp hs hf (State.table_of_ownShard ho) ho hn)
  · subst hb
    exact ⟨_, congrArg Host.Outcome.next (doQuery_ownUnfit hv h0 hp hs hf (State.table_of_ownShard ho) ho hg hfit),
      endEarly_ends hv .badArgument⟩
  · subst hb
    exact congrArg Host.Outcome.next (doQuery_ownServes hv h0 hp hs hf (State.table_of_ownShard ho) ho hg hfit)

end Machine
end Sys2Proof

/-!
PROOFS. Settling O21 (AppendsAbsorb) and O23 (StepsBegin): inputs that are absorbed, steps that begin and stop.
-/
namespace Sys2Proof
namespace Machine

/-- The sequence of a session that stands. -/
theorem State.seq?_of_session {s : State} {d n : Nat} {x : Session} {q : Seq} (hx : s.session? d = some x)
    (hq : tget x.seqs n = some q) : s.seq? d n = some q := by
  rwa [State.seq?, hx]

/-! ## APPEND (R101, R168 to R170) -/

/-- APPEND of a verb that has begun, where its session is resident: what becomes of its input. -/
def State.appendInput (s : State) (p : Nat) (v : Verb) (q : Seq) (y : Input) : State :=
  if y = .bad ∨ Config.maxContext < q.ctxLen + s.inputTokens p y then s.complete p v.id .badArgument
  else if s.inputTokens p y = 0 then s.complete p v.id .ok 0 [(0x24, 4, q.ctxLen)]
  else if s.ptRoom p (s.newSpans p q (s.inputTokens p y) * s.foliosPerSpan p) = false then s.complete p v.id .noCapacity
  else (((s.beginInput p v).takeInput p v none y).markBound p v.id (q.ctxLen + inputBound y)).grantText

theorem doAppend_badFormat {s : State} {p vid : Nat} {v : Verb} (hv : s.begun? p vid .append = some v) (h : 1 < v.f 0x2C 1)
    (data : Option Bytes) : doAppend p vid data s = s.complete p vid .badArgument := by
  simp [doAppend, hv, h]

theorem doAppend_resident {s : State} {p vid : Nat} {v : Verb} {x : Session} {q : Seq} (hv : s.begun? p vid .append = some v)
    (harg : v.f 0x2C 1 ≤ 1) (hx : s.session? v.dir = some x) (hqu : x.quire = none) (hq : s.seq? v.dir v.seq = some q)
    (hst : q.state = .new ∨ q.state = .wait) (data : Option Bytes) :
    doAppend p vid data s = s.appendInput p v q (s.inputOf p (v.f 0x2C 1 == 1) (v.f 0x28 4) data none) := by
  obtain ⟨-, rfl, -⟩ := State.begun?_verb hv
  have hready : (q.state != .new && q.state != .wait) = false := by
    rcases hst with h | h <;> rw [h] <;> rfl
  simp [doAppend, hv, Nat.not_lt.mpr harg, State.resident_of_resident hx hqu, hq, hready, State.appendInput]

/-- The input begins to be absorbed: the sequence is in PREFILL and the verb runs. -/
theorem State.beginInput_spec {s : State} {p : Nat} {v : Verb} {q : Seq} (hv : s.verb? p v.id = some v)
    (hq : s.seq? v.dir v.seq = some q) :
    (s.beginInput p v).verb? p v.id = some { v with phase := .running } ∧
      (s.beginInput p v).seq? v.dir v.seq = some { q with state := .prefill, absorbing := some v.id, arrival := v.arrival } ∧
      s.beginInput p v = { s with hif := (s.beginInput p v).hif, dir := (s.beginInput p v).dir } := by
  refine ⟨?_, State.seq?_modSeq hq _, ?_⟩
  · refine State.verb?_modVerb ?_ fun _ => rfl
    rwa [State.modSeq_only]
  · unfold State.beginInput
    rw [State.modSeq_only]
    rfl

theorem State.takeInput_tokens {s : State} {p : Nat} {v w : Verb} (hw : s.verb? p v.id = some w) (hall : w.allFirst = false)
    (before : Option Nat) (l : List Nat) :
    s.takeInput p v before (.tokens l) = s.modSeq v.dir v.seq fun q => q.addPending l before := by
  simp [State.takeInput, hw, hall]

theorem State.markBound_within {s : State} {p vid total : Nat} (h : total ≤ Config.maxContext) : s.markBound p vid total = s :=
  if_neg (Nat.not_lt.mpr h)

/-- An input that may pass the longest context is marked to be tokenized whole (R170). -/
theorem State.markBound_spec {s : State} {p vid : Nat} {w : Verb} (hw : s.verb? p vid = some w) (total : Nat) :
    (s.markBound p vid total).verb? p vid = some { w with allFirst := w.allFirst || decide (Config.maxContext < total) } ∧
      s.markBound p vid total = { s with hif := (s.markBound p vid total).hif } := by
  unfold State.markBound
  split
  · next h => exact ⟨by rw [State.verb?_modVerb hw (by exact fun _ => rfl), decide_eq_true h, Bool.or_true], rfl⟩
  · next h => exact ⟨by rw [hw, decide_eq_false h, Bool.or_false], rfl⟩

section
variable {s : State} {p : Nat} {v : Verb} {q : Seq} (hv : s.verb? p v.id = some v) (hq : s.seq? v.dir v.seq = some q)
include hv hq

theorem State.absorbs_tokens {l : List Nat} (hall : v.allFirst = false) (hlen : q.ctxLen + l.length ≤ Config.maxContext) :
    ∃ u : State, (((s.beginInput p v).takeInput p v none (.tokens l)).markBound p v.id (q.ctxLen + inputBound (.tokens l))) = u ∧
      u.verb? p v.id = some { v with phase := .running } ∧
      u.seq? v.dir v.seq =
        some (({ q with state := .prefill, absorbing := some v.id, arrival := v.arrival } : Seq).addPending l none) ∧
      u = { s with hif := u.hif, dir := u.dir } := by
  obtain ⟨hverb, hseq, hframe⟩ := State.beginInput_spec hv hq
  refine ⟨_, State.markBound_within hlen, ?_⟩
  rw [State.takeInput_tokens hverb hall]
  refine ⟨?_, State.seq?_modSeq hseq _, ?_⟩
  · rwa [State.modSeq_only]
  · rw [State.modSeq_only, hframe]

theorem State.absorbs_pieces (l : List Piece) :
    ∃ u : State, (((s.beginInput p v).takeInput p v none (.pieces l)).markBound p v.id (q.ctxLen + inputBound (.pieces l))) = u ∧
      (let whole := v.allFirst || decide (Config.maxContext < q.ctxLen + (l.map fun x => x.bytes.length).sum)
       u.verb? p v.id = some { v with phase := .running, pieces := v.pieces ++ l, allFirst := whole }) ∧
      u.seq? v.dir v.seq = some { q with state := .prefill, absorbing := some v.id, arrival := v.arrival } ∧
      u = { s with hif := u.hif, dir := u.dir } := by
  obtain ⟨hverb, hseq, hframe⟩ := State.beginInput_spec hv hq
  have hpieces : ((s.beginInput p v).takeInput p v none (.pieces l)).verb? p v.id =
      some { v with phase := .running, pieces := v.pieces ++ l } := State.verb?_modVerb hverb fun _ => rfl
  obtain ⟨hmark, honly⟩ := State.markBound_spec hpieces (q.ctxLen + inputBound (.pieces l))
  refine ⟨_, rfl, hmark, ?_, ?_⟩
  · rw [honly]
    exact hseq
  · rw [honly]
    have honly' : (s.beginInput p v).takeInput p v none (.pieces l) =
        { s.beginInput p v with hif := ((s.beginInput p v).takeInput p v none (.pieces l)).hif } := rfl
    rw [honly', hframe]

end

/-! ## PIECE_TOKENIZED (R169, R170) -/

/-- Tokens that join a sequence one input after another. -/
theorem State.foldl_addPending {s : State} {d n : Nat} {q : Seq} (h : s.seq? d n = some q) (l : List (List Nat × Option Nat)) :
    (l.foldl (fun t e => t.modSeq d n fun q => q.addPending e.1 e.2) s).seq? d n =
      some (l.foldl (fun q e => q.addPending e.1 e.2) q) := by
  induction l generalizing s q with
  | nil => exact h
  | cons e l ih => exact ih (State.seq?_modSeq h _)

theorem State.foldl_modSeq_only {α : Type} (d n : Nat) (f : α → Seq → Seq) (l : List α) (s : State) :
    l.foldl (fun t e => t.modSeq d n (f e)) s = { s with dir := (l.foldl (fun t e => t.modSeq d n (f e)) s).dir } := by
  induction l generalizing s with
  | nil => rfl
  | cons e l ih =>
    rw [List.foldl_cons, ih, State.modSeq_only]

/-- The tokens of a finished piece wait in the verb until its last piece, or are pending. -/
def State.PieceFinished (s t : State) (p : Nat) (v : Verb) (q : Seq) (rest : List Piece) (done : List Nat × Option Nat) : Prop :=
  let l := v.finished ++ [done]
  (if v.allFirst = true ∧ rest ≠ [] then
    t.seq? v.dir v.seq = some q ∧ t.verb? p v.id = some { v with pieces := rest, finished := l }
  else
    t.seq? v.dir v.seq = some (l.foldl (fun q e => q.addPending e.1 e.2) q) ∧
    t.verb? p v.id = some { v with pieces := rest, finished := [] }) ∧
  t.fol = s.fol ∧ t.spn = s.spn ∧ t.out = s.out

theorem State.finishPiece_spec {s : State} {p : Nat} {v : Verb} {q : Seq} (hv : s.verb? p v.id = some v)
    (hq : s.seq? v.dir v.seq = some q) (rest : List Piece) (done : List Nat × Option Nat) :
    s.PieceFinished (s.finishPiece p v rest done) p v q rest done := by
  have hguard : (v.allFirst && !rest.isEmpty) = true ↔ v.allFirst = true ∧ rest ≠ [] := by
    rw [Bool.and_eq_true, Bool.not_eq_true', ← Bool.not_eq_true, List.isEmpty_iff]
  unfold State.PieceFinished State.finishPiece
  by_cases h : v.allFirst = true ∧ rest ≠ []
  · simp only [if_pos h, if_pos (hguard.mpr h)]
    exact ⟨⟨hq, State.verb?_modVerb hv (by exact fun _ => rfl)⟩, rfl, rfl, rfl⟩
  · simp only [if_neg h, if_neg (mt hguard.mp h)]
    refine ⟨⟨State.foldl_addPending (by exact hq) _, ?_⟩, ?_⟩
    · rw [State.foldl_modSeq_only]
      exact State.verb?_modVerb hv (by exact fun _ => rfl)
    · rw [State.foldl_modSeq_only]
      exact ⟨rfl, rfl, rfl⟩

theorem State.PieceFinished.count {s t : State} {p : Nat} {v : Verb} {q : Seq} {rest : List Piece} {done : List Nat × Option Nat}
    (h : s.PieceFinished t p v q rest done) (r : RegName) (i n : Nat) : s.PieceFinished (t.count r i n) p v q rest done := h

section
variable {s : State} {p vid : Nat} {v : Verb} {x : Piece} {rest : List Piece} (hv : s.verb? p vid = some v) (hl : s.live = true)
  (hrun : v.phase = .running) (hp : v.pieces = x :: rest)
  (hpipe : s.txt.pipes.any (fun e => e.2.part == p && e.2.verb == vid) = true)
include hv hl hrun hp hpipe

theorem doPieceTokenized_failed : doPieceTokenized p vid false s = s.endInput p v.dir v.seq .badArgument := by
  simp only [doPieceTokenized, hv, hp, hl, hrun, hpipe]
  rfl

theorem doPieceTokenized_read {q : Seq} (hq : s.seq? v.dir v.seq = some q) :
    ∃ u : State, doPieceTokenized p vid true s = (if rest.isEmpty = true then u.grantText else u).absorbed p v.dir v.seq ∧
      s.PieceFinished u p v q rest (tokenize (s.vocab p) x.bytes, x.before) := by
  obtain rfl : v.id = vid := (State.verb?_mem hv).2
  simp only [doPieceTokenized, hv, hp, hl, hrun, hpipe]
  refine ⟨_, rfl, ?_⟩
  have hdone := ((State.finishPiece_spec hv hq rest (tokenize (s.vocab p) x.bytes, x.before)).count .txtInBytes p
    x.bytes.length).count .txtOvfLookups p ((s.vocab p).overflow (tokenize (s.vocab p) x.bytes))
  split
  · exact hdone.count ..
  · exact hdone

end

theorem append_begun {p vid : Nat} {v : Verb} {x : Session} {q : Seq} {data : Option Bytes} {s : State}
    (hv : s.begun? p vid .append = some v) (harg : v.f 0x2C 1 ≤ 1) (hx : s.session? v.dir = some x) (hqu : x.quire = none)
    (hq : tget x.seqs v.seq = some q) (hst : q.state = .new ∨ q.state = .wait) :
    ∃ y, s.inputOf p (v.f 0x2C 1 == 1) (v.f 0x28 4) data none = y ∧
      exec (.append p vid data) s = .next (s.appendInput p v q y) ∧ s.seq? v.dir v.seq = some q :=
  have hq' : s.seq? v.dir v.seq = some q := State.seq?_of_session hx hq
  ⟨_, rfl, congrArg Host.Outcome.next (doAppend_resident hv harg hx hqu hq' hst data), hq'⟩

/-- Settles O21: a verb whose input is good begins to absorb it, and a finished piece's tokens become pending. -/
theorem appendsAbsorb : Obligations.AppendsAbsorb := by
  refine ⟨fun p vid v x q data s hv => ⟨fun h => ?_, fun harg hx hqu hq hst => ?_⟩,
    fun p vid v x rest q s hv hl hrun hp hq hpipe => ⟨?_, ?_⟩⟩
  · obtain ⟨hverb, -⟩ := State.begun?_verb hv
    exact ⟨_, congrArg Host.Outcome.next (doAppend_badFormat hv h data), State.complete_ends hverb ..⟩
  · obtain ⟨y, hy, hexec, hseq⟩ := append_begun (data := data) hv harg hx hqu hq hst
    obtain ⟨hverb, rfl, -⟩ := State.begun?_verb hv
    simp only [hy]
    unfold State.appendInput at hexec
    refine ⟨fun hbad => ?_, fun hgood hfits => ⟨fun h0 => ?_, fun hn hroom => ?_, fun hn hroom => ?_⟩⟩
    · rw [if_pos hbad] at hexec
      exact ⟨_, hexec, State.complete_ends hverb ..⟩
    all_goals rw [if_neg (not_or.mpr ⟨hgood, Nat.not_lt.mpr hfits⟩)] at hexec
    · rw [if_pos h0] at hexec
      exact ⟨_, hexec, State.complete_ends hverb .ok 0 [(0x24, 4, q.ctxLen)]⟩
    · rw [if_neg hn, if_pos hroom] at hexec
      exact ⟨_, hexec, State.complete_ends hverb ..⟩
    · rw [if_neg hn, if_neg (by rw [hroom]; exact Bool.noConfusion)] at hexec
      refine ⟨fun l hl hall => ?_, fun l hl => ?_⟩
      · subst hl
        obtain ⟨u, hu, hspec⟩ := State.absorbs_tokens hverb hseq hall hfits
        exact ⟨_, hexec, u, by rw [hu], hspec⟩
      · subst hl
        obtain ⟨u, hu, hspec⟩ := State.absorbs_pieces hverb hseq l
        exact ⟨_, hexec, u, by rw [hu], hspec⟩
  · exact congrArg Host.Outcome.next (doPieceTokenized_failed hv hl hrun hp hpipe)
  · obtain ⟨u, hu, hspec⟩ := doPieceTokenized_read hv hl hrun hp hpipe hq
    obtain rfl : v.id = vid := (State.verb?_mem hv).2
    exact ⟨_, congrArg Host.Outcome.next hu, u, rfl, hspec⟩

/-! ## STEP (R104, R123, R179) -/

section
variable {s : State} {p vid : Nat} {v : Verb} {stops : Option Bytes} (hv : s.begun? p vid .step = some v)
  (hstop : v.flag flagStop = false)
include hv hstop

theorem doStepGen_badArguments (h : stepArgsOk v = false ∨ s.stopsOf p v stops = none) :
    doStepGen p vid stops s = s.complete p vid .badArgument := by
  rcases h with h | h
  · simp [doStepGen, hv, hstop, h]
  · simp [doStepGen, hv, hstop, h]

variable {x : Session} {q : Seq} {sl : List Bytes × List Nat} (hx : s.session? v.dir = some x) (hqu : x.quire = none)
  (hq : s.seq? v.dir v.seq = some q) (harg : stepArgsOk v = true) (hsl : s.stopsOf p v stops = some sl)
include hq harg hsl

theorem doStepGen_noGrammar (h : s.stepGrammar p v q = none) : doStepGen p vid stops s = s.complete p vid .badArgument := by
  simp [doStepGen, hv, hstop, harg, hsl, hq, h]

variable {gid gs : Nat} {gk : List Nat} (hg : s.stepGrammar p v q = some (gid, gs, gk))
include hx hqu hg

theorem doStepGen_badState (h : q.state ≠ .wait) : doStepGen p vid stops s = s.complete p vid .badState := by
  simp [doStepGen, hv, hstop, harg, hsl, hq, hg, State.resident_of_resident hx hqu, h]

end

/-- The sequence in DECODE with the verb's run, its overhang dropped or none (R179). -/
def Seq.decoding (q : Seq) (v : Verb) (r : StepRun) (gid gs : Nat) (gk : List Nat) : Seq :=
  { q with
    state := .decode, run := some r, grammar := gid, gState := gs, gStack := gk, arrival := v.arrival,
    ttftDeadline := if r.ttftUs = 0 then none else some (v.arrival + 1000 * r.ttftUs), nextDeadline := none, lastEmit := 0,
    tree := [] }

theorem doStepGen_runs {s : State} {p vid : Nat} {v : Verb} {stops : Option Bytes} (hv : s.begun? p vid .step = some v)
    (hstop : v.flag flagStop = false) {x : Session} {q : Seq} {sl : List Bytes × List Nat} (hx : s.session? v.dir = some x)
    (hqu : x.quire = none) (hq : s.seq? v.dir v.seq = some q) (harg : stepArgsOk v = true) (hsl : s.stopsOf p v stops = some sl)
    {gid gs : Nat} {gk : List Nat} (hg : s.stepGrammar p v q = some (gid, gs, gk)) (hst : q.state = .wait) :
    let u := ((s.runVerb p vid).modSeq v.dir v.seq fun q => q.decoding v (stepRun v q sl) gid gs gk).feedOverhang p v.dir v.seq
      (stepRun v q sl) q
    doStepGen p vid stops s = if Config.maxContext ≤ q.ctxLen then u.endStep p v.dir v.seq .length else u := by
  have hrun : (s.runVerb p vid).modSeq v.dir v.seq (fun q => q.decoding v (stepRun v q sl) gid gs gk) =
      (s.runVerb p vid).modSeq v.dir v.seq fun w => w.decoding v (stepRun v q sl) gid gs gk := by
    have hq' : (s.runVerb p vid).seq? v.dir v.seq = some q := hq
    rw [State.modSeq, State.modSeq, hq']
  rw [hrun]
  simp [doStepGen, hv, hstop, harg, hsl, hq, hg, State.resident_of_resident hx hqu, hst, Seq.decoding]

/-- Without overhang nothing is fed; the sequence is left without overhang. -/
theorem State.feedOverhang_none {s : State} {p d n : Nat} {r : StepRun} {q w : Seq} (hq : s.seq? d n = some w) (hw : w.overhang = [])
    (ho : q.overhang = []) : ∃ u : State, s.feedOverhang p d n r q = u ∧ u.seq? d n = some { w with overhang := [] } ∧
      u = { s with dir := u.dir } := by
  unfold State.feedOverhang
  split
  · exact ⟨_, rfl, State.seq?_modSeq hq _, State.modSeq_only ..⟩
  · rw [ho]
    exact ⟨s, rfl, by rw [hq, ← hw], rfl⟩

/-! ## STEP with STOP (R38, R108) -/

/-- A verb that has completed is gone. -/
theorem State.verb?_complete (u : State) (p vid : Nat) (st : Status) (flags : Nat := 0) (body : RecBody := [])
    (h : Option Nat := none) : (u.complete p vid st flags body h).verb? p vid = none := by
  cases hv : u.verb? p vid with
  | none =>
    have hsame : u.complete p vid st flags body h = u := by simp [State.complete, hv]
    rw [hsame, hv]
  | some v =>
    obtain ⟨⟨hverbs, -⟩, -⟩ := State.complete_ends hv st flags body h
    obtain rfl : v.id = vid := (State.verb?_mem hv).2
    unfold State.verb?
    rw [hverbs, List.find?_eq_none]
    intro w hw
    simpa using (List.mem_filter.mp hw).2

section
variable {s : State} {p vid : Nat} {v : Verb} {q : Seq} (hv : s.begun? p vid .step = some v) (hstop : v.flag flagStop = true)
  (hq : s.seq? v.dir v.seq = some q)
include hv hstop hq

theorem doStepStop_idle (hr : q.run = none) : doStepStop p vid s =
    ((s.leaveNext p v.dir v.seq).modSeq v.dir v.seq fun q => { q with stopping := false }).complete p vid .ok := by
  simp [doStepStop, hv, hstop, hq, hr]

theorem doStepStop_inFlight {r : StepRun} (hr : q.run = some r) (hf : s.inFlight p v.dir v.seq = true) : doStepStop p vid s =
    ((s.leaveNext p v.dir v.seq).runVerb p vid).modSeq v.dir v.seq fun q =>
      { q with run := some { r with stopVerbs := r.stopVerbs ++ [vid] } } := by
  simp [doStepStop, hv, hstop, hq, hr, hf]

theorem doStepStop_waiting {r : StepRun} (hr : q.run = some r) (hf : s.inFlight p v.dir v.seq = false) : doStepStop p vid s =
    (((s.leaveNext p v.dir v.seq).endStep p v.dir v.seq .cancelled).modSeq v.dir v.seq
      fun q => { q with stopping := false }).complete p vid .ok := by
  simp [doStepStop, hv, hstop, hq, hr, hf]

end

/-- Settles O23: a STEP begins with its run, and STOP ends a step that is not in flight at once. -/
theorem stepsBegin : Obligations.StepsBegin := by
  refine ⟨fun p vid v x q stops s hv hstop => ⟨fun h => ?_, fun hx hqu hq harg sl hsl => ⟨fun h => ?_, fun gid gs gk hg =>
    ⟨fun h => ?_, fun hst ho => ?_⟩⟩⟩, fun p vid v q s hv hstop hq => ⟨fun hr => ?_, fun r hr => ⟨fun hf => ?_, fun hf => ?_⟩⟩⟩
  all_goals obtain ⟨hverb, hid, -⟩ := State.begun?_verb hv
  · exact ⟨_, congrArg Host.Outcome.next (doStepGen_badArguments hv hstop h), State.complete_ends hverb ..⟩
  · have hseq := State.seq?_of_session hx hq
    exact ⟨_, congrArg Host.Outcome.next (doStepGen_noGrammar hv hstop hseq harg hsl h), State.complete_ends hverb ..⟩
  · have hseq := State.seq?_of_session hx hq
    exact ⟨_, congrArg Host.Outcome.next (doStepGen_badState hv hstop hx hqu hseq harg hsl hg h), State.complete_ends hverb ..⟩
  · have hseq := State.seq?_of_session hx hq
    have hdec : ((s.runVerb p vid).modSeq v.dir v.seq fun q => q.decoding v (stepRun v q sl) gid gs gk).seq? v.dir v.seq =
        some (q.decoding v (stepRun v q sl) gid gs gk) := State.seq?_modSeq (by exact hseq) _
    have hrun : ((s.runVerb p vid).modSeq v.dir v.seq fun q => q.decoding v (stepRun v q sl) gid gs gk).verb? p vid =
        some { v with phase := .running } := by
      rw [State.modSeq_only]
      exact State.verb?_modVerb hverb (by exact fun _ => rfl)
    obtain ⟨u, hu, hseq', hframe⟩ := State.feedOverhang_none (p := p) (r := stepRun v q sl) (q := q) hdec ho ho
    refine ⟨u, ?_, hseq', ?_, ?_⟩
    · rw [hframe]
      exact hrun
    · rw [hframe, State.modSeq_only]
      rfl
    · rw [← hu]
      exact congrArg Host.Outcome.next (doStepGen_runs hv hstop hx hqu hseq harg hsl hg hst)
  · have hseq' : ((s.leaveNext p v.dir v.seq).modSeq v.dir v.seq fun q => { q with stopping := false }).seq? v.dir v.seq =
        some { q with stopping := false } := State.seq?_modSeq (by exact hq) _
    have hhif : ((s.leaveNext p v.dir v.seq).modSeq v.dir v.seq fun q => { q with stopping := false }).hif = s.hif := by
      rw [State.modSeq_only]
      rfl
    obtain ⟨hends, hframe⟩ := State.complete_ends_after hverb hhif .ok
    refine ⟨_, congrArg Host.Outcome.next (doStepStop_idle hv hstop hq hr), hends, ?_, ?_⟩
    · rw [hframe]
      exact hseq'
    · rw [hframe, State.modSeq_only]
      rfl
  · refine ⟨_, congrArg Host.Outcome.next (doStepStop_inFlight hv hstop hq hr hf), ?_, State.seq?_modSeq (by exact hq) _, ?_⟩
    · rw [State.modSeq_only]
      exact State.verb?_modVerb (s := s.leaveNext p v.dir v.seq) hverb (by exact fun _ => rfl)
    · rw [State.modSeq_only]
      rfl
  · exact ⟨_, congrArg Host.Outcome.next (doStepStop_waiting hv hstop hq hr hf), ⟨_, rfl⟩, State.verb?_complete ..⟩

end Machine
end Sys2Proof

/-!
PROOFS. Settling O40 (LinksComeAndGo): control frames, flits, and the states of a link.
-/
namespace Sys2Proof
namespace Machine

/-! ## What control frames change (R247, R253) -/

@[simp] theorem State.linkOf_modLink_same (s : State) (l : Nat) (f : Link → Link) : (s.modLink l f).linkOf l = f (s.linkOf l) :=
  State.linkOf_setLink_same ..

@[simp] theorem State.linkOf_emit (s : State) (o : Out) (l : Nat) : (s.emit o).linkOf l = s.linkOf l := rfl

theorem State.linkOf_modLink_other (s : State) {l k : Nat} (f : Link → Link) (h : k ≠ l) : (s.modLink l f).linkOf k = s.linkOf k :=
  State.linkOf_setLink_other _ _ _ _ h

/-- Of a link nothing has changed but what the sending of control frames touches. -/
def Link.SameButCtrl (x y : Link) : Prop :=
  y = { x with txSeq := y.txSeq, replay := y.replay, txFill := y.txFill, ctrlWait := y.ctrlWait, credits := y.credits,
               txFrames := y.txFrames }

theorem Link.SameButCtrl.trans {x y z : Link} (a : x.SameButCtrl y) (b : y.SameButCtrl z) : x.SameButCtrl z := by
  unfold Link.SameButCtrl at *
  rw [a] at b
  exact b

/-- From s to t control frames have been sent or wait, and advertisements wait for their acknowledgement. -/
structure State.CtrlsSent (s t : State) : Prop where
  frame : t = { s with fab := { s.fab with links := t.fab.links, unacked := t.fab.unacked }, out := t.out }
  link : ∀ k, (s.linkOf k).SameButCtrl (t.linkOf k)

theorem State.CtrlsSent.refl (s : State) : s.CtrlsSent s := ⟨rfl, fun _ => rfl⟩

theorem State.CtrlsSent.trans {s u t : State} (a : s.CtrlsSent u) (b : u.CtrlsSent t) : s.CtrlsSent t := by
  refine ⟨?_, fun k => (a.link k).trans (b.link k)⟩
  have hb := b.frame
  rw [a.frame] at hb
  exact hb

theorem State.CtrlsSent.foldl {α : Type} {g : State → α → State} (h : ∀ (s : State) a, s.CtrlsSent (g s a)) (l : List α) (s : State) :
    s.CtrlsSent (l.foldl g s) := by
  induction l generalizing s with
  | nil => exact .refl s
  | cons a l ih => exact (h s a).trans (ih _)

/-- On link l alone control frames have been sent or wait. -/
structure State.CtrlsSentOn (s t : State) (l : Nat) : Prop where
  sent : s.CtrlsSent t
  others : ∀ k, k ≠ l → t.linkOf k = s.linkOf k
  unacked : t.fab.unacked = s.fab.unacked

theorem State.CtrlsSentOn.refl (s : State) (l : Nat) : s.CtrlsSentOn s l := ⟨.refl s, fun _ _ => rfl, rfl⟩

theorem State.CtrlsSentOn.trans {s u t : State} {l : Nat} (a : s.CtrlsSentOn u l) (b : u.CtrlsSentOn t l) : s.CtrlsSentOn t l :=
  ⟨a.sent.trans b.sent, fun k h => (b.others k h).trans (a.others k h), b.unacked.trans a.unacked⟩

theorem State.modLink_ctrls {s : State} {l : Nat} {f : Link → Link} (h : (s.linkOf l).SameButCtrl (f (s.linkOf l))) :
    s.CtrlsSentOn (s.modLink l f) l := by
  refine ⟨⟨rfl, fun k => ?_⟩, fun k hk => State.linkOf_modLink_other s f hk, rfl⟩
  by_cases hk : k = l
  · rw [hk, State.linkOf_modLink_same]
    exact h
  · rw [State.linkOf_modLink_other s f hk]
    rfl

theorem State.CtrlsSentOn.emit {s t : State} {l : Nat} (h : s.CtrlsSentOn t l) (o : Out) : s.CtrlsSentOn (t.emit o) l := by
  refine ⟨⟨?_, h.sent.link⟩, h.others, h.unacked⟩
  have hf := h.sent.frame
  unfold State.emit
  rw [hf]

/-- The link after a control frame has left. -/
def Link.sentCtrl (x : Link) (c : Ctrl) : Link :=
  { ({ x with txFill := 0, credits := tput x.credits 0 (tgetD x.credits 0 0 - ctrlUnits c),
              txFrames := if x.keyed then x.txFrames + 1 else x.txFrames } : Link).keep (ctrlUnits c) 0 (.ctrl c) with txFill := 0 }

theorem State.sendCtrlNow_eq (s : State) (l : Nat) (c : Ctrl) :
    s.sendCtrlNow l c = (s.modLink l fun x => x.sentCtrl c).emit (ctrlOut l c) := rfl

theorem State.sendCtrlNow_ctrls (s : State) (l : Nat) (c : Ctrl) : s.CtrlsSentOn (s.sendCtrlNow l c) l :=
  State.CtrlsSentOn.emit (State.modLink_ctrls (f := fun x => x.sentCtrl c) rfl) _

theorem State.drainCtrl_ctrls (s : State) (l n : Nat) : s.CtrlsSentOn (s.drainCtrl l n) l := by
  induction n generalizing s with
  | zero => exact .refl s l
  | succ n ih =>
    unfold State.drainCtrl
    split
    · exact .refl s l
    · split
      · exact ((State.modLink_ctrls (by rfl)).trans (State.sendCtrlNow_ctrls _ l _)).trans (ih _)
      · exact .refl s l

theorem State.sendCtrl_ctrls (s : State) (l : Nat) (c : Ctrl) : s.CtrlsSentOn (s.sendCtrl l c) l :=
  (State.modLink_ctrls (by rfl)).trans (State.drainCtrl_ctrls _ l _)

/-- What may be sent depends on the link's state, its credits, its flits under way. -/
theorem State.ctrlSendable_congr {s t : State} {l : Nat} {c : Ctrl} (h : t.linkOf l = { s.linkOf l with ctrlWait := (t.linkOf l).ctrlWait }) :
    t.ctrlSendable l c = s.ctrlSendable l c := by
  unfold State.ctrlSendable
  rw [h]
  rfl

section
variable {s : State} {l : Nat} {c : Ctrl} (hw : (s.linkOf l).ctrlWait = [])
include hw

/-- Where nothing waits before it, a control frame leaves at once or is the one that waits. -/
theorem State.sendCtrl_first : s.sendCtrl l c =
    if s.ctrlSendable l c = true then
      ((s.modLink l fun x => { x with ctrlWait := [c] }).modLink l fun x => { x with ctrlWait := [] }).sendCtrlNow l c
    else s.modLink l fun x => { x with ctrlWait := [c] } := by
  have hwait : (s.modLink l fun x => { x with ctrlWait := x.ctrlWait ++ [c] }) = s.modLink l fun x => { x with ctrlWait := [c] } := by
    unfold State.modLink
    dsimp only
    rw [hw, List.nil_append]
  have hsend : (s.modLink l fun x => { x with ctrlWait := [c] }).ctrlSendable l c = s.ctrlSendable l c :=
    State.ctrlSendable_congr (by rw [State.linkOf_modLink_same])
  unfold State.sendCtrl
  simp only [hwait, State.linkOf_modLink_same, List.length_singleton, State.drainCtrl, hsend]

theorem State.sendCtrl_leaves (h : s.ctrlSendable l c = true) : (s.sendCtrl l c).out = s.out ++ [ctrlOut l c] ∧
    (s.sendCtrl l c).linkOf l = ({ s.linkOf l with ctrlWait := [] } : Link).sentCtrl c := by
  rw [State.sendCtrl_first hw, if_pos h, State.sendCtrlNow_eq]
  refine ⟨rfl, ?_⟩
  rw [State.linkOf_emit, State.linkOf_modLink_same, State.linkOf_modLink_same, State.linkOf_modLink_same]

theorem State.sendCtrl_waits (h : s.ctrlSendable l c = false) : (s.sendCtrl l c).out = s.out ∧
    (s.sendCtrl l c).linkOf l = { s.linkOf l with ctrlWait := [c] } := by
  rw [State.sendCtrl_first hw, if_neg (by rw [h]; exact Bool.noConfusion)]
  exact ⟨rfl, State.linkOf_modLink_same ..⟩

end

theorem Link.sentCtrl_credits (x : Link) (c : Ctrl) : tgetD (x.sentCtrl c).credits 0 0 = tgetD x.credits 0 0 - ctrlUnits c :=
  tgetD_tput_same ..

/-! ## Advertisements (R259, R260) -/

/-- An advertisement waits for the acknowledgement of a link. -/
def State.awaitAck (s : State) (m : LsaMsg) (l : Nat) : State :=
  { s with fab := { s.fab with unacked := (s.fab.unacked.filter fun e => !(e.1 == l && e.2.1.origin == m.origin)) ++ [(l, m, s.now)] } }

theorem State.sendLsa_eq (s : State) (m : LsaMsg) (l : Nat) : s.sendLsa m l = (s.awaitAck m l).sendCtrl l (.lsa m) := rfl

theorem State.sendLsa_sent (s : State) (m : LsaMsg) (l : Nat) : s.CtrlsSent (s.sendLsa m l) :=
  State.CtrlsSent.trans (u := s.awaitAck m l) ⟨rfl, fun _ => rfl⟩ (State.sendCtrl_ctrls _ l (.lsa m)).sent

theorem State.linkOf_sendLsa_other (s : State) (m : LsaMsg) {l k : Nat} (h : k ≠ l) : (s.sendLsa m l).linkOf k = s.linkOf k :=
  (State.sendCtrl_ctrls (s.awaitAck m l) l (.lsa m)).others k h

theorem State.floodedLsas (s : State) (m : LsaMsg) (ls : List Nat) : s.CtrlsSent (ls.foldl (fun t l => t.sendLsa m l) s) :=
  State.CtrlsSent.foldl (fun s l => s.sendLsa_sent m l) ls s

theorem State.linkOf_floodedLsas {l : Nat} (m : LsaMsg) {ls : List Nat} (h : l ∉ ls) (s : State) :
    (ls.foldl (fun t l => t.sendLsa m l) s).linkOf l = s.linkOf l := by
  induction ls generalizing s with
  | nil => rfl
  | cons k ls ih =>
    obtain ⟨hk, hls⟩ := not_or.mp (mt List.mem_cons.mpr h)
    exact (ih hls _).trans (State.linkOf_sendLsa_other s m hk)

/-- From s to t this device has advertised its links. -/
structure State.Flooded (s t : State) : Prop where
  frame : t = { s with fab := { s.fab with links := t.fab.links, unacked := t.fab.unacked, lsas := t.fab.lsas, lsaSeq := t.fab.lsaSeq,
                                           switchAt := t.fab.switchAt }, out := t.out }
  link : ∀ k, (s.linkOf k).SameButCtrl (t.linkOf k)

/-- This device's own advertisement. -/
def State.ownLsa (s : State) : LsaMsg :=
  { origin := s.fab.devId, seq := (s.fab.lsaSeq + 1) % two32, switchAt := s.now + s.switchDelay,
    links := (s.upLinks.filter fun l => !(s.linkOf l).measuring).map fun l => ((s.linkOf l).peerId, l, (s.linkOf l).delay) }

/-- The device's own advertisement is the newest of its origin. -/
def State.advertised (s : State) : State :=
  ({ s with fab := { s.fab with lsaSeq := s.ownLsa.seq, lsas := tput s.fab.lsas s.fab.devId s.ownLsa } } : State).noteSwitch
    (s.now + s.switchDelay)

theorem State.flood_eq (s : State) : s.flood = s.upLinks.foldl (fun t l => t.sendLsa s.ownLsa l) s.advertised := rfl

theorem State.flood_flooded (s : State) : s.Flooded s.flood := by
  have h := State.floodedLsas s.advertised s.ownLsa s.upLinks
  rw [← State.flood_eq] at h
  refine ⟨?_, h.link⟩
  rw [h.frame]
  rfl

/-- A link that is not UP is as it was. -/
theorem State.linkOf_flood {s : State} {l : Nat} (h : (s.linkOf l).state ≠ .up) : s.flood.linkOf l = s.linkOf l := by
  have hl : l ∉ s.upLinks := fun hm => h (beq_iff_eq.mp (List.mem_filter.mp hm).2)
  rw [State.flood_eq]
  exact State.linkOf_floodedLsas s.ownLsa hl s.advertised

/-! ## Frames leave the links as they are (R261, R266) -/

/-- From s to t frames have been sent: of the fabric's state only the inbox has changed. -/
structure State.FramesSent (s t : State) : Prop where
  same : s.sameButFabric t
  fab : t.fab = { s.fab with inbox := t.fab.inbox }

theorem State.FramesSent.refl (s : State) : s.FramesSent s := ⟨rfl, rfl⟩

theorem State.FramesSent.trans {s u t : State} (a : s.FramesSent u) (b : u.FramesSent t) : s.FramesSent t := by
  refine ⟨a.same.trans b.same, ?_⟩
  have hb := b.fab
  rw [a.fab] at hb
  exact hb

theorem State.FramesSent.foldl {α : Type} {g : State → α → State} (h : ∀ (s : State) a, s.FramesSent (g s a)) (l : List α)
    (s : State) : s.FramesSent (l.foldl g s) := by
  induction l generalizing s with
  | nil => exact .refl s
  | cons a l ih => exact (h s a).trans (ih _)

theorem State.FramesSent.linkOf {s t : State} (h : s.FramesSent t) (l : Nat) : t.linkOf l = s.linkOf l :=
  State.linkOf_congr (by rw [h.fab]) l

theorem State.returnCredit_sent (s : State) (i : Option Nat) (f : Frame) : s.FramesSent (s.returnCredit i f) := by
  obtain ⟨hsame, hfab⟩ := s.returnCredit_same i f
  exact ⟨hsame, by rw [hfab]⟩

theorem State.queueFrame_sent (s : State) (l : Nat) (f : Frame) (i : Option Nat) : s.FramesSent (s.queueFrame l f i) := ⟨rfl, rfl⟩

theorem State.arrive_sent (s : State) (f : Frame) : s.FramesSent (s.arrive f) := ⟨rfl, rfl⟩

theorem State.sendFrame_sent (s : State) (f : Frame) (i : Option Nat) : s.FramesSent (s.sendFrame f i) := by
  unfold State.sendFrame
  split
  · exact (s.arrive_sent f).trans (State.returnCredit_sent ..)
  · split
    · exact s.queueFrame_sent ..
    · have hcredit := s.returnCredit_sent i f
      dsimp only
      split
      · exact hcredit
      · split
        · exact hcredit.trans (State.arrive_sent ..)
        · split
          · exact hcredit.trans (State.queueFrame_sent ..)
          · exact hcredit

theorem State.rescue_sent (s : State) (l : Nat) (f : Frame) (resent : Bool) (i : Option Nat) : s.FramesSent (s.rescue l f resent i) := by
  unfold State.rescue
  dsimp only
  split
  · exact State.queueFrame_sent ..
  · exact State.sendFrame_sent ..

/-- A frame of a replay buffer is rescued, a control frame dropped. -/
def State.rescueSent (s : State) (l : Nat) (e : Nat × Sent) : State :=
  match e.2 with
  | .frame f => s.rescue l f true none
  | .ctrl _ => s

def State.rescueWaiting (s : State) (l : Nat) (r : PortReq) : State :=
  match r.frame with
  | some f => s.rescue l f false r.ingress
  | none => s

theorem State.rescueSent_sent (s : State) (l : Nat) (e : Nat × Sent) : s.FramesSent (s.rescueSent l e) := by
  unfold State.rescueSent
  split
  · exact s.rescue_sent ..
  · exact .refl s

theorem State.rescueWaiting_sent (s : State) (l : Nat) (r : PortReq) : s.FramesSent (s.rescueWaiting l r) := by
  unfold State.rescueWaiting
  split
  · exact s.rescue_sent ..
  · exact .refl s

/-! ## A link goes down (R266, R363) -/

/-- A link that has left for another state. -/
def Link.left (x : Link) (dest : LinkState) (now : Nat) : Link :=
  { x with
    state := dest, keyed := false, secret := 0, measuring := false, downSince := now, replay := [], txFill := 0, ctrlWait := [],
    credits := [], naking := false, uncorrRun := 0, txSeq := 0, ackSeq := 4095, rxSeq := 4095, rxOldLeft := 0 }

/-- The link has left, with nothing that waits for it. -/
def State.vacated (s : State) (l : Nat) (dest : LinkState) : State :=
  let t := s.setLink l ((s.linkOf l).left dest s.now)
  let t := { t with fab := { t.fab with unacked := t.fab.unacked.filter fun e => e.1 != l } }
  t.setPort (.link l) { (t.port (.link l)) with reqs := [], cur := none }

/-- The link has left, and what it held is on its way elsewhere. -/
def State.rescued (s : State) (l : Nat) (dest : LinkState) : State :=
  (s.port (.link l)).reqs.foldl (fun t r => t.rescueWaiting l r)
    ((s.linkOf l).replay.foldl (fun t e => t.rescueSent l e) (s.vacated l dest))

theorem State.leaveLink_eq (s : State) (l : Nat) (dest : LinkState) : s.leaveLink l dest =
    if ((s.linkOf l).state == .up) = true then (s.rescued l dest).flood.trackOld else s.rescued l dest := rfl

theorem State.rescued_spec (s : State) (l : Nat) (dest : LinkState) :
    s.sameButFabric (s.rescued l dest) ∧ (s.rescued l dest).linkOf l = (s.linkOf l).left dest s.now := by
  have hw : s.sameButFabric (s.vacated l dest) := rfl
  have h : (s.vacated l dest).FramesSent (s.rescued l dest) :=
    (State.FramesSent.foldl (fun s e => State.rescueSent_sent s l e) (s.linkOf l).replay _).trans
      (State.FramesSent.foldl (fun s r => State.rescueWaiting_sent s l r) (s.port (.link l)).reqs _)
  exact ⟨hw.trans h.same, (h.linkOf l).trans (State.linkOf_setLink_same ..)⟩

theorem State.trackOld_same (s : State) : s.sameButFabric s.trackOld := by
  unfold State.trackOld
  split <;> rfl

theorem State.leaveLink_spec (s : State) (l : Nat) {dest : LinkState} (h : dest ≠ .up) :
    s.sameButFabric (s.leaveLink l dest) ∧ (s.leaveLink l dest).linkOf l = (s.linkOf l).left dest s.now := by
  obtain ⟨hsame, hlink⟩ := s.rescued_spec l dest
  have hstate : ((s.rescued l dest).linkOf l).state ≠ .up := by
    rw [hlink]
    exact h
  have hflood : (s.rescued l dest).sameButFabric (s.rescued l dest).flood := by
    have := (s.rescued l dest).flood_flooded.frame
    unfold State.sameButFabric
    rw [this]
  rw [State.leaveLink_eq]
  split
  · exact ⟨(hsame.trans hflood).trans (State.trackOld_same _),
      (State.linkOf_congr (State.trackOld_keeps _).2 l).trans ((State.linkOf_flood hstate).trans hlink)⟩
  · exact ⟨hsame, hlink⟩

theorem doLinkDown_downs {s : State} {l : Nat} (hp : s.pwr.pwrok = true)
    (hst : (s.linkOf l).state = .up ∨ (s.linkOf l).state = .authenticating) (hl : s.linkLost l = true) :
    doLinkDown l s = s.downLink l := by
  have hst' : ((s.linkOf l).state == .up || (s.linkOf l).state == .authenticating) = true := by
    rcases hst with h | h <;> rw [h] <;> rfl
  simp [doLinkDown, hp, hst', hl]

theorem State.downLink_spec (s : State) (l : Nat) :
    (s.downLink l).linkOf l = (s.linkOf l).left .down s.now ∧ quadSource l ∈ (s.downLink l).flt.lines.map (·.1) ∧
      (s.downLink l).reg .fabDowns l = s.reg .fabDowns l + 1 := by
  unfold State.downLink
  generalize hd : ({ raw := fabDetail l (s.linkOf l).peerId 0 0 } : FaultDetail) = d
  obtain ⟨hsame, hlink⟩ := ((s.count .fabDowns l).raise (quadSource l) d).leaveLink_spec l (dest := .down) (by decide)
  unfold State.sameButFabric at hsame
  refine ⟨hlink, ?_, ?_⟩
  · rw [hsame]
    simp [State.raise]
  · rw [State.reg_of_regs (s := s.count .fabDowns l) (by rw [hsame]; rfl)]
    exact State.reg_count_same ..

/-! ## FLIT_RX (R246, R247) -/

section
variable {s : State} {l : Nat} {f : Flit} (hp : s.pwr.pwrok = true)
  (hst : (s.linkOf l).state ∈ [LinkState.up, .authenticating, .mismatch])
include hp hst

/-- FLIT_RX on a link whose flits count. -/
theorem doFlitRx_eq : doFlitRx l f s =
    if f.uncorrectable || !flitOk f then
      (if f.uncorrectable then
        (s.countSat .fabUncorr l).modLink l fun x => { x with uncorrRun := x.uncorrRun + 1, naking := true }
      else s.modLink l fun x => { x with naking := true }).emit (.nakFlit l (s.linkOf l).rxSeq)
    else if f.kind = 0 then s.takeHeader l f
    else if f.seq != ((s.linkOf l).rxSeq + 1) % 4096 then s.modLink l fun x => { x with lastValid := s.now, uncorrRun := 0 }
    else
      let t := (((s.takeHeader l f).modLink l fun x => { x with rxSeq := f.seq, naking := false })).emit (.ackFlit l f.seq)
      if f.kind = 2 then t.takeCtrls l f.ctrl else if (s.linkOf l).state == .up then t.takeFrames l f.frames else t := by
  have hcounts : (!s.pwr.pwrok || !((s.linkOf l).state == .up || (s.linkOf l).state == .authenticating ||
      (s.linkOf l).state == .mismatch)) = false := by
    simp only [List.mem_cons, List.not_mem_nil, or_false] at hst
    rcases hst with h | h | h <;> rw [hp, h] <;> rfl
  unfold doFlitRx
  simp only [hcounts]
  rfl

theorem doFlitRx_uncorrectable (hu : f.uncorrectable = true) : doFlitRx l f s =
    ((s.countSat .fabUncorr l).modLink l fun x => { x with uncorrRun := x.uncorrRun + 1, naking := true }).emit
      (.nakFlit l (s.linkOf l).rxSeq) := by
  rw [doFlitRx_eq hp hst, hu]
  rfl

theorem doFlitRx_malformed (hu : f.uncorrectable = false) (hf : flitOk f = false) : doFlitRx l f s =
    (s.setLink l { s.linkOf l with naking := true }).emit (.nakFlit l (s.linkOf l).rxSeq) := by
  rw [doFlitRx_eq hp hst, hu, hf]
  rfl

variable (hu : f.uncorrectable = false) (hf : flitOk f = true)
include hu hf

theorem doFlitRx_header (hk : f.kind = 0) : doFlitRx l f s = s.takeHeader l f := by
  rw [doFlitRx_eq hp hst, hu, hf]
  exact if_pos hk

theorem doFlitRx_outOfSequence (hk : f.kind ≠ 0) (hs : f.seq ≠ ((s.linkOf l).rxSeq + 1) % 4096) :
    doFlitRx l f s = s.setLink l { s.linkOf l with lastValid := s.now, uncorrRun := 0 } := by
  rw [doFlitRx_eq hp hst, hu, hf]
  exact (if_neg hk).trans (if_pos (bne_iff_ne.mpr hs))

theorem doFlitRx_inSequence (hk : f.kind ≠ 0) (hs : f.seq = ((s.linkOf l).rxSeq + 1) % 4096) : doFlitRx l f s =
    let t := ((s.takeHeader l f).modLink l fun x => { x with rxSeq := f.seq, naking := false }).emit (.ackFlit l f.seq)
    if f.kind = 2 then t.takeCtrls l f.ctrl else if (s.linkOf l).state == .up then t.takeFrames l f.frames else t := by
  rw [doFlitRx_eq hp hst, hu, hf]
  exact (if_neg hk).trans (if_neg (by simp [hs]))

end

theorem flitRx_links {s : State} {l : Nat} {f : Flit} (hp : s.pwr.pwrok = true)
    (hst : (s.linkOf l).state ∈ [LinkState.up, .authenticating, .mismatch]) (hu : f.uncorrectable = true) :
    Does (.flitRx l f) s fun t =>
      t.linkOf l = { s.linkOf l with uncorrRun := (s.linkOf l).uncorrRun + 1, naking := true } ∧
      t.out = s.out ++ [.nakFlit l (s.linkOf l).rxSeq] ∧ (∀ k, k ≠ l → t.linkOf k = s.linkOf k) ∧ t.fab.inbox = s.fab.inbox := by
  refine ⟨_, congrArg Host.Outcome.next (doFlitRx_uncorrectable hp hst hu), ?_⟩
  have hc := State.countSat_only s .fabUncorr l 1
  generalize hu : s.countSat .fabUncorr l = u at hc ⊢
  have hlink : ∀ k, u.linkOf k = s.linkOf k := fun k => by rw [hc]; rfl
  refine ⟨?_, ?_, fun k hk => ?_, ?_⟩
  · rw [State.linkOf_emit, State.linkOf_modLink_same, hlink]
  · rw [hc]; rfl
  · rw [State.linkOf_emit, State.linkOf_modLink_other _ _ hk, hlink]
  · rw [hc]; rfl

/-! ## Discovery (R258) -/

/-- A link on which discovery begins. -/
def Link.discovered (x : Link) (now : Nat) : Link :=
  { x with state := .authenticating, keyed := false, secret := 0, helloOk := false, measuring := false, lastValid := now, txSeq := 0,
           ackSeq := 4095, rxSeq := 4095, replay := [], txFill := 0, ctrlWait := [], naking := false, uncorrRun := 0,
           credits := [(0, 33)] }

/-- HELLO leaves at once: the new link has the credits and the room. -/
theorem State.discover_spec (s : State) (l : Nat) : (s.discover l).out = s.out ++ [.hello l (s.helloMsg l)] ∧
    (s.discover l).linkOf l = ((s.linkOf l).discovered s.now).sentCtrl (.hello (s.helloMsg l)) ∧
    ∀ k, k ≠ l → (s.discover l).linkOf k = s.linkOf k := by
  have hlink : (s.modLink l fun x => x.discovered s.now).linkOf l = (s.linkOf l).discovered s.now := State.linkOf_modLink_same ..
  have hwait : ((s.modLink l fun x => x.discovered s.now).linkOf l).ctrlWait = [] := by rw [hlink]; rfl
  have hsend : (s.modLink l fun x => x.discovered s.now).ctrlSendable l (.hello (s.helloMsg l)) = true := by
    unfold State.ctrlSendable
    rw [hlink]
    simp [Link.discovered, Link.outstanding, ctrlUnits, flitsFor, ceilDiv, tgetD, tget, Config.replayFlits]
  obtain ⟨hout, hl⟩ := State.sendCtrl_leaves hwait hsend
  rw [hlink] at hl
  exact ⟨hout, hl, fun k hk => ((State.sendCtrl_ctrls _ l _).others k hk).trans (State.linkOf_modLink_other s _ hk)⟩

theorem doLinkTrained_discovers {s : State} {l : Nat} (hp : s.pwr.pwrok = true) (ha : s.linkActive l = true)
    (hst : (s.linkOf l).state = .training) (h7 : 7 ≤ s.pwr.stage) : doLinkTrained l s = s.discover l := by
  have hst' : ((s.linkOf l).state == .training) = true := beq_iff_eq.mpr hst
  simp [doLinkTrained, hp, ha, hst', h7]

/-- The conditions of R258 on a HELLO. -/
theorem State.helloPasses_iff (s : State) (l : Nat) (m : HelloMsg) : s.helloPasses l m = true ↔
    m.digest = s.membership ∧ (∃ x ∈ s.fabSec.peers, x.uid = m.uid ∧ x.id = m.id) ∧
      ((s.linkRow l).peerId = 0xFFF ∨ (s.linkRow l).peerId = m.id ∧ (s.linkRow l).peerLink = m.link) := by
  simp [State.helloPasses, and_assoc]

theorem doHello_eq {s : State} {l : Nat} (m : HelloMsg) (hp : s.pwr.pwrok = true)
    (hst : (s.linkOf l).state = .authenticating ∨ (s.linkOf l).state = .mismatch) : doHello l m s =
    if s.helloPasses l m = true then
      (s.setLink l { s.linkOf l with
        state := .authenticating, helloOk := true, peerId := m.id, peerLink := m.link, peerUid := m.uid, lastValid := s.now }).sendCtrl
          l .auth
    else s.setLink l { s.linkOf l with state := .mismatch, helloOk := false } := by
  have hst' : ((s.linkOf l).state == .authenticating || (s.linkOf l).state == .mismatch) = true := by
    rcases hst with h | h <;> rw [h] <;> rfl
  simp [doHello, hp, hst']

section
variable {s : State} {l uid : Nat} {secret : BitVec 384} {ok : Bool} (hp : s.pwr.pwrok = true)
  (hst : (s.linkOf l).state = .authenticating) (hh : (s.linkOf l).helloOk = true)
include hp hst hh

theorem doAuth_fails (h : ok = false ∨ uid ≠ (s.linkOf l).peerUid) :
    doAuth l uid secret ok s = s.setLink l { s.linkOf l with state := .mismatch, helloOk := false } := by
  have hst' : ((s.linkOf l).state == .authenticating) = true := beq_iff_eq.mpr hst
  have hbad : (ok && uid == (s.linkOf l).peerUid) = false := by
    rcases h with h | h
    · rw [h]; rfl
    · simp [h]
  simp [doAuth, hp, hst', hh, hbad]

theorem doAuth_comesUp (hok : ok = true) (hu : uid = (s.linkOf l).peerUid) : doAuth l uid secret ok s =
    (s.setLink l { s.linkOf l with
      state := .up, keyed := true, secret := secret, measuring := true,
      credits := tput (s.startCredits l) 0 (tgetD (s.linkOf l).credits 0 0), txPhase := false, rxPhase := false, txFrames := 0,
      txUpdates := 0, rxUpdates := 0, rxOldLeft := 0, lastValid := s.now }).sendCtrl l (.syncReq s.now) := by
  have hst' : ((s.linkOf l).state == .authenticating) = true := beq_iff_eq.mpr hst
  simp [doAuth, hp, hst', hh, hok, hu]

end

/-! ## Key updates (R256) -/

section
variable {s : State} {l : Nat} (hp : s.pwr.pwrok = true) (hst : (s.linkOf l).state = .up)
include hp hst

theorem doKeyUpdate_eq (ph : Bool) : doKeyUpdate l ph s = if ph = (s.linkOf l).rxPhase then s
    else s.setLink l { s.linkOf l with rxPhase := ph, rxOldLeft := 1024, rxUpdates := (s.linkOf l).rxUpdates + 1 } := by
  have hst' : ((s.linkOf l).state == .up) = true := beq_iff_eq.mpr hst
  by_cases h : ph = (s.linkOf l).rxPhase <;> simp [doKeyUpdate, hp, hst', h]

omit hp hst in
theorem doKeyUpdateSend_idle (h : (s.linkOf l).txFrames < keyFrames ∨ s.ctrlSendable l (.keyUpdate (!(s.linkOf l).txPhase)) = false) :
    doKeyUpdateSend l s = s := by
  refine if_neg fun hc => ?_
  rw [Bool.and_eq_true, Bool.and_eq_true, Bool.and_eq_true, decide_eq_true_iff] at hc
  obtain ⟨⟨-, hge⟩, hsend⟩ := hc
  rcases h with h | h
  · exact absurd hge (Nat.not_le.mpr h)
  · rw [h] at hsend
    cases hsend

theorem doKeyUpdateSend_turns (hn : keyFrames ≤ (s.linkOf l).txFrames)
    (h : s.ctrlSendable l (.keyUpdate (!(s.linkOf l).txPhase)) = true) : doKeyUpdateSend l s =
    (s.sendCtrlNow l (.keyUpdate (!(s.linkOf l).txPhase))).modLink l fun y =>
      { y with txPhase := !(s.linkOf l).txPhase, txFrames := 0, txUpdates := (s.linkOf l).txUpdates + 1 } := by
  refine if_pos ?_
  rw [hp, hst, h, decide_eq_true hn]
  rfl

theorem keyUpdateSend_links (hn : keyFrames ≤ (s.linkOf l).txFrames)
    (h : s.ctrlSendable l (.keyUpdate (!(s.linkOf l).txPhase)) = true) : Does (.keyUpdateSend l) s fun t =>
      (t.linkOf l).txPhase = !(s.linkOf l).txPhase ∧ (t.linkOf l).txFrames = 0 ∧ (t.linkOf l).txUpdates = (s.linkOf l).txUpdates + 1 ∧
      t.out = s.out ++ [.keyUpdate l (!(s.linkOf l).txPhase)] ∧ ∀ k, k ≠ l → t.linkOf k = s.linkOf k := by
  refine ⟨_, congrArg Host.Outcome.next (doKeyUpdateSend_turns hp hst hn h), ?_⟩
  have hlink := State.linkOf_modLink_same (s.sendCtrlNow l (.keyUpdate (!(s.linkOf l).txPhase))) l fun y =>
    { y with txPhase := !(s.linkOf l).txPhase, txFrames := 0, txUpdates := (s.linkOf l).txUpdates + 1 }
  dsimp only
  rw [hlink]
  exact ⟨rfl, rfl, rfl, rfl, fun k hk => (State.linkOf_modLink_other _ _ hk).trans ((State.sendCtrlNow_ctrls s l _).others k hk)⟩

end

theorem doLinkRetry_idle {s : State} {l : Nat} (h : s.now < (s.linkOf l).downSince + 100000000) : doLinkRetry l s = s := by
  simp [doLinkRetry, Nat.not_le.mpr h]

theorem doLinkRetry_trains {s : State} {l : Nat} (hp : s.pwr.pwrok = true)
    (hst : (s.linkOf l).state = .down ∨ (s.linkOf l).state = .training) (h : (s.linkOf l).downSince + 100000000 ≤ s.now)
    (hc : s.pwr.clockLost.contains (quadDomain (l / 4)) = false) :
    doLinkRetry l s = s.setLink l { s.linkOf l with state := .training, downSince := s.now } := by
  have hst' : ((s.linkOf l).state == .down || (s.linkOf l).state == .training) = true := by
    rcases hst with h | h <;> rw [h] <;> rfl
  refine if_pos ?_
  rw [hp, hst', hc, decide_eq_true h]
  rfl

theorem linkTrained_links {s : State} {l : Nat} (hp : s.pwr.pwrok = true) (ha : s.linkActive l = true)
    (hst : (s.linkOf l).state = .training) (h7 : 7 ≤ s.pwr.stage) : Does (.linkTrained l) s fun t =>
      t.out = s.out ++ [.hello l { uid := s.sec.uid, id := s.fab.devId, link := l, digest := s.membership }] ∧
      (t.linkOf l).state = .authenticating ∧ (t.linkOf l).keyed = false ∧ (t.linkOf l).helloOk = false ∧ (t.linkOf l).txSeq = 1 ∧
      (t.linkOf l).rxSeq = 4095 ∧ (t.linkOf l).credits = [(0, 31)] ∧ ∀ k, k ≠ l → t.linkOf k = s.linkOf k := by
  obtain ⟨hout, hlink, hothers⟩ := s.discover_spec l
  refine ⟨_, congrArg Host.Outcome.next (doLinkTrained_discovers hp ha hst h7), hout, ?_⟩
  rw [hlink]
  refine ⟨rfl, rfl, rfl, ?_, rfl, ?_, hothers⟩
  · simp [Link.sentCtrl, Link.keep, Link.discovered, ctrlUnits, flitsFor, ceilDiv]
  · simp [Link.sentCtrl, Link.keep, Link.discovered, ctrlUnits, tput, tgetD, tget]

/-- Settles O40: one equation for each command of a link; a loss through `State.downLink_spec`, control frames through
`State.sendCtrl_first`. -/
theorem linksComeAndGo : Obligations.LinksComeAndGo := by
  refine ⟨fun l f s hp hst => ⟨flitRx_links hp hst, fun hu hf => congrArg Host.Outcome.next (doFlitRx_malformed hp hst hu hf),
      fun hu hf hk => congrArg Host.Outcome.next (doFlitRx_header hp hst hu hf hk),
      fun hu hf hk hs => congrArg Host.Outcome.next (doFlitRx_outOfSequence hp hst hu hf hk hs), fun hu hf hk hs => ?_⟩,
    fun l s hp hst hl => ?_,
    fun l s hp hst => ⟨fun h => congrArg Host.Outcome.next (doLinkRetry_idle h),
      fun h hc => congrArg Host.Outcome.next (doLinkRetry_trains hp hst h hc)⟩,
    fun l s => linkTrained_links,
    fun l m s hp hst => ⟨fun hpass => ?_, fun hpass => ?_⟩,
    fun l uid secret ok s hp hst hh => ⟨fun h => congrArg Host.Outcome.next (doAuth_fails hp hst hh h),
      fun hok hu => congrArg Host.Outcome.next (doAuth_comesUp hp hst hh hok hu)⟩,
    fun l ph s hp hst => ⟨congrArg Host.Outcome.next (doKeyUpdate_eq hp hst ph),
      fun h => congrArg Host.Outcome.next (doKeyUpdateSend_idle h), keyUpdateSend_links hp hst⟩,
    fun l c s hw => ⟨fun h => ?_, State.sendCtrl_waits hw⟩⟩
  · refine ⟨_, congrArg Host.Outcome.next (doFlitRx_inSequence hp hst hu hf hk hs),
      (s.takeHeader l f).modLink l fun x => { x with rxSeq := f.seq, naking := false }, ?_, ?_, ?_⟩
    · rw [State.linkOf_modLink_same]
    · rw [State.linkOf_modLink_same]
    · simp only [beq_iff_eq]
  · obtain ⟨hlink, hline, hreg⟩ := s.downLink_spec l
    refine ⟨_, congrArg Host.Outcome.next (doLinkDown_downs hp hst hl), ?_⟩
    dsimp only
    rw [hlink]
    exact ⟨rfl, rfl, rfl, rfl, rfl, hline, hreg⟩
  · exact congrArg Host.Outcome.next ((doHello_eq m hp hst).trans (if_pos ((s.helloPasses_iff l m).mpr hpass)))
  · exact congrArg Host.Outcome.next ((doHello_eq m hp hst).trans (if_neg (mt (s.helloPasses_iff l m).mp hpass)))
  · obtain ⟨hout, hlink⟩ := State.sendCtrl_leaves hw h
    rw [hlink]
    exact ⟨hout, rfl, Link.sentCtrl_credits ..⟩

end Machine
end Sys2Proof

/-!
PROOFS. Settling O41 (RoutesAndTime): advertisements, route switches and the timebase.
-/
namespace Sys2Proof
namespace Machine

/-! ## Advertisements that arrive (R259) -/

/-- Where control frames have been sent, the links are UP as before. -/
theorem State.CtrlsSent.upLinks {s t : State} (h : s.CtrlsSent t) : t.upLinks = s.upLinks := by
  unfold State.upLinks
  refine congrArg (List.filter · _) (funext fun l => ?_)
  rw [h.link l]

/-- An advertisement waits for every link that it has gone out on. -/
theorem State.mem_unacked_sendLsa {s : State} {m : LsaMsg} {k : Nat} (h : (k, m, s.now) ∈ s.fab.unacked) (l : Nat) :
    (k, m, s.now) ∈ (s.sendLsa m l).fab.unacked := by
  rw [State.sendLsa_eq, (State.sendCtrl_ctrls ..).unacked]
  refine List.mem_append.mpr ?_
  by_cases hk : k = l
  · exact .inr (by rw [hk]; exact List.mem_singleton.mpr rfl)
  · exact .inl (List.mem_filter.mpr ⟨h, by simp [hk]⟩)

theorem State.mem_unacked_sent (s : State) (m : LsaMsg) (k : Nat) : (k, m, s.now) ∈ (s.sendLsa m k).fab.unacked := by
  rw [State.sendLsa_eq, (State.sendCtrl_ctrls ..).unacked]
  exact List.mem_append_right _ (List.mem_singleton.mpr rfl)

theorem State.now_sendLsa (s : State) (m : LsaMsg) (l : Nat) : (s.sendLsa m l).now = s.now := by
  rw [(s.sendLsa_sent m l).frame]

theorem State.mem_unacked_kept {m : LsaMsg} {k : Nat} (ls : List Nat) {s : State} (h : (k, m, s.now) ∈ s.fab.unacked) :
    (k, m, s.now) ∈ (ls.foldl (fun t l => t.sendLsa m l) s).fab.unacked := by
  induction ls generalizing s with
  | nil => exact h
  | cons l ls ih =>
    have hl := State.mem_unacked_sendLsa h l
    rw [← s.now_sendLsa m l] at hl ⊢
    exact ih hl

theorem State.mem_unacked_flooded {m : LsaMsg} {k : Nat} {ls : List Nat} (hk : k ∈ ls) (s : State) :
    (k, m, s.now) ∈ (ls.foldl (fun t l => t.sendLsa m l) s).fab.unacked := by
  induction ls generalizing s with
  | nil => cases hk
  | cons l ls ih =>
    rw [List.foldl_cons, ← s.now_sendLsa m l]
    rcases List.mem_cons.mp hk with rfl | hk
    · refine State.mem_unacked_kept ls ?_
      rw [State.now_sendLsa]
      exact s.mem_unacked_sent m k
    · exact ih hk _

/-- The advertisement is the newest of its origin. -/
def State.newLsa (s : State) (m : LsaMsg) : Bool :=
  match tget s.fab.lsas m.origin with
  | some x => newer32 m.seq x.seq
  | none => true

theorem State.newLsa_iff (s : State) (m : LsaMsg) :
    s.newLsa m = true ↔ ∀ x, tget s.fab.lsas m.origin = some x → newer32 m.seq x.seq = true := by
  unfold State.newLsa
  cases tget s.fab.lsas m.origin with
  | none => simp
  | some x => simp

/-- The advertisement is stored, with the instant of its switch. -/
def State.storeLsa (s : State) (m : LsaMsg) : State :=
  ({ s with fab := { s.fab with lsas := tput s.fab.lsas m.origin m } } : State).noteSwitch m.switchAt

theorem doLsa_eq {s : State} {l : Nat} (m : LsaMsg) (hp : s.pwr.pwrok = true) (hst : (s.linkOf l).state = .up) :
    doLsa l m s =
      let t := (doRouteSwitch s).sendCtrl l (.lsaAck m.origin m.seq)
      if t.newLsa m = true then ((t.storeLsa m).upLinks.filter (· != l)).foldl (fun w k => w.sendLsa m k) (t.storeLsa m) else t := by
  have hst' : ((s.linkOf l).state == .up) = true := beq_iff_eq.mpr hst
  refine if_pos ?_
  rw [hp, hst']
  rfl

theorem doRouteSwitch_idle {s : State} (h : s.switchDue = false) : doRouteSwitch s = s := by
  simp [doRouteSwitch, h]

theorem doRouteSwitch_due {s : State} (hp : s.pwr.pwrok = true) (h : s.switchDue = true) : doRouteSwitch s = s.switchRoutes := by
  simp [doRouteSwitch, hp, h]

section
variable {s : State} {l : Nat} {m : LsaMsg} (hp : s.pwr.pwrok = true) (hst : (s.linkOf l).state = .up) (hd : s.switchDue = false)
include hp hst hd

theorem doLsa_old (h : s.newLsa m = false) : doLsa l m s = s.sendCtrl l (.lsaAck m.origin m.seq) := by
  have hnew : (s.sendCtrl l (.lsaAck m.origin m.seq)).newLsa m = false := by
    unfold State.newLsa
    rw [(State.sendCtrl_ctrls s l (.lsaAck m.origin m.seq)).sent.frame]
    exact h
  rw [doLsa_eq m hp hst, doRouteSwitch_idle hd]
  exact if_neg (by rw [hnew]; exact Bool.noConfusion)

theorem doLsa_new (h : s.newLsa m = true) : doLsa l m s =
    let v := (s.sendCtrl l (.lsaAck m.origin m.seq)).storeLsa m
    (v.upLinks.filter (· != l)).foldl (fun w k => w.sendLsa m k) v := by
  have hnew : (s.sendCtrl l (.lsaAck m.origin m.seq)).newLsa m = true := by
    unfold State.newLsa
    rw [(State.sendCtrl_ctrls s l (.lsaAck m.origin m.seq)).sent.frame]
    exact h
  rw [doLsa_eq m hp hst, doRouteSwitch_idle hd]
  exact if_pos hnew

theorem lsa_stores (h : s.newLsa m = true) : Does (.lsa l m) s fun u => u.fab.lsas = tput s.fab.lsas m.origin m ∧
    u.fab.switchAt = some (max (s.fab.switchAt.getD 0) m.switchAt) ∧
    (∀ k, k ≠ l → k ∈ s.upLinks → (k, m, s.now) ∈ u.fab.unacked) ∧
    ∃ v : State, v = { s.sendCtrl l (.lsaAck m.origin m.seq) with
        fab := { (s.sendCtrl l (.lsaAck m.origin m.seq)).fab with lsas := v.fab.lsas, switchAt := v.fab.switchAt } } ∧
      u = (v.upLinks.filter (· != l)).foldl (fun w k => w.sendLsa m k) v := by
  refine ⟨_, congrArg Host.Outcome.next (doLsa_new hp hst hd h), ?_⟩
  have hack := (State.sendCtrl_ctrls s l (.lsaAck m.origin m.seq)).sent
  generalize hv : (s.sendCtrl l (.lsaAck m.origin m.seq)).storeLsa m = v
  have hsent := State.floodedLsas v m (v.upLinks.filter (· != l))
  have hup : v.upLinks = s.upLinks := by
    rw [← hack.upLinks, ← hv]
    rfl
  have hnow : v.now = s.now := by
    rw [← hv]
    show (s.sendCtrl l _).now = s.now
    rw [hack.frame]
  refine ⟨?_, ?_, fun k hk hmem => ?_, v, ?_, rfl⟩
  · rw [hsent.frame, ← hv]
    show tput (s.sendCtrl l _).fab.lsas m.origin m = _
    rw [hack.frame]
  · rw [hsent.frame, ← hv]
    show some (max ((s.sendCtrl l _).fab.switchAt.getD 0) m.switchAt) = _
    rw [hack.frame]
  · have hsends : k ∈ v.upLinks.filter (· != l) := by
      rw [hup]
      exact List.mem_filter.mpr ⟨hmem, bne_iff_ne.mpr hk⟩
    rw [← hnow]
    exact State.mem_unacked_flooded hsends v
  · rw [← hv]
    rfl

end

theorem doLsaResend_eq {s : State} {l origin since : Nat} {m : LsaMsg} (hp : s.pwr.pwrok = true) (hst : (s.linkOf l).state = .up)
    (h : s.fab.unacked.find? (fun e => e.1 == l && e.2.1.origin == origin) = some (l, m, since)) :
    doLsaResend l origin s = if s.now < since + 50000 then s else s.sendLsa m l := by
  have hst' : ((s.linkOf l).state == .up) = true := beq_iff_eq.mpr hst
  by_cases hn : s.now < since + 50000
  · simp [doLsaResend, h, hn, Nat.not_le.mpr hn]
  · simp [doLsaResend, h, hp, hst', Nat.not_lt.mp hn, hn]

/-! ## ROUTE_SWITCH (R260, R262, R263) -/

/-- What a route switch says of the tables. -/
def State.tables (s : State) : Tab Link × Tab LsaMsg × Option Nat × Bool × Option (Tab Route) × PwrState :=
  (s.fab.links, s.fab.lsas, s.fab.switchAt, s.fab.routeGen, s.fab.oldRoutes, s.pwr)

theorem State.FramesSent.tables {s t : State} (h : s.FramesSent t) : t.tables = s.tables := by
  have hs := h.same
  unfold State.sameButFabric at hs
  unfold State.tables
  rw [h.fab]
  rw [hs]

theorem State.FramesSent.regs {s t : State} (h : s.FramesSent t) : t.regs = s.regs := by
  have hs := h.same
  unfold State.sameButFabric at hs
  rw [hs]

theorem State.resend_tables (s : State) (tag : Nat) (f : Frame) :
    (s.resend tag f).tables = s.tables ∧ (s.resend tag f).regs = s.regs := by
  have h : ∃ (u : State) (g : Frame), s.resend tag f = u.sendFrame g ∧ u.tables = s.tables ∧ u.regs = s.regs := ⟨_, _, rfl, rfl, rfl⟩
  obtain ⟨u, g, hu, htables, hregs⟩ := h
  rw [hu, (u.sendFrame_sent g none).tables, (u.sendFrame_sent g none).regs]
  exact ⟨htables, hregs⟩

theorem State.switchFrame_tables (s : State) (r : Request) (f : Frame) :
    (s.switchFrame r f).tables = s.tables ∧ (s.switchFrame r f).regs = s.regs := by
  unfold State.switchFrame
  split
  · exact ⟨rfl, rfl⟩
  · split
    · exact ⟨rfl, rfl⟩
    · split
      · exact s.resend_tables ..
      · exact ⟨rfl, rfl⟩

/-- The unanswered frames of this device's requests, as a switch leaves them. -/
def State.switchRequest (s : State) (r : Request) : State := r.frames.foldl (fun t f => t.switchFrame r f) s

theorem State.switchRequests_tables (l : List Request) (s : State) :
    (l.foldl (fun t r => t.switchRequest r) s).tables = s.tables ∧ (l.foldl (fun t r => t.switchRequest r) s).regs = s.regs :=
  ⟨foldl_keeps State.tables (fun t r => foldl_keeps State.tables (fun t f => (t.switchFrame_tables r f).1) r.frames t) l s,
   foldl_keeps State.regs (fun t r => foldl_keeps State.regs (fun t f => (t.switchFrame_tables r f).2) r.frames t) l s⟩

theorem State.reg_countSat_other (s : State) {r q : RegName} {i k l : Nat} (n : Nat) (h : regAddr q k l ≠ regAddr r i 0) :
    (s.countSat r i n).reg q k l = s.reg q k l := by
  unfold State.countSat
  dsimp only
  split <;> exact tgetD_tput_other _ _ _ _ _ h

/-- A route over its budget is counted and reported (R263). -/
def State.lateRoute (s : State) (x : Peer) : State := (s.countSat .fabBudgetOver 0).raise 0x9D { raw := fabDetail 0 x.id 0 0 }

theorem State.lateRoute_spec (s : State) (x : Peer) :
    (s.lateRoute x).tables = s.tables ∧ (s.lateRoute x).reg .fabSwitches = s.reg .fabSwitches := by
  unfold State.lateRoute
  constructor
  · show ((s.countSat .fabBudgetOver 0).raise 0x9D _).tables = _
    rw [State.countSat_only]
    rfl
  · exact (State.reg_of_regs (s := s.countSat .fabBudgetOver 0) rfl ..).trans (State.reg_countSat_other s 1 (by decide))

theorem State.checkBudgets_spec (s : State) :
    s.checkBudgets.tables = s.tables ∧ s.checkBudgets.reg .fabSwitches = s.reg .fabSwitches := by
  unfold State.checkBudgets
  exact ⟨foldl_keeps State.tables (fun t x => (t.lateRoute_spec x).1) _ s,
    foldl_keeps (fun t : State => t.reg .fabSwitches) (fun t x => (t.lateRoute_spec x).2) _ s⟩

theorem State.trackOld_tables (s : State) : s.trackOld.tables = s.tables ∧ s.trackOld.regs = s.regs := by
  unfold State.trackOld
  split <;> exact ⟨rfl, rfl⟩

theorem State.setSync_spec (s : State) (v : Nat) :
    s.setSync v = { s with fab := { s.fab with sync := v }, flt := (s.setSync v).flt } := by
  unfold State.setSync
  dsimp only
  split <;> rfl

theorem State.orphan_tables (s : State) : s.orphan.tables = s.tables ∧ s.orphan.regs = s.regs := by
  unfold State.orphan
  split
  · exact ⟨rfl, rfl⟩
  · rw [State.setSync_spec]
    exact ⟨rfl, rfl⟩

/-- The new routes are in force with the other generation; nothing has been sent again yet. -/
def State.routesTaken (s : State) : State :=
  let routes := routesFor s.fab.devId (fun n =>
    ((List.range Config.links).find? fun k => (s.linkOf k).helloOk && (s.linkOf k).peerId == n).getD noTrunk) s.fab.lsas
  { s with fab := { s.fab with
    routes := routes, oldRoutes := some s.fab.routes, oldTree := s.fab.tree, oldIdleSince := none,
    routeGen := !s.fab.routeGen, switchAt := none } }

theorem State.switchRoutes_eq (s : State) : s.switchRoutes =
    (s.fab.requests.foldl (fun t r => t.switchRequest r) (s.routesTaken.setTree.orphan.count .fabSwitches)).checkBudgets.trackOld := rfl

theorem State.switchRoutes_spec (s : State) :
    s.switchRoutes.tables = (s.fab.links, s.fab.lsas, none, !s.fab.routeGen, some s.fab.routes, s.pwr) ∧
      s.switchRoutes.reg .fabSwitches = s.reg .fabSwitches + 1 := by
  rw [State.switchRoutes_eq]
  generalize hu : s.routesTaken.setTree.orphan.count .fabSwitches = u
  obtain ⟨hreq, hreqr⟩ := State.switchRequests_tables s.fab.requests u
  generalize hv : s.fab.requests.foldl (fun t r => t.switchRequest r) u = v at hreq hreqr ⊢
  obtain ⟨hbud, hbudr⟩ := v.checkBudgets_spec
  obtain ⟨htrack, htrackr⟩ := v.checkBudgets.trackOld_tables
  obtain ⟨horphan, horphanr⟩ := s.routesTaken.setTree.orphan_tables
  constructor
  · rw [htrack, hbud, hreq, ← hu]
    exact horphan
  · rw [State.reg_of_regs htrackr, hbudr, State.reg_of_regs hreqr, ← hu, State.reg_count_same, State.reg_of_regs horphanr]
    rfl

/-- A route switch leaves the links, and no other switch waits. -/
theorem doLsa_switches {s : State} {l : Nat} {m : LsaMsg} (hp : s.pwr.pwrok = true) (hst : (s.linkOf l).state = .up)
    (hd : s.switchDue = true) : doLsa l m s = doLsa l m s.switchRoutes := by
  obtain ⟨htables, -⟩ := s.switchRoutes_spec
  simp only [State.tables, Prod.mk.injEq] at htables
  obtain ⟨hlinks, -, hat, -, -, hpwr⟩ := htables
  have hidle : s.switchRoutes.switchDue = false := by
    unfold State.switchDue
    rw [hat]
  rw [doLsa_eq m hp hst, doRouteSwitch_due hp hd,
    doLsa_eq m (by rw [hpwr]; exact hp) (by rw [State.linkOf_congr hlinks]; exact hst), doRouteSwitch_idle hidle]

theorem routeSwitch_switches {s : State} (hp : s.pwr.pwrok = true) (hd : s.switchDue = true) : Does .routeSwitch s fun t =>
    t.fab.routeGen = !s.fab.routeGen ∧ t.fab.oldRoutes = some s.fab.routes ∧ t.fab.switchAt = none ∧ t.fab.lsas = s.fab.lsas ∧
      t.reg .fabSwitches = s.reg .fabSwitches + 1 := by
  obtain ⟨htables, hreg⟩ := s.switchRoutes_spec
  simp only [State.tables, Prod.mk.injEq] at htables
  obtain ⟨-, hlsas, hat, hgen, hold, -⟩ := htables
  exact ⟨_, congrArg Host.Outcome.next (doRouteSwitch_due hp hd), hgen, hold, hat, hlsas, hreg⟩

theorem doRouteTableRetire_eq {s : State} {r : Tab Route} {i : Nat} (hp : s.pwr.pwrok = true) (hr : s.fab.oldRoutes = some r)
    (hi : s.fab.oldIdleSince = some i) : doRouteTableRetire s = if s.now < i + 10000 then s
      else { s with fab := { s.fab with oldRoutes := none, oldIdleSince := none, oldTree := [] } } := by
  by_cases hn : s.now < i + 10000
  · simp [doRouteTableRetire, hr, hi, hn, Nat.not_le.mpr hn]
  · simp [doRouteTableRetire, hr, hi, hn, hp, Nat.not_lt.mp hn]

/-! ## The timebase (R5, R258, R268) -/

theorem doSyncTimer_eq {s : State} {l : Nat} (hp : s.pwr.pwrok = true) (hl : s.parentLink = some l) :
    doSyncTimer s = if s.now < s.fab.lastSync + 1000000 then s
      else ({ s with fab := { s.fab with lastSync := s.now } } : State).sendCtrl l (.syncReq s.now) := by
  by_cases hn : s.now < s.fab.lastSync + 1000000
  · simp [doSyncTimer, hl, hn, Nat.not_le.mpr hn]
  · simp [doSyncTimer, hl, hn, hp, Nat.not_lt.mp hn]

theorem doSyncReq_answers {s : State} {l : Nat} (t1 t2 : Nat) (hp : s.pwr.pwrok = true) (hst : (s.linkOf l).state = .up) :
    doSyncReq l t1 t2 s = s.sendCtrl l (.syncRsp t1 t2 s.now) := by
  have hst' : ((s.linkOf l).state == .up) = true := beq_iff_eq.mpr hst
  simp [doSyncReq, hp, hst']

/-- A link whose round trip has been measured. -/
def Link.measured (x : Link) (rtt : Nat) : Link := { x with rtt := rtt, delay := rtt / 2, measuring := false }

section
variable {s : State} {l : Nat} (t1 t2 t3 t4 : Nat) (hp : s.pwr.pwrok = true) (hst : (s.linkOf l).state = .up)
include hp hst

theorem State.measureLink_eq : s.measureLink l t1 t2 t3 t4 = if (s.linkOf l).measuring = true then
    (s.setLink l { s.linkOf l with rtt := (t4 - t1) - (t3 - t2), delay := ((t4 - t1) - (t3 - t2)) / 2, measuring := false }).flood
    else s := by
  have hst' : ((s.linkOf l).state == .up) = true := beq_iff_eq.mpr hst
  by_cases hm : (s.linkOf l).measuring = true <;> simp [State.measureLink, hp, hst', hm]

omit hp hst in
/-- A measurement of the link floods; it touches neither the timebase nor the tree. -/
theorem State.measureLink_keeps (s : State) : ∃ u : State, s.measureLink l t1 t2 t3 t4 = u ∧ (u.linkOf l).state = (s.linkOf l).state ∧
    (u.linkOf l).peerId = (s.linkOf l).peerId ∧
    u = { s with fab := { s.fab with links := u.fab.links, unacked := u.fab.unacked, lsas := u.fab.lsas, lsaSeq := u.fab.lsaSeq,
                                     switchAt := u.fab.switchAt }, out := u.out } := by
  refine ⟨_, rfl, ?_⟩
  unfold State.measureLink
  dsimp only
  split
  · have h := (s.setLink l ((s.linkOf l).measured ((t4 - t1) - (t3 - t2)))).flood_flooded
    have hlink := h.link l
    rw [State.linkOf_setLink_same] at hlink
    unfold Link.SameButCtrl at hlink
    have hstate := congrArg Link.state hlink
    have hpeer := congrArg Link.peerId hlink
    exact ⟨hstate, hpeer, h.frame⟩
  · exact ⟨rfl, rfl, rfl⟩

omit hp hst in
theorem State.follow_other (s : State) (h : s.fab.hasParent = false ∨ (s.linkOf l).peerId ≠ s.fab.parent) :
    s.follow l t1 t2 t3 t4 = s := by
  rcases h with h | h
  · simp [State.follow, h]
  · simp [State.follow, h]

theorem doSyncRsp_other (h : s.fab.hasParent = false ∨ (s.linkOf l).peerId ≠ s.fab.parent) :
    doSyncRsp l t1 t2 t3 t4 s = if (s.linkOf l).measuring = true then
      (s.setLink l { s.linkOf l with rtt := (t4 - t1) - (t3 - t2), delay := ((t4 - t1) - (t3 - t2)) / 2, measuring := false }).flood
      else s := by
  obtain ⟨u, hu, -, hpeer, hframe⟩ := State.measureLink_keeps (l := l) t1 t2 t3 t4 s
  unfold doSyncRsp
  rw [State.follow_other, State.measureLink_eq t1 t2 t3 t4 hp hst]
  rw [hu, hpeer, hframe]
  exact h

end

/-- What the timebase of t has become by an offset found at s. -/
def State.Followed (s t : State) (off : Int) : Prop :=
  t.fab.offset = off ∧ t.fab.firstSync = true ∧
  (s.mayStep = true → (t.now : Int) = (s.now + off) % (two64 : Int) ∧ t.fab.rateAdj = 0) ∧
  (s.mayStep = false → t.now = s.now ∧ t.fab.rateAdj = max (-20000) (min 20000 (off * 100))) ∧
  (s.fab.depth ≤ 12 → off.natAbs ≤ 50 → s.pwr.clockLost.contains 37 = false → t.fab.sync = 1) ∧
  (12 < s.fab.depth → s.pwr.clockLost.contains 37 = false → t.fab.sync = 3)

/-- The synchronisation that an offset shows. -/
def State.syncOf (s : State) (off : Int) : Nat :=
  if s.fab.depth > 12 then 3 else if decide (off.natAbs ≤ depthBound s.fab.depth) || s.mayStep then 1 else 0

theorem State.follow_eq {s : State} {l : Nat} (t1 t2 t3 t4 : Nat) (hp : s.pwr.pwrok = true) (hst : (s.linkOf l).state = .up)
    (hpar : s.fab.hasParent = true) (hpeer : (s.linkOf l).peerId = s.fab.parent) :
    s.follow l t1 t2 t3 t4 =
      let off := syncOffset t1 t2 t3 t4
      let t : State := { s with fab := { s.fab with offset := off, firstSync := true } }
      if s.mayStep = true then
        ({ t with now := (((s.now : Int) + off) % (two64 : Int)).toNat, fab := { t.fab with rateAdj := 0 } } : State).setSync (s.syncOf off)
      else ({ t with fab := { t.fab with rateAdj := slewFor off } } : State).setSync
        (if s.pwr.clockLost.contains 37 = true then 2 else s.syncOf off) := by
  have hst' : ((s.linkOf l).state == .up) = true := beq_iff_eq.mpr hst
  refine (if_pos ?_).trans rfl
  rw [hp, hst', hpar, hpeer, beq_self_eq_true]
  rfl

theorem State.syncOf_within {s : State} {off : Int} (hd : s.fab.depth ≤ 12) (ho : off.natAbs ≤ 50) : s.syncOf off = 1 := by
  simp [State.syncOf, Nat.not_lt.mpr hd, depthBound, hd, ho]

theorem State.follow_follows {s : State} {l : Nat} (t1 t2 t3 t4 : Nat) (hp : s.pwr.pwrok = true) (hst : (s.linkOf l).state = .up)
    (hpar : s.fab.hasParent = true) (hpeer : (s.linkOf l).peerId = s.fab.parent) :
    s.Followed (s.follow l t1 t2 t3 t4) (syncOffset t1 t2 t3 t4) := by
  rw [State.follow_eq t1 t2 t3 t4 hp hst hpar hpeer]
  generalize syncOffset t1 t2 t3 t4 = off
  unfold State.Followed
  dsimp only
  have hpos : 0 ≤ ((s.now : Int) + off) % (two64 : Int) := Int.emod_nonneg _ (by decide)
  split
  · next hstep =>
    rw [State.setSync_spec]
    exact ⟨rfl, rfl, fun _ => ⟨Int.toNat_of_nonneg hpos, rfl⟩, fun h => absurd (hstep.symm.trans h) (by decide),
      fun hd ho _ => State.syncOf_within hd ho, fun hd _ => if_pos hd⟩
  · next hstep =>
    rw [State.setSync_spec]
    exact ⟨rfl, rfl, fun h => absurd h hstep, fun _ => ⟨rfl, rfl⟩, fun hd ho hc => by rw [hc]; exact State.syncOf_within hd ho,
      fun hd hc => by rw [hc]; exact if_pos hd⟩

theorem syncRsp_follows {s : State} {l : Nat} (t1 t2 t3 t4 : Nat) (hp : s.pwr.pwrok = true) (hst : (s.linkOf l).state = .up)
    (hpar : s.fab.hasParent = true) (hpeer : (s.linkOf l).peerId = s.fab.parent) :
    Does (.syncRsp l t1 t2 t3 t4) s fun t => s.Followed t (syncOffset t1 t2 t3 t4) := by
  obtain ⟨u, hu, hstate, hpeer', hframe⟩ := State.measureLink_keeps (l := l) t1 t2 t3 t4 s
  refine ⟨_, rfl, ?_⟩
  have hfollow : u.Followed (u.follow l t1 t2 t3 t4) (syncOffset t1 t2 t3 t4) :=
    State.follow_follows t1 t2 t3 t4 (by rw [hframe]; exact hp) (by rw [hstate]; exact hst) (by rw [hframe]; exact hpar)
      (by rw [hpeer', hpeer, hframe])
  unfold doSyncRsp
  rw [hu]
  generalize u.follow l t1 t2 t3 t4 = t at hfollow ⊢
  rw [hframe] at hfollow
  exact hfollow

/-- Settles O41: advertisements and switches keep the links, so that the commands that follow find them as they were. -/
theorem routesAndTime : Obligations.RoutesAndTime := by
  refine ⟨fun l m s hp hst hd => ⟨fun h => ?_, fun h => lsa_stores hp hst hd ((s.newLsa_iff m).mpr h)⟩,
    fun l m s hp hst hd => congrArg Host.Outcome.next (doLsa_switches hp hst hd), fun _ _ _ _ => rfl,
    fun l origin since m s hp hst h => congrArg Host.Outcome.next (doLsaResend_eq hp hst h),
    fun s hp => ⟨fun hd => congrArg Host.Outcome.next (doRouteSwitch_idle hd), routeSwitch_switches hp⟩,
    fun s r i hp hr hi => congrArg Host.Outcome.next (doRouteTableRetire_eq hp hr hi),
    fun l s hp hl => congrArg Host.Outcome.next (doSyncTimer_eq hp hl),
    fun l t1 t2 s hp hst => congrArg Host.Outcome.next (doSyncReq_answers t1 t2 hp hst),
    fun l t1 t2 t3 t4 s hp hst => ⟨fun h => congrArg Host.Outcome.next (doSyncRsp_other t1 t2 t3 t4 hp hst h),
      fun hpar hpeer => syncRsp_follows t1 t2 t3 t4 hp hst hpar hpeer⟩⟩
  exact congrArg Host.Outcome.next (doLsa_old hp hst hd (Bool.eq_false_iff.mpr (mt (s.newLsa_iff m).mp h)))

end Machine
end Sys2Proof

/-!
PROOFS. Settling O42 (RequestsAreServed) and O43 (ResponsesAreTaken): frames of the fabric that are judged, served and matched.
-/
namespace Sys2Proof
namespace Machine

/-! ## Frames that are taken (R251) -/

/-- The frame no longer waits. -/
def State.tookFrame (s : State) (f : Frame) : State :=
  { s with fab := { s.fab with inbox := eraseFirst (sameFrame f) s.fab.inbox } }

theorem State.inTurn_of_type {f : Frame} (h : f.type ≠ tyCasReq) (s : State) : s.inTurn f = true := by
  simp [State.inTurn, h]

section
variable {s : State} {f : Frame} (hl : s.live = true) (hin : s.fab.inbox.any (sameFrame f) = true)
include hl hin

theorem State.takeInbox_inTurn (ht : s.inTurn f = true) : s.takeInbox f = some (s.tookFrame f) := by
  refine if_pos ?_
  rw [hl, hin, ht]
  rfl

end

/-! ## Responses (R157, R250, R252) -/

/-- The response is taken, and an ERROR_RSP counted. -/
def State.tookResponse (s : State) (f : Frame) : State :=
  if f.type = tyErrorRsp then (s.tookFrame f).countSat .fabPartErr f.dst.2 else s.tookFrame f

theorem State.tookResponse_requests (s : State) (f : Frame) : (s.tookResponse f).fab.requests = s.fab.requests := by
  unfold State.tookResponse
  split
  · rw [State.countSat_only]
    rfl
  · rfl

/-- One frame of a request has been answered. -/
def State.answerOne (t : State) (r : Request) : State :=
  if r.ended = true then
    (({ t with fab := { t.fab with requests := t.fab.requests.filter fun x => x.tag != r.tag } } : State).pump r.dst.1 4096).dispatchReply r
  else
    ({ t with fab := { t.fab with
      requests := lmod (fun (x : Request) => x.tag == r.tag) (fun _ => r) t.fab.requests } } : State).pump r.dst.1 4096

section
variable {s : State} {f : Frame} {ty : Nat} {data : List (Nat × Bytes)}

theorem State.takeResponse_other (h : f.type ≠ ty) : s.takeResponse f ty data = s := by
  unfold State.takeResponse
  split
  · rfl
  · exact if_pos (bne_iff_ne.mpr h)

variable (hl : s.live = true) (hin : s.fab.inbox.any (sameFrame f) = true) (hty : f.type = ty) (hcas : ty ≠ tyCasReq)
include hl hin hty hcas

theorem State.takeResponse_eq : s.takeResponse f ty data =
    match s.requestOf f with
    | none => s.tookResponse f
    | some r => (s.tookResponse f).answerOne (Machine.answered r f data) := by
  have hreq : (s.tookResponse f).requestOf f = s.requestOf f := by
    unfold State.requestOf
    rw [State.tookResponse_requests]
  have htake := State.takeInbox_inTurn hl hin (State.inTurn_of_type (by rw [hty]; exact hcas) s)
  unfold State.takeResponse
  rw [htake]
  refine (if_neg (by simp [hty])).trans ?_
  change (match (s.tookResponse f).requestOf f with | none => _ | some r => _) = _
  rw [hreq]
  cases s.requestOf f <;> rfl

end

/-- What a response does, whichever of the five it is. -/
theorem response_taken {s : State} {f : Frame} {c : Instr} {ty : Nat} {data : List (Nat × Bytes)}
    (hexec : exec c s = .next (s.takeResponse f ty data)) (hl : s.live = true) (hin : s.fab.inbox.any (sameFrame f) = true)
    (hcas : ty ≠ tyCasReq) :
    (f.type ≠ ty → exec c s = .next s) ∧ (f.type = ty → s.requestOf f = none → exec c s = .next (s.tookResponse f)) ∧
    ∀ r, f.type = ty → s.requestOf f = some r →
      ((answered r f data).ended = false → exec c s = .next (({ s.tookResponse f with fab := { (s.tookResponse f).fab with
        requests := lmod (fun (x : Request) => x.tag == (answered r f data).tag) (fun _ => answered r f data)
          (s.tookResponse f).fab.requests } } : State).pump (answered r f data).dst.1 4096)) ∧
      ((answered r f data).ended = true → exec c s = .next ((({ s.tookResponse f with fab := { (s.tookResponse f).fab with
        requests := (s.tookResponse f).fab.requests.filter fun x => x.tag != (answered r f data).tag } } : State).pump
          (answered r f data).dst.1 4096).dispatchReply (answered r f data))) := by
  refine ⟨fun hne => ?_, fun hty hr => ?_, fun r hty hr => ⟨fun he => ?_, fun he => ?_⟩⟩
  · rw [hexec, State.takeResponse_other hne]
  all_goals rw [hexec, State.takeResponse_eq hl hin hty hcas, hr]
  · exact congrArg Host.Outcome.next (if_neg (Bool.eq_false_iff.mp he))
  · exact congrArg Host.Outcome.next (if_pos he)

/-- Settles O43: all five responses are `State.takeResponse`. -/
theorem responsesAreTaken : Obligations.ResponsesAreTaken := by
  intro f s hl hin e he
  simp only [List.mem_cons, List.not_mem_nil, or_false] at he
  rcases he with rfl | rfl | rfl | rfl | rfl
  · exact response_taken rfl hl hin (by decide : tyReadRsp ≠ tyCasReq)
  · exact response_taken rfl hl hin (by decide : tyWriteAck ≠ tyCasReq)
  · exact response_taken rfl hl hin (by decide : tyCasRsp ≠ tyCasReq)
  · exact response_taken rfl hl hin (by decide : tyShardRsp ≠ tyCasReq)
  · exact response_taken rfl hl hin (by decide : tyErrorRsp ≠ tyCasReq)

/-! ## Requests: judged by the window, the fence, the grants (R252, Table 12.6) -/

/-- The frame has been seen by the window of its source. -/
def State.sawFrame (s : State) (f : Frame) : State := s.setWindow f.src.1 ((s.window f.src.1).see f.e2eSeq)

/-- The frame is marked in the window of its source. -/
def State.markedFrame (s : State) (f : Frame) : State :=
  s.setWindow f.src.1 (((s.window f.src.1).see f.e2eSeq).mark f.e2eSeq)

/-- The state in which a frame that is not applied is answered: a duplicate is counted. -/
def State.judgedFrame (s : State) (f : Frame) : State :=
  if (s.window f.src.1).dup f.e2eSeq = true then (s.sawFrame f).count .fabDup else s.sawFrame f

section
variable {s : State} {f : Frame} {exempt : Bool}

theorem State.judge_stale (h : (s.window f.src.1).stale f.e2eSeq = true) : s.judge f exempt = (.refuse .stale, s) := if_pos h

variable (hstale : (s.window f.src.1).stale f.e2eSeq = false)
include hstale

theorem State.judge_error (h : s.requestError f exempt ≠ .none) :
    s.judge f exempt = (.refuse (s.requestError f exempt), s.judgedFrame f) := by
  unfold State.judge
  dsimp only
  rw [hstale]
  refine (if_neg Bool.noConfusion).trans ?_
  cases he : s.requestError f exempt
  case none => exact absurd he h
  all_goals rfl

theorem State.judge_again (h : s.requestError f exempt = .none) (hdup : (s.window f.src.1).dup f.e2eSeq = true) :
    s.judge f exempt = (.again, (s.sawFrame f).count .fabDup) := by
  unfold State.judge
  simp only [hstale, h, hdup]
  rfl

variable (h : s.requestError f exempt = .none) (hdup : (s.window f.src.1).dup f.e2eSeq = false)
include h hdup

theorem State.judge_unfit (ha : s.applyError f ≠ .none) : s.judge f exempt = (.refuse (s.applyError f), s.sawFrame f) := by
  unfold State.judge
  simp only [hstale, h, hdup]
  cases he : s.applyError f
  case none => exact absurd he ha
  all_goals rfl

theorem State.judge_apply (ha : s.applyError f = .none) : s.judge f exempt = (.apply, s.markedFrame f) := by
  unfold State.judge
  simp only [hstale, h, hdup, ha]
  rfl

end

/-! ## READ_REQ, WRITE_REQ, CAS_REQ as judged -/

/-- READ_REQ once judged. -/
def State.serveRead (f : Frame) : Judged × State → State
  | (.refuse e, t) => t.refuseFrame f e
  | (_, t) => if t.poisoned f then t.refuseFrame f .poison else t.answerRead f

/-- The bytes of a WRITE_REQ are written. -/
def State.writeFrame (t : State) (f : Frame) : State :=
  (t.touchSlots f).modSpn f.dst.2 fun x =>
    { x with hbm := mwrites x.hbm f.offset f.payload, poison := rewritten f.offset f.payload.length x.poison }

/-- WRITE_REQ once judged. -/
def State.serveWrite (f : Frame) : Judged × State → State
  | (.refuse e, t) => t.refuseFrame f e
  | (.again, t) => t.respond f tyWriteAck [] 0
  | (.apply, t) => (t.writeFrame f).respond f tyWriteAck [] 0

/-- A compare-and-swap that is applied. -/
def State.applyCas (t : State) (f : Frame) : State :=
  let p := f.dst.2
  let found := leNat (mreads (t.spnOf p).hbm f.offset 16)
  if !recordMove t.now f.src (casCompare f) (casSwap f) then
    ((t.countSat .folXchRefused p).keepCas f found false).answerCas f found false
  else if found = casCompare f then
    let t := t.modSpn p fun x => { x with hbm := mwrites x.hbm f.offset (natLe 16 (casSwap f)) }
    (t.keepCas f found true).answerCas f found true
  else (t.keepCas f found false).answerCas f found false

/-- CAS_REQ once judged. -/
def State.serveCas (f : Frame) : Judged × State → State
  | (.refuse e, t) => t.refuseFrame f e
  | (.again, t) =>
    (match t.fab.casStore.find? (fun e => e.1 == f.src.1 && e.2.1 == f.e2eSeq) with
     | some (_, _, found, done) => t.answerCas f found done
     | none => t.refuseFrame f .stale)
  | (.apply, t) => t.applyCas f

section
variable {s : State} {f : Frame} (hl : s.live = true) (hin : s.fab.inbox.any (sameFrame f) = true)
include hl hin

theorem doReadReq_eq (hty : f.type = tyReadReq) : doReadReq f s = State.serveRead f ((s.tookFrame f).judge f false) := by
  have htake := State.takeInbox_inTurn hl hin (State.inTurn_of_type (by rw [hty]; decide) s)
  unfold doReadReq
  rw [htake]
  refine (if_neg (by simp [hty])).trans ?_
  unfold State.serveRead
  rcases (s.tookFrame f).judge f false with ⟨_ | _ | _, t⟩ <;> rfl

theorem doWriteReq_eq (hty : f.type = tyWriteReq) : doWriteReq f s = State.serveWrite f ((s.tookFrame f).judge f false) := by
  have htake := State.takeInbox_inTurn hl hin (State.inTurn_of_type (by rw [hty]; decide) s)
  unfold doWriteReq
  rw [htake]
  refine (if_neg (by simp [hty])).trans ?_
  unfold State.serveWrite
  rcases (s.tookFrame f).judge f false with ⟨_ | _ | _, t⟩ <;> rfl

theorem doCasReq_eq (hty : f.type = tyCasReq) (ht : s.inTurn f = true) :
    doCasReq f s = State.serveCas f ((s.tookFrame f).judge f (ownReclaim s f)) := by
  have htake := State.takeInbox_inTurn hl hin ht
  unfold doCasReq
  rw [htake]
  refine (if_neg (by simp [hty])).trans ?_
  unfold State.serveCas
  rcases (s.tookFrame f).judge f (ownReclaim s f) with ⟨_ | _ | _, t⟩ <;> rfl

/-- Each of the three is served as it is judged, and a refusal is its error. -/
theorem request_served {e : Instr × Nat × Bool}
    (he : e ∈ [(Instr.readReq f, tyReadReq, false), (.writeReq f, tyWriteReq, false), (.casReq f, tyCasReq, ownReclaim s f)])
    (hty : f.type = e.2.1) (ht : f.type = tyCasReq → s.inTurn f = true) :
    ∃ serve : Judged × State → State, (∀ r t, serve (.refuse r, t) = t.refuseFrame f r) ∧
      exec e.1 s = .next (serve ((s.tookFrame f).judge f e.2.2)) := by
  simp only [List.mem_cons, List.not_mem_nil, or_false] at he
  rcases he with rfl | rfl | rfl
  · exact ⟨State.serveRead f, fun _ _ => rfl, congrArg Host.Outcome.next (doReadReq_eq hl hin hty)⟩
  · exact ⟨State.serveWrite f, fun _ _ => rfl, congrArg Host.Outcome.next (doWriteReq_eq hl hin hty)⟩
  · exact ⟨State.serveCas f, fun _ _ => rfl, congrArg Host.Outcome.next (doCasReq_eq hl hin hty (ht hty))⟩

end

theorem doCasReq_notInTurn {s : State} {f : Frame} (h : s.inTurn f = false) : doCasReq f s = s := by
  simp [doCasReq, State.takeInbox, h]

/-! ## What the requests do to the shares (R250, R251) -/

theorem State.respond_spn (s : State) (f : Frame) (ty : Nat) (b : Bytes) (e : Nat) : (s.respond f ty b e).spn = s.spn := by
  have h := (State.sendFrame_same s { answerOf f ty b e with routeGen := s.fab.routeGen } none).1
  unfold State.sameButFabric at h
  exact (congrArg State.spn h).trans rfl

theorem State.answerCas_spn (s : State) (f : Frame) (v : Nat) (done : Bool) : (s.answerCas f v done).spn = s.spn :=
  State.respond_spn ..

theorem State.spn_setFab (s : State) (c : FabState) : ({ s with fab := c } : State).spn = s.spn := rfl

/-- The results of compare-and-swaps that are kept with one more. -/
def keptCas (l : List (Nat × Nat × Nat × Bool)) : List (Nat × Nat × Nat × Bool) := l.drop (l.length - casKept)

theorem State.keepCas_eq (s : State) (f : Frame) (v : Nat) (done : Bool) : s.keepCas f v done =
    { s with fab := { s.fab with casStore := keptCas (s.fab.casStore ++ [(f.src.1, f.e2eSeq, v, done)]) } } := by
  unfold State.keepCas keptCas
  rfl

/-- To keep the result of a compare-and-swap and answer it leaves the shares. -/
theorem State.answered_spn (s : State) (f : Frame) (v : Nat) (done : Bool) : ((s.keepCas f v done).answerCas f v done).spn = s.spn :=
  (State.answerCas_spn (s.keepCas f v done) f v done).trans ((congrArg State.spn (s.keepCas_eq f v done)).trans (s.spn_setFab _))

theorem State.spnOf_congr {s t : State} (h : t.spn = s.spn) (p : Nat) : t.spnOf p = s.spnOf p := by
  rw [State.spnOf, h, State.spnOf]

theorem State.touchSlots_only (s : State) (f : Frame) : s.touchSlots f = { s with ho := (s.touchSlots f).ho } := by
  unfold State.touchSlots
  split
  · rfl
  · split
    · rfl
    · dsimp only
      split <;> rfl

/-- A line is written where it is asked, and nowhere else. -/
theorem State.writeFrame_spec {s t : State} (f : Frame) (hs : t.spn = s.spn) :
    let p := f.dst.2
    let u := (t.writeFrame f).respond f tyWriteAck [] 0
    mreads (u.spnOf p).hbm f.offset f.payload.length = f.payload ∧
    (∀ b, b < f.offset ∨ f.offset + f.payload.length ≤ b → mread (u.spnOf p).hbm b = mread (s.spnOf p).hbm b) ∧
    (∀ q, q ≠ p → u.spnOf q = s.spnOf q) ∧
    u = ((t.touchSlots f).setSpn p { s.spnOf p with
      hbm := (u.spnOf p).hbm, poison := rewritten f.offset f.payload.length (s.spnOf p).poison }).respond f tyWriteAck [] 0 := by
  dsimp only
  have htouch : ∀ q, (t.touchSlots f).spnOf q = s.spnOf q := fun q => by
    rw [State.touchSlots_only]
    exact State.spnOf_congr hs q
  have hwrite : t.writeFrame f = (t.touchSlots f).setSpn f.dst.2 { s.spnOf f.dst.2 with
      hbm := mwrites (s.spnOf f.dst.2).hbm f.offset f.payload,
      poison := rewritten f.offset f.payload.length (s.spnOf f.dst.2).poison } := by
    unfold State.writeFrame State.modSpn
    rw [htouch]
  have hsame := State.spnOf_congr (State.respond_spn (t.writeFrame f) f tyWriteAck [] 0)
  have hp : ((t.writeFrame f).respond f tyWriteAck [] 0).spnOf f.dst.2 = { s.spnOf f.dst.2 with
      hbm := mwrites (s.spnOf f.dst.2).hbm f.offset f.payload,
      poison := rewritten f.offset f.payload.length (s.spnOf f.dst.2).poison } := by
    rw [hsame, hwrite, State.spnOf_setSpn_same]
  refine ⟨?_, fun b hb => ?_, fun q hq => ?_, ?_⟩
  · rw [hp]
    exact mreads_mwrites ..
  · rw [hp]
    exact mread_mwrites_outside _ _ _ _ hb
  · rw [hsame, hwrite, State.spnOf_setSpn_other _ _ _ _ hq, htouch]
  · rw [hp, hwrite]

/-- What a compare-and-swap that is applied leaves of the shares. -/
def State.Swapped (s u : State) (f : Frame) : Prop :=
  let p := f.dst.2
  let found := leNat (mreads (s.spnOf p).hbm f.offset 16)
  let swaps := recordMove s.now f.src (casCompare f) (casSwap f) = true ∧ found = casCompare f
  (swaps → leNat (mreads (u.spnOf p).hbm f.offset 16) = casSwap f % 256 ^ 16) ∧
  (¬ swaps → (u.spnOf p).hbm = (s.spnOf p).hbm) ∧
  (∀ b, b < f.offset ∨ f.offset + 16 ≤ b → mread (u.spnOf p).hbm b = mread (s.spnOf p).hbm b) ∧
  ∀ q, q ≠ p → u.spnOf q = s.spnOf q

theorem State.Swapped.unchanged {s u : State} {f : Frame} (hu : u.spn = s.spn)
    (h : ¬ (recordMove s.now f.src (casCompare f) (casSwap f) = true ∧
      leNat (mreads (s.spnOf f.dst.2).hbm f.offset 16) = casCompare f)) : s.Swapped u f := by
  have hs := State.spnOf_congr hu
  exact ⟨fun hsw => absurd hsw h, fun _ => by rw [hs], fun _ _ => by rw [hs], fun q _ => hs q⟩

theorem State.Swapped.changed {s u : State} {f : Frame}
    (hp : (u.spnOf f.dst.2).hbm = mwrites (s.spnOf f.dst.2).hbm f.offset (natLe 16 (casSwap f)))
    (hq : ∀ q, q ≠ f.dst.2 → u.spnOf q = s.spnOf q)
    (h : recordMove s.now f.src (casCompare f) (casSwap f) = true ∧
      leNat (mreads (s.spnOf f.dst.2).hbm f.offset 16) = casCompare f) : s.Swapped u f := by
  have hlen := natLe_length 16 (casSwap f)
  refine ⟨fun _ => ?_, fun hsw => absurd h hsw, fun b hb => ?_, hq⟩
  · have hread := mreads_mwrites (s.spnOf f.dst.2).hbm f.offset (natLe 16 (casSwap f))
    rw [hlen] at hread
    rw [hp, hread, leNat_natLe]
  · rw [hp]
    exact mread_mwrites_outside _ _ _ _ (by rwa [hlen])

theorem State.applyCas_spec {s t : State} {f : Frame} (hs : t.spn = s.spn) (hn : t.now = s.now) :
    s.Swapped (t.applyCas f) f ∧ (recordMove s.now f.src (casCompare f) (casSwap f) = false →
      t.applyCas f = ((t.countSat .folXchRefused f.dst.2).keepCas f (leNat (mreads (s.spnOf f.dst.2).hbm f.offset 16)) false).respond f
        tyCasRsp (natLe 16 (leNat (mreads (s.spnOf f.dst.2).hbm f.offset 16))) 0) := by
  have hspn := State.spnOf_congr hs
  unfold State.applyCas
  simp only [hspn, hn]
  generalize hfound : leNat (mreads (s.spnOf f.dst.2).hbm f.offset 16) = found
  by_cases hm : recordMove s.now f.src (casCompare f) (casSwap f) = true
  · rw [if_neg (by simp [hm])]
    refine ⟨?_, fun h => absurd (hm.symm.trans h) (by decide)⟩
    by_cases hc : found = casCompare f
    · rw [if_pos hc]
      have hswap : ∀ q, (((t.modSpn f.dst.2 fun x => { x with hbm := mwrites x.hbm f.offset (natLe 16 (casSwap f)) }).keepCas f found
          true).answerCas f found true).spnOf q =
          (t.setSpn f.dst.2 { s.spnOf f.dst.2 with hbm := mwrites (s.spnOf f.dst.2).hbm f.offset (natLe 16 (casSwap f)) }).spnOf q :=
        fun q => State.spnOf_congr ((State.answerCas_spn ..).trans (by rw [← hspn]; rfl)) q
      refine .changed ?_ (fun q hq => ?_) ⟨hm, hfound.trans hc⟩
      · rw [hswap, State.spnOf_setSpn_same]
      · rw [hswap, State.spnOf_setSpn_other _ _ _ _ hq, hspn]
    · rw [if_neg hc]
      have hkeep := (State.answered_spn t f found false).trans hs
      exact .unchanged hkeep fun h => hc (hfound.symm.trans h.2)
  · rw [if_pos (by simp [hm])]
    have hcount : (t.countSat .folXchRefused f.dst.2).spn = s.spn := by
      rw [State.countSat_only]
      exact hs
    have hkeep := (State.answered_spn (t.countSat .folXchRefused f.dst.2) f found false).trans hcount
    exact ⟨.unchanged hkeep fun h => hm h.1, fun _ => rfl⟩

/-! ### The frames as they are judged -/

section
variable {s : State} {f : Frame} (hl : s.live = true) (hin : s.fab.inbox.any (sameFrame f) = true)
include hl hin

theorem readReq_again (hstale : (s.window f.src.1).stale f.e2eSeq = false) (hdup : (s.window f.src.1).dup f.e2eSeq = true)
    (hty : f.type = tyReadReq) (hr : (s.tookFrame f).requestError f false = .none) : doReadReq f s =
      if (s.tookFrame f).poisoned f = true then (((s.tookFrame f).sawFrame f).count .fabDup).respond f tyErrorRsp [] 4
      else (((s.tookFrame f).sawFrame f).count .fabDup).respond f tyReadRsp (mreads (s.spnOf f.dst.2).hbm f.offset (64 * f.len)) 0 := by
  rw [doReadReq_eq hl hin hty, State.judge_again (s := s.tookFrame f) hstale hr hdup]
  rfl

theorem writeReq_again (hstale : (s.window f.src.1).stale f.e2eSeq = false) (hdup : (s.window f.src.1).dup f.e2eSeq = true)
    (hty : f.type = tyWriteReq) (hr : (s.tookFrame f).requestError f false = .none) :
    doWriteReq f s = (((s.tookFrame f).sawFrame f).count .fabDup).respond f tyWriteAck [] 0 := by
  rw [doWriteReq_eq hl hin hty, State.judge_again (s := s.tookFrame f) hstale hr hdup]
  rfl

theorem casReq_again (hstale : (s.window f.src.1).stale f.e2eSeq = false) (hdup : (s.window f.src.1).dup f.e2eSeq = true)
    (hty : f.type = tyCasReq) (ht : s.inTurn f = true) (hr : (s.tookFrame f).requestError f (ownReclaim s f) = .none)
    {v : Nat} {done : Bool}
    (hc : s.fab.casStore.find? (fun e => e.1 == f.src.1 && e.2.1 == f.e2eSeq) = some (f.src.1, f.e2eSeq, v, done)) :
    doCasReq f s = (((s.tookFrame f).sawFrame f).count .fabDup).respond f tyCasRsp (natLe 16 v) done.toNat := by
  have hc' : (((s.tookFrame f).sawFrame f).count .fabDup).fab.casStore.find? (fun e => e.1 == f.src.1 && e.2.1 == f.e2eSeq) =
      some (f.src.1, f.e2eSeq, v, done) := hc
  rw [doCasReq_eq hl hin hty ht, State.judge_again (s := s.tookFrame f) hstale hr hdup]
  simp only [State.serveCas, hc']
  rfl

variable (hstale : (s.window f.src.1).stale f.e2eSeq = false) (hdup : (s.window f.src.1).dup f.e2eSeq = false)
  (ha : (s.tookFrame f).applyError f = .none)
include hstale hdup ha

theorem readReq_applied (hty : f.type = tyReadReq) (hr : (s.tookFrame f).requestError f false = .none) :
    doReadReq f s = ((s.tookFrame f).markedFrame f).respond f tyReadRsp (mreads (s.spnOf f.dst.2).hbm f.offset (64 * f.len)) 0 := by
  have hpoison : ((s.tookFrame f).markedFrame f).poisoned f = false := by
    refine Bool.eq_false_iff.mpr fun h => ?_
    have hbad : (s.tookFrame f).applyError f = .poison := if_pos (by rw [hty]; exact h)
    rw [hbad] at ha
    cases ha
  rw [doReadReq_eq hl hin hty, State.judge_apply (s := s.tookFrame f) hstale hr hdup ha]
  exact if_neg (Bool.eq_false_iff.mp hpoison)

theorem writeReq_applied (hty : f.type = tyWriteReq) (hr : (s.tookFrame f).requestError f false = .none) :
    doWriteReq f s = (((s.tookFrame f).markedFrame f).writeFrame f).respond f tyWriteAck [] 0 := by
  rw [doWriteReq_eq hl hin hty, State.judge_apply (s := s.tookFrame f) hstale hr hdup ha]
  rfl

theorem casReq_applied (hty : f.type = tyCasReq) (ht : s.inTurn f = true)
    (hr : (s.tookFrame f).requestError f (ownReclaim s f) = .none) : doCasReq f s = ((s.tookFrame f).markedFrame f).applyCas f := by
  rw [doCasReq_eq hl hin hty ht, State.judge_apply (s := s.tookFrame f) hstale hr hdup ha]
  rfl

end

/-! ## SHARD_REQ (R205, R252) -/

/-- What becomes of the frames of a shard request once judged. -/
def State.serveShard (first : Frame) (b : Bytes) : Judged × State → State
  | (.refuse e, v) => v.refuseFrame first e
  | (.again, v) => v
  | (.apply, v) => v.shardSearch first b

section
variable {s : State} {f : Frame} (hl : s.live = true) (hin : s.fab.inbox.any (sameFrame f) = true) (hty : f.type = tyShardReq)
include hl hin hty

theorem doShardReq_eq : doShardReq f s =
    match shardWhole (s.shardFrames f), (s.shardFrames f).find? (fun g => g.index == 0) with
    | some b, some first => if s.freeSlots = 0 then s else State.serveShard first b
        (({ s with fab := { s.fab with inbox := s.fab.inbox.filter fun g => !(s.shardFrames f).contains g } } : State).judgeAll
          (s.shardFrames f))
    | _, _ => s := by
  have hready : (!s.live || f.type != tyShardReq || !s.fab.inbox.any (sameFrame f)) = false := by
    rw [hl, hin, hty]
    rfl
  refine (if_neg (Bool.eq_false_iff.mp hready)).trans ?_
  dsimp only
  cases shardWhole (s.shardFrames f)
  case none => rfl
  cases (s.shardFrames f).find? (fun g => g.index == 0)
  case none => rfl
  dsimp only
  unfold State.serveShard
  split
  · rfl
  · rcases State.judgeAll _ _ with ⟨_ | _ | _, t⟩ <;> rfl

theorem doShardReq_waits (h : shardWhole (s.shardFrames f) = none ∨ s.freeSlots = 0) : doShardReq f s = s := by
  rw [doShardReq_eq hl hin hty]
  rcases h with h | h
  · rw [h]
  · rw [h]
    split <;> rfl

theorem doShardReq_judged {b : Bytes} {first : Frame} (hb : shardWhole (s.shardFrames f) = some b)
    (hf : (s.shardFrames f).find? (fun g => g.index == 0) = some first) (hs : s.freeSlots ≠ 0) : doShardReq f s =
    State.serveShard first b
      (({ s with fab := { s.fab with inbox := s.fab.inbox.filter fun g => !(s.shardFrames f).contains g } } : State).judgeAll
        (s.shardFrames f)) := by
  rw [doShardReq_eq hl hin hty, hb, hf]
  exact if_neg hs

end

/-- One frame alone is judged as it is. -/
theorem State.judgeAll_one (s : State) (g : Frame) : s.judgeAll [g] = s.judgeShard g := by
  unfold State.judgeAll
  rw [List.foldl_cons, List.foldl_nil]
  rcases s.judgeShard g with ⟨_ | _ | _, t⟩ <;> rfl

/-- Settles O42: a frame is served as it is judged (`request_served`), and applied once. -/
theorem requestsAreServed : Obligations.RequestsAreServed := by
  refine ⟨fun f s hl hin => ?_, fun f s hl hin hty => ⟨fun h => congrArg Host.Outcome.next (doShardReq_waits hl hin hty h),
    fun b first hb hf hs => ?_, fun g => State.judgeAll_one _ g⟩⟩
  · refine ⟨fun _ h => congrArg Host.Outcome.next (doCasReq_notInTurn h), fun e he hty ht => ?_,
      fun hstale hdup => ⟨fun hty hr => congrArg Host.Outcome.next (readReq_again hl hin hstale hdup hty hr),
        fun hty hr => congrArg Host.Outcome.next (writeReq_again hl hin hstale hdup hty hr),
        fun hty ht hr v done hc => congrArg Host.Outcome.next (casReq_again hl hin hstale hdup hty ht hr hc)⟩,
      fun hstale hdup => ⟨fun hty hr ha => congrArg Host.Outcome.next (readReq_applied hl hin hstale hdup ha hty hr),
        fun hty hr ha => ⟨_, congrArg Host.Outcome.next (writeReq_applied hl hin hstale hdup ha hty hr), State.writeFrame_spec f rfl⟩,
        fun hty ht hr ha => ?_⟩⟩
    · obtain ⟨serve, hserve, hexec⟩ := request_served hl hin he hty ht
      refine ⟨fun hstale => ?_, fun hstale hr => ?_, fun hstale hdup hr ha => ?_⟩
      · have hj : (s.tookFrame f).judge f e.2.2 = _ := State.judge_stale hstale
        exact hexec.trans (congrArg Host.Outcome.next ((congrArg serve hj).trans (hserve ..)))
      · have hj : (s.tookFrame f).judge f e.2.2 = _ := State.judge_error hstale hr
        exact hexec.trans (congrArg Host.Outcome.next ((congrArg serve hj).trans (hserve ..)))
      · have hj : (s.tookFrame f).judge f e.2.2 = _ := State.judge_unfit hstale hr hdup ha
        exact hexec.trans (congrArg Host.Outcome.next ((congrArg serve hj).trans (hserve ..)))
    · obtain ⟨hswap, hrefused⟩ := State.applyCas_spec (s := s) (t := (s.tookFrame f).markedFrame f) (f := f) rfl rfl
      obtain ⟨hdone, hkept, hother, hparts⟩ := hswap
      exact ⟨_, congrArg Host.Outcome.next (casReq_applied hl hin hstale hdup ha hty ht hr), hdone, hkept, hother, hparts, hrefused⟩
  · refine congrArg Host.Outcome.next ((doShardReq_judged hl hin hty hb hf hs).trans ?_)
    dsimp only
    rcases State.judgeAll _ _ with ⟨_ | _ | _, t⟩ <;> rfl

end Machine
end Sys2Proof

/-!
PROOFS. Settling O59 (PowerAndResets): resets, power and JTAG. The host reset that PERST# starts enters the safe state; what that
keeps of the host link and of the fault status is the first part.
-/
namespace Sys2Proof
namespace Machine

/-! ## What entry to the safe state keeps of the host link and of SYS_FAULT_STATUS

`State.hostWord` goes unchanged through everything that R345 ends: the rules below follow the definitions' order. -/

/-- The state of the host link, and the word of SYS_FAULT_STATUS that holds source 0xA0. -/
def State.hostWord (s : State) : Bool × W64 := (s.hif.linkUp, s.reg .sysFaultStatus 2)

theorem State.hostWord_congr {s t : State} (hl : t.hif.linkUp = s.hif.linkUp) (hr : t.regs = s.regs) : t.hostWord = s.hostWord := by
  unfold State.hostWord
  rw [hl, State.reg_of_regs hr]

theorem SameButFolios.hostWord {s t : State} (h : SameButFolios s t) : t.hostWord = s.hostWord := by
  unfold SameButFolios at h
  rw [h]
  rfl

theorem State.sameButFabric.hostWord {s t : State} (h : s.sameButFabric t) : t.hostWord = s.hostWord := by
  unfold State.sameButFabric at h
  rw [h]
  rfl

@[simp] theorem State.hostWord_foldl {α : Type} {g : State → α → State} (h : ∀ (s : State) a, (g s a).hostWord = s.hostWord) (l : List α)
    (s : State) : (l.foldl g s).hostWord = s.hostWord := foldl_keeps State.hostWord h l s

@[simp] theorem State.hostWord_ite (c : Prop) [Decidable c] (s t : State) :
    (if c then s else t).hostWord = if c then s.hostWord else t.hostWord := apply_ite ..

/-! ### Single updates -/

section
variable (s : State)

@[simp] theorem State.hostWord_setFab (x : FabState) : ({ s with fab := x } : State).hostWord = s.hostWord := rfl
@[simp] theorem State.hostWord_setTxt (x : TxtState) : ({ s with txt := x } : State).hostWord = s.hostWord := rfl
@[simp] theorem State.hostWord_setHo (x : HoState) : ({ s with ho := x } : State).hostWord = s.hostWord := rfl
@[simp] theorem State.hostWord_emit (o : Out) : (s.emit o).hostWord = s.hostWord := rfl
@[simp] theorem State.hostWord_stampSet (k w : Nat) : (s.stampSet k w).hostWord = s.hostWord := rfl
@[simp] theorem State.hostWord_setVf (p : Nat) (v : Vf) : (s.setVf p v).hostWord = s.hostWord := rfl
@[simp] theorem State.hostWord_modVerb (p vid : Nat) (f : Verb → Verb) : (s.modVerb p vid f).hostWord = s.hostWord := rfl
@[simp] theorem State.hostWord_dropSession (d : Nat) : (s.dropSession d).hostWord = s.hostWord := rfl
@[simp] theorem State.hostWord_setDirFree (p : Nat) (f : FreeList) : (s.setDirFree p f).hostWord = s.hostWord := rfl
@[simp] theorem State.hostWord_setFolio (i : Nat) (f : Folio) : (s.setFolio i f).hostWord = s.hostWord := rfl
@[simp] theorem State.hostWord_setFolPart (p : Nat) (x : FolPart) : (s.setFolPart p x).hostWord = s.hostWord := rfl
@[simp] theorem State.hostWord_modFolPart (p : Nat) (f : FolPart → FolPart) : (s.modFolPart p f).hostWord = s.hostWord := rfl
@[simp] theorem State.hostWord_modSpn (p : Nat) (f : SpnPart → SpnPart) : (s.modSpn p f).hostWord = s.hostWord := rfl
@[simp] theorem State.hostWord_modEng (e : Nat) (f : Engine → Engine) : (s.modEng e f).hostWord = s.hostWord := rfl
@[simp] theorem State.hostWord_modCtx (e slot : Nat) (f : Ctx → Ctx) : (s.modCtx e slot f).hostWord = s.hostWord := rfl
@[simp] theorem State.hostWord_setTxtPart (p : Nat) (x : TxtPart) : (s.setTxtPart p x).hostWord = s.hostWord := rfl
@[simp] theorem State.hostWord_setCkp (p : Nat) (x : CkpPart) : (s.setCkp p x).hostWord = s.hostWord := rfl
@[simp] theorem State.hostWord_modCkp (p : Nat) (f : CkpPart → CkpPart) : (s.modCkp p f).hostWord = s.hostWord := rfl
@[simp] theorem State.hostWord_setRecPart (p : Nat) (x : RecPart) : (s.setRecPart p x).hostWord = s.hostWord := rfl
@[simp] theorem State.hostWord_modChan (c : Nat) (f : Chan → Chan) : (s.modChan c f).hostWord = s.hostWord := rfl
@[simp] theorem State.hostWord_setIndexes (p : Nat) (t : Tab RIndex) : (s.setIndexes p t).hostWord = s.hostWord := rfl
@[simp] theorem State.hostWord_setIndex (p i : Nat) (x : RIndex) : (s.setIndex p i x).hostWord = s.hostWord := rfl
@[simp] theorem State.hostWord_setQueries (p : Nat) (l : List QueryOp) : (s.setQueries p l).hostWord = s.hostWord := rfl
@[simp] theorem State.hostWord_setLoads (l : List LoadOp) : (s.setLoads l).hostWord = s.hostWord := rfl
@[simp] theorem State.hostWord_subPt (p n : Nat) : (s.subPt p n).hostWord = s.hostWord := rfl
@[simp] theorem State.hostWord_subDemand (p tier n : Nat) : (s.subDemand p tier n).hostWord = s.hostWord := rfl
@[simp] theorem State.hostWord_dropClaim (p vid : Nat) : (s.dropClaim p vid).hostWord = s.hostWord := rfl
@[simp] theorem State.hostWord_unpay (p d n : Nat) : (s.unpay p d n).hostWord = s.hostWord := rfl
@[simp] theorem State.hostWord_leaveNext (p d n : Nat) : (s.leaveNext p d n).hostWord = s.hostWord := rfl
@[simp] theorem State.hostWord_modPart (p : Nat) (f : Session → Session) : (s.modPart p f).hostWord = s.hostWord := rfl
@[simp] theorem State.hostWord_clearDrops (p : Nat) : (s.clearDrops p).hostWord = s.hostWord := rfl
@[simp] theorem State.hostWord_audit (port kind result code value : Nat) (arg : Bytes) :
    (s.audit port kind result code value arg).hostWord = s.hostWord := rfl

@[simp] theorem State.hostWord_modSession (d : Nat) (f : Session → Session) : (s.modSession d f).hostWord = s.hostWord := by
  rw [State.modSession_only]
  rfl

@[simp] theorem State.hostWord_modSeq (d n : Nat) (f : Seq → Seq) : (s.modSeq d n f).hostWord = s.hostWord := by
  rw [State.modSeq_only]
  rfl

@[simp] theorem State.hostWord_modSeqs (d : Nat) (f : Seq → Seq) : (s.modSeqs d f).hostWord = s.hostWord := s.hostWord_modSession ..

@[simp] theorem State.hostWord_dropSpine (d n : Nat) : (s.dropSpine d n).hostWord = s.hostWord := by
  unfold State.dropSpine
  split
  · split
    · exact State.hostWord_modSeq ..
    · rfl
  · rfl

@[simp] theorem State.hostWord_carry (l : List (PortId × Nat)) (cls : ArbClass) (o : PortOwner) :
    (s.carry l cls o).hostWord = s.hostWord := by
  rw [State.carry_only]
  rfl

/-! ### Counters, causes and records -/

/-- A counter at another offset counts. -/
theorem State.hostWord_count {r : RegName} {i : Nat} (n : Nat) (h : regAddr .sysFaultStatus 2 0 ≠ regAddr r i 0) :
    (s.count r i n).hostWord = s.hostWord := Prod.ext rfl (State.reg_count_other s n h)

@[simp] theorem State.hostWord_countServed (q n : Nat) : (s.count .shpServed q n).hostWord = s.hostWord :=
  s.hostWord_count n (by simp only [regAddr, regRow, queueRow, devRow, blockBase]; omega)

@[simp] theorem State.hostWord_countOverrun (e n : Nat) : (s.count .engOverrunNs e n).hostWord = s.hostWord :=
  s.hostWord_count n (by simp only [regAddr, regRow, engRow, devRow, blockBase]; omega)

@[simp] theorem State.hostWord_countOut (p n : Nat) : (s.count .txtOutBytes p n).hostWord = s.hostWord :=
  s.hostWord_count n (by simp only [regAddr, regRow, partRow, devRow, blockBase]; omega)

@[simp] theorem State.hostWord_countStops (p n : Nat) : (s.count .txtStops p n).hostWord = s.hostWord :=
  s.hostWord_count n (by simp only [regAddr, regRow, partRow, devRow, blockBase]; omega)

@[simp] theorem State.hostWord_countDead (p n : Nat) : (s.count .txtGrammarDead p n).hostWord = s.hostWord :=
  s.hostWord_count n (by simp only [regAddr, regRow, partRow, devRow, blockBase]; omega)

@[simp] theorem State.hostWord_countLost (p n : Nat) : (s.count .folHoLost p n).hostWord = s.hostWord :=
  s.hostWord_count n (by simp only [regAddr, regRow, partRow, devRow, blockBase]; omega)

@[simp] theorem State.hostWord_cause (n : Nat) : (s.cause n).hostWord = s.hostWord := by
  have h : ∀ v : W64, ((s.setReg .hifEventCause 0 0 v).stampSet (regAddr .hifEventCause 0 0) (2 ^ n)).hostWord = s.hostWord := fun v =>
    Prod.ext rfl (tgetD_tput_other _ _ _ _ _ (by decide))
  unfold State.cause
  dsimp only
  split
  · exact h _
  · exact h _

@[simp] theorem State.hostWord_setPhase (ph : BindPhase) : (s.setPhase ph).hostWord = s.hostWord := by
  unfold State.setPhase
  split
  · rfl
  · exact State.hostWord_cause ..

@[simp] theorem State.hostWord_setPartMode (p : Nat) (m : PartMode) : (s.setPartMode p m).hostWord = s.hostWord := by
  unfold State.setPartMode
  dsimp only
  split
  · rfl
  · exact State.hostWord_cause ..

@[simp] theorem State.hostWord_releaseSlot (p vid : Nat) : (s.releaseSlot p vid).hostWord = s.hostWord := by
  unfold State.releaseSlot
  split
  · rfl
  · split <;> rfl

@[simp] theorem State.hostWord_complete (p vid : Nat) (st : Status) (flags : Nat) (body : RecBody) (h : Option Nat) :
    (s.complete p vid st flags body h).hostWord = s.hostWord := by
  unfold State.complete
  split
  · rfl
  · exact s.hostWord_releaseSlot p vid

@[simp] theorem State.hostWord_completeAll (p : Nat) (l : List Nat) (st : Status) : (s.completeAll p l st).hostWord = s.hostWord :=
  State.hostWord_foldl (fun t vid => t.hostWord_complete p vid st 0 [] none) l s

@[simp] theorem State.hostWord_enterQueue (p vid : Nat) : (s.enterQueue p vid).hostWord = s.hostWord := by
  unfold State.enterQueue
  split
  · rfl
  · split
    · rfl
    · exact s.hostWord_releaseSlot p vid

@[simp] theorem State.hostWord_releaseHeld (p : Nat) : (s.releaseHeld p).hostWord = s.hostWord :=
  State.hostWord_foldl (fun t vid => t.hostWord_enterQueue p vid) _ s

/-! ### Schedulers and pipes -/

@[simp] theorem State.hostWord_setSched (id : SchedId) (x : Sched) : (s.setSched id x).hostWord = s.hostWord := by
  cases id <;> rfl

@[simp] theorem State.hostWord_rateCharge (q u : Nat) : (s.rateCharge q u).hostWord = s.hostWord := by
  unfold State.rateCharge
  dsimp only
  split
  · split
    · rfl
    · split <;> rfl
  · rfl

@[simp] theorem State.hostWord_charge (id : SchedId) (q u : Nat) (work : List Nat) : (s.charge id q u work).hostWord = s.hostWord := by
  unfold State.charge
  dsimp only
  cases s.privNow id q <;> cases id <;> simp

@[simp] theorem State.hostWord_chargeDebt (p ns : Nat) (g : Gather) : (s.chargeDebt p ns g).hostWord = s.hostWord := by
  unfold State.chargeDebt
  simp

@[simp] theorem State.hostWord_endPipe (id : SchedId) (q ns : Nat) (l : List Nat) : (s.endPipe id q ns l).hostWord = s.hostWord := by
  unfold State.endPipe State.dropIdle
  simp

@[simp] theorem State.hostWord_freePipes : s.freePipes.hostWord = s.hostWord := by
  unfold State.freePipes
  refine State.hostWord_foldl (fun t e => ?_) _ s
  simp

@[simp] theorem State.hostWord_fillPipes (n : Nat) : (s.fillPipes n).hostWord = s.hostWord := by
  induction n generalizing s with
  | zero => rfl
  | succ n ih =>
    unfold State.fillPipes
    split
    · exact (ih _).trans rfl
    · rfl

@[simp] theorem State.hostWord_grantText : s.grantText.hostWord = s.hostWord := by
  unfold State.grantText
  simp

@[simp] theorem State.hostWord_detokenized (q n : Nat) : (s.detokenized q n).hostWord = s.hostWord := s.hostWord_endPipe ..

/-! ### Folios -/

@[simp] theorem State.hostWord_freeTier (p tier loc : Nat) : (s.freeTier p tier loc).hostWord = s.hostWord :=
  (s.freeTier_folios p tier loc).hostWord

@[simp] theorem State.hostWord_freeT4 (p loc : Nat) : (s.freeT4 p loc).hostWord = s.hostWord := by
  unfold State.freeT4
  dsimp only
  rw [State.hostWord_modFolPart]
  exact State.hostWord_foldl (fun t c => t.hostWord_modChan c _) _ s

@[simp] theorem State.hostWord_modFolio (i : Nat) (f : Folio → Folio) : (s.modFolio i f).hostWord = s.hostWord :=
  (s.modFolio_folios i f).hostWord

@[simp] theorem State.hostWord_startDemotion (p i : Nat) (cls : ArbClass) (l : List Nat) :
    (s.startDemotion p i cls l).hostWord = s.hostWord := (s.startDemotion_folios p i cls l).hostWord

@[simp] theorem State.hostWord_pressureStep (p : Nat) : (s.pressureStep p).hostWord = s.hostWord := (s.pressureStep_folios p).hostWord

@[simp] theorem State.hostWord_checkPressure (p : Nat) : (s.checkPressure p).hostWord = s.hostWord := (s.checkPressure_folios p).hostWord

@[simp] theorem State.hostWord_reapFolio (i : Nat) : (s.reapFolio i).hostWord = s.hostWord := (s.reapFolio_folios i).hostWord

@[simp] theorem State.hostWord_leavePrefix (p i : Nat) : (s.leavePrefix p i).hostWord = s.hostWord := by
  unfold State.leavePrefix
  simp

@[simp] theorem State.hostWord_dropRef (i : Nat) : (s.dropRef i).hostWord = s.hostWord := by
  unfold State.dropRef
  split <;> simp

@[simp] theorem State.hostWord_dropRefs (l : List Nat) : (s.dropRefs l).hostWord = s.hostWord :=
  State.hostWord_foldl (fun t i => t.hostWord_dropRef i) l s

@[simp] theorem State.hostWord_pin (i : Nat) : (s.pin i).hostWord = s.hostWord := by
  unfold State.pin
  split <;> simp

@[simp] theorem State.hostWord_unpin (i : Nat) : (s.unpin i).hostWord = s.hostWord := by
  unfold State.unpin
  split <;> simp

@[simp] theorem State.hostWord_releaseSources (l : List Nat) : (s.releaseSources l).hostWord = s.hostWord := by
  unfold State.releaseSources
  refine State.hostWord_foldl (fun t i => ?_) l s
  split <;> simp

@[simp] theorem State.hostWord_dropStage (l : List Nat) : (s.dropStage l).hostWord = s.hostWord := by
  unfold State.dropStage
  simp

@[simp] theorem State.hostWord_startPromotion (i : Nat) (cls : ArbClass) : (s.startPromotion i cls).hostWord = s.hostWord := by
  unfold State.startPromotion
  split <;> simp

@[simp] theorem State.hostWord_placeStep (p : Nat) (o : PlaceOp) : (s.placeStep p o).hostWord = s.hostWord := by
  unfold State.placeStep
  split
  · rfl
  · dsimp only
    split
    · rfl
    · cases s.allocTier p o.tier <;> simp

@[simp] theorem State.hostWord_placeAll (p : Nat) : (s.placeAll p).hostWord = s.hostWord :=
  State.hostWord_foldl (fun t o => t.hostWord_placeStep p o) _ s

@[simp] theorem State.hostWord_unpins (l : List Nat) : (s.unpins l).hostWord = s.hostWord := by
  unfold State.unpins
  simp

@[simp] theorem State.hostWord_abandonPromotion (i : Nat) : (s.abandonPromotion i).hostWord = s.hostWord := by
  unfold State.abandonPromotion
  split <;> simp

@[simp] theorem State.hostWord_dropMove (i : Nat) (f : Folio) : (s.dropMove i f).hostWord = s.hostWord := by
  unfold State.dropMove
  simp

/-! ### Engines -/

@[simp] theorem State.hostWord_leaveCtx (p e : Nat) : (s.leaveCtx p e).hostWord = s.hostWord := by
  unfold State.leaveCtx
  dsimp only
  split
  · split <;> simp
  · rfl

@[simp] theorem State.hostWord_payRunning (e : Nat) : (s.payRunning e).hostWord = s.hostWord := by
  unfold State.payRunning
  simp

@[simp] theorem State.hostWord_grantRounds (e : Nat) : (s.grantRounds e).hostWord = s.hostWord :=
  State.hostWord_foldl (fun t k => t.hostWord_modCtx e k _) _ s

@[simp] theorem State.hostWord_beginSwitch (p e k : Nat) : (s.beginSwitch p e k).hostWord = s.hostWord := by
  unfold State.beginSwitch
  simp

@[simp] theorem State.hostWord_choose (p e : Nat) : (s.choose p e).hostWord = s.hostWord := by
  unfold State.choose
  dsimp only
  generalize hu : ((s.modEng e _).payRunning e).grantRounds e = u
  have h : u.hostWord = s.hostWord := by
    rw [← hu]
    simp
  generalize hv : (if (u.chosen p e).2 = true then _ else u) = v
  have hv : v.hostWord = s.hostWord := by
    rw [← hv]
    simp [h]
  split
  · exact hv
  · exact (v.hostWord_beginSwitch ..).trans hv

@[simp] theorem State.hostWord_rechoose (p e : Nat) : (s.rechoose p e).hostWord = s.hostWord := by
  unfold State.rechoose
  simp

@[simp] theorem State.hostWord_pump (dev n : Nat) : (s.pump dev n).hostWord = s.hostWord := (s.pump_same dev n).1.hostWord

@[simp] theorem State.hostWord_dropRequests (p slot : Nat) : (s.dropRequests p slot).hostWord = s.hostWord := by
  unfold State.dropRequests
  simp

@[simp] theorem State.hostWord_stopSteps (p : Nat) : (s.stopSteps p).hostWord = s.hostWord := by
  unfold State.stopSteps
  rw [State.hostWord_foldl fun t e => by split <;> simp]
  exact s.hostWord_dropRequests p 0

@[simp] theorem State.hostWord_stopReplay (p : Nat) : (s.stopReplay p).hostWord = s.hostWord := by
  unfold State.stopReplay
  dsimp only
  rw [State.hostWord_setRecPart, State.hostWord_foldl fun t e => by split <;> simp]
  exact s.hostWord_dropRequests p 1

/-! ### Steps and inputs -/

@[simp] theorem State.hostWord_release (p d n : Nat) (b : Bytes) : (s.release p d n b).hostWord = s.hostWord := by
  unfold State.release
  split
  · rfl
  · split
    · rfl
    · next q _ r _ => cases s.verb? p r.verb <;> simp

@[simp] theorem State.hostWord_endInput (p d n : Nat) (st : Status) : (s.endInput p d n st).hostWord = s.hostWord := by
  unfold State.endInput
  split
  · rfl
  · split <;> simp

@[simp] theorem State.hostWord_trimSpans (p d n : Nat) : (s.trimSpans p d n).hostWord = s.hostWord := by
  unfold State.trimSpans
  split <;> simp

@[simp] theorem State.hostWord_undoInsert (p : Nat) (en : GEntry) : (s.undoInsert p en).hostWord = s.hostWord := by
  unfold State.undoInsert
  split
  · rfl
  · next q _ => cases q.absorbing <;> simp

@[simp] theorem State.hostWord_requeue (p : Nat) (en : GEntry) : (s.requeue p en).hostWord = s.hostWord := by
  unfold State.requeue
  simp

@[simp] theorem State.hostWord_rollback (p : Nat) (held : List (Nat × Nat)) : (s.rollback p held).hostWord = s.hostWord := by
  unfold State.rollback
  split <;> simp

/-! ### Verbs -/

@[simp] theorem State.hostWord_abandonPark (d : Nat) : (s.abandonPark d).hostWord = s.hostWord := by
  unfold State.abandonPark
  split
  · rfl
  · split <;> simp

@[simp] theorem State.hostWord_abandonRevive (d : Nat) : (s.abandonRevive d).hostWord = s.hostWord := by
  unfold State.abandonRevive
  split
  · rfl
  · split <;> simp

@[simp] theorem State.hostWord_endLoad (p vid : Nat) (kept : Bool) : (s.endLoad p vid kept).hostWord = s.hostWord := by
  unfold State.endLoad
  split
  · rfl
  · dsimp only
    split
    · split <;> rfl
    · rw [State.hostWord_pressureStep, State.hostWord_modFolPart, State.hostWord_foldl fun t l => t.hostWord_freeT4 p l]
      split <;> rfl

@[simp] theorem State.hostWord_useGen (p i gen vid : Nat) (on : Bool) : (s.useGen p i gen vid on).hostWord = s.hostWord := by
  unfold State.useGen
  split <;> rfl

@[simp] theorem State.hostWord_abandonVerb (p : Nat) (v : Verb) (st : Status) : (s.abandonVerb p v st).hostWord = s.hostWord := by
  unfold State.abandonVerb
  dsimp only
  rw [State.hostWord_complete]
  split <;> simp

@[simp] theorem State.hostWord_unreserve (o : ClaimOp) : (s.unreserve o).hostWord = s.hostWord := by
  unfold State.unreserve
  dsimp only
  split
  · rfl
  · rw [State.hostWord_setDirFree, State.hostWord_dropSession]
    split
    · split <;> simp
    · simp

@[simp] theorem State.hostWord_failClaim (p vid : Nat) (st : Status) : (s.failClaim p vid st).hostWord = s.hostWord := by
  unfold State.failClaim
  split <;> simp

@[simp] theorem State.hostWord_endMember (p : Nat) (st : Status) : (s.endMember p st).hostWord = s.hostWord := by
  unfold State.endMember State.releaseOwed
  dsimp only
  split
  · rfl
  · split <;> simp

/-! ### Entry to the safe state (R345, R423) -/

@[simp] theorem State.hostWord_endStep (p d n : Nat) (st : Status) (outFull keep : Bool) :
    (s.endStep p d n st outFull keep).hostWord = s.hostWord := by
  unfold State.endStep
  split
  · rfl
  · split
    · rfl
    · dsimp only
      rw [State.hostWord_completeAll, State.hostWord_leaveNext, State.hostWord_unpay, State.hostWord_modSeq]
      split
      · simp
      · split <;> simp

@[simp] theorem State.hostWord_safeVerb (p : Nat) (w : Verb) : (s.safeVerb p w).hostWord = s.hostWord := by
  unfold State.safeVerb
  split
  · rfl
  · next v _ =>
    split
    · simp
    · split
      · simp
      · simp
      · simp
      · cases s.query? p v.id <;> simp
      · split <;> simp
      · simp

@[simp] theorem State.hostWord_safeRings (p : Nat) : (s.safeRings p).hostWord = s.hostWord := by
  unfold State.safeRings
  dsimp only
  split <;> rfl

/-- A revive under way in a session that no claim has reserved is abandoned. -/
theorem State.hostWord_dropRevive (d : Nat) (f : Seq → Seq) :
    (if s.claiming d = true then s else (s.abandonRevive d).modSeqs d f).hostWord = s.hostWord := by simp

@[simp] theorem State.hostWord_safePart (p : Nat) : (s.safePart p).hostWord = s.hostWord := by
  unfold State.safePart
  dsimp only
  rw [State.hostWord_setPartMode, State.hostWord_safeRings, State.hostWord_modFolPart, State.hostWord_modSpn, State.hostWord_modPart,
    State.hostWord_foldl fun t d => t.hostWord_dropRevive d _, State.hostWord_grantText, State.hostWord_setQueries,
    State.hostWord_clearDrops, State.hostWord_foldl fun t v => t.hostWord_safeVerb p v, State.hostWord_setRecPart,
    State.hostWord_rollback, State.hostWord_stopReplay, State.hostWord_endMember]

theorem State.hostWord_enterSafe (k : Nat) : (s.enterSafe k).hostWord = s.hostWord := by
  unfold State.enterSafe
  dsimp only
  generalize hu : (List.range Config.partitions).foldl State.safePart _ = u
  have h : u.hostWord = s.hostWord := by
    rw [← hu, State.hostWord_foldl fun t p => t.hostWord_safePart p, State.hostWord_foldl fun t (e : Nat × Folio) => t.hostWord_dropMove e.1 e.2]
    split <;> rfl
  split
  · exact (State.hostWord_setPhase ..).trans h
  · exact h

end
/-! ## A loss of the host link is an event of source 0xA0 (R326, R328, R345) -/

/-- The host link is down, and the status of source 0xA0 tells it. -/
structure State.LinkLossSeen (s : State) : Prop where
  down : s.hif.linkUp = false
  seen : bit (s.reg .sysFaultStatus 2) 32 = true

theorem State.LinkLossSeen.congr {s t : State} (hs : s.LinkLossSeen) (h : t.hostWord = s.hostWord) : t.LinkLossSeen :=
  ⟨(congrArg Prod.fst h).trans hs.down, (congrArg (fun w : Bool × W64 => bit w.2 32) h).trans hs.seen⟩

/-- The status bit of another source of the same word leaves that of 0xA0. -/
theorem State.LinkLossSeen.setFaultBit_srcSat {s : State} (hs : s.LinkLossSeen) : (s.setFaultBit srcSat).LinkLossSeen := by
  have hreg : (s.setFaultBit srcSat).reg .sysFaultStatus 2 = setBit (s.reg .sysFaultStatus 2) 39 true := tgetD_tput_same ..
  refine ⟨hs.down, ?_⟩
  rw [hreg, bit_setBit_other (by decide) (by decide)]
  exact hs.seen

/-- A register at another offset is written and stamped. -/
theorem State.hostWord_written (s : State) {r : RegName} {i : Nat} (v : W64) (k n : Nat)
    (h : regAddr .sysFaultStatus 2 0 ≠ regAddr r i 0) : ((s.setReg r i 0 v).stampAdd k n).hostWord = s.hostWord :=
  Prod.ext rfl (tgetD_tput_other _ _ _ _ _ h)

theorem State.hostWord_logOne (s : State) (e : LogEntry) : (s.logOne e).hostWord = s.hostWord := by
  unfold State.logOne
  dsimp only
  split
  · exact (State.hostWord_written _ _ _ _ (by decide)).trans rfl
  · split
    · rw [State.hostWord_cause]
      split
      · exact (State.hostWord_cause ..).trans rfl
      · rfl
    · split
      · exact (State.hostWord_cause ..).trans rfl
      · rfl

theorem State.LinkLossSeen.ownSat {s : State} (hs : s.LinkLossSeen) : s.ownSat.LinkLossSeen :=
  hs.setFaultBit_srcSat.congr ((State.hostWord_cause ..).trans (State.hostWord_logOne ..))

theorem State.LinkLossSeen.record {s : State} (hs : s.LinkLossSeen) (k : Nat) (d : FaultDetail) (ps : List Nat) (sev : Severity)
    (esc : Bool) : (s.record k d ps sev esc).LinkLossSeen := by
  have hlog : ∀ e : LogEntry, (s.logFault e).LinkLossSeen := fun e => by
    unfold State.logFault
    dsimp only
    split
    · exact (hs.congr (s.hostWord_logOne e)).ownSat
    · exact hs.congr (s.hostWord_logOne e)
  unfold State.record
  dsimp only
  cases sev with
  | dev => exact (hlog _).congr rfl
  | corr => exact (hlog _).congr (State.hostWord_cause ..)
  | cont => exact (hlog _).congr (State.hostWord_cause ..)
  | part => exact (hlog _).congr (State.hostWord_cause ..)

/-- The event's status bit is set before all else. -/
theorem State.countFault_seen {s : State} (hd : s.hif.linkUp = false) : (s.countFault 0xA0).2.LinkLossSeen := by
  have hreg : (s.setFaultBit 0xA0).reg .sysFaultStatus 2 = setBit (s.reg .sysFaultStatus 2) 32 true := tgetD_tput_same ..
  have hset : (s.setFaultBit 0xA0).LinkLossSeen := ⟨hd, by rw [hreg, bit_setBit_same true (by decide)]⟩
  exact hset.congr (State.hostWord_written _ _ _ _ (by decide))

/-- A source that is DEV whether it escalates or not. -/
theorem State.classify_dev (s : State) (k : Nat) :
    (s.classify k devRowF).1 = .dev ∧ (s.classify k devRowF).2.2.hostWord = s.hostWord := by
  unfold State.classify
  dsimp only
  split
  · exact ⟨rfl, rfl⟩
  · split <;> exact ⟨rfl, rfl⟩

theorem inTest_hostLink : inTest 0xA0 {} = false := by decide

/-- Source 0xA0 affects every partition, so nothing but the safe state answers it. -/
theorem State.react_hostLink (s : State) (ps : List Nat) : s.react 0xA0 {} ps .dev = s.enterSafe 0xA0 := by
  have hall : affectsAll 0xA0 = true := by decide
  have hg : (!affectsAll 0xA0 && !ps.isEmpty && (ps.filter fun p => !s.partFenced p).isEmpty) = false := by rw [hall]; rfl
  unfold State.react
  exact if_neg (Bool.eq_false_iff.mp hg)

/-- The event of a lost link is logged and counted, and a device that is not in its safe state yet enters it. -/
theorem State.oneEvent_linkLoss {s : State} (hd : s.hif.linkUp = false) :
    ∃ u : State, u.LinkLossSeen ∧ s.oneEvent 0xA0 {} none = if s.flt.safe = true then u else u.enterSafe 0xA0 := by
  have hrow : faultRow 0xA0 = some devRowF := rfl
  have hcount := State.countFault_seen hd
  unfold State.oneEvent
  rw [hrow]
  generalize hps : s.affected 0xA0 {} = ps
  generalize s.countFault 0xA0 = c at hcount ⊢
  obtain ⟨hit, t⟩ := c
  have hclass := t.classify_dev 0xA0
  dsimp only at hcount ⊢
  generalize t.classify 0xA0 devRowF = c at hclass ⊢
  obtain ⟨sev, esc, u⟩ := c
  dsimp only at hclass ⊢
  obtain ⟨rfl, hu⟩ := hclass
  have hrec := (hcount.congr hu).record 0xA0 {} ps .dev esc
  have hup : (Severity.dev == Severity.cont) = false := rfl
  simp only [inTest_hostLink, hup, Bool.false_and, Bool.or_false, Bool.false_eq_true, if_false, State.react_hostLink]
  cases hit with
  | false => exact ⟨_, hrec, rfl⟩
  | true => exact ⟨_, hrec.ownSat, rfl⟩

theorem State.anchor_safe (s : State) : s.anchor.safe = s.flt.safe := rfl

theorem State.event_linkLoss {s : State} (hd : s.hif.linkUp = false) :
    (s.event 0xA0 {}).LinkLossSeen ∧ (s.event 0xA0 {}).flt.safe = true := by
  have hevent : s.event 0xA0 {} = s.oneEvent 0xA0 {} none := by
    unfold State.event
    simp
  obtain ⟨u, hu, hone⟩ := State.oneEvent_linkLoss hd
  have hdrift := s.event_drift 0xA0 {} none
  cases hs : s.flt.safe with
  | true =>
    have hsafe : (s.event 0xA0 {}).flt.safe = true := by
      rw [← State.anchor_safe]
      rcases hdrift with h | h
      · rw [h]; exact hs
      · rw [h]; rfl
    rw [hs, if_pos rfl] at hone
    exact ⟨by rw [hevent, hone]; exact hu, hsafe⟩
  | false =>
    rw [hs, if_neg Bool.noConfusion] at hone
    rw [hevent, hone]
    exact ⟨hu.congr (u.hostWord_enterSafe 0xA0), (State.anchor_safe _).symm.trans (congrArg Anchor.safe (u.enterSafe_anchor 0xA0))⟩

/-! ## Power, the real-time counter and the battery -/

/-- The pins that POWER_DOWN releases are all that goes before the power does. -/
def State.pinsReleased (s : State) : State :=
  (if s.pwr.thermtrip then s.emit (.pin "THERMTRIP#" false) else s).setSafePin false

theorem State.pinsReleased_kept (s : State) : s.pinsReleased.sec = s.sec ∧ s.pinsReleased.pwr.rtc = s.pwr.rtc := by
  unfold State.pinsReleased
  refine ⟨(congrArg State.sec (State.setSafePin_only _ _)).trans ?_, (congrArg PwrState.rtc (State.setSafePin_pwr _ _)).trans ?_⟩
  · split <;> rfl
  · split <;> rfl

theorem doPowerDown_powered {s : State} (h : s.pwr.pwrok = true ∨ s.pwr.aon = true) :
    doPowerDown s = s.pinsReleased.powerLost.dropWaiting := by
  have hg : (!s.pwr.pwrok && !s.pwr.aon) = false := by
    rcases h with h | h
    · rw [h]; rfl
    · rw [h]; exact Bool.and_false _
  unfold doPowerDown
  exact if_neg (Bool.eq_false_iff.mp hg)

theorem exec_powerDown {s : State} (h : s.pwr.pwrok = true ∨ s.pwr.aon = true) : Does .powerDown s fun t =>
    t.pwr.pwrok = false ∧ t.pwr.aon = false ∧ t.pwr.safePin = false ∧ t.regs = [] ∧ t.dir.sessions = [] ∧ t.fol.folios = [] ∧
    t.sec.keys = [] ∧ t.sec.battery = s.sec.battery ∧ t.sec.uid = s.sec.uid ∧ t.pwr.rtc = s.pwr.rtc ∧ t.sec.auditWaiting = 0 ∧
    t.sec.audit = s.sec.audit.take (s.sec.audit.length - s.sec.auditWaiting) := by
  obtain ⟨hsec, hrtc⟩ := s.pinsReleased_kept
  have hbattery : s.pinsReleased.sec.battery = s.sec.battery := congrArg SecState.battery hsec
  have huid : s.pinsReleased.sec.uid = s.sec.uid := congrArg SecState.uid hsec
  have haudit : s.pinsReleased.sec.audit.take (s.pinsReleased.sec.audit.length - s.pinsReleased.sec.auditWaiting) =
      s.sec.audit.take (s.sec.audit.length - s.sec.auditWaiting) := by rw [hsec]
  exact ⟨_, congrArg Host.Outcome.next (doPowerDown_powered h), rfl, rfl, rfl, rfl, rfl, rfl, rfl, hbattery, huid, hrtc, rfl, haudit⟩

theorem doVbatLoss_off {s : State} (h : s.pwr.aon = false) : doVbatLoss s =
    { s with sec := { s.sec with battery := {} }, pwr := { s.pwr with rtc := 0, rtcFrac := 0 } } :=
  if_neg (Bool.eq_false_iff.mp h)

theorem doVbatLoss_on {s : State} (h : s.pwr.aon = true) : doVbatLoss s = s := if_pos h

theorem doRtcUpdate_up {s : State} (h : s.firmwareUp = true) : doRtcUpdate s =
    { s with pwr := { s.pwr with rtc := s.now * 32768 / 1000000000, rtcFrac := s.now * 32768 % 1000000000 } } := by
  simp [doRtcUpdate, h]

/-- The counter and its fraction hold the timebase in ticks of 32,768 Hz. -/
theorem exec_rtcUpdate {s : State} (h : s.firmwareUp = true) : Does .rtcUpdate s fun t =>
    t = { s with pwr := { s.pwr with rtc := t.pwr.rtc, rtcFrac := t.pwr.rtcFrac } } ∧
      t.pwr.rtc * 1000000000 + t.pwr.rtcFrac = s.now * 32768 ∧ t.pwr.rtcFrac < 1000000000 :=
  ⟨_, congrArg Host.Outcome.next (doRtcUpdate_up h), rfl, Nat.div_add_mod' .., Nat.mod_lt _ (by decide)⟩

/-! ## PERST# and configuration space (R384) -/

theorem doPerstAssert_off {s : State} (hp : s.hif.perst = false) (hw : s.pwr.pwrok = false) :
    doPerstAssert s = { s with hif := { s.hif with perst := true } } := by
  simp [doPerstAssert, hp, hw]

theorem doPerstAssert_powered {s : State} (hp : s.hif.perst = false) (hw : s.pwr.pwrok = true) :
    doPerstAssert s = (({ s with hif := { s.hif with perst := true } } : State).hostReset).event 0xA0 {} := by
  simp [doPerstAssert, hp, hw]

/-- An event keeps PERST#. -/
theorem State.event_perst (s : State) (k : Nat) (d : FaultDetail) : (s.event k d).hif.perst = s.hif.perst := by
  rcases s.event_drift k d none with h | h <;> exact congrArg Anchor.perst h

theorem exec_perstAssert {s : State} (hp : s.hif.perst = false) : Does .perstAssert s fun t => t.hif.perst = true ∧
    (s.pwr.pwrok = false → t = { s with hif := { s.hif with perst := true } }) ∧
    (s.pwr.pwrok = true → t.flt.safe = true ∧ t.hif.linkUp = false ∧ bit (t.reg .sysFaultStatus 2) 32 = true) := by
  cases hw : s.pwr.pwrok with
  | false => exact ⟨_, congrArg Host.Outcome.next (doPerstAssert_off hp hw), rfl, fun _ => rfl, Bool.noConfusion⟩
  | true =>
    have hdown : (({ s with hif := { s.hif with perst := true } } : State).hostReset).hif.linkUp = false := rfl
    obtain ⟨hseen, hsafe⟩ := State.event_linkLoss hdown
    exact ⟨_, congrArg Host.Outcome.next (doPerstAssert_powered hp hw), State.event_perst _ _ _, Bool.noConfusion,
      fun _ => ⟨hsafe, hseen.down, hseen.seen⟩⟩

theorem exec_perstDeassert {s : State} (hp : s.hif.perst = true) : Does .perstDeassert s fun t => t = { s with hif := { s.hif with
    perst := false, perstAt := s.now, cfgReady := false, linkUp := s.pwr.pwrok,
    linkSpeed := t.hif.linkSpeed, linkWidth := t.hif.linkWidth } } ∧
    (s.pwr.pwrok = true → t.hif.linkSpeed = 6 ∧ t.hif.linkWidth = 16) := by
  have hg : (!s.hif.perst) = false := by rw [hp]; rfl
  exact ⟨_, congrArg Host.Outcome.next (if_neg (Bool.eq_false_iff.mp hg)), rfl, fun hw => ⟨if_pos hw, if_pos hw⟩⟩

section
variable {s : State} (hw : s.pwr.pwrok = true) (hp : s.hif.perst = false) (hl : s.hif.linkUp = true) (r : CfgReq)
include hw hp hl

theorem doConfigurationRequest_linked : doConfigurationRequest r s =
    if s.settleConfig.hif.cfgReady = true then (s.settleConfig.configure r).emit .cfgDone else s.settleConfig.emit .cfgRetry := by
  have hg : (!s.pwr.pwrok || s.hif.perst || !s.hif.linkUp) = false := by rw [hw, hp, hl]; rfl
  refine (if_neg (Bool.eq_false_iff.mp hg)).trans ?_
  dsimp only
  cases s.settleConfig.hif.cfgReady <;> rfl

omit hw hp hl in
theorem State.settleConfig_ready (hc : s.hif.cfgReady = true) : s.settleConfig = s := by
  simp [State.settleConfig, hc]

omit hw hp hl in
theorem State.settleConfig_early (ht : s.now < s.hif.perstAt + 1000000000) : s.settleConfig = s := by
  have hnot : ¬ s.hif.perstAt + 1000000000 ≤ s.now := Nat.not_le.mpr ht
  simp [State.settleConfig, hnot]

theorem State.settleConfig_due (hc : s.hif.cfgReady = false) (ht : s.hif.perstAt + 1000000000 ≤ s.now) :
    s.settleConfig = { s with hif := { s.hif with cfgReady := true } } := by
  simp [State.settleConfig, hw, hp, hl, hc, ht]

theorem exec_configurationRequest :
    (s.hif.cfgReady = false → s.now < s.hif.perstAt + 1000000000 → exec (.configurationRequest r) s = .next (s.emit .cfgRetry)) ∧
    (s.hif.cfgReady = true → exec (.configurationRequest r) s = .next ((s.configure r).emit .cfgDone)) ∧
    (s.hif.cfgReady = false → s.hif.perstAt + 1000000000 ≤ s.now → exec (.configurationRequest r) s = .next
      ((({ s with hif := { s.hif with cfgReady := true } } : State).configure r).emit .cfgDone)) := by
  have hlinked := doConfigurationRequest_linked hw hp hl r
  refine ⟨fun hc ht => congrArg Host.Outcome.next ?early, fun hc => congrArg Host.Outcome.next ?ready,
    fun hc ht => congrArg Host.Outcome.next ?due⟩
  case early =>
    rw [State.settleConfig_early ht] at hlinked
    exact hlinked.trans (if_neg (Bool.eq_false_iff.mp hc))
  case ready =>
    rw [State.settleConfig_ready hc] at hlinked
    exact hlinked.trans (if_pos hc)
  case due =>
    rw [State.settleConfig_due hw hp hl hc ht] at hlinked
    exact hlinked.trans (if_pos rfl)

end

/-! ## Function resets and D3hot (R391, R395) -/

/-- A virtual function after its reset: rings disabled, the TDI unlocked. Entries not yet taken go back to the ring. -/
def Vf.afterFlr (v : Vf) : Vf :=
  { v with sqEnable := false, cqEnable := false, sqHead := if v.sqEnable then v.sqRead else v.sqHead,
           sqSlots := if v.sqEnable then [] else v.sqSlots, msix := [], unsignalled := 0, d3hot := false, tdi := .unlocked,
           tdiStream := 0 }

/-- The function's verbs stand; those of a ring that was enabled no longer hold a slot of it. -/
def State.slotsFreed (s : State) (p : Nat) (was : Bool) : State :=
  if was then s.setVerbs p ((s.verbs p).map fun x => { x with slot := none }) else s

theorem State.slotsFreed_vf (s : State) (p : Nat) (was : Bool) (q : Nat) : (s.slotsFreed p was).vf q = s.vf q := by
  unfold State.slotsFreed
  split <;> rfl

theorem State.slotsFreed_only (s : State) (p : Nat) (was : Bool) : s.slotsFreed p was = { s with hif := (s.slotsFreed p was).hif } := by
  unfold State.slotsFreed
  split <;> rfl

theorem State.slotsFreed_ids (s : State) (p : Nat) (was : Bool) :
    ((s.slotsFreed p was).verbs p).map (·.id) = (s.verbs p).map (·.id) := by
  unfold State.slotsFreed
  split
  · rw [State.verbs_setVerbs_same, List.map_map]; rfl
  · rfl

theorem State.slotsFreed_verbs_other (s : State) {p q : Nat} (was : Bool) (h : q ≠ p) : (s.slotsFreed p was).verbs q = s.verbs q := by
  unfold State.slotsFreed
  split
  · exact State.verbs_setVerbs_other _ _ _ _ h
  · rfl

section
variable {p : Nat} {s : State} (hw : s.pwr.pwrok = true) (hl : s.hif.linkUp = true)
include hw hl

theorem doVfFlr_enabled (hp : p < Config.partitions) (he : (s.vf p).enabled = true) :
    doVfFlr p s = ((s.setVf p (s.vf p).afterFlr).slotsFreed p (s.vf p).sqEnable).clearBanks (.vf p) := by
  have hg : (!s.pwr.pwrok || !s.hif.linkUp || decide (p ≥ Config.partitions) || !(s.vf p).enabled) = false := by
    rw [hw, hl, he, decide_eq_false (Nat.not_le.mpr hp)]; rfl
  exact if_neg (Bool.eq_false_iff.mp hg)

theorem exec_vfFlr (hp : p < Config.partitions) (he : (s.vf p).enabled = true) : Does (.vfFlr p) s fun t =>
    (t.vf p).sqEnable = false ∧ (t.vf p).cqEnable = false ∧ (t.vf p).msix = [] ∧ (t.vf p).d3hot = false ∧
      (t.vf p).tdi = .unlocked ∧ (t.vf p).enabled = true ∧ (t.vf p).waiting = (s.vf p).waiting ∧
      (t.verbs p).map (·.id) = (s.verbs p).map (·.id) ∧ tget t.hif.accessErr (fnNum (.vf p)) = none ∧
      (∀ q, q ≠ p → t.vf q = s.vf q ∧ t.verbs q = s.verbs q) ∧ t = { s with hif := t.hif } := by
  refine ⟨_, congrArg Host.Outcome.next (doVfFlr_enabled hw hl hp he), ?_⟩
  generalize hu : s.setVf p (s.vf p).afterFlr = u
  generalize hx : u.slotsFreed p (s.vf p).sqEnable = x
  have hvf : ∀ q, (x.clearBanks (.vf p)).vf q = u.vf q := fun q => hx ▸ u.slotsFreed_vf p _ q
  have hmine : (x.clearBanks (.vf p)).vf p = (s.vf p).afterFlr := (hvf p).trans (hu ▸ State.vf_setVf_same ..)
  have hwaiting : ((x.clearBanks (.vf p)).vf p).waiting = (s.vf p).waiting := by rw [hmine]; rfl
  have hverbs : ∀ q, u.verbs q = s.verbs q := fun q => hu ▸ rfl
  have hids : (x.verbs p).map (·.id) = (s.verbs p).map (·.id) := by rw [← hx, State.slotsFreed_ids, hverbs]
  have hother : ∀ q, q ≠ p → (x.clearBanks (.vf p)).vf q = s.vf q ∧ x.verbs q = s.verbs q := fun q hq =>
    ⟨(hvf q).trans (hu ▸ State.vf_setVf_other _ _ _ _ hq), by rw [← hx, State.slotsFreed_verbs_other _ _ hq, hverbs]⟩
  have honly : x.clearBanks (.vf p) = { s with hif := (x.clearBanks (.vf p)).hif } := by
    subst hu; subst hx
    exact congrArg (State.clearBanks · (.vf p)) (State.slotsFreed_only _ _ _)
  exact ⟨congrArg Vf.sqEnable hmine, congrArg Vf.cqEnable hmine, congrArg Vf.msix hmine, congrArg Vf.d3hot hmine,
    congrArg Vf.tdi hmine, (congrArg Vf.enabled hmine).trans he, hwaiting, hids, tget_tdel_same _ _, hother, honly⟩

theorem exec_pfFlr : Does .pfFlr s fun t =>
    t.hif.pfMsix = [] ∧ t.hif.pfD3hot = false ∧ t.reg .hifEventMask = regReset .hifEventMask 0 ∧ t.hif.vfs = s.hif.vfs ∧
    t.hif.verbs = s.hif.verbs ∧ t = { s with hif := t.hif, regs := t.regs } := by
  have hg : (!s.pwr.pwrok || !s.hif.linkUp) = false := by rw [hw, hl]; rfl
  exact ⟨_, congrArg Host.Outcome.next (if_neg (Bool.eq_false_iff.mp hg)), rfl, rfl, tgetD_tput_same .., rfl, rfl, rfl⟩

theorem doD3hotEntry_linked (fn : Fn) : doD3hotEntry fn s = match fn with
    | .pf => { s with hif := { s.hif with pfD3hot := true } }
    | .vf p => if p < Config.partitions && (s.vf p).enabled then s.setVf p { s.vf p with d3hot := true } else s := by
  have hg : (!s.pwr.pwrok || !s.hif.linkUp) = false := by rw [hw, hl]; rfl
  exact (if_neg (Bool.eq_false_iff.mp hg)).trans (by cases fn <;> rfl)

theorem exec_d3hotEntry_vf (hp : p < Config.partitions) (he : (s.vf p).enabled = true) :
    exec (.d3hotEntry (.vf p)) s = .next (s.setVf p { s.vf p with d3hot := true }) := by
  refine congrArg Host.Outcome.next ((doD3hotEntry_linked hw hl (.vf p)).trans (if_pos ?_))
  rw [he, decide_eq_true hp]; rfl

end

/-- Settles O59: each command's guard holds under the clause's hypotheses, and its effect is then one update of the state; the loss
of the host link under PERST# is an event of source 0xA0, which ends in the safe state. -/
theorem powerAndResets : Obligations.PowerAndResets := by
  refine ⟨fun _ => exec_powerDown, fun s h => congrArg Host.Outcome.next (doVbatLoss_off h),
    fun s h => congrArg Host.Outcome.next (doVbatLoss_on h), fun _ => exec_rtcUpdate, fun _ => exec_perstAssert,
    fun _ => exec_perstDeassert, fun r _ hw hp hl => exec_configurationRequest hw hp hl r, fun _ _ => exec_vfFlr, fun _ => exec_pfFlr,
    fun p s hw hl => ⟨congrArg Host.Outcome.next (doD3hotEntry_linked hw hl .pf), exec_d3hotEntry_vf hw hl⟩,
    fun j s => ⟨exec_jtag_locked j s, exec_jtag_unlocked j s, fun k => ⟨rfl, exec_jtag_unspecified k s⟩⟩⟩

end Machine
end Sys2Proof
